-- ==== Sys2Proof/Word.lean ====
section
/-! DEFINITION. The word types of the machine (spec/00_scope.md R4, spec/04_registers.md R80). -/

namespace Sys2Proof

/-- A byte of memory. -/
abbrev Byte := BitVec 8

/-- A lane of a vector register (R80). -/
abbrev Lane := BitVec 32

/-- A scalar or mask register, and an address (R80, R43). -/
abbrev Word := BitVec 64

end Sys2Proof
end

