-- ==== Sys2Proof/Syntax.lean ====
section
/-! DEFINITION. The instructions and device steps of the opcode table (spec/02_encoding.md R39, R44). -/

namespace Sys2Proof

/-- The fields of the internal word below OP (R39). -/
structure Fields where
  /-- variant, bits 87:84 -/
  sub : BitVec 4 := 0
  /-- format slot or integer type, bits 83:80 -/
  ty : BitVec 4 := 0
  /-- destination specifier, bits 79:72 -/
  d : BitVec 8 := 0
  /-- first source specifier, bits 71:64 -/
  a : BitVec 8 := 0
  /-- second source specifier, bits 63:56 -/
  b : BitVec 8 := 0
  /-- third source specifier or store data, bits 55:48 -/
  c : BitVec 8 := 0
  /-- colour of writes, bits 47:45 -/
  col : BitVec 3 := 0
  /-- scope, bits 44:43 -/
  scp : BitVec 2 := 0
  /-- order, bits 42:41 -/
  ord : BitVec 2 := 0
  /-- saturate, bit 40 -/
  sat : BitVec 1 := 0
  /-- selector, bits 39:36 -/
  sel : BitVec 4 := 0
  /-- operation-specific modifier, bits 35:32 -/
  modx : BitVec 4 := 0
  /-- immediate, bits 31:0 -/
  imm : BitVec 32 := 0
  deriving DecidableEq, Repr

/-- The fields of a clause header (R37). -/
structure Header where
  /-- LEN, bits 26:24 -/
  len : BitVec 3 := 0
  /-- WAIT, bits 23:12 -/
  wait : BitVec 12 := 0
  /-- SETA, bits 11:8 -/
  seta : BitVec 4 := 15
  /-- SETB, bits 7:4 -/
  setb : BitVec 4 := 15
  /-- Z, bit 3 -/
  z : BitVec 1 := 0
  /-- MILE, bit 2 -/
  mile : BitVec 1 := 0
  /-- reserved bits 1:0 -/
  rsv : BitVec 2 := 0
  deriving DecidableEq, Repr

/-- One row of the opcode table per constructor.  The clause header and the instructions carry the
fields of their encoding; what a step of the device names stands in the state's event record. -/
inductive Instr where
  /-- Starts a clause: checks the header, holds for the WAIT flags, and skips the clause under Z when k0 is zero. (R38) -/
  | clauseHeader (h : Header)
  /-- Does nothing. (R95) -/
  | nop (f : Fields)
  /-- Branches unconditionally to here plus the offset. (R96) -/
  | bra (f : Fields)
  /-- Branches when the typed scalar meets the condition (nz, z, lt or ge). (R96) -/
  | brc (f : Fields)
  /-- Branches when the mask, optionally ANDed with k0, is non-zero. (R96) -/
  | bany (f : Fields)
  /-- Branches when the mask, optionally ANDed with k0, is zero. (R96) -/
  | bnone (f : Fields)
  /-- Computes the target, writes the return address to s127 and jumps. (R97) -/
  | call (f : Fields)
  /-- Jumps to s127. (R97) -/
  | ret (f : Fields)
  /-- Jumps to a register plus a displacement. (R97) -/
  | jmp (f : Fields)
  /-- Ends the troupe: cancels its parked tuple requests, then retires it once its flags and counters have drained. (R21) -/
  | done (f : Fields)
  /-- Stops the troupe and posts a TRAP record carrying the code. (R98) -/
  | trap (f : Fields)
  /-- Stops the troupe and posts a SYSC record carrying the service number and s4 to s11. (R98) -/
  | sysc (f : Fields)
  /-- Reads a numbered status register into a scalar register. (R99) -/
  | rdsr (f : Fields)
  /-- Writes UTAG; any other number raises ILLOP. (R99) -/
  | wrsr (f : Fields)
  /-- Reads the die's 64-bit cycle counter. (R100) -/
  | tick (f : Fields)
  /-- Makes the troupe the youngest ready troupe of its issue slot. (R329) -/
  | yield (f : Fields)
  /-- Blocks the troupe for 16 × max(1, n) cycles. (R100) -/
  | sleep (f : Fields)
  /-- Scalar integer add, optionally saturating. (R102) -/
  | sadd (f : Fields)
  /-- Scalar integer subtract. (R102) -/
  | ssub (f : Fields)
  /-- Scalar integer multiply. (R102) -/
  | smul (f : Fields)
  /-- High half of the scalar product. (R102) -/
  | smulhi (f : Fields)
  /-- Scalar divide toward zero; long-latency. (R103) -/
  | sdiv (f : Fields)
  /-- Scalar remainder; long-latency. (R103) -/
  | srem (f : Fields)
  /-- Scalar AND. (R102) -/
  | sand (f : Fields)
  /-- Scalar OR. (R102) -/
  | sor (f : Fields)
  /-- Scalar XOR. (R102) -/
  | sxor (f : Fields)
  /-- Scalar AND NOT. (R102) -/
  | sandn (f : Fields)
  /-- Scalar shift left. (R104) -/
  | sshl (f : Fields)
  /-- Scalar logical shift right. (R104) -/
  | sshr (f : Fields)
  /-- Scalar arithmetic shift right. (R104) -/
  | ssra (f : Fields)
  /-- Scalar rotate left. (R104) -/
  | srol (f : Fields)
  /-- Scalar minimum. (R102) -/
  | smin (f : Fields)
  /-- Scalar maximum. (R102) -/
  | smax (f : Fields)
  /-- Scalar absolute value. (R102) -/
  | sabs (f : Fields)
  /-- Counts leading zero bits. (R102) -/
  | sclz (f : Fields)
  /-- Counts one bits. (R102) -/
  | spop (f : Fields)
  /-- Reverses the bits. (R102) -/
  | sbrev (f : Fields)
  /-- Inserts a bit field. (R105) -/
  | sins (f : Fields)
  /-- Extracts a bit field. (R105) -/
  | sxtr (f : Fields)
  /-- Selects A or B by C. (R106) -/
  | ssel (f : Fields)
  /-- Compares two scalars and writes 0 or 1. (R106) -/
  | scmp (f : Fields)
  /-- Moves and extends a scalar. (R106) -/
  | smov (f : Fields)
  /-- Loads an extended immediate. (R106) -/
  | sli (f : Fields)
  /-- Loads an immediate into the high 32 bits. (R106) -/
  | sliHi (f : Fields)
  /-- Forms an address without translation. (R106) -/
  | sadr (f : Fields)
  /-- Mask AND. (R107) -/
  | kand (f : Fields)
  /-- Mask OR. (R107) -/
  | kor (f : Fields)
  /-- Mask XOR. (R107) -/
  | kxor (f : Fields)
  /-- Mask AND NOT. (R107) -/
  | kandn (f : Fields)
  /-- Mask NOT. (R107) -/
  | knot (f : Fields)
  /-- Mask move. (R107) -/
  | kmov (f : Fields)
  /-- Sets a run of mask bits. (R107) -/
  | kset (f : Fields)
  /-- Reads one mask bit. (R107) -/
  | kget (f : Fields)
  /-- Counts set mask bits. (R107) -/
  | kpop (f : Fields)
  /-- Index of the lowest set mask bit. (R107) -/
  | kffs (f : Fields)
  /-- Index of the highest set mask bit. (R107) -/
  | klast (f : Fields)
  /-- Widens a scalar truth value to a full mask. (R107) -/
  | kbcast (f : Fields)
  /-- Pushes a scalar onto the down queue, waiting while it is full. (R108) -/
  | sqput (f : Fields)
  /-- Pops the down queue into the active lanes. (R108) -/
  | vqget (f : Fields)
  /-- Pushes the lowest active lane onto the up queue. (R108) -/
  | vqput (f : Fields)
  /-- Pops the up queue into a scalar, waiting while it is empty. (R108) -/
  | sqget (f : Fields)
  /-- Vector integer add. (R113) -/
  | vadd (f : Fields)
  /-- Vector integer subtract. (R113) -/
  | vsub (f : Fields)
  /-- Vector integer multiply. (R113) -/
  | vmul (f : Fields)
  /-- High half of the vector product. (R113) -/
  | vmulhi (f : Fields)
  /-- Vector multiply-add. (R113) -/
  | vmad (f : Fields)
  /-- Vector AND. (R113) -/
  | vand (f : Fields)
  /-- Vector OR. (R113) -/
  | vor (f : Fields)
  /-- Vector XOR. (R113) -/
  | vxor (f : Fields)
  /-- Vector AND NOT. (R113) -/
  | vandn (f : Fields)
  /-- Vector shift left. (R113) -/
  | vshl (f : Fields)
  /-- Vector logical shift right. (R113) -/
  | vshr (f : Fields)
  /-- Vector arithmetic shift right. (R113) -/
  | vsra (f : Fields)
  /-- Vector minimum. (R113) -/
  | vmin (f : Fields)
  /-- Vector maximum. (R113) -/
  | vmax (f : Fields)
  /-- Vector absolute value. (R113) -/
  | vabs (f : Fields)
  /-- Vector negate. (R113) -/
  | vneg (f : Fields)
  /-- Counts leading zero bits per lane. (R113) -/
  | vclz (f : Fields)
  /-- Counts one bits per lane. (R113) -/
  | vpop (f : Fields)
  /-- Compares lanes and writes a mask. (R114) -/
  | vcmp (f : Fields)
  /-- Selects lanes of A or B by a mask. (R115) -/
  | vsel (f : Fields)
  /-- Vector move. (R115) -/
  | vmov (f : Fields)
  /-- Permutes lanes by index, rotation or exchange. (R116) -/
  | vperm (f : Fields)
  /-- Broadcasts one lane. (R115) -/
  | vbcast (f : Fields)
  /-- Reduces the active lanes to one value. (R117) -/
  | vred (f : Fields)
  /-- Inclusive or exclusive scan over the active lanes. (R117) -/
  | vscan (f : Fields)
  /-- Copies one lane to a scalar. (R115) -/
  | vlane (f : Fields)
  /-- Builds an affine lane sequence. (R115) -/
  | vsplat (f : Fields)
  /-- Float add. (R119) -/
  | fadd (f : Fields)
  /-- Float subtract. (R119) -/
  | fsub (f : Fields)
  /-- Float multiply. (R119) -/
  | fmul (f : Fields)
  /-- Fused multiply-add. (R119) -/
  | fma (f : Fields)
  /-- Float minimum. (R120) -/
  | fmin (f : Fields)
  /-- Float maximum. (R120) -/
  | fmax (f : Fields)
  /-- Float absolute value. (R119) -/
  | fabs (f : Fields)
  /-- Float negate. (R119) -/
  | fneg (f : Fields)
  /-- Float compare to a mask. (R122) -/
  | fcmp (f : Fields)
  /-- Correctly rounded reciprocal. (R123) -/
  | frcp (f : Fields)
  /-- Correctly rounded reciprocal square root. (R123) -/
  | frsq (f : Fields)
  /-- Correctly rounded square root. (R123) -/
  | fsqrt (f : Fields)
  /-- Correctly rounded 2^a. (R123) -/
  | fexp2 (f : Fields)
  /-- Correctly rounded log2. (R123) -/
  | flog2 (f : Fields)
  /-- Sine of the argument in half-turns. (R123) -/
  | fsin (f : Fields)
  /-- Cosine of the argument in half-turns. (R123) -/
  | fcos (f : Fields)
  /-- Hyperbolic tangent. (R123) -/
  | ftanh (f : Fields)
  /-- Multiplies by a power of two. (R119) -/
  | fscale (f : Fields)
  /-- Writes a class mask per lane. (R124) -/
  | fclass (f : Fields)
  /-- Converts from one format slot to another. (R125) -/
  | fcvtSlot (f : Fields)
  /-- Converts an integer type to a slot. (R125) -/
  | fcvtFromInt (f : Fields)
  /-- Converts a slot to a saturated integer. (R125) -/
  | fcvtToInt (f : Fields)
  /-- Rounds stochastically with program random bits. (R126) -/
  | fsrnd (f : Fields)
  /-- Rounds to an integer in the chosen direction. (R121) -/
  | frnd (f : Fields)
  /-- Short per-lane dot product, rounded once. (R127) -/
  | fdot (f : Fields)
  /-- Dequantises offset-binary codes. (R128) -/
  | fzpt (f : Fields)
  /-- Loads lanes from scratchpad. (R154) -/
  | lds (f : Fields)
  /-- Stores lanes to scratchpad. (R154) -/
  | sts (f : Fields)
  /-- Loads one scratchpad element to every active lane. (R154) -/
  | ldsb (f : Fields)
  /-- Queues a linear copy from memory into scratchpad. (R159) -/
  | xld (f : Fields)
  /-- Queues a copy that expands 2:4 sparse data. (R161) -/
  | xldX24 (f : Fields)
  /-- Queues a tile copy that also updates a norm vector. (R211) -/
  | xldNt (f : Fields)
  /-- Queues a copy from scratchpad to memory. (R159) -/
  | xst (f : Fields)
  /-- Queues a shaped box gather into scratchpad. (R160) -/
  | xgat (f : Fields)
  /-- Queues a shaped box scatter from scratchpad. (R160) -/
  | xsct (f : Fields)
  /-- Queues a scratchpad-to-scratchpad copy. (R159) -/
  | xcpy (f : Fields)
  /-- Queues a multicast copy to several rings of the neighbourhood. (R159) -/
  | xcpyMc (f : Fields)
  /-- Queues a pattern fill of scratchpad. (R159) -/
  | xfill (f : Fields)
  /-- Places a join entry in one or both copy queues. (R162) -/
  | qjoin (f : Fields)
  /-- Waits until any named tag is ready or all are idle. (R165) -/
  | tgwany (f : Fields)
  /-- Waits until every named tag is ready or idle. (R165) -/
  | tgwall (f : Fields)
  /-- Finds the lowest ready named tag. (R165) -/
  | tgffr (f : Fields)
  /-- Clears TAGMAP and TAGERR bits. (R165) -/
  | tgclr (f : Fields)
  /-- Reads TAGMAP, TAGERR or the busy mask. (R165) -/
  | tgget (f : Fields)
  /-- Initialises a barrier object. (R168) -/
  | bini (f : Fields)
  /-- Arrives once at a barrier object. (R168) -/
  | barr (f : Fields)
  /-- Arrives B times at a barrier object. (R168) -/
  | barrN (f : Fields)
  /-- Arrives and adds expected bytes. (R168) -/
  | barrExp (f : Fields)
  /-- Adds expected bytes to a barrier object. (R168) -/
  | bexp (f : Fields)
  /-- Blocks until the barrier phase is ready or FAULTED. (R169) -/
  | bwait (f : Fields)
  /-- Tests a barrier phase without blocking. (R169) -/
  | btest (f : Fields)
  /-- Ends the current phase as cancelled. (R170) -/
  | bcan (f : Fields)
  /-- Initialises a named queue. (R172) -/
  | nqini (f : Fields)
  /-- Sends a handle, blocking without allowance or room. (R172) -/
  | nqsend (f : Fields)
  /-- Receives a handle, blocking while empty. (R172) -/
  | nqrecv (f : Fields)
  /-- Returns send allowance. (R172) -/
  | nqret (f : Fields)
  /-- Receives a handle without waiting. (R172) -/
  | nqtry (f : Fields)
  /-- Arrives at a numbered barrier and waits for its phase. (R173) -/
  | nbsync (f : Fields)
  /-- Arrives at a numbered barrier without waiting. (R173) -/
  | nbarv (f : Fields)
  /-- Arrives at a tree barrier and waits. (R174) -/
  | tbsync (f : Fields)
  /-- Arrives at a tree barrier without waiting. (R174) -/
  | tbarv (f : Fields)
  /-- Starts the ring's matrix stream, requesting a grant and contexts. (R202) -/
  | mxgo (f : Fields)
  /-- Accumulates a tile product group by group. (R191) -/
  | mxmul (f : Fields)
  /-- Forms dX and dW of a backward pass in one operation. (R192) -/
  | mxdual (f : Fields)
  /-- Accumulates a product with a seeded sparse A. (R191) -/
  | mxsp (f : Fields)
  /-- Zeroes a tile or a whole bank. (R193) -/
  | mxzero (f : Fields)
  /-- Loads a tile into the accumulator store. (R194) -/
  | mxld (f : Fields)
  /-- Stores a tile from the bank through a header. (R195) -/
  | mxst (f : Fields)
  /-- Adds a bank tile or a memory tile into a tile. (R196) -/
  | mxadd (f : Fields)
  /-- Scales every element of a tile. (R197) -/
  | mxscl (f : Fields)
  /-- Holds the stream until the named tags are ready or idle. (R198) -/
  | mxwaitTg (f : Fields)
  /-- Holds the stream until a barrier object's phase passes its token. (R198) -/
  | mxwaitBo (f : Fields)
  /-- Arrives at a numbered barrier from the stream and waits. (R199) -/
  | mxnb (f : Fields)
  /-- Arrives at a numbered barrier from the stream without waiting. (R199) -/
  | mxnbArv (f : Fields)
  /-- Pushes a loop count. (R200) -/
  | mxloopBegin (f : Fields)
  /-- Steps the masked registers and branches while the count lasts. (R200) -/
  | mxloop (f : Fields)
  /-- Waits for the stream's work, then releases its contexts and implicit grant. (R201) -/
  | mxend (f : Fields)
  /-- Reads MXSTAT or ROWPROG. (R203) -/
  | mxstat (f : Fields)
  /-- Computes column and row norms into a norm vector. (R210) -/
  | mxnorm (f : Fields)
  /-- Builds the alias table from a norm vector. (R213) -/
  | mxalias (f : Fields)
  /-- Runs a sampled product until the variance check or s_max stops it. (R216) -/
  | mxsamp (f : Fields)
  /-- Reads SMPSTAT or SVAR. (R219) -/
  | mxvar (f : Fields)
  /-- Scalar load. (R230) -/
  | ld (f : Fields)
  /-- Split-phase scalar load counted on an arrival counter. (R231) -/
  | ldAc (f : Fields)
  /-- Scalar store. (R230) -/
  | st (f : Fields)
  /-- Vector gather load. (R230) -/
  | vld (f : Fields)
  /-- Split-phase vector load. (R231) -/
  | vldAc (f : Fields)
  /-- Vector scatter store. (R230) -/
  | vst (f : Fields)
  /-- Strided or blocked vector load. (R229) -/
  | vldw (f : Fields)
  /-- Strided or blocked vector store. (R229) -/
  | vstw (f : Fields)
  /-- Blocks while the counter exceeds n. (R233) -/
  | acwait (f : Fields)
  /-- Reads a counter. (R233) -/
  | acget (f : Fields)
  /-- Zeroes a counter and discards its outstanding replies. (R233) -/
  | acclr (f : Fields)
  /-- Prefetches lines into a cache level. (R234) -/
  | pref (f : Fields)
  /-- Writes lines back, and optionally invalidates them. (R234) -/
  | cfl (f : Fields)
  /-- Orders the troupe's accesses by colour mask and scope. (R235) -/
  | fence (f : Fields)
  /-- Atomic add. (R238) -/
  | aadd (f : Fields)
  /-- Atomic minimum. (R238) -/
  | amin (f : Fields)
  /-- Atomic maximum. (R238) -/
  | amax (f : Fields)
  /-- Atomic AND. (R238) -/
  | aand (f : Fields)
  /-- Atomic OR. (R238) -/
  | aor (f : Fields)
  /-- Atomic XOR. (R238) -/
  | axor (f : Fields)
  /-- Atomic exchange. (R238) -/
  | axch (f : Fields)
  /-- Atomic compare and swap. (R238) -/
  | acas (f : Fields)
  /-- Atomic bounded increment. (R238) -/
  | ainb (f : Fields)
  /-- Atomic wrapping increment. (R238) -/
  | ainw (f : Fields)
  /-- Atomic decrement while positive. (R238) -/
  | adecp (f : Fields)
  /-- Atomic add under a limit, writing a failure mask. (R238) -/
  | aflim (f : Fields)
  /-- Atomic float add. (R238) -/
  | aaddf (f : Fields)
  /-- Reduction add without return. (R241) -/
  | redadd (f : Fields)
  /-- Reduction minimum. (R241) -/
  | redmin (f : Fields)
  /-- Reduction maximum. (R241) -/
  | redmax (f : Fields)
  /-- Reduction AND. (R241) -/
  | redand (f : Fields)
  /-- Reduction OR. (R241) -/
  | redor (f : Fields)
  /-- Reduction XOR. (R241) -/
  | redxor (f : Fields)
  /-- Reduction float add. (R241) -/
  | redaddf (f : Fields)
  /-- Deposits one tuple per active lane. (R297) -/
  | tdep (f : Fields)
  /-- Copy-match request per lane, optionally parked. (R298) -/
  | tread (f : Fields)
  /-- Take-match request per lane, optionally parked. (R298) -/
  | ttake (f : Fields)
  /-- Cancels the lanes' parked requests. (R300) -/
  | tcan (f : Fields)
  /-- Counts a region's or a tag's tuples and parked requests. (R301) -/
  | tstat (f : Fields)
  /-- Reads and installs a method table. (R313) -/
  | slvtab (f : Fields)
  /-- Reads the descriptor, requests the grant and claims a batch. (R304) -/
  | slvini (f : Fields)
  /-- Builds each live sample's stage input. (R310) -/
  | slvstg (f : Fields)
  /-- Judges each live sample's step and resizes it. (R311) -/
  | slvend (f : Fields)
  /-- Waits for the queue and writes the batch status. (R314) -/
  | slvst (f : Fields)
  /-- Writes the status and releases the batch. (R313) -/
  | slvstRel (f : Fields)
  /-- Sends a slot binding request to the format manager. (R143) -/
  | fmreq (f : Fields)
  /-- Holds the vector side until operations naming the slot complete. (R144) -/
  | fmfence (f : Fields)
  /-- Reads the slot's state word. (R145) -/
  | fmq (f : Fields)
  /-- Reads 8 bytes of the slot's IHASH. (R145) -/
  | fmqHash (f : Fields)
  /-- Releases a slot binding. (R146) -/
  | fmrel (f : Fields)
  /-- Reads the grade of a register or of a page or line. (R379) -/
  | grd (f : Fields)
  /-- Copies a value with its grade raised. (R379) -/
  | grraise (f : Fields)
  /-- Copies a value with a new grade; PRIV outside the firmware. (R379) -/
  | grdecl (f : Fields)
  /-- Requests an admission grant and blocks until grant or timeout. (R340) -/
  | ticket (f : Fields)
  /-- Returns a grant. (R340) -/
  | tkret (f : Fields)
  /-- Declares or ends a compute-bound interval. (R341) -/
  | phint (f : Fields)
  /-- Places one spawn record per active lane into bins or overflow. (R342) -/
  | spawn (f : Fields)
  /-- Makes every bin ready and starts the overflow drain. (R336) -/
  | binflush (f : Fields)
  /-- Sets the ring's bin timer. (R343) -/
  | bincfg (f : Fields)
  /-- Reads a pending fault record's word or lane entry. (R352) -/
  | frec (f : Fields)
  /-- Resumes or re-issues for a record. (R353) -/
  | fres (f : Fields)
  /-- Re-issues the masked faulting lanes. (R353) -/
  | fresM (f : Fields)
  /-- Writes s4 to s7 of a SYSC troupe and resumes it. (R353) -/
  | fresRet (f : Fields)
  /-- Drops the faulting lanes or skips the unit, and resumes. (R355) -/
  | fdrop (f : Fields)
  /-- Ends the troupe or stream named by the record. (R353) -/
  | fdropEnd (f : Fields)
  /-- Reads the sticky flags. (R357) -/
  | nflg (f : Fields)
  /-- Reads, then clears, sticky flags. (R357) -/
  | nflgClr (f : Fields)
  /-- Sets sticky flags. (R357) -/
  | nflgSet (f : Fields)
  /-- Reads the deferred-flag word of the latest restore. (R357) -/
  | nflgDef (f : Fields)
  /-- Releases at system scope and writes a posted completion record. (R397) -/
  | post (f : Fields)
  /-- Writes a launch queue's TAIL from a troupe. (R398) -/
  | qring (f : Fields)
  /-- Releases every waiter 40 cycles after all rings reach their counts, and advances the phase. (R174) -/
  | treeBarrierRelease
  /-- Grants a waiting stream its contexts, then reads its argument block and starts fetching. (R182) -/
  | matrixContextGrant
  /-- A split-phase reply writes its lane and lowers its counter. (R231) -/
  | splitLoadReply
  /-- A producer's results are written and its wait-flag count falls. (R88) -/
  | longLatencyComplete
  /-- An atomic lane's reply returns the old value and its flags. (R236) -/
  | atomicReply
  /-- The home applies a merged window reduction to the word. (R242) -/
  | windowReductionApply
  /-- The home slice numbers a deposit, satisfies parked reads and a take, or stores it. (R292) -/
  | tupleDepositServe
  /-- The engine moves spilled tuples back, oldest first. (R293) -/
  | tupleRefill
  /-- The home slice serves a copy-match or take-match. (R290) -/
  | tupleMatchServe
  /-- A slice cancels parked requests and delivers CANCELLED. (R300) -/
  | tupleCancelServe
  /-- A reply writes a lane's status and fields. (R298) -/
  | tupleReply
  /-- Grants a waiting batch, claims slots and reads its records. (R304) -/
  | calliopeGrant
  /-- The loader finishes its checks, then chooses frames and marks the slot, or fails the request. (R133) -/
  | formatCheckComplete
  /-- The last operation issued before the mark completes; the slot becomes LOADING. (R135) -/
  | slotDrainComplete
  /-- Every chosen frame is ready; the slot becomes BOUND or UNBOUND. (R137) -/
  | frameReady
  /-- The format manager checks and binds a launch's listed slot. (R141) -/
  | launchSlotBind
  /-- The die grants a queued request once its cost fits the budget. (R331) -/
  | admissionGrant
  /-- A ticket's timeout expires; the request is withdrawn. (R340) -/
  | ticketTimeout
  /-- A bin's countdown reaches zero and the bin becomes ready. (R335) -/
  | binTimerExpiry
  /-- A ready bin launches a troupe when the ring is below L. (R335) -/
  | binLaunch
  /-- Moves overflow records into bins as bins become available. (R336) -/
  | spawnDrain
  /-- A sleeping troupe's interval elapses. (R100) -/
  | sleepExpiry
  /-- The instruction cache expands fetched units, poisoning faulty ones. (R35) -/
  | icacheFill
  /-- A copy-engine entry starts and reads its source. (R157) -/
  | copyStart
  /-- Bytes of a bound copy land and lower PENDB. (R167) -/
  | copyBytesLand
  /-- A copy or join completes and signals its tag or barrier. (R157) -/
  | copyComplete
  /-- A copy takes a final fault, posts a record and completes with an error. (R163) -/
  | copyFinalFault
  /-- A done troupe's flags and counters drain and it frees its index and slot. (R21) -/
  | troupeRetire
  /-- A ring ends once its troupes, bins, copies, stream and batch are done. (R22) -/
  | ringEnd
  /-- A host write of a launch queue's TAIL submits records. (R317) -/
  | queueTailWrite
  /-- Enables or disables a launch queue, checking its configuration. (R317) -/
  | qenWrite
  /-- The front end reads the next record, checks SEQ, and accepts and checks the launch. (R318) -/
  | launchRecordAccept
  /-- The Ringmaster starts a launch and hands its ranges to the dies. (R321) -/
  | launchStart
  /-- A dispatcher places a head neighbourhood on the first fitting rectangle. (R324) -/
  | neighbourhoodPlace
  /-- A reservation's wait expires, and pre-emption of lower-priority neighbourhoods is requested. (R326) -/
  | preemptionWaitExpiry
  /-- Performs the launch's writes at system scope and writes the completion record. (R279) -/
  | launchCompletionRecord
  /-- A write to a management register without behaviour of its own. (R317) -/
  | registerWrite
  /-- Removes the TLB entries of one page of an ASID. (R254) -/
  | invalPage
  /-- Removes every TLB entry of an ASID. (R254) -/
  | invalAsid
  /-- Removes every TLB entry. (R254) -/
  | invalAll
  /-- Clears the fault buffer and marks every parked access for retry. (R254) -/
  | replayAll
  /-- Turns an ASID's parked accesses into final faults. (R254) -/
  | cancelAsid
  /-- An invalidation's users finish and BUSY clears. (R254) -/
  | mmuInvalidationDone
  /-- A walk ends, giving a leaf or a fault to every coalesced miss. (R250) -/
  | pageWalkComplete
  /-- The fabric manager adds a pooled extent, which becomes present. (R259) -/
  | extentAdd
  /-- Writes back and drops an extent's lines, then clears its present bit. (R259) -/
  | extentRelease
  /-- A controller's refresh interval comes due. (R261) -/
  | refreshInterval
  /-- A controller reissues a request after the retry hint. (R261) -/
  | refreshRetryReissue
  /-- Creates a context and returns its ASID. (R393) -/
  | ctxCreate
  /-- Ends a context, destroying its save key and wiping its pages. (R387) -/
  | ctxEnd
  /-- Registers a virtual machine's owner public key. (R132) -/
  | ownerKey
  /-- Creates a tuple region on mapped KIND 1 pages. (R283) -/
  | regionCreate
  /-- Host command requesting pre-emption. (R360) -/
  | preempt
  /-- Host fres on a record. (R353) -/
  | faultActFres
  /-- Host fres.m on a record. (R353) -/
  | faultActFresM
  /-- Host fres.ret on a record. (R353) -/
  | faultActFresRet
  /-- Host fdrop on a record. (R353) -/
  | faultActFdrop
  /-- Host fdrop.end on a record. (R353) -/
  | faultActFdropEnd
  /-- Stages a domain roster, replacing it on the last ID. (R393) -/
  | roster
  /-- Declares a reduction window. (R400) -/
  | window
  /-- Assigns launch queues to a function. (R317) -/
  | queueAssign
  /-- Chooses drain, flush or save for a neighbourhood and begins it. (R361) -/
  | preemptionRequest
  /-- A draining neighbourhood that has not ended within the wait is saved. (R362) -/
  | drainWaitExpiry
  /-- Stops, settles and images a neighbourhood, then writes the notice. (R363) -/
  | neighbourhoodSave
  /-- Re-places, checks and restores a saved neighbourhood. (R370) -/
  | neighbourhoodRestore
  /-- Every 2 µs the device rereads HEAD and posts a held record. (R349) -/
  | faultQueueHeadPoll
  /-- Cold reset: wipes everything, then brings the part up. (R403) -/
  | coldReset
  /-- A life-cycle change ends contexts, destroys keys and wipes memory. (R387) -/
  | lifeCycleChange
  /-- Tears down every context and wipes package memory. (R387) -/
  | pcieHotReset
  /-- The host link comes up and TORNDOWN records are written. (R387) -/
  | hostLinkUp
  /-- Suspends protected contexts and destroys IDE keys. (R387) -/
  | linkDownWithoutReset
  /-- Refuses a VF's launches and starts the drain. (R388) -/
  | vfReset
  /-- After 100 µs, reclaims the VF's resources, withdraws it and wipes. (R388) -/
  | vfResetDrainExpiry
  /-- A failed PCIe or CXL IDE check drops the TLP and suspends bound contexts. (R380) -/
  | ideIntegrityFailure
  /-- A failed fabric flit check drops the flit and retrains the link. (R380) -/
  | fabricFlitAuthFailure
  /-- Re-keys a fabric link at 2^48 flits. (R380) -/
  | fabricRekey
  /-- The firewall admits or aborts an inbound access. (R377) -/
  | inboundAccess
  /-- The scrubber corrects a pooled line without a key. (R382) -/
  | scrub
  /-- SPDM version request. (R385) -/
  | getVersion
  /-- SPDM capabilities request. (R385) -/
  | getCapabilities
  /-- SPDM algorithm negotiation. (R385) -/
  | negotiateAlgorithms
  /-- SPDM digests request. (R385) -/
  | getDigests
  /-- SPDM certificate request. (R385) -/
  | getCertificate
  /-- SPDM challenge. (R385) -/
  | challenge
  /-- SPDM signed measurements. (R385) -/
  | getMeasurements
  /-- SPDM session key exchange. (R385) -/
  | keyExchange
  /-- SPDM session finish. (R385) -/
  | finish
  /-- SPDM session key update. (R385) -/
  | keyUpdate
  /-- SPDM session end. (R385) -/
  | endSession
  /-- IDE_KM vendor-defined message setting link keys. (R385) -/
  | ideKm
  /-- A roustabout fails its watchdog and is restarted. (R402) -/
  | roustaboutWatchdog
  /-- A fast current slew lengthens core clock cycles. (R332) -/
  | clockStretch
  /-- At 105 °C the clocks fall to base. (R403) -/
  | thermalTrip
  /-- At 115 °C the package powers off. (R403) -/
  | thermalPowerOff
  /-- The solver sequencer takes the next queued operation of a ring's solver queue on its round-robin turn and performs it. (R305) -/
  | solverQueueServe
  /-- A ring's declared compute-bound interval of n × 1024 cycles runs out, and the die's controllers leave pull-forward mode once no interval is in force. (R341) -/
  | computeBoundIntervalExpiry
  /-- The die's current slew subsides and clock stretching ends, so cycles return to normal length. (R332) -/
  | slewSubsides
  /-- The firmware changes BASE or the grant budget of a die; held grants stay, and new requests wait until the sum fits the new budget. (R330) -/
  | grantBudgetChange
  /-- At a window's home, a withdrawal from a VF reset on another package lowers MEMBERS by 1 and sets WITHDRAWN in one update. (R401) -/
  | memberWithdrawal
  /-- A flit CRC error on a fabric, PCIe or CXL link that link-level retry cannot correct makes the link retrain. (R389) -/
  | flitCrcFailure
  /-- A retraining link, or one taken down after repeated flit failures, comes back up and carries traffic again. (R380) -/
  | linkRetrainComplete
  deriving DecidableEq, Repr

end Sys2Proof
end

