-- ==== Sys2Proof/WellFormed.lean ====
section
/-! DEFINITION. Which internal words are instructions the spec defines: the fields each description
uses, the values it allows (spec/02_encoding.md R39-R43), and the order of decode faults (R46). -/

namespace Sys2Proof

/-- Causes of faults (R351), without the codes. -/
inductive Cause where
  | illop
  | illtype
  | ifetch
  | regbudget
  | qstall
  | noslot
  | misalign
  | page
  | extent
  | cls
  | grade
  | domain
  | roster
  | sprange
  | badarg
  | notag
  | full
  | spawnfull
  | trap
  | sysc
  | mxstop
  | solver
  | deflag
  | priv
  | memerr
  | regerr
  deriving DecidableEq, Repr

/-- Which side executes an instruction (R81, R45, R142, R339, R378). -/
inductive Side where
  | scalar
  | vector
  | stream
  /-- nop and mxvar: a troupe and a stream -/
  | both
  /-- the grade instructions: SUB decides -/
  | graded
  deriving DecidableEq, Repr

/-- What a specifier field must hold (R41, R42, R43, R179, R295). -/
inductive Pos where
  /-- unused: zero -/
  | none
  /-- scalar-class source -/
  | src
  /-- scalar-class destination -/
  | dst
  /-- scalar-class source, or the immediate when SUB bit 3 is set -/
  | srcImm
  /-- scalar index, used when MODX bit 3 is set -/
  | srcIx
  /-- scalar source used when SUB = 1 -/
  | src1
  /-- vector-class source -/
  | vsrc
  /-- vector-class destination -/
  | vdst
  /-- vector-class source, or the immediate -/
  | vsrcImm
  /-- vector index, used when MODX bit 3 is set -/
  | vsrcIx
  /-- vector source used when SUB = 1 -/
  | vsrc1
  /-- first register of a block within v0-v63 -/
  | blk
  /-- first register of a result block, or 0xC0 -/
  | blkD
  /-- m0-m7 -/
  | mreg
  /-- za or zb -/
  | bank
  /-- a bank with SUB 0, an m register with SUB 1 -/
  | bankM
  /-- eight plain bits -/
  | raw
  /-- the index of lds and sts: vector index in SUB 0, unused otherwise -/
  | ldsB
  /-- source of grd: scalar, vector, scalar by SUB -/
  | gradeA
  /-- source of grraise and grdecl: scalar or vector by SUB -/
  | gradeV
  /-- destination of grraise and grdecl -/
  | gradeD
  /-- payload block of spawn: v0-v60 -/
  | spawnB
  /-- s0-s124 -/
  | retB
  /-- destination of mxvar: scalar in a troupe, m register in a stream -/
  | dstM
  deriving DecidableEq, Repr

/-- Which TY values an instruction allows (R40). -/
inductive TySet where
  | zero
  | int
  /-- the integer types of R111 -/
  | vint
  | slot
  /-- slots 8-15 -/
  | loadable
  /-- lds and sts: R111's types, 2 and 6 for blocks -/
  | lds
  /-- vred and vscan: integer types with F = 0, slots with F = 1 -/
  | red
  /-- fcvt with an integer type in SEL -/
  | cvt
  | these (l : List Nat)
  deriving DecidableEq, Repr

/-- The further conditions of a description on its fields, whose breach raises ILLOP. -/
inductive Extra where
  | any
  | immBits (n : Nat)
  | rdsrNum
  | wrsrNum
  | sleepImm
  | bitField
  | memForm
  | memC
  | ksetImm
  | kgetImm
  | laneImm
  | redForm
  | scanForm
  | rnd2
  | rnd4
  | srndImm
  | zptForm
  | ldsForm
  | stsForm
  | ldsbForm
  | copyForm
  | joinForm
  | nbImm
  | tbImm
  | mulForm
  | shapeForm
  | zeroForm
  | tileForm
  | stForm
  | addForm
  | mxnbImm
  | loopImm
  | shape8
  | sampForm
  | ldForm
  | stoForm
  | ldwForm
  | stwForm
  | atomForm
  | limForm
  | immLe4095
  | fenceForm
  | depForm
  | takeForm
  | grdImm
  | classImm
  | phintImm
  | bincfgImm
  | frecImm
  | postForm
  deriving DecidableEq, Repr

/-- The encoding of an instruction: its opcode, SUB values and fields (R39). -/
structure Row where
  /-- OP -/
  op : Nat
  /-- SUB values defined -/
  subs : List Nat
  /-- TY values allowed -/
  ty : TySet
  /-- D -/
  d : Pos := .none
  /-- A -/
  a : Pos := .none
  /-- B -/
  b : Pos := .none
  /-- C -/
  c : Pos := .none
  /-- IMM is used -/
  imm : Bool := false
  /-- SAT is used -/
  sat : Bool := false
  /-- MODX is used -/
  modx : Bool := false
  /-- SEL is used -/
  sel : Bool := false
  /-- COL is used -/
  col : Bool := false
  /-- SCP is used -/
  scp : Bool := false
  /-- ORD is used -/
  ord : Bool := false
  /-- further conditions -/
  extra : Extra := .any
  /-- the side that executes it -/
  side : Side
  deriving DecidableEq, Repr

/-- The encoding of each instruction; none for the clause header and for device steps, which are
no internal words. -/
def Instr.row : Instr → Option Row
  | .clauseHeader _ => none
  | .nop _ => some { op := 0x00, subs := [0], ty := .zero, side := .both }
  | .bra _ => some { op := 0x01, subs := [0], ty := .zero, imm := true, side := .scalar }
  | .brc _ => some { op := 0x02, subs := [0, 1, 2, 3], ty := .int, a := .src, imm := true, side := .scalar }
  | .bany _ => some { op := 0x03, subs := [0, 1], ty := .zero, a := .src, imm := true, side := .scalar }
  | .bnone _ => some { op := 0x04, subs := [0, 1], ty := .zero, a := .src, imm := true, side := .scalar }
  | .call _ => some { op := 0x05, subs := [0, 1], ty := .zero, a := .src1, imm := true, side := .scalar }
  | .ret _ => some { op := 0x06, subs := [0], ty := .zero, side := .scalar }
  | .jmp _ => some { op := 0x07, subs := [0], ty := .zero, a := .src, imm := true, side := .scalar }
  | .done _ => some { op := 0x08, subs := [0], ty := .zero, side := .scalar }
  | .trap _ => some { op := 0x09, subs := [0], ty := .zero, imm := true, extra := (.immBits 16), side := .scalar }
  | .sysc _ => some { op := 0x0A, subs := [0], ty := .zero, imm := true, extra := (.immBits 16), side := .scalar }
  | .rdsr _ => some { op := 0x0B, subs := [0], ty := .zero, d := .dst, imm := true, extra := .rdsrNum, side := .scalar }
  | .wrsr _ => some { op := 0x0C, subs := [0], ty := .zero, a := .src, imm := true, extra := .wrsrNum, side := .scalar }
  | .tick _ => some { op := 0x0D, subs := [0], ty := .zero, d := .dst, side := .scalar }
  | .yield _ => some { op := 0x0E, subs := [0], ty := .zero, side := .scalar }
  | .sleep _ => some { op := 0x0F, subs := [0, 1], ty := .zero, a := .src1, imm := true, extra := .sleepImm, side := .scalar }
  | .sadd _ => some { op := 0x10, subs := [0, 8], ty := .int, d := .dst, a := .src, b := .srcImm, imm := true, sat := true, side := .scalar }
  | .ssub _ => some { op := 0x11, subs := [0, 8], ty := .int, d := .dst, a := .src, b := .srcImm, imm := true, sat := true, side := .scalar }
  | .smul _ => some { op := 0x12, subs := [0, 8], ty := .int, d := .dst, a := .src, b := .srcImm, imm := true, sat := true, side := .scalar }
  | .smulhi _ => some { op := 0x13, subs := [0, 8], ty := .int, d := .dst, a := .src, b := .srcImm, imm := true, side := .scalar }
  | .sdiv _ => some { op := 0x14, subs := [0, 8], ty := .int, d := .dst, a := .src, b := .srcImm, imm := true, sat := true, side := .scalar }
  | .srem _ => some { op := 0x15, subs := [0, 8], ty := .int, d := .dst, a := .src, b := .srcImm, imm := true, side := .scalar }
  | .sand _ => some { op := 0x16, subs := [0, 8], ty := .int, d := .dst, a := .src, b := .srcImm, imm := true, side := .scalar }
  | .sor _ => some { op := 0x17, subs := [0, 8], ty := .int, d := .dst, a := .src, b := .srcImm, imm := true, side := .scalar }
  | .sxor _ => some { op := 0x18, subs := [0, 8], ty := .int, d := .dst, a := .src, b := .srcImm, imm := true, side := .scalar }
  | .sandn _ => some { op := 0x19, subs := [0, 8], ty := .int, d := .dst, a := .src, b := .srcImm, imm := true, side := .scalar }
  | .sshl _ => some { op := 0x1A, subs := [0, 8], ty := .int, d := .dst, a := .src, b := .srcImm, imm := true, side := .scalar }
  | .sshr _ => some { op := 0x1B, subs := [0, 8], ty := .int, d := .dst, a := .src, b := .srcImm, imm := true, side := .scalar }
  | .ssra _ => some { op := 0x1C, subs := [0, 8], ty := .int, d := .dst, a := .src, b := .srcImm, imm := true, side := .scalar }
  | .srol _ => some { op := 0x1D, subs := [0, 8], ty := .int, d := .dst, a := .src, b := .srcImm, imm := true, side := .scalar }
  | .smin _ => some { op := 0x1E, subs := [0, 8], ty := .int, d := .dst, a := .src, b := .srcImm, imm := true, side := .scalar }
  | .smax _ => some { op := 0x1F, subs := [0, 8], ty := .int, d := .dst, a := .src, b := .srcImm, imm := true, side := .scalar }
  | .sabs _ => some { op := 0x20, subs := [0], ty := .int, d := .dst, a := .src, sat := true, side := .scalar }
  | .sclz _ => some { op := 0x21, subs := [0], ty := .int, d := .dst, a := .src, side := .scalar }
  | .spop _ => some { op := 0x22, subs := [0], ty := .int, d := .dst, a := .src, side := .scalar }
  | .sbrev _ => some { op := 0x23, subs := [0], ty := .int, d := .dst, a := .src, side := .scalar }
  | .sins _ => some { op := 0x24, subs := [0], ty := (.these [3, 7]), d := .dst, a := .src, imm := true, extra := .bitField, side := .scalar }
  | .sxtr _ => some { op := 0x25, subs := [0], ty := (.these [3, 7]), d := .dst, a := .src, imm := true, extra := .bitField, side := .scalar }
  | .ssel _ => some { op := 0x26, subs := [0], ty := (.these [3, 7]), d := .dst, a := .src, b := .src, c := .src, side := .scalar }
  | .scmp _ => some { op := 0x27, subs := [0, 1, 2, 3, 4, 5, 8, 9, 10, 11, 12, 13], ty := .int, d := .dst, a := .src, b := .srcImm, imm := true, side := .scalar }
  | .smov _ => some { op := 0x28, subs := [0], ty := .int, d := .dst, a := .src, side := .scalar }
  | .sli _ => some { op := 0x29, subs := [0], ty := .int, d := .dst, imm := true, side := .scalar }
  | .sliHi _ => some { op := 0x29, subs := [1], ty := (.these [3]), d := .dst, imm := true, side := .scalar }
  | .sadr _ => some { op := 0x2A, subs := [0], ty := .zero, d := .dst, a := .src, b := .srcIx, imm := true, modx := true, extra := .memForm, side := .scalar }
  | .kand _ => some { op := 0x30, subs := [0], ty := .zero, d := .dst, a := .src, b := .src, side := .scalar }
  | .kor _ => some { op := 0x31, subs := [0], ty := .zero, d := .dst, a := .src, b := .src, side := .scalar }
  | .kxor _ => some { op := 0x32, subs := [0], ty := .zero, d := .dst, a := .src, b := .src, side := .scalar }
  | .kandn _ => some { op := 0x33, subs := [0], ty := .zero, d := .dst, a := .src, b := .src, side := .scalar }
  | .knot _ => some { op := 0x34, subs := [0], ty := .zero, d := .dst, a := .src, side := .scalar }
  | .kmov _ => some { op := 0x35, subs := [0], ty := .zero, d := .dst, a := .src, side := .scalar }
  | .kset _ => some { op := 0x36, subs := [0, 1], ty := .zero, d := .dst, a := .src1, imm := true, extra := .ksetImm, side := .scalar }
  | .kget _ => some { op := 0x37, subs := [0, 8], ty := .zero, d := .dst, a := .src, b := .srcImm, imm := true, extra := .kgetImm, side := .scalar }
  | .kpop _ => some { op := 0x38, subs := [0], ty := .zero, d := .dst, a := .src, side := .scalar }
  | .kffs _ => some { op := 0x39, subs := [0], ty := .zero, d := .dst, a := .src, side := .scalar }
  | .klast _ => some { op := 0x3A, subs := [0], ty := .zero, d := .dst, a := .src, side := .scalar }
  | .kbcast _ => some { op := 0x3B, subs := [0], ty := .zero, d := .dst, a := .src, side := .scalar }
  | .sqput _ => some { op := 0x3C, subs := [0], ty := .zero, a := .src, side := .scalar }
  | .vqget _ => some { op := 0x3D, subs := [0], ty := .zero, d := .vdst, side := .vector }
  | .vqput _ => some { op := 0x3E, subs := [0], ty := .zero, a := .vsrc, side := .vector }
  | .sqget _ => some { op := 0x3F, subs := [0], ty := .zero, d := .dst, side := .scalar }
  | .vadd _ => some { op := 0x40, subs := [0, 8], ty := .vint, d := .vdst, a := .vsrc, b := .vsrcImm, imm := true, sat := true, side := .vector }
  | .vsub _ => some { op := 0x41, subs := [0, 8], ty := .vint, d := .vdst, a := .vsrc, b := .vsrcImm, imm := true, sat := true, side := .vector }
  | .vmul _ => some { op := 0x42, subs := [0, 8], ty := .vint, d := .vdst, a := .vsrc, b := .vsrcImm, imm := true, sat := true, side := .vector }
  | .vmulhi _ => some { op := 0x43, subs := [0, 8], ty := .vint, d := .vdst, a := .vsrc, b := .vsrcImm, imm := true, side := .vector }
  | .vmad _ => some { op := 0x44, subs := [0], ty := .vint, d := .vdst, a := .vsrc, b := .vsrc, c := .vsrc, sat := true, side := .vector }
  | .vand _ => some { op := 0x45, subs := [0, 8], ty := .vint, d := .vdst, a := .vsrc, b := .vsrcImm, imm := true, side := .vector }
  | .vor _ => some { op := 0x46, subs := [0, 8], ty := .vint, d := .vdst, a := .vsrc, b := .vsrcImm, imm := true, side := .vector }
  | .vxor _ => some { op := 0x47, subs := [0, 8], ty := .vint, d := .vdst, a := .vsrc, b := .vsrcImm, imm := true, side := .vector }
  | .vandn _ => some { op := 0x48, subs := [0, 8], ty := .vint, d := .vdst, a := .vsrc, b := .vsrcImm, imm := true, side := .vector }
  | .vshl _ => some { op := 0x49, subs := [0, 8], ty := .vint, d := .vdst, a := .vsrc, b := .vsrcImm, imm := true, side := .vector }
  | .vshr _ => some { op := 0x4A, subs := [0, 8], ty := .vint, d := .vdst, a := .vsrc, b := .vsrcImm, imm := true, side := .vector }
  | .vsra _ => some { op := 0x4B, subs := [0, 8], ty := .vint, d := .vdst, a := .vsrc, b := .vsrcImm, imm := true, side := .vector }
  | .vmin _ => some { op := 0x4C, subs := [0, 8], ty := .vint, d := .vdst, a := .vsrc, b := .vsrcImm, imm := true, side := .vector }
  | .vmax _ => some { op := 0x4D, subs := [0, 8], ty := .vint, d := .vdst, a := .vsrc, b := .vsrcImm, imm := true, side := .vector }
  | .vabs _ => some { op := 0x4E, subs := [0], ty := .vint, d := .vdst, a := .vsrc, sat := true, side := .vector }
  | .vneg _ => some { op := 0x4F, subs := [0], ty := .vint, d := .vdst, a := .vsrc, sat := true, side := .vector }
  | .vclz _ => some { op := 0x50, subs := [0], ty := .vint, d := .vdst, a := .vsrc, side := .vector }
  | .vpop _ => some { op := 0x51, subs := [0], ty := .vint, d := .vdst, a := .vsrc, side := .vector }
  | .vcmp _ => some { op := 0x52, subs := [0, 1, 2, 3, 4, 5, 8, 9, 10, 11, 12, 13], ty := .vint, d := .dst, a := .vsrc, b := .vsrcImm, imm := true, side := .vector }
  | .vsel _ => some { op := 0x53, subs := [0], ty := (.these [2]), d := .vdst, a := .vsrc, b := .vsrc, c := .src, side := .vector }
  | .vmov _ => some { op := 0x54, subs := [0], ty := (.these [2]), d := .vdst, a := .vsrc, side := .vector }
  | .vperm _ => some { op := 0x55, subs := [0, 1, 2, 9, 10], ty := (.these [2]), d := .vdst, a := .vsrc, b := .vsrcImm, imm := true, extra := .laneImm, side := .vector }
  | .vbcast _ => some { op := 0x56, subs := [0, 8], ty := (.these [2]), d := .vdst, a := .vsrc, b := .vsrcImm, imm := true, extra := .laneImm, side := .vector }
  | .vred _ => some { op := 0x57, subs := [0, 1, 2, 3, 4, 5], ty := .red, d := .vdst, a := .vsrc, sat := true, modx := true, extra := .redForm, side := .vector }
  | .vscan _ => some { op := 0x58, subs := [0, 1, 2, 3, 4, 5], ty := .red, d := .vdst, a := .vsrc, sat := true, modx := true, extra := .scanForm, side := .vector }
  | .vlane _ => some { op := 0x59, subs := [0, 8], ty := .vint, d := .dst, a := .vsrc, b := .vsrcImm, imm := true, extra := .laneImm, side := .vector }
  | .vsplat _ => some { op := 0x5A, subs := [0, 8], ty := (.these [2]), d := .vdst, a := .vsrc, b := .vsrcImm, imm := true, side := .vector }
  | .fadd _ => some { op := 0x60, subs := [0, 8], ty := .slot, d := .vdst, a := .vsrc, b := .vsrcImm, imm := true, sat := true, modx := true, extra := .rnd2, side := .vector }
  | .fsub _ => some { op := 0x61, subs := [0, 8], ty := .slot, d := .vdst, a := .vsrc, b := .vsrcImm, imm := true, sat := true, modx := true, extra := .rnd2, side := .vector }
  | .fmul _ => some { op := 0x62, subs := [0, 8], ty := .slot, d := .vdst, a := .vsrc, b := .vsrcImm, imm := true, sat := true, modx := true, extra := .rnd2, side := .vector }
  | .fma _ => some { op := 0x63, subs := [0], ty := .slot, d := .vdst, a := .vsrc, b := .vsrc, c := .vsrc, sat := true, modx := true, extra := .rnd2, side := .vector }
  | .fmin _ => some { op := 0x64, subs := [0, 8], ty := .slot, d := .vdst, a := .vsrc, b := .vsrcImm, imm := true, sat := true, modx := true, extra := .rnd2, side := .vector }
  | .fmax _ => some { op := 0x65, subs := [0, 8], ty := .slot, d := .vdst, a := .vsrc, b := .vsrcImm, imm := true, sat := true, modx := true, extra := .rnd2, side := .vector }
  | .fabs _ => some { op := 0x66, subs := [0], ty := .slot, d := .vdst, a := .vsrc, sat := true, modx := true, extra := .rnd2, side := .vector }
  | .fneg _ => some { op := 0x67, subs := [0], ty := .slot, d := .vdst, a := .vsrc, sat := true, modx := true, extra := .rnd2, side := .vector }
  | .fcmp _ => some { op := 0x68, subs := [0, 1, 2, 3, 4, 5, 6, 7, 8, 9, 10, 11, 12, 13, 14, 15], ty := .slot, d := .dst, a := .vsrc, b := .vsrcImm, imm := true, side := .vector }
  | .frcp _ => some { op := 0x69, subs := [0], ty := .slot, d := .vdst, a := .vsrc, sat := true, modx := true, extra := .rnd2, side := .vector }
  | .frsq _ => some { op := 0x6A, subs := [0], ty := .slot, d := .vdst, a := .vsrc, sat := true, modx := true, extra := .rnd2, side := .vector }
  | .fsqrt _ => some { op := 0x6B, subs := [0], ty := .slot, d := .vdst, a := .vsrc, sat := true, modx := true, extra := .rnd2, side := .vector }
  | .fexp2 _ => some { op := 0x6C, subs := [0], ty := .slot, d := .vdst, a := .vsrc, sat := true, modx := true, extra := .rnd2, side := .vector }
  | .flog2 _ => some { op := 0x6D, subs := [0], ty := .slot, d := .vdst, a := .vsrc, sat := true, modx := true, extra := .rnd2, side := .vector }
  | .fsin _ => some { op := 0x6E, subs := [0], ty := .slot, d := .vdst, a := .vsrc, sat := true, modx := true, extra := .rnd2, side := .vector }
  | .fcos _ => some { op := 0x6F, subs := [0], ty := .slot, d := .vdst, a := .vsrc, sat := true, modx := true, extra := .rnd2, side := .vector }
  | .ftanh _ => some { op := 0x70, subs := [0], ty := .slot, d := .vdst, a := .vsrc, sat := true, modx := true, extra := .rnd2, side := .vector }
  | .fscale _ => some { op := 0x71, subs := [0, 8], ty := .slot, d := .vdst, a := .vsrc, b := .vsrcImm, imm := true, sat := true, modx := true, extra := .rnd2, side := .vector }
  | .fclass _ => some { op := 0x72, subs := [0], ty := .slot, d := .vdst, a := .vsrc, side := .vector }
  | .fcvtSlot _ => some { op := 0x73, subs := [0], ty := .slot, d := .vdst, a := .vsrc, sat := true, modx := true, sel := true, extra := .rnd2, side := .vector }
  | .fcvtFromInt _ => some { op := 0x73, subs := [1], ty := .cvt, d := .vdst, a := .vsrc, sat := true, modx := true, sel := true, extra := .rnd2, side := .vector }
  | .fcvtToInt _ => some { op := 0x73, subs := [2], ty := .cvt, d := .vdst, a := .vsrc, modx := true, sel := true, extra := .rnd4, side := .vector }
  | .fsrnd _ => some { op := 0x74, subs := [0], ty := .slot, d := .vdst, a := .vsrc, b := .vsrc, imm := true, sat := true, sel := true, extra := .srndImm, side := .vector }
  | .frnd _ => some { op := 0x75, subs := [0], ty := .slot, d := .vdst, a := .vsrc, sat := true, modx := true, extra := .rnd4, side := .vector }
  | .fdot _ => some { op := 0x76, subs := [0], ty := .slot, d := .vdst, a := .vsrc, b := .vsrc, c := .vsrc, sat := true, modx := true, extra := .rnd2, side := .vector }
  | .fzpt _ => some { op := 0x77, subs := [0, 1], ty := .slot, d := .vdst, a := .vsrc, b := .vsrc, c := .vsrc, imm := true, sat := true, modx := true, extra := .zptForm, side := .vector }
  | .lds _ => some { op := 0x80, subs := [0, 2, 3], ty := .lds, d := .vdst, a := .src, b := .ldsB, imm := true, modx := true, scp := true, ord := true, extra := .ldsForm, side := .vector }
  | .sts _ => some { op := 0x81, subs := [0, 2, 3], ty := .lds, a := .src, b := .ldsB, c := .vsrc, imm := true, modx := true, col := true, scp := true, ord := true, extra := .stsForm, side := .vector }
  | .ldsb _ => some { op := 0x82, subs := [0], ty := .vint, d := .vdst, a := .src, b := .srcIx, imm := true, modx := true, scp := true, ord := true, extra := .ldsbForm, side := .vector }
  | .xld _ => some { op := 0x83, subs := [0], ty := .zero, a := .src, b := .src, c := .src, imm := true, modx := true, sel := true, col := true, scp := true, ord := true, extra := .copyForm, side := .vector }
  | .xldX24 _ => some { op := 0x83, subs := [1], ty := .zero, a := .src, b := .src, c := .src, imm := true, modx := true, sel := true, col := true, scp := true, ord := true, extra := .copyForm, side := .vector }
  | .xldNt _ => some { op := 0x83, subs := [2], ty := .zero, a := .src, b := .src, c := .src, imm := true, modx := true, sel := true, col := true, scp := true, ord := true, extra := .copyForm, side := .vector }
  | .xst _ => some { op := 0x84, subs := [0], ty := .zero, a := .src, b := .src, c := .src, imm := true, modx := true, sel := true, col := true, scp := true, ord := true, extra := .copyForm, side := .vector }
  | .xgat _ => some { op := 0x85, subs := [0], ty := .zero, a := .src, b := .src, c := .src, imm := true, modx := true, sel := true, col := true, scp := true, ord := true, extra := .copyForm, side := .vector }
  | .xsct _ => some { op := 0x86, subs := [0], ty := .zero, a := .src, b := .src, c := .src, imm := true, modx := true, sel := true, col := true, scp := true, ord := true, extra := .copyForm, side := .vector }
  | .xcpy _ => some { op := 0x87, subs := [0], ty := .zero, a := .src, b := .src, c := .src, imm := true, modx := true, sel := true, col := true, scp := true, ord := true, extra := .copyForm, side := .vector }
  | .xcpyMc _ => some { op := 0x87, subs := [1], ty := .zero, a := .src, b := .src, c := .src, imm := true, modx := true, sel := true, col := true, scp := true, ord := true, extra := .copyForm, side := .vector }
  | .xfill _ => some { op := 0x88, subs := [0], ty := .zero, a := .src, b := .src, c := .src, imm := true, modx := true, sel := true, col := true, scp := true, ord := true, extra := .copyForm, side := .vector }
  | .qjoin _ => some { op := 0x89, subs := [0], ty := .zero, imm := true, modx := true, sel := true, extra := .joinForm, side := .vector }
  | .tgwany _ => some { op := 0x8A, subs := [0], ty := .zero, d := .dst, a := .src, side := .vector }
  | .tgwall _ => some { op := 0x8B, subs := [0], ty := .zero, d := .dst, a := .src, side := .vector }
  | .tgffr _ => some { op := 0x8C, subs := [0], ty := .zero, d := .dst, a := .src, side := .vector }
  | .tgclr _ => some { op := 0x8D, subs := [0], ty := .zero, a := .src, side := .vector }
  | .tgget _ => some { op := 0x8E, subs := [0, 1, 2], ty := .zero, d := .dst, side := .vector }
  | .bini _ => some { op := 0x8F, subs := [0], ty := .zero, a := .src, b := .src, imm := true, side := .vector }
  | .barr _ => some { op := 0x90, subs := [0], ty := .zero, d := .dst, a := .src, imm := true, side := .vector }
  | .barrN _ => some { op := 0x90, subs := [1], ty := .zero, d := .dst, a := .src, b := .src, imm := true, side := .vector }
  | .barrExp _ => some { op := 0x90, subs := [2], ty := .zero, d := .dst, a := .src, b := .src, imm := true, side := .vector }
  | .bexp _ => some { op := 0x91, subs := [0], ty := .zero, a := .src, b := .src, imm := true, side := .vector }
  | .bwait _ => some { op := 0x92, subs := [0, 1], ty := .zero, d := .dst, a := .src, b := .src, imm := true, side := .vector }
  | .btest _ => some { op := 0x93, subs := [0, 1], ty := .zero, d := .dst, a := .src, b := .src, imm := true, side := .vector }
  | .bcan _ => some { op := 0x94, subs := [0], ty := .zero, a := .src, imm := true, side := .vector }
  | .nqini _ => some { op := 0x95, subs := [0], ty := .zero, a := .src, b := .src, c := .src, imm := true, side := .vector }
  | .nqsend _ => some { op := 0x96, subs := [0], ty := .zero, a := .src, b := .src, imm := true, side := .vector }
  | .nqrecv _ => some { op := 0x97, subs := [0], ty := .zero, d := .dst, a := .src, imm := true, side := .vector }
  | .nqret _ => some { op := 0x98, subs := [0], ty := .zero, a := .src, b := .src, imm := true, side := .vector }
  | .nqtry _ => some { op := 0x99, subs := [0], ty := .zero, d := .dst, a := .src, imm := true, side := .vector }
  | .nbsync _ => some { op := 0x9A, subs := [0], ty := .zero, imm := true, sel := true, extra := .nbImm, side := .vector }
  | .nbarv _ => some { op := 0x9B, subs := [0], ty := .zero, imm := true, sel := true, extra := .nbImm, side := .vector }
  | .tbsync _ => some { op := 0x9C, subs := [0], ty := .zero, imm := true, sel := true, extra := .tbImm, side := .vector }
  | .tbarv _ => some { op := 0x9D, subs := [0], ty := .zero, imm := true, sel := true, extra := .tbImm, side := .vector }
  | .mxgo _ => some { op := 0xA0, subs := [0], ty := .zero, a := .src, b := .src, modx := true, extra := .rnd4, side := .vector }
  | .mxmul _ => some { op := 0xA1, subs := [0], ty := .zero, d := .bank, a := .mreg, b := .mreg, imm := true, modx := true, sel := true, extra := .mulForm, side := .stream }
  | .mxdual _ => some { op := 0xA2, subs := [0], ty := .zero, a := .mreg, b := .mreg, c := .mreg, modx := true, sel := true, extra := .shapeForm, side := .stream }
  | .mxsp _ => some { op := 0xA3, subs := [0], ty := .zero, d := .bank, a := .mreg, b := .mreg, imm := true, modx := true, sel := true, extra := .mulForm, side := .stream }
  | .mxzero _ => some { op := 0xA4, subs := [0, 1], ty := .zero, d := .bank, imm := true, modx := true, sel := true, extra := .zeroForm, side := .stream }
  | .mxld _ => some { op := 0xA5, subs := [0], ty := .zero, d := .bank, a := .mreg, imm := true, modx := true, sel := true, extra := .tileForm, side := .stream }
  | .mxst _ => some { op := 0xA6, subs := [0, 1, 2], ty := .zero, d := .bank, a := .mreg, imm := true, sat := true, modx := true, sel := true, col := true, extra := .stForm, side := .stream }
  | .mxadd _ => some { op := 0xA7, subs := [0, 1], ty := .zero, d := .bank, a := .bankM, imm := true, modx := true, sel := true, extra := .addForm, side := .stream }
  | .mxscl _ => some { op := 0xA8, subs := [0], ty := .zero, d := .bank, a := .mreg, imm := true, modx := true, sel := true, extra := .tileForm, side := .stream }
  | .mxwaitTg _ => some { op := 0xA9, subs := [0], ty := .zero, a := .mreg, side := .stream }
  | .mxwaitBo _ => some { op := 0xA9, subs := [1], ty := .zero, a := .mreg, b := .mreg, imm := true, side := .stream }
  | .mxnb _ => some { op := 0xAA, subs := [0], ty := .zero, imm := true, sel := true, extra := .mxnbImm, side := .stream }
  | .mxnbArv _ => some { op := 0xAA, subs := [1], ty := .zero, imm := true, sel := true, extra := .mxnbImm, side := .stream }
  | .mxloopBegin _ => some { op := 0xAB, subs := [0], ty := .zero, imm := true, extra := .loopImm, side := .stream }
  | .mxloop _ => some { op := 0xAB, subs := [1], ty := .zero, c := .raw, imm := true, side := .stream }
  | .mxend _ => some { op := 0xAC, subs := [0], ty := .zero, side := .stream }
  | .mxstat _ => some { op := 0xAD, subs := [0, 1], ty := .zero, d := .dst, side := .vector }
  | .mxnorm _ => some { op := 0xAE, subs := [0], ty := .zero, a := .mreg, b := .mreg, c := .mreg, modx := true, sel := true, col := true, extra := .shape8, side := .stream }
  | .mxalias _ => some { op := 0xAF, subs := [0], ty := .zero, a := .mreg, side := .stream }
  | .mxsamp _ => some { op := 0xB0, subs := [0], ty := .zero, d := .bank, a := .mreg, b := .mreg, c := .mreg, imm := true, modx := true, sel := true, extra := .sampForm, side := .stream }
  | .mxvar _ => some { op := 0xB1, subs := [0, 1], ty := .zero, d := .dstM, side := .both }
  | .ld _ => some { op := 0xB2, subs := [0], ty := .int, d := .dst, a := .src, b := .srcIx, imm := true, sat := true, modx := true, scp := true, ord := true, extra := .ldForm, side := .vector }
  | .ldAc _ => some { op := 0xB2, subs := [1], ty := .int, d := .dst, a := .src, b := .srcIx, imm := true, sat := true, modx := true, sel := true, scp := true, ord := true, extra := .ldForm, side := .vector }
  | .st _ => some { op := 0xB3, subs := [0], ty := .int, a := .src, b := .srcIx, c := .src, imm := true, sat := true, modx := true, col := true, scp := true, ord := true, extra := .stoForm, side := .vector }
  | .vld _ => some { op := 0xB4, subs := [0], ty := .vint, d := .vdst, a := .src, b := .vsrcIx, imm := true, sat := true, modx := true, scp := true, ord := true, extra := .ldForm, side := .vector }
  | .vldAc _ => some { op := 0xB4, subs := [1], ty := .vint, d := .vdst, a := .src, b := .vsrcIx, imm := true, sat := true, modx := true, sel := true, scp := true, ord := true, extra := .ldForm, side := .vector }
  | .vst _ => some { op := 0xB5, subs := [0], ty := .vint, a := .src, b := .vsrcIx, c := .vsrc, imm := true, sat := true, modx := true, col := true, scp := true, ord := true, extra := .stoForm, side := .vector }
  | .vldw _ => some { op := 0xB6, subs := [0, 1], ty := .vint, d := .vdst, a := .src, b := .src, imm := true, sat := true, modx := true, sel := true, scp := true, ord := true, extra := .ldwForm, side := .vector }
  | .vstw _ => some { op := 0xB7, subs := [0], ty := .vint, a := .src, b := .src, c := .vsrc, imm := true, sat := true, modx := true, col := true, scp := true, ord := true, extra := .stwForm, side := .vector }
  | .acwait _ => some { op := 0xB8, subs := [0], ty := .zero, imm := true, sel := true, extra := .immLe4095, side := .vector }
  | .acget _ => some { op := 0xB9, subs := [0], ty := .zero, d := .dst, sel := true, side := .vector }
  | .acclr _ => some { op := 0xBA, subs := [0], ty := .zero, sel := true, side := .vector }
  | .pref _ => some { op := 0xBB, subs := [0, 1, 2], ty := .zero, a := .src, b := .vsrcIx, imm := true, modx := true, extra := .memForm, side := .vector }
  | .cfl _ => some { op := 0xBC, subs := [0, 1], ty := .zero, a := .src, b := .vsrcIx, imm := true, modx := true, col := true, extra := .memC, side := .vector }
  | .fence _ => some { op := 0xBD, subs := [0], ty := .zero, imm := true, scp := true, ord := true, extra := .fenceForm, side := .vector }
  | .aadd _ => some { op := 0xBE, subs := [0], ty := (.these [2, 6]), d := .vdst, a := .src, b := .vsrcIx, c := .vsrc, imm := true, modx := true, col := true, scp := true, ord := true, extra := .atomForm, side := .vector }
  | .amin _ => some { op := 0xBF, subs := [0], ty := (.these [2, 6]), d := .vdst, a := .src, b := .vsrcIx, c := .vsrc, imm := true, modx := true, col := true, scp := true, ord := true, extra := .atomForm, side := .vector }
  | .amax _ => some { op := 0xC0, subs := [0], ty := (.these [2, 6]), d := .vdst, a := .src, b := .vsrcIx, c := .vsrc, imm := true, modx := true, col := true, scp := true, ord := true, extra := .atomForm, side := .vector }
  | .aand _ => some { op := 0xC1, subs := [0], ty := (.these [2, 6]), d := .vdst, a := .src, b := .vsrcIx, c := .vsrc, imm := true, modx := true, col := true, scp := true, ord := true, extra := .atomForm, side := .vector }
  | .aor _ => some { op := 0xC2, subs := [0], ty := (.these [2, 6]), d := .vdst, a := .src, b := .vsrcIx, c := .vsrc, imm := true, modx := true, col := true, scp := true, ord := true, extra := .atomForm, side := .vector }
  | .axor _ => some { op := 0xC3, subs := [0], ty := (.these [2, 6]), d := .vdst, a := .src, b := .vsrcIx, c := .vsrc, imm := true, modx := true, col := true, scp := true, ord := true, extra := .atomForm, side := .vector }
  | .axch _ => some { op := 0xC4, subs := [0], ty := (.these [2, 6]), d := .vdst, a := .src, b := .vsrcIx, c := .vsrc, imm := true, modx := true, col := true, scp := true, ord := true, extra := .atomForm, side := .vector }
  | .acas _ => some { op := 0xC5, subs := [0], ty := (.these [2, 6]), d := .vdst, a := .src, b := .vsrcIx, c := .vsrc, imm := true, modx := true, col := true, scp := true, ord := true, extra := .atomForm, side := .vector }
  | .ainb _ => some { op := 0xC6, subs := [0], ty := (.these [2, 6]), d := .vdst, a := .src, b := .vsrcIx, c := .vsrc, imm := true, modx := true, col := true, scp := true, ord := true, extra := .atomForm, side := .vector }
  | .ainw _ => some { op := 0xC7, subs := [0], ty := (.these [2, 6]), d := .vdst, a := .src, b := .vsrcIx, c := .vsrc, imm := true, modx := true, col := true, scp := true, ord := true, extra := .atomForm, side := .vector }
  | .adecp _ => some { op := 0xC8, subs := [0], ty := (.these [2, 6]), d := .vdst, a := .src, b := .vsrcIx, c := .vsrc, imm := true, modx := true, col := true, scp := true, ord := true, extra := .atomForm, side := .vector }
  | .aflim _ => some { op := 0xC9, subs := [0], ty := (.these [2, 6]), d := .vdst, a := .src, b := .vsrcIx, c := .vsrc, imm := true, modx := true, sel := true, col := true, scp := true, ord := true, extra := .limForm, side := .vector }
  | .aaddf _ => some { op := 0xCA, subs := [0], ty := (.these [0, 1, 2]), d := .vdst, a := .src, b := .vsrcIx, c := .vsrc, imm := true, sat := true, modx := true, col := true, scp := true, ord := true, extra := .atomForm, side := .vector }
  | .redadd _ => some { op := 0xCB, subs := [0], ty := (.these [2, 6]), a := .src, b := .vsrcIx, c := .vsrc, imm := true, modx := true, col := true, scp := true, ord := true, extra := .stoForm, side := .vector }
  | .redmin _ => some { op := 0xCC, subs := [0], ty := (.these [2, 6]), a := .src, b := .vsrcIx, c := .vsrc, imm := true, modx := true, col := true, scp := true, ord := true, extra := .stoForm, side := .vector }
  | .redmax _ => some { op := 0xCD, subs := [0], ty := (.these [2, 6]), a := .src, b := .vsrcIx, c := .vsrc, imm := true, modx := true, col := true, scp := true, ord := true, extra := .stoForm, side := .vector }
  | .redand _ => some { op := 0xCE, subs := [0], ty := (.these [2, 6]), a := .src, b := .vsrcIx, c := .vsrc, imm := true, modx := true, col := true, scp := true, ord := true, extra := .stoForm, side := .vector }
  | .redor _ => some { op := 0xCF, subs := [0], ty := (.these [2, 6]), a := .src, b := .vsrcIx, c := .vsrc, imm := true, modx := true, col := true, scp := true, ord := true, extra := .stoForm, side := .vector }
  | .redxor _ => some { op := 0xD0, subs := [0], ty := (.these [2, 6]), a := .src, b := .vsrcIx, c := .vsrc, imm := true, modx := true, col := true, scp := true, ord := true, extra := .stoForm, side := .vector }
  | .redaddf _ => some { op := 0xD1, subs := [0], ty := (.these [0, 1, 2]), a := .src, b := .vsrcIx, c := .vsrc, imm := true, sat := true, modx := true, col := true, scp := true, ord := true, extra := .stoForm, side := .vector }
  | .tdep _ => some { op := 0xD2, subs := [0, 1], ty := .zero, d := .dst, a := .src, c := .blk, imm := true, extra := .depForm, side := .vector }
  | .tread _ => some { op := 0xD3, subs := [0, 1], ty := .zero, d := .blkD, a := .src, b := .src, c := .blk, imm := true, sel := true, extra := .takeForm, side := .vector }
  | .ttake _ => some { op := 0xD4, subs := [0, 1], ty := .zero, d := .blkD, a := .src, b := .src, c := .blk, imm := true, sel := true, extra := .takeForm, side := .vector }
  | .tcan _ => some { op := 0xD5, subs := [0], ty := .zero, sel := true, side := .vector }
  | .tstat _ => some { op := 0xD6, subs := [0, 1], ty := .zero, d := .dst, a := .src, b := .src1, side := .vector }
  | .slvtab _ => some { op := 0xD7, subs := [0], ty := .zero, a := .src, side := .vector }
  | .slvini _ => some { op := 0xD8, subs := [0], ty := .zero, a := .src, side := .vector }
  | .slvstg _ => some { op := 0xD9, subs := [0], ty := .zero, imm := true, extra := (.immBits 3), side := .vector }
  | .slvend _ => some { op := 0xDA, subs := [0], ty := .zero, side := .vector }
  | .slvst _ => some { op := 0xDB, subs := [0], ty := .zero, d := .dst, side := .vector }
  | .slvstRel _ => some { op := 0xDB, subs := [1], ty := .zero, d := .dst, side := .vector }
  | .fmreq _ => some { op := 0xDC, subs := [0], ty := .loadable, d := .dst, a := .src, side := .scalar }
  | .fmfence _ => some { op := 0xDD, subs := [0, 1], ty := .loadable, side := .vector }
  | .fmq _ => some { op := 0xDE, subs := [0], ty := .slot, d := .dst, side := .scalar }
  | .fmqHash _ => some { op := 0xDE, subs := [1], ty := .slot, d := .dst, imm := true, extra := (.immBits 2), side := .scalar }
  | .fmrel _ => some { op := 0xDF, subs := [0], ty := .loadable, d := .dst, side := .scalar }
  | .grd _ => some { op := 0xE0, subs := [0, 1, 2], ty := .zero, d := .dst, a := .gradeA, imm := true, extra := .grdImm, side := .graded }
  | .grraise _ => some { op := 0xE1, subs := [0, 1], ty := .zero, d := .gradeD, a := .gradeV, imm := true, extra := (.immBits 3), side := .graded }
  | .grdecl _ => some { op := 0xE2, subs := [0, 1], ty := .zero, d := .gradeD, a := .gradeV, imm := true, extra := (.immBits 3), side := .graded }
  | .ticket _ => some { op := 0xE3, subs := [0], ty := .zero, d := .dst, a := .src, imm := true, extra := .classImm, side := .scalar }
  | .tkret _ => some { op := 0xE4, subs := [0], ty := .zero, imm := true, extra := .classImm, side := .scalar }
  | .phint _ => some { op := 0xE5, subs := [0, 1, 2], ty := .zero, a := .src1, imm := true, extra := .phintImm, side := .scalar }
  | .spawn _ => some { op := 0xE6, subs := [0, 1], ty := .zero, a := .src, b := .spawnB, c := .vsrc1, side := .vector }
  | .binflush _ => some { op := 0xE7, subs := [0], ty := .zero, side := .vector }
  | .bincfg _ => some { op := 0xE8, subs := [0, 1], ty := .zero, a := .src1, imm := true, extra := .bincfgImm, side := .vector }
  | .frec _ => some { op := 0xE9, subs := [0, 1, 2], ty := .zero, d := .dst, a := .src, imm := true, extra := .frecImm, side := .vector }
  | .fres _ => some { op := 0xEA, subs := [0], ty := .zero, d := .dst, a := .src, side := .vector }
  | .fresM _ => some { op := 0xEA, subs := [1], ty := .zero, d := .dst, a := .src, b := .src, side := .vector }
  | .fresRet _ => some { op := 0xEA, subs := [2], ty := .zero, d := .dst, a := .src, b := .retB, side := .vector }
  | .fdrop _ => some { op := 0xEB, subs := [0], ty := .zero, d := .dst, a := .src, side := .vector }
  | .fdropEnd _ => some { op := 0xEB, subs := [1], ty := .zero, d := .dst, a := .src, side := .vector }
  | .nflg _ => some { op := 0xEC, subs := [0], ty := .zero, d := .dst, side := .vector }
  | .nflgClr _ => some { op := 0xEC, subs := [1], ty := .zero, d := .dst, imm := true, extra := (.immBits 4), side := .vector }
  | .nflgSet _ => some { op := 0xEC, subs := [2], ty := .zero, imm := true, extra := (.immBits 4), side := .vector }
  | .nflgDef _ => some { op := 0xEC, subs := [3], ty := .zero, d := .dst, side := .vector }
  | .post _ => some { op := 0xED, subs := [0], ty := .zero, a := .src, b := .src, imm := true, modx := true, extra := .postForm, side := .vector }
  | .qring _ => some { op := 0xEE, subs := [0], ty := .zero, a := .src, b := .src, side := .vector }
  | _ => none

/-- The fields of an instruction of the internal word. -/
def Instr.fields : Instr → Option Fields
  | .nop f => some f
  | .bra f => some f
  | .brc f => some f
  | .bany f => some f
  | .bnone f => some f
  | .call f => some f
  | .ret f => some f
  | .jmp f => some f
  | .done f => some f
  | .trap f => some f
  | .sysc f => some f
  | .rdsr f => some f
  | .wrsr f => some f
  | .tick f => some f
  | .yield f => some f
  | .sleep f => some f
  | .sadd f => some f
  | .ssub f => some f
  | .smul f => some f
  | .smulhi f => some f
  | .sdiv f => some f
  | .srem f => some f
  | .sand f => some f
  | .sor f => some f
  | .sxor f => some f
  | .sandn f => some f
  | .sshl f => some f
  | .sshr f => some f
  | .ssra f => some f
  | .srol f => some f
  | .smin f => some f
  | .smax f => some f
  | .sabs f => some f
  | .sclz f => some f
  | .spop f => some f
  | .sbrev f => some f
  | .sins f => some f
  | .sxtr f => some f
  | .ssel f => some f
  | .scmp f => some f
  | .smov f => some f
  | .sli f => some f
  | .sliHi f => some f
  | .sadr f => some f
  | .kand f => some f
  | .kor f => some f
  | .kxor f => some f
  | .kandn f => some f
  | .knot f => some f
  | .kmov f => some f
  | .kset f => some f
  | .kget f => some f
  | .kpop f => some f
  | .kffs f => some f
  | .klast f => some f
  | .kbcast f => some f
  | .sqput f => some f
  | .vqget f => some f
  | .vqput f => some f
  | .sqget f => some f
  | .vadd f => some f
  | .vsub f => some f
  | .vmul f => some f
  | .vmulhi f => some f
  | .vmad f => some f
  | .vand f => some f
  | .vor f => some f
  | .vxor f => some f
  | .vandn f => some f
  | .vshl f => some f
  | .vshr f => some f
  | .vsra f => some f
  | .vmin f => some f
  | .vmax f => some f
  | .vabs f => some f
  | .vneg f => some f
  | .vclz f => some f
  | .vpop f => some f
  | .vcmp f => some f
  | .vsel f => some f
  | .vmov f => some f
  | .vperm f => some f
  | .vbcast f => some f
  | .vred f => some f
  | .vscan f => some f
  | .vlane f => some f
  | .vsplat f => some f
  | .fadd f => some f
  | .fsub f => some f
  | .fmul f => some f
  | .fma f => some f
  | .fmin f => some f
  | .fmax f => some f
  | .fabs f => some f
  | .fneg f => some f
  | .fcmp f => some f
  | .frcp f => some f
  | .frsq f => some f
  | .fsqrt f => some f
  | .fexp2 f => some f
  | .flog2 f => some f
  | .fsin f => some f
  | .fcos f => some f
  | .ftanh f => some f
  | .fscale f => some f
  | .fclass f => some f
  | .fcvtSlot f => some f
  | .fcvtFromInt f => some f
  | .fcvtToInt f => some f
  | .fsrnd f => some f
  | .frnd f => some f
  | .fdot f => some f
  | .fzpt f => some f
  | .lds f => some f
  | .sts f => some f
  | .ldsb f => some f
  | .xld f => some f
  | .xldX24 f => some f
  | .xldNt f => some f
  | .xst f => some f
  | .xgat f => some f
  | .xsct f => some f
  | .xcpy f => some f
  | .xcpyMc f => some f
  | .xfill f => some f
  | .qjoin f => some f
  | .tgwany f => some f
  | .tgwall f => some f
  | .tgffr f => some f
  | .tgclr f => some f
  | .tgget f => some f
  | .bini f => some f
  | .barr f => some f
  | .barrN f => some f
  | .barrExp f => some f
  | .bexp f => some f
  | .bwait f => some f
  | .btest f => some f
  | .bcan f => some f
  | .nqini f => some f
  | .nqsend f => some f
  | .nqrecv f => some f
  | .nqret f => some f
  | .nqtry f => some f
  | .nbsync f => some f
  | .nbarv f => some f
  | .tbsync f => some f
  | .tbarv f => some f
  | .mxgo f => some f
  | .mxmul f => some f
  | .mxdual f => some f
  | .mxsp f => some f
  | .mxzero f => some f
  | .mxld f => some f
  | .mxst f => some f
  | .mxadd f => some f
  | .mxscl f => some f
  | .mxwaitTg f => some f
  | .mxwaitBo f => some f
  | .mxnb f => some f
  | .mxnbArv f => some f
  | .mxloopBegin f => some f
  | .mxloop f => some f
  | .mxend f => some f
  | .mxstat f => some f
  | .mxnorm f => some f
  | .mxalias f => some f
  | .mxsamp f => some f
  | .mxvar f => some f
  | .ld f => some f
  | .ldAc f => some f
  | .st f => some f
  | .vld f => some f
  | .vldAc f => some f
  | .vst f => some f
  | .vldw f => some f
  | .vstw f => some f
  | .acwait f => some f
  | .acget f => some f
  | .acclr f => some f
  | .pref f => some f
  | .cfl f => some f
  | .fence f => some f
  | .aadd f => some f
  | .amin f => some f
  | .amax f => some f
  | .aand f => some f
  | .aor f => some f
  | .axor f => some f
  | .axch f => some f
  | .acas f => some f
  | .ainb f => some f
  | .ainw f => some f
  | .adecp f => some f
  | .aflim f => some f
  | .aaddf f => some f
  | .redadd f => some f
  | .redmin f => some f
  | .redmax f => some f
  | .redand f => some f
  | .redor f => some f
  | .redxor f => some f
  | .redaddf f => some f
  | .tdep f => some f
  | .tread f => some f
  | .ttake f => some f
  | .tcan f => some f
  | .tstat f => some f
  | .slvtab f => some f
  | .slvini f => some f
  | .slvstg f => some f
  | .slvend f => some f
  | .slvst f => some f
  | .slvstRel f => some f
  | .fmreq f => some f
  | .fmfence f => some f
  | .fmq f => some f
  | .fmqHash f => some f
  | .fmrel f => some f
  | .grd f => some f
  | .grraise f => some f
  | .grdecl f => some f
  | .ticket f => some f
  | .tkret f => some f
  | .phint f => some f
  | .spawn f => some f
  | .binflush f => some f
  | .bincfg f => some f
  | .frec f => some f
  | .fres f => some f
  | .fresM f => some f
  | .fresRet f => some f
  | .fdrop f => some f
  | .fdropEnd f => some f
  | .nflg f => some f
  | .nflgClr f => some f
  | .nflgSet f => some f
  | .nflgDef f => some f
  | .post f => some f
  | .qring f => some f
  | _ => none

/-- The tile-shape code c of R189. -/
def Fields.shape (f : Fields) : Nat := 16 * (f.sel.toNat % 2) + f.modx.toNat

/-- A zero field where the instruction does not use it (R39). -/
def zeroUnless (used : Bool) (n : Nat) : Bool := used || n == 0

/-- A legal scalar-class source specifier (R41). -/
def okSrc (x : BitVec 8) : Bool := x.toNat < 0xEA

/-- A legal scalar-class destination: a register or the zero specifier (R41). -/
def okDst (x : BitVec 8) : Bool := x.toNat ≤ 0xE0

/-- A legal vector-class source specifier (R41). -/
def okVSrc (x : BitVec 8) : Bool := x.toNat < 0xCB

/-- A legal vector-class destination: v0-v63 or the zero specifier (R41, R110). -/
def okVDst (x : BitVec 8) : Bool := x.toNat < 0x40 || x.toNat == 0xC0

/-- Whether a specifier field holds what its position allows; `st` says the word stands in a
matrix stream. -/
def Pos.ok (p : Pos) (st : Bool) (f : Fields) (x : BitVec 8) : Bool :=
  match p with
  | .none => x == 0
  | .src => okSrc x
  | .dst => okDst x
  | .srcImm => if f.sub.getLsbD 3 then x == 0 else okSrc x
  | .srcIx => if f.modx.getLsbD 3 then okSrc x else x == 0
  | .src1 => if f.sub == 1 then okSrc x else x == 0
  | .vsrc => okVSrc x
  | .vdst => okVDst x
  | .vsrcImm => if f.sub.getLsbD 3 then x == 0 else okVSrc x
  | .vsrcIx => if f.modx.getLsbD 3 then okVSrc x else x == 0
  | .vsrc1 => if f.sub == 1 then okVSrc x else x == 0
  | .blk => x.toNat < 0x40
  | .blkD => x.toNat < 0x40 || x.toNat == 0xC0
  | .mreg => x.toNat < 8
  | .bank => x.toNat < 2
  | .bankM => if f.sub == 0 then x.toNat < 2 else x.toNat < 8
  | .raw => true
  | .ldsB => if f.sub == 0 && f.modx.getLsbD 3 then okVSrc x else x == 0
  | .gradeA => if f.sub == 1 then okVSrc x else okSrc x
  | .gradeV => if f.sub == 1 then okVSrc x else okSrc x
  | .gradeD => if f.sub == 1 then okVDst x else okDst x
  | .spawnB => x.toNat ≤ 0x3C
  | .retB => x.toNat ≤ 0x7C
  | .dstM => if st then x.toNat < 8 else okDst x

/-- The integer types of R111 as a TY or SEL code. -/
def isVint (n : Nat) : Bool := n != 3 && n < 7

/-- Whether TY is allowed (R40). -/
def TySet.ok (t : TySet) (f : Fields) : Bool :=
  let n := f.ty.toNat
  match t with
  | .zero => n == 0
  | .int => n < 8
  | .vint => isVint n
  | .slot => true
  | .loadable => 8 ≤ n
  | .lds => if f.sub == 0 then isVint n else n == 2 || n == 6
  | .red => if f.modx.getLsbD 0 then true else isVint n
  | .cvt => isVint f.sel.toNat
  | .these l => l.contains n

/-- MODX of a memory operand (R43): bit 2 is reserved, and without an index the shift is unused. -/
def memOk (f : Fields) : Bool :=
  !f.modx.getLsbD 2 && (f.modx.getLsbD 3 || f.modx == 0)

/-- Completion fields of a copy or join (R155): tag number, or barrier offset with MODX[3]. -/
def doneOk (f : Fields) : Bool :=
  (f.modx == 0 && f.imm.toNat < 64) || (f.modx == 8 && f.imm.toNat < 2 ^ 19)

/-- Item 5 of R46 for the fields whose use depends on the form: reserved bits, and fields the form does not use. -/
def Extra.ok (e : Extra) (f : Fields) : Bool :=
  let i := f.imm.toNat
  match e with
  | .any => true
  | .immBits n => i < 2 ^ n
  | .rdsrNum => i < 2 ^ 12
  | .wrsrNum => i < 2 ^ 12
  | .sleepImm => if f.sub == 0 then i ≤ 0xFFFFF else i == 0
  | .bitField => i / 64 % 4 == 0 && i < 2 ^ 15
  | .memForm => memOk f
  | .memC => memOk f
  | .ksetImm => if f.sub == 0 then i / 64 % 4 == 0 && i < 2 ^ 15 else i < 64
  | .kgetImm => true
  | .laneImm => true
  | .redForm =>
      !f.modx.getLsbD 1 && !f.modx.getLsbD 3
        && (f.modx.getLsbD 0 || (!f.modx.getLsbD 2 && (f.sat == 0 || f.sub == 0)))
  | .scanForm =>
      !f.modx.getLsbD 3 && (f.modx.getLsbD 0 || (!f.modx.getLsbD 2 && (f.sat == 0 || f.sub == 0)))
  | .rnd2 => f.modx.toNat < 4
  | .rnd4 => f.modx.toNat < 4
  | .srndImm => i < 32
  | .zptForm => f.modx.toNat < 4
  | .ldsForm => if f.sub == 0 then memOk f else f.modx == 0
  | .stsForm => if f.sub == 0 then memOk f else f.modx == 0
  | .ldsbForm => memOk f
  | .copyForm => f.sel.toNat < 2 && doneOk f
  | .joinForm => f.sel.toNat < 4 && doneOk f
  | .nbImm => i < 64
  | .tbImm => i < 64 && f.sel.toNat < 4
  | .mulForm => f.sel.toNat < 2 && i < 2 ^ 19
  | .shapeForm => f.sel.toNat < 2
  | .zeroForm =>
      if f.sub == 0 then f.sel.toNat < 2 && i < 2 ^ 16 else f.sel == 0 && f.modx == 0 && i == 0
  | .tileForm => f.sel.toNat < 2 && i < 2 ^ 16
  | .stForm => f.sel.toNat < 2 && (if f.sub == 2 then i < 2 ^ 21 else i < 2 ^ 16)
  | .addForm => f.sel.toNat < 2 && (f.sub == 0 || i < 2 ^ 16)
  | .mxnbImm => i < 64
  | .loopImm => i < 2 ^ 21
  | .shape8 => f.sel.toNat < 2
  | .sampForm => f.sel.toNat < 2 && i < 2 ^ 16
  | .ldForm => memOk f
  | .stoForm => memOk f
  | .ldwForm => f.modx.toNat < 8 && (f.sub == 1 || f.sel == 0)
  | .stwForm => f.modx.toNat < 8
  | .atomForm => memOk f
  | .limForm => memOk f
  | .immLe4095 => true
  | .fenceForm => i < 256 && (f.ord != 1 || i == 0)
  | .depForm => i < 16
  | .takeForm => i < 16 && (f.sub == 1 || f.sel == 0)
  | .grdImm => f.sub == 2 || i == 0
  | .classImm => i < 8
  | .phintImm => if f.sub == 0 then i < 2 ^ 12 else i == 0
  | .bincfgImm => if f.sub == 0 then i < 2 ^ 17 else i == 0
  | .frecImm => true
  | .postForm => f.modx.toNat < 2 && i < 2 ^ 16

/-- The conditions whose ILLOP is the description's own fault, which follows the decode faults of R46 (R94,
log entry 177): a value outside its range in a field that the form uses, such as the register number of R99, pos
and len of R105, an n of 0, a shape code or a colour. -/
def Extra.own (e : Extra) (f : Fields) : Bool :=
  let i := f.imm.toNat
  match e with
  | .any => true
  | .immBits _ => true
  | .rdsrNum => i < 8 || i == 0x10
  | .wrsrNum => i == 0x10
  | .sleepImm => true
  | .bitField => i / 256 != 0 && i / 256 ≤ 64 && i % 64 + i / 256 ≤ 64
  | .memForm => true
  | .memC => f.col.toNat < 7
  | .ksetImm => f.sub != 0 || (i / 256 ≤ 64 && i % 64 + i / 256 ≤ 64)
  | .kgetImm => i < 64
  | .laneImm => i < 64
  | .redForm => !f.modx.getLsbD 0 || f.sub.toNat ≤ 2
  | .scanForm => !f.modx.getLsbD 0 || (f.sub.toNat ≤ 2 && (!f.modx.getLsbD 1 || f.sub == 0))
  | .rnd2 => f.modx.toNat < 2
  | .rnd4 => true
  | .srndImm => i ≤ 24
  | .zptForm => f.modx.toNat < 2 && (if f.sub == 0 then i < 4 else i < 8)
  | .ldsForm => f.scp.toNat < 2 && f.ord.toNat < 2
  | .stsForm => f.scp.toNat < 2 && (f.ord == 0 || f.ord == 2)
  | .ldsbForm => f.scp.toNat < 2 && f.ord.toNat < 2
  | .copyForm => f.ord == 0 || f.ord == 2
  | .joinForm => f.sel != 0
  | .nbImm => i ≤ 33
  | .tbImm => i ≤ 33
  | .mulForm => f.shape ≤ 26
  | .shapeForm => f.shape ≤ 26
  | .zeroForm => f.sub != 0 || f.shape ≤ 8
  | .tileForm => f.shape ≤ 8
  | .stForm => f.shape ≤ 8 && (f.sub != 2 || i / 2 ^ 16 ≤ 24)
  | .addForm => f.shape ≤ 8
  | .mxnbImm => 1 ≤ i && i ≤ 33
  | .loopImm => 1 ≤ i && i ≤ 2 ^ 20
  | .shape8 => f.shape ≤ 8
  | .sampForm => f.shape ≤ 8 && f.c.toNat ≤ 6
  | .ldForm => f.ord.toNat < 2
  | .stoForm => (f.ord == 0 || f.ord == 2) && f.col.toNat < 7
  | .ldwForm => f.modx.toNat ≤ 6 && f.ord.toNat < 2
  | .stwForm => f.modx.toNat ≤ 6 && (f.ord == 0 || f.ord == 2) && f.col.toNat < 7
  | .atomForm => f.col.toNat < 7
  | .limForm => f.col.toNat < 7 && f.sel != 0
  | .immLe4095 => i ≤ 4095
  | .fenceForm => f.ord != 0
  | .depForm => 1 ≤ i && i ≤ 14 && f.c.toNat + i ≤ 63
  | .takeForm => 1 ≤ i && i ≤ 14 && (f.d.toNat == 0xC0 || f.d.toNat + i ≤ 63)
  | .grdImm => true
  | .classImm => 1 ≤ i && i ≤ 5
  | .phintImm => f.sub != 0 || (1 ≤ i && i ≤ 4095)
  | .bincfgImm => f.sub != 0 || (1 ≤ i && i ≤ 65536)
  | .frecImm => if f.sub == 0 then i < 8 else i < 64
  | .postForm => true

/-- IMM where the instruction uses it only in some forms: with an immediate operand B it is used
only when SUB bit 3 is set (R42, R101, R112). -/
def immOk (r : Row) (f : Fields) : Bool :=
  match r.b with
  | .srcImm => f.sub.getLsbD 3 || f.imm == 0
  | .vsrcImm => f.sub.getLsbD 3 || f.imm == 0
  | _ => zeroUnless r.imm f.imm.toNat

/-- Item 5 of R46 for one word: reserved fields, specifiers, destinations, and immediate
bits. -/
def fieldsOk (r : Row) (st : Bool) (f : Fields) : Bool :=
  r.d.ok st f f.d && r.a.ok st f f.a && r.b.ok st f f.b && r.c.ok st f f.c
    && immOk r f && zeroUnless r.sat f.sat.toNat && zeroUnless r.modx f.modx.toNat
    && zeroUnless r.sel f.sel.toNat && zeroUnless r.col f.col.toNat
    && zeroUnless r.scp f.scp.toNat && zeroUnless r.ord f.ord.toNat && r.extra.ok f

/-- The SUB values of a word are those its row defines. -/
def subOk (r : Row) (f : Fields) : Bool := r.subs.contains f.sub.toNat

/-- Whether a matrix stream may hold the instruction (R45). -/
def Row.inStream (r : Row) : Bool := r.side == .stream || r.side == .both

/-- Whether a troupe may execute the instruction (R45). -/
def Row.inTroupe (r : Row) : Bool := r.side != .stream

/-- The conditions of a clause header that step 1 of R38 checks. -/
def Header.ok (h : Header) : Bool :=
  let bad := fun (x : BitVec 4) => x.toNat == 12 || x.toNat == 13 || x.toNat == 14
  !bad h.seta && !bad h.setb && (h.seta != 15 || h.setb == 15)
    && (h.seta == 15 || h.seta != h.setb) && h.rsv == 0

/-- A clause header a stream allows (R179). -/
def Header.okStream (h : Header) : Bool :=
  h.ok && h.wait == 0 && h.seta == 15 && h.setb == 15 && h.z == 0

/-- The first decode fault of a word executed by a troupe (`st` false) or met in a matrix stream
(`st` true), in the order of R46, and behind it the description's own ILLOP on a field (R94); a
stream-only opcode in a troupe is ILLOP, and an opcode that no stream may hold is answered by the step
as MXILL. -/
def decodeFault (st : Bool) (i : Instr) : Option Cause :=
  match i with
  | .clauseHeader h => if (if st then h.okStream else h.ok) then none else some .illop
  | _ =>
    match i.row, i.fields with
    | some r, some f =>
        if !st && !r.inTroupe then some .illop
        else if !subOk r f then some .illop
        else if !fieldsOk r st f then some .illop
        else if !r.ty.ok f then some .illtype
        else if !r.extra.own f then some .illop
        else none
    | _, _ => none

/-- A word is well formed for a troupe when it raises no decode fault there. -/
def Instr.WellFormed (i : Instr) : Prop := decodeFault false i = none

/-- A word is well formed for a matrix stream when it raises no decode fault there. -/
def Instr.WellFormedStream (i : Instr) : Prop := decodeFault true i = none

end Sys2Proof
end

