-- ==== Sys2Proof/Decode.lean ====
section
/-! DEFINITION. From the byte stream to instructions (spec/02_encoding.md R26-R34, R37, R44) and back. -/

namespace Sys2Proof

/-! ### Bytes and bit fields -/

/-- Bits hi..lo of a number. -/
def bitsOf (w hi lo : Nat) : Nat := w / 2 ^ lo % 2 ^ (hi + 1 - lo)

/-- A code unit as one number: the first byte is the most significant (R26). -/
def beNat (bs : List Byte) : Nat := bs.foldl (fun n b => n * 256 + b.toNat) 0

/-- The n bytes of a number, most significant first (R26). -/
def beBytes : Nat → Nat → List Byte
  | 0, _ => []
  | n + 1, w => BitVec.ofNat 8 (w / 256 ^ n) :: beBytes n w

/-- The n bytes of a number, least significant first (R4). -/
def leBytes (w : Nat) : Nat → List Byte
  | 0 => []
  | n + 1 => BitVec.ofNat 8 w :: leBytes (w / 256) n

/-- The number little-endian bytes hold (R4). -/
def leNat : List Byte → Nat
  | [] => 0
  | b :: bs => b.toNat + 256 * leNat bs

/-- A number of `w` bits read as signed, as a 32-bit field. -/
def signExtend32 (w n : Nat) : BitVec 32 := (BitVec.ofNat w n).signExtend 32

/-! ### The opcode map -/

/-- An entry of the opcode map: OP, its SUB values, and the instruction. -/
structure OpEntry where
  /-- OP -/
  op : Nat
  /-- SUB values -/
  subs : List Nat
  /-- the instruction with its fields -/
  make : Fields → Instr

/-- The opcode map (R44): OP, the SUB values of the row, and the instruction, part 0. -/
def opTable0 : List OpEntry :=
  [⟨0x00, [0], .nop⟩,
   ⟨0x01, [0], .bra⟩,
   ⟨0x02, [0, 1, 2, 3], .brc⟩,
   ⟨0x03, [0, 1], .bany⟩,
   ⟨0x04, [0, 1], .bnone⟩,
   ⟨0x05, [0, 1], .call⟩,
   ⟨0x06, [0], .ret⟩,
   ⟨0x07, [0], .jmp⟩,
   ⟨0x08, [0], .done⟩,
   ⟨0x09, [0], .trap⟩,
   ⟨0x0A, [0], .sysc⟩,
   ⟨0x0B, [0], .rdsr⟩,
   ⟨0x0C, [0], .wrsr⟩,
   ⟨0x0D, [0], .tick⟩,
   ⟨0x0E, [0], .yield⟩,
   ⟨0x0F, [0, 1], .sleep⟩]

/-- The opcode map (R44): OP, the SUB values of the row, and the instruction, part 1. -/
def opTable1 : List OpEntry :=
  [⟨0x10, [0, 8], .sadd⟩,
   ⟨0x11, [0, 8], .ssub⟩,
   ⟨0x12, [0, 8], .smul⟩,
   ⟨0x13, [0, 8], .smulhi⟩,
   ⟨0x14, [0, 8], .sdiv⟩,
   ⟨0x15, [0, 8], .srem⟩,
   ⟨0x16, [0, 8], .sand⟩,
   ⟨0x17, [0, 8], .sor⟩,
   ⟨0x18, [0, 8], .sxor⟩,
   ⟨0x19, [0, 8], .sandn⟩,
   ⟨0x1A, [0, 8], .sshl⟩,
   ⟨0x1B, [0, 8], .sshr⟩,
   ⟨0x1C, [0, 8], .ssra⟩,
   ⟨0x1D, [0, 8], .srol⟩,
   ⟨0x1E, [0, 8], .smin⟩,
   ⟨0x1F, [0, 8], .smax⟩]

/-- The opcode map (R44): OP, the SUB values of the row, and the instruction, part 2. -/
def opTable2 : List OpEntry :=
  [⟨0x20, [0], .sabs⟩,
   ⟨0x21, [0], .sclz⟩,
   ⟨0x22, [0], .spop⟩,
   ⟨0x23, [0], .sbrev⟩,
   ⟨0x24, [0], .sins⟩,
   ⟨0x25, [0], .sxtr⟩,
   ⟨0x26, [0], .ssel⟩,
   ⟨0x27, [0, 1, 2, 3, 4, 5, 8, 9, 10, 11, 12, 13], .scmp⟩,
   ⟨0x28, [0], .smov⟩,
   ⟨0x29, [0], .sli⟩,
   ⟨0x29, [1], .sliHi⟩,
   ⟨0x2A, [0], .sadr⟩,
   ⟨0x30, [0], .kand⟩,
   ⟨0x31, [0], .kor⟩,
   ⟨0x32, [0], .kxor⟩,
   ⟨0x33, [0], .kandn⟩]

/-- The opcode map (R44): OP, the SUB values of the row, and the instruction, part 3. -/
def opTable3 : List OpEntry :=
  [⟨0x34, [0], .knot⟩,
   ⟨0x35, [0], .kmov⟩,
   ⟨0x36, [0, 1], .kset⟩,
   ⟨0x37, [0, 8], .kget⟩,
   ⟨0x38, [0], .kpop⟩,
   ⟨0x39, [0], .kffs⟩,
   ⟨0x3A, [0], .klast⟩,
   ⟨0x3B, [0], .kbcast⟩,
   ⟨0x3C, [0], .sqput⟩,
   ⟨0x3D, [0], .vqget⟩,
   ⟨0x3E, [0], .vqput⟩,
   ⟨0x3F, [0], .sqget⟩,
   ⟨0x40, [0, 8], .vadd⟩,
   ⟨0x41, [0, 8], .vsub⟩,
   ⟨0x42, [0, 8], .vmul⟩,
   ⟨0x43, [0, 8], .vmulhi⟩]

/-- The opcode map (R44): OP, the SUB values of the row, and the instruction, part 4. -/
def opTable4 : List OpEntry :=
  [⟨0x44, [0], .vmad⟩,
   ⟨0x45, [0, 8], .vand⟩,
   ⟨0x46, [0, 8], .vor⟩,
   ⟨0x47, [0, 8], .vxor⟩,
   ⟨0x48, [0, 8], .vandn⟩,
   ⟨0x49, [0, 8], .vshl⟩,
   ⟨0x4A, [0, 8], .vshr⟩,
   ⟨0x4B, [0, 8], .vsra⟩,
   ⟨0x4C, [0, 8], .vmin⟩,
   ⟨0x4D, [0, 8], .vmax⟩,
   ⟨0x4E, [0], .vabs⟩,
   ⟨0x4F, [0], .vneg⟩,
   ⟨0x50, [0], .vclz⟩,
   ⟨0x51, [0], .vpop⟩,
   ⟨0x52, [0, 1, 2, 3, 4, 5, 8, 9, 10, 11, 12, 13], .vcmp⟩,
   ⟨0x53, [0], .vsel⟩]

/-- The opcode map (R44): OP, the SUB values of the row, and the instruction, part 5. -/
def opTable5 : List OpEntry :=
  [⟨0x54, [0], .vmov⟩,
   ⟨0x55, [0, 1, 2, 9, 10], .vperm⟩,
   ⟨0x56, [0, 8], .vbcast⟩,
   ⟨0x57, [0, 1, 2, 3, 4, 5], .vred⟩,
   ⟨0x58, [0, 1, 2, 3, 4, 5], .vscan⟩,
   ⟨0x59, [0, 8], .vlane⟩,
   ⟨0x5A, [0, 8], .vsplat⟩,
   ⟨0x60, [0, 8], .fadd⟩,
   ⟨0x61, [0, 8], .fsub⟩,
   ⟨0x62, [0, 8], .fmul⟩,
   ⟨0x63, [0], .fma⟩,
   ⟨0x64, [0, 8], .fmin⟩,
   ⟨0x65, [0, 8], .fmax⟩,
   ⟨0x66, [0], .fabs⟩,
   ⟨0x67, [0], .fneg⟩,
   ⟨0x68, [0, 1, 2, 3, 4, 5, 6, 7, 8, 9, 10, 11, 12, 13, 14, 15], .fcmp⟩]

/-- The opcode map (R44): OP, the SUB values of the row, and the instruction, part 6. -/
def opTable6 : List OpEntry :=
  [⟨0x69, [0], .frcp⟩,
   ⟨0x6A, [0], .frsq⟩,
   ⟨0x6B, [0], .fsqrt⟩,
   ⟨0x6C, [0], .fexp2⟩,
   ⟨0x6D, [0], .flog2⟩,
   ⟨0x6E, [0], .fsin⟩,
   ⟨0x6F, [0], .fcos⟩,
   ⟨0x70, [0], .ftanh⟩,
   ⟨0x71, [0, 8], .fscale⟩,
   ⟨0x72, [0], .fclass⟩,
   ⟨0x73, [0], .fcvtSlot⟩,
   ⟨0x73, [1], .fcvtFromInt⟩,
   ⟨0x73, [2], .fcvtToInt⟩,
   ⟨0x74, [0], .fsrnd⟩,
   ⟨0x75, [0], .frnd⟩,
   ⟨0x76, [0], .fdot⟩]

/-- The opcode map (R44): OP, the SUB values of the row, and the instruction, part 7. -/
def opTable7 : List OpEntry :=
  [⟨0x77, [0, 1], .fzpt⟩,
   ⟨0x80, [0, 2, 3], .lds⟩,
   ⟨0x81, [0, 2, 3], .sts⟩,
   ⟨0x82, [0], .ldsb⟩,
   ⟨0x83, [0], .xld⟩,
   ⟨0x83, [1], .xldX24⟩,
   ⟨0x83, [2], .xldNt⟩,
   ⟨0x84, [0], .xst⟩,
   ⟨0x85, [0], .xgat⟩,
   ⟨0x86, [0], .xsct⟩,
   ⟨0x87, [0], .xcpy⟩,
   ⟨0x87, [1], .xcpyMc⟩,
   ⟨0x88, [0], .xfill⟩,
   ⟨0x89, [0], .qjoin⟩,
   ⟨0x8A, [0], .tgwany⟩,
   ⟨0x8B, [0], .tgwall⟩]

/-- The opcode map (R44): OP, the SUB values of the row, and the instruction, part 8. -/
def opTable8 : List OpEntry :=
  [⟨0x8C, [0], .tgffr⟩,
   ⟨0x8D, [0], .tgclr⟩,
   ⟨0x8E, [0, 1, 2], .tgget⟩,
   ⟨0x8F, [0], .bini⟩,
   ⟨0x90, [0], .barr⟩,
   ⟨0x90, [1], .barrN⟩,
   ⟨0x90, [2], .barrExp⟩,
   ⟨0x91, [0], .bexp⟩,
   ⟨0x92, [0, 1], .bwait⟩,
   ⟨0x93, [0, 1], .btest⟩,
   ⟨0x94, [0], .bcan⟩,
   ⟨0x95, [0], .nqini⟩,
   ⟨0x96, [0], .nqsend⟩,
   ⟨0x97, [0], .nqrecv⟩,
   ⟨0x98, [0], .nqret⟩,
   ⟨0x99, [0], .nqtry⟩]

/-- The opcode map (R44): OP, the SUB values of the row, and the instruction, part 9. -/
def opTable9 : List OpEntry :=
  [⟨0x9A, [0], .nbsync⟩,
   ⟨0x9B, [0], .nbarv⟩,
   ⟨0x9C, [0], .tbsync⟩,
   ⟨0x9D, [0], .tbarv⟩,
   ⟨0xA0, [0], .mxgo⟩,
   ⟨0xA1, [0], .mxmul⟩,
   ⟨0xA2, [0], .mxdual⟩,
   ⟨0xA3, [0], .mxsp⟩,
   ⟨0xA4, [0, 1], .mxzero⟩,
   ⟨0xA5, [0], .mxld⟩,
   ⟨0xA6, [0, 1, 2], .mxst⟩,
   ⟨0xA7, [0, 1], .mxadd⟩,
   ⟨0xA8, [0], .mxscl⟩,
   ⟨0xA9, [0], .mxwaitTg⟩,
   ⟨0xA9, [1], .mxwaitBo⟩,
   ⟨0xAA, [0], .mxnb⟩]

/-- The opcode map (R44): OP, the SUB values of the row, and the instruction, part 10. -/
def opTable10 : List OpEntry :=
  [⟨0xAA, [1], .mxnbArv⟩,
   ⟨0xAB, [0], .mxloopBegin⟩,
   ⟨0xAB, [1], .mxloop⟩,
   ⟨0xAC, [0], .mxend⟩,
   ⟨0xAD, [0, 1], .mxstat⟩,
   ⟨0xAE, [0], .mxnorm⟩,
   ⟨0xAF, [0], .mxalias⟩,
   ⟨0xB0, [0], .mxsamp⟩,
   ⟨0xB1, [0, 1], .mxvar⟩,
   ⟨0xB2, [0], .ld⟩,
   ⟨0xB2, [1], .ldAc⟩,
   ⟨0xB3, [0], .st⟩,
   ⟨0xB4, [0], .vld⟩,
   ⟨0xB4, [1], .vldAc⟩,
   ⟨0xB5, [0], .vst⟩,
   ⟨0xB6, [0, 1], .vldw⟩]

/-- The opcode map (R44): OP, the SUB values of the row, and the instruction, part 11. -/
def opTable11 : List OpEntry :=
  [⟨0xB7, [0], .vstw⟩,
   ⟨0xB8, [0], .acwait⟩,
   ⟨0xB9, [0], .acget⟩,
   ⟨0xBA, [0], .acclr⟩,
   ⟨0xBB, [0, 1, 2], .pref⟩,
   ⟨0xBC, [0, 1], .cfl⟩,
   ⟨0xBD, [0], .fence⟩,
   ⟨0xBE, [0], .aadd⟩,
   ⟨0xBF, [0], .amin⟩,
   ⟨0xC0, [0], .amax⟩,
   ⟨0xC1, [0], .aand⟩,
   ⟨0xC2, [0], .aor⟩,
   ⟨0xC3, [0], .axor⟩,
   ⟨0xC4, [0], .axch⟩,
   ⟨0xC5, [0], .acas⟩,
   ⟨0xC6, [0], .ainb⟩]

/-- The opcode map (R44): OP, the SUB values of the row, and the instruction, part 12. -/
def opTable12 : List OpEntry :=
  [⟨0xC7, [0], .ainw⟩,
   ⟨0xC8, [0], .adecp⟩,
   ⟨0xC9, [0], .aflim⟩,
   ⟨0xCA, [0], .aaddf⟩,
   ⟨0xCB, [0], .redadd⟩,
   ⟨0xCC, [0], .redmin⟩,
   ⟨0xCD, [0], .redmax⟩,
   ⟨0xCE, [0], .redand⟩,
   ⟨0xCF, [0], .redor⟩,
   ⟨0xD0, [0], .redxor⟩,
   ⟨0xD1, [0], .redaddf⟩,
   ⟨0xD2, [0, 1], .tdep⟩,
   ⟨0xD3, [0, 1], .tread⟩,
   ⟨0xD4, [0, 1], .ttake⟩,
   ⟨0xD5, [0], .tcan⟩,
   ⟨0xD6, [0, 1], .tstat⟩]

/-- The opcode map (R44): OP, the SUB values of the row, and the instruction, part 13. -/
def opTable13 : List OpEntry :=
  [⟨0xD7, [0], .slvtab⟩,
   ⟨0xD8, [0], .slvini⟩,
   ⟨0xD9, [0], .slvstg⟩,
   ⟨0xDA, [0], .slvend⟩,
   ⟨0xDB, [0], .slvst⟩,
   ⟨0xDB, [1], .slvstRel⟩,
   ⟨0xDC, [0], .fmreq⟩,
   ⟨0xDD, [0, 1], .fmfence⟩,
   ⟨0xDE, [0], .fmq⟩,
   ⟨0xDE, [1], .fmqHash⟩,
   ⟨0xDF, [0], .fmrel⟩,
   ⟨0xE0, [0, 1, 2], .grd⟩,
   ⟨0xE1, [0, 1], .grraise⟩,
   ⟨0xE2, [0, 1], .grdecl⟩,
   ⟨0xE3, [0], .ticket⟩,
   ⟨0xE4, [0], .tkret⟩]

/-- The opcode map (R44): OP, the SUB values of the row, and the instruction, part 14. -/
def opTable14 : List OpEntry :=
  [⟨0xE5, [0, 1, 2], .phint⟩,
   ⟨0xE6, [0, 1], .spawn⟩,
   ⟨0xE7, [0], .binflush⟩,
   ⟨0xE8, [0, 1], .bincfg⟩,
   ⟨0xE9, [0, 1, 2], .frec⟩,
   ⟨0xEA, [0], .fres⟩,
   ⟨0xEA, [1], .fresM⟩,
   ⟨0xEA, [2], .fresRet⟩,
   ⟨0xEB, [0], .fdrop⟩,
   ⟨0xEB, [1], .fdropEnd⟩,
   ⟨0xEC, [0], .nflg⟩,
   ⟨0xEC, [1], .nflgClr⟩,
   ⟨0xEC, [2], .nflgSet⟩,
   ⟨0xEC, [3], .nflgDef⟩,
   ⟨0xED, [0], .post⟩,
   ⟨0xEE, [0], .qring⟩]

/-- The opcode map (R44): OP, the SUB values of the row, and the instruction. -/
def opTable : List OpEntry :=
  opTable0 ++ opTable1 ++ opTable2 ++ opTable3 ++ opTable4 ++ opTable5 ++ opTable6 ++ opTable7 ++ opTable8 ++ opTable9 ++ opTable10 ++ opTable11 ++ opTable12 ++ opTable13 ++ opTable14

/-- Why a unit is no instruction. -/
inductive Reject where
  /-- the bytes end inside the unit -/
  | truncated
  /-- illegal first byte (R27, R35) -/
  | firstByte
  /-- expands to the poison word: an unused field of an S or M unit is set, or OP is 0xFF
  (R29, R31, R34) -/
  | poison
  /-- reserved opcode (R44) -/
  | opcode
  /-- SUB not defined for the opcode (R9) -/
  | variant
  deriving DecidableEq, Repr

/-- What the decoder reads from the bytes at an address. -/
inductive Decoded where
  /-- an instruction and the length of its unit -/
  | ok (i : Instr) (len : Nat)
  /-- a rejected unit, its length, and its OP where it has one -/
  | bad (r : Reject) (len : Nat) (op : Nat)
  deriving DecidableEq, Repr

/-- The length of a decoded unit. -/
def Decoded.len : Decoded → Nat
  | .ok _ n => n
  | .bad _ n _ => n

/-- The instruction an internal word stands for. -/
def ofWord (op : Nat) (f : Fields) (len : Nat) : Decoded :=
  if op = 0xFF then .bad .poison len op
  else
    match opTable.find? (fun e => e.op == op && e.subs.contains f.sub.toNat) with
    | some e => .ok (e.make f) len
    | none =>
        if opTable.any (fun e => e.op == op) then .bad .variant len op else .bad .opcode len op

/-! ### S units -/

/-- How an S-table row fills a specifier. -/
inductive SFill where
  | no
  | x
  | y
  | kx
  | ky
  | y16
  | by
  deriving DecidableEq, Repr

/-- How an S-table row fills the other fields. -/
inductive SOther where
  | no
  | bra
  | immY
  | gather
  | selYimmX
  | selY
  deriving DecidableEq, Repr

/-- A row of the S table. -/
structure SRow where
  /-- OP -/
  op : Nat
  /-- SUB -/
  sub : BitVec 4
  /-- TY -/
  ty : BitVec 4
  /-- D -/
  d : SFill
  /-- A -/
  a : SFill
  /-- B -/
  b : SFill
  /-- C -/
  c : SFill
  /-- other fields -/
  other : SOther
  deriving DecidableEq, Repr

/-- The S table (R30), in index order, part 0. -/
def sTable0 : List SRow :=
  [⟨0x00, 0, 0, .no, .no, .no, .no, .no⟩ /- 0x00 nop -/,
   ⟨0x08, 0, 0, .no, .no, .no, .no, .no⟩ /- 0x01 done -/,
   ⟨0x06, 0, 0, .no, .no, .no, .no, .no⟩ /- 0x02 ret -/,
   ⟨0x0E, 0, 0, .no, .no, .no, .no, .no⟩ /- 0x03 yield -/,
   ⟨0x01, 0, 0, .no, .no, .no, .no, .bra⟩ /- 0x04 bra #o -/,
   ⟨0x10, 0, 3, .x, .x, .y, .no, .no⟩ /- 0x05 sadd.i64 sX, sX, sY -/,
   ⟨0x10, 8, 3, .x, .x, .no, .no, .immY⟩ /- 0x06 sadd.i64 sX, sX, #Y -/,
   ⟨0x11, 0, 3, .x, .x, .y, .no, .no⟩ /- 0x07 ssub.i64 sX, sX, sY -/,
   ⟨0x11, 8, 3, .x, .x, .no, .no, .immY⟩ /- 0x08 ssub.i64 sX, sX, #Y -/,
   ⟨0x12, 0, 3, .x, .x, .y, .no, .no⟩ /- 0x09 smul.i64 sX, sX, sY -/,
   ⟨0x16, 0, 3, .x, .x, .y, .no, .no⟩ /- 0x0A sand.i64 sX, sX, sY -/,
   ⟨0x17, 0, 3, .x, .x, .y, .no, .no⟩ /- 0x0B sor.i64 sX, sX, sY -/,
   ⟨0x18, 0, 3, .x, .x, .y, .no, .no⟩ /- 0x0C sxor.i64 sX, sX, sY -/,
   ⟨0x1A, 8, 3, .x, .x, .no, .no, .immY⟩ /- 0x0D sshl.i64 sX, sX, #Y -/,
   ⟨0x1B, 8, 3, .x, .x, .no, .no, .immY⟩ /- 0x0E sshr.i64 sX, sX, #Y -/,
   ⟨0x1C, 8, 3, .x, .x, .no, .no, .immY⟩ /- 0x0F ssra.i64 sX, sX, #Y -/]

/-- The S table (R30), in index order, part 1. -/
def sTable1 : List SRow :=
  [⟨0x1E, 0, 3, .x, .x, .y, .no, .no⟩ /- 0x10 smin.i64 sX, sX, sY -/,
   ⟨0x1F, 0, 3, .x, .x, .y, .no, .no⟩ /- 0x11 smax.i64 sX, sX, sY -/,
   ⟨0x28, 0, 3, .x, .y, .no, .no, .no⟩ /- 0x12 smov sX, sY -/,
   ⟨0x29, 0, 3, .x, .no, .no, .no, .immY⟩ /- 0x13 sli sX, #Y -/,
   ⟨0x30, 0, 0, .kx, .kx, .ky, .no, .no⟩ /- 0x14 kand kX, kX, kY -/,
   ⟨0x31, 0, 0, .kx, .kx, .ky, .no, .no⟩ /- 0x15 kor kX, kX, kY -/,
   ⟨0x32, 0, 0, .kx, .kx, .ky, .no, .no⟩ /- 0x16 kxor kX, kX, kY -/,
   ⟨0x33, 0, 0, .kx, .kx, .ky, .no, .no⟩ /- 0x17 kandn kX, kX, kY -/,
   ⟨0x34, 0, 0, .kx, .ky, .no, .no, .no⟩ /- 0x18 knot kX, kY -/,
   ⟨0x35, 0, 0, .kx, .ky, .no, .no, .no⟩ /- 0x19 kmov kX, kY -/,
   ⟨0x38, 0, 0, .x, .ky, .no, .no, .no⟩ /- 0x1A kpop sX, kY -/,
   ⟨0x39, 0, 0, .x, .ky, .no, .no, .no⟩ /- 0x1B kffs sX, kY -/,
   ⟨0x3C, 0, 0, .no, .x, .no, .no, .no⟩ /- 0x1C sqput sX -/,
   ⟨0x3D, 0, 0, .x, .no, .no, .no, .no⟩ /- 0x1D vqget vX -/,
   ⟨0x3E, 0, 0, .no, .x, .no, .no, .no⟩ /- 0x1E vqput vX -/,
   ⟨0x3F, 0, 0, .x, .no, .no, .no, .no⟩ /- 0x1F sqget sX -/]

/-- The S table (R30), in index order, part 2. -/
def sTable2 : List SRow :=
  [⟨0x40, 0, 2, .x, .x, .y, .no, .no⟩ /- 0x20 vadd.i32 vX, vX, vY -/,
   ⟨0x40, 8, 2, .x, .x, .no, .no, .immY⟩ /- 0x21 vadd.i32 vX, vX, #Y -/,
   ⟨0x41, 0, 2, .x, .x, .y, .no, .no⟩ /- 0x22 vsub.i32 vX, vX, vY -/,
   ⟨0x42, 0, 2, .x, .x, .y, .no, .no⟩ /- 0x23 vmul.i32 vX, vX, vY -/,
   ⟨0x45, 0, 2, .x, .x, .y, .no, .no⟩ /- 0x24 vand.i32 vX, vX, vY -/,
   ⟨0x46, 0, 2, .x, .x, .y, .no, .no⟩ /- 0x25 vor.i32 vX, vX, vY -/,
   ⟨0x47, 0, 2, .x, .x, .y, .no, .no⟩ /- 0x26 vxor.i32 vX, vX, vY -/,
   ⟨0x49, 8, 2, .x, .x, .no, .no, .immY⟩ /- 0x27 vshl.i32 vX, vX, #Y -/,
   ⟨0x4A, 8, 2, .x, .x, .no, .no, .immY⟩ /- 0x28 vshr.i32 vX, vX, #Y -/,
   ⟨0x4B, 8, 2, .x, .x, .no, .no, .immY⟩ /- 0x29 vsra.i32 vX, vX, #Y -/,
   ⟨0x4C, 0, 2, .x, .x, .y, .no, .no⟩ /- 0x2A vmin.i32 vX, vX, vY -/,
   ⟨0x4D, 0, 2, .x, .x, .y, .no, .no⟩ /- 0x2B vmax.i32 vX, vX, vY -/,
   ⟨0x54, 0, 2, .x, .y, .no, .no, .no⟩ /- 0x2C vmov vX, vY -/,
   ⟨0x40, 0, 2, .x, .x, .by, .no, .no⟩ /- 0x2D vadd.i32 vX, vX, sY -/,
   ⟨0x60, 0, 0, .x, .x, .y, .no, .no⟩ /- 0x2E fadd.f32 vX, vX, vY -/,
   ⟨0x61, 0, 0, .x, .x, .y, .no, .no⟩ /- 0x2F fsub.f32 vX, vX, vY -/]

/-- The S table (R30), in index order, part 3. -/
def sTable3 : List SRow :=
  [⟨0x62, 0, 0, .x, .x, .y, .no, .no⟩ /- 0x30 fmul.f32 vX, vX, vY -/,
   ⟨0x63, 0, 0, .x, .y, .y16, .x, .no⟩ /- 0x31 fma.f32 vX, vY, v(Y+16), vX -/,
   ⟨0x64, 0, 0, .x, .x, .y, .no, .no⟩ /- 0x32 fmin.f32 vX, vX, vY -/,
   ⟨0x65, 0, 0, .x, .x, .y, .no, .no⟩ /- 0x33 fmax.f32 vX, vX, vY -/,
   ⟨0x66, 0, 0, .x, .y, .no, .no, .no⟩ /- 0x34 fabs.f32 vX, vY -/,
   ⟨0x67, 0, 0, .x, .y, .no, .no, .no⟩ /- 0x35 fneg.f32 vX, vY -/,
   ⟨0x60, 0, 0, .x, .x, .by, .no, .no⟩ /- 0x36 fadd.f32 vX, vX, sY -/,
   ⟨0x62, 0, 0, .x, .x, .by, .no, .no⟩ /- 0x37 fmul.f32 vX, vX, sY -/,
   ⟨0x63, 0, 1, .x, .y, .y16, .x, .no⟩ /- 0x38 fma.bf16 vX, vY, v(Y+16), vX -/,
   ⟨0xB2, 0, 3, .x, .y, .no, .no, .no⟩ /- 0x39 ld.i64 sX, [sY] -/,
   ⟨0xB3, 0, 3, .no, .y, .no, .x, .no⟩ /- 0x3A st.i64 [sY], sX -/,
   ⟨0xB4, 0, 2, .x, .y, .x, .no, .gather⟩ /- 0x3B vld.i32 vX, [sY + vX << 2] -/,
   ⟨0xB2, 0, 6, .x, .y, .no, .no, .no⟩ /- 0x3C ld.n32 sX, [sY] -/,
   ⟨0xB8, 0, 0, .no, .no, .no, .no, .selYimmX⟩ /- 0x3D acwait acY, #X -/,
   ⟨0x9A, 0, 0, .no, .no, .no, .no, .selY⟩ /- 0x3E nbsync nbY -/,
   ⟨0x21, 0, 3, .x, .y, .no, .no, .no⟩ /- 0x3F sclz.i64 sX, sY -/]

/-- The S table (R30), in index order. -/
def sTable : List SRow :=
  sTable0 ++ sTable1 ++ sTable2 ++ sTable3

/-- The specifier an S field gives. -/
def SFill.spec (s : SFill) (x y : Nat) : BitVec 8 :=
  match s with
  | .no => 0
  | .x => BitVec.ofNat 8 x
  | .y => BitVec.ofNat 8 y
  | .kx => BitVec.ofNat 8 (0x80 + x)
  | .ky => BitVec.ofNat 8 (0x80 + y)
  | .y16 => BitVec.ofNat 8 (y + 16)
  | .by => BitVec.ofNat 8 (0x40 + y)

/-- Whether a row uses X. -/
def SRow.usesX (r : SRow) : Bool :=
  [r.d, r.a, r.b, r.c].any (fun s => s == .x || s == .kx) || r.other == .bra || r.other == .selYimmX

/-- Whether a row uses Y. -/
def SRow.usesY (r : SRow) : Bool :=
  [r.d, r.a, r.b, r.c].any (fun s => s == .y || s == .ky || s == .y16 || s == .by)
    || !(r.other == .no || r.other == .gather)

/-- Expansion of an S unit (R29, R30). -/
def decodeS (w : Nat) : Decoded :=
  let x := bitsOf w 8 4
  let y := bitsOf w 3 0
  match sTable[bitsOf w 14 9]? with
  | none => .bad .poison 2 0
  | some r =>
      if (!r.usesX && x != 0) || (!r.usesY && y != 0) then .bad .poison 2 r.op
      else
        let f : Fields :=
          { sub := r.sub, ty := r.ty, d := r.d.spec x y, a := r.a.spec x y, b := r.b.spec x y,
            c := r.c.spec x y,
            modx := if r.other == .gather then 0xA else 0,
            sel := if r.other == .selYimmX || r.other == .selY then BitVec.ofNat 4 y else 0,
            imm := match r.other with
              | .bra => signExtend32 9 (bitsOf w 8 0)
              | .immY => BitVec.ofNat 32 y
              | .selYimmX => BitVec.ofNat 32 x
              | _ => 0 }
        ofWord r.op f 2

/-! ### M units -/

/-- A position the opcode uses in an M unit, where SUB and MODX are 0. -/
def Pos.inM : Pos → Bool
  | .none => false
  | .srcIx => false
  | .src1 => false
  | .vsrcIx => false
  | .vsrc1 => false
  | .ldsB => false
  | _ => true

/-- The k positions of R31: kD, kA, kB of the mask instructions, and the kD of vcmp, fcmp and
tdep. -/
def kPos (op : Nat) : Bool × Bool × Bool :=
  if op ≤ 0x33 && 0x30 ≤ op then (true, true, true)
  else if op == 0x34 || op == 0x35 then (true, true, false)
  else if op == 0x36 then (true, false, false)
  else if 0x37 ≤ op && op ≤ 0x3A then (false, true, false)
  else if op == 0x3B then (true, false, false)
  else if op == 0x52 || op == 0x68 || op == 0xD2 then (true, false, false)
  else (false, false, false)

/-- Expansion of a 6-bit field: its specifier, or none where an unused field is set (R31). -/
def mField (p : Pos) (k : Bool) (n : Nat) : Option (BitVec 8) :=
  if p.inM then some (BitVec.ofNat 8 (if k then 0x80 + n else n))
  else if n == 0 then some 0 else none

/-- Expansion of an M unit (R31). -/
def decodeM (w : Nat) : Decoded :=
  let op := bitsOf w 29 22
  match opTable.find? (fun e => e.op == op && e.subs.contains 0) with
  | none => ofWord op {} 4
  | some e =>
      match (e.make {}).row with
      | none => .bad .opcode 4 op
      | some r =>
          let k := kPos op
          match mField r.d k.1 (bitsOf w 17 12), mField r.a k.2.1 (bitsOf w 11 6),
              mField r.b k.2.2 (bitsOf w 5 0) with
          | some d, some a, some b =>
              ofWord op { ty := BitVec.ofNat 4 (bitsOf w 21 18), d := d, a := a, b := b } 4
          | _, _, _ => .bad .poison 4 op

/-! ### L, F units and headers -/

/-- Expansion of an L unit (R32). -/
def decodeL (w : Nat) : Decoded :=
  let f : Fields :=
    { sub := BitVec.ofNat 4 (bitsOf w 51 48), ty := BitVec.ofNat 4 (bitsOf w 47 44),
      d := BitVec.ofNat 8 (bitsOf w 43 36), a := BitVec.ofNat 8 (bitsOf w 35 28),
      b := BitVec.ofNat 8 (bitsOf w 27 20) }
  let f : Fields :=
    if bitsOf w 60 60 = 0 then { f with imm := signExtend32 20 (bitsOf w 19 0) }
    else
      { f with
        c := BitVec.ofNat 8 (bitsOf w 19 12), col := BitVec.ofNat 3 (bitsOf w 11 9),
        scp := BitVec.ofNat 2 (bitsOf w 8 7), ord := BitVec.ofNat 2 (bitsOf w 6 5),
        sat := BitVec.ofNat 1 (bitsOf w 4 4), modx := BitVec.ofNat 4 (bitsOf w 3 0) }
  ofWord (bitsOf w 59 52) f 8

/-- The fields of an internal word below OP (R39). -/
def Fields.ofNat (w : Nat) : Fields :=
  { sub := BitVec.ofNat 4 (bitsOf w 87 84), ty := BitVec.ofNat 4 (bitsOf w 83 80),
    d := BitVec.ofNat 8 (bitsOf w 79 72), a := BitVec.ofNat 8 (bitsOf w 71 64),
    b := BitVec.ofNat 8 (bitsOf w 63 56), c := BitVec.ofNat 8 (bitsOf w 55 48),
    col := BitVec.ofNat 3 (bitsOf w 47 45), scp := BitVec.ofNat 2 (bitsOf w 44 43),
    ord := BitVec.ofNat 2 (bitsOf w 42 41), sat := BitVec.ofNat 1 (bitsOf w 40 40),
    sel := BitVec.ofNat 4 (bitsOf w 39 36), modx := BitVec.ofNat 4 (bitsOf w 35 32),
    imm := BitVec.ofNat 32 (bitsOf w 31 0) }

/-- The 88 bits of the fields (R39). -/
def Fields.toNat (f : Fields) : Nat :=
  f.sub.toNat * 2 ^ 84 + f.ty.toNat * 2 ^ 80 + f.d.toNat * 2 ^ 72 + f.a.toNat * 2 ^ 64
    + f.b.toNat * 2 ^ 56 + f.c.toNat * 2 ^ 48 + f.col.toNat * 2 ^ 45 + f.scp.toNat * 2 ^ 43
    + f.ord.toNat * 2 ^ 41 + f.sat.toNat * 2 ^ 40 + f.sel.toNat * 2 ^ 36 + f.modx.toNat * 2 ^ 32
    + f.imm.toNat

/-- Expansion of an F unit's 12 bytes: the internal word as it stands (R33). -/
def decodeF (w : Nat) : Decoded := ofWord (bitsOf w 95 88) (Fields.ofNat w) 13

/-- A clause header (R37). -/
def Header.ofNat (w : Nat) : Header :=
  { len := BitVec.ofNat 3 (bitsOf w 26 24), wait := BitVec.ofNat 12 (bitsOf w 23 12),
    seta := BitVec.ofNat 4 (bitsOf w 11 8), setb := BitVec.ofNat 4 (bitsOf w 7 4),
    z := BitVec.ofNat 1 (bitsOf w 3 3), mile := BitVec.ofNat 1 (bitsOf w 2 2),
    rsv := BitVec.ofNat 2 (bitsOf w 1 0) }

/-- The 32 bits of a clause header (R37). -/
def Header.toNat (h : Header) : Nat :=
  0xF * 2 ^ 28 + h.len.toNat * 2 ^ 24 + h.wait.toNat * 2 ^ 12 + h.seta.toNat * 2 ^ 8
    + h.setb.toNat * 2 ^ 4 + h.z.toNat * 2 ^ 3 + h.mile.toNat * 2 ^ 2 + h.rsv.toNat

/-- The length of the unit a first byte begins (R27). -/
def unitLen (b : Byte) : Nat :=
  let n := b.toNat
  if n < 0x80 then 2
  else if n < 0xC0 then 4
  else if n < 0xE0 then 8
  else if n = 0xE8 then 13
  else if 0xF0 ≤ n && n < 0xF8 then 4
  else 1

/-- The unit at the head of a byte stream. -/
def decode (bs : List Byte) : Decoded :=
  match bs with
  | [] => .bad .truncated 1 0
  | b :: _ =>
      let n := unitLen b
      if bs.length < n then .bad .truncated n 0
      else
        let w := beNat (bs.take n)
        if n = 1 then .bad .firstByte 1 0
        else if n = 2 then decodeS w
        else if n = 8 then decodeL w
        else if n = 13 then decodeF (w % 2 ^ 96)
        else if b.toNat < 0xC0 then decodeM w
        else .ok (.clauseHeader (Header.ofNat w)) 4

/-! ### The encoder -/

/-- The bytes of an instruction: a clause header's four bytes, or the F unit of an internal word
(R33, R37).  A device step has no encoding. -/
def encode (i : Instr) : Option (List Byte) :=
  match i with
  | .clauseHeader h => some (beBytes 4 h.toNat)
  | _ =>
    match i.row, i.fields with
    | some r, some f => some ((0xE8 : Byte) :: beBytes 12 (r.op * 2 ^ 88 + f.toNat))
    | _, _ => none

/-- The L unit with an immediate, where the word fits it (R32 with V = 0, R51). -/
def encodeLImm (i : Instr) : Option (List Byte) :=
  match i.row, i.fields with
  | some r, some f =>
      let bs := beBytes 8 (0xC * 2 ^ 60 + r.op * 2 ^ 52 + f.sub.toNat * 2 ^ 48 + f.ty.toNat * 2 ^ 44
        + f.d.toNat * 2 ^ 36 + f.a.toNat * 2 ^ 28 + f.b.toNat * 2 ^ 20 + f.imm.toNat % 2 ^ 20)
      if decode bs = .ok i 8 then some bs else none
  | _, _ => none

/-- The L unit with C and the ordering fields, where the word fits it (R32 with V = 1, R51). -/
def encodeLOrd (i : Instr) : Option (List Byte) :=
  match i.row, i.fields with
  | some r, some f =>
      let bs := beBytes 8 (0xD * 2 ^ 60 + r.op * 2 ^ 52 + f.sub.toNat * 2 ^ 48 + f.ty.toNat * 2 ^ 44
        + f.d.toNat * 2 ^ 36 + f.a.toNat * 2 ^ 28 + f.b.toNat * 2 ^ 20 + f.c.toNat * 2 ^ 12
        + f.col.toNat * 2 ^ 9 + f.scp.toNat * 2 ^ 7 + f.ord.toNat * 2 ^ 5 + f.sat.toNat * 2 ^ 4
        + f.modx.toNat)
      if decode bs = .ok i 8 then some bs else none
  | _, _ => none

/-- The M unit, where the word fits it (R31, R51). -/
def encodeM (i : Instr) : Option (List Byte) :=
  match i.row, i.fields with
  | some r, some f =>
      let k := kPos r.op
      let bs := beBytes 4 (2 * 2 ^ 30 + r.op * 2 ^ 22 + f.ty.toNat * 2 ^ 18
        + (f.d.toNat - (if k.1 && r.d.inM then 0x80 else 0)) % 64 * 2 ^ 12
        + (f.a.toNat - (if k.2.1 && r.a.inM then 0x80 else 0)) % 64 * 2 ^ 6
        + (f.b.toNat - (if k.2.2 && r.b.inM then 0x80 else 0)) % 64)
      if decode bs = .ok i 4 then some bs else none
  | _, _ => none

/-- The shortest of the M, L and F units of an instruction, as R51 orders them. -/
def encodeShort (i : Instr) : Option (List Byte) :=
  (encodeM i).orElse fun _ => (encodeLImm i).orElse fun _ => (encodeLOrd i).orElse fun _ => encode i

/-! ### The opcode table's numbering -/

/-- The bytes of a unit whose `nbits` bits are `w`, followed by zero bytes up to the longest unit:
a unit is one number whose first byte is its most significant (R26). -/
def tableBytes (nbits w : Nat) : List Byte :=
  let n := (nbits + 7) / 8
  beBytes n w ++ List.replicate (13 - n) 0

/-- The instruction the decoder reads from a unit of the opcode table. -/
def decodeTableWord (nbits w : Nat) : Option Instr :=
  match decode (tableBytes nbits w) with
  | .ok i _ => some i
  | .bad .. => none

end Sys2Proof
end

