-- ==== Sys2Proof/Config.lean ====
section
/-! DEFINITION. What an implementation fixes and the values the spec leaves open.  Every constant here
is opaque: nothing can be proved about its value. -/

namespace Sys2Proof.Config

/-- The party or device step that goes next when several may (R24 promises no more order): a free
choice for each step.  Log entry 5. -/
opaque schedule : Nat → Nat

/-- Whether a dispatched instruction waits for a step of its own in which the vector side issues it (R81,
R346): a free choice for each step.  Log entry 5. -/
opaque vectorLag : Nat → Nat

/-- Clock cycles one step takes beyond the first; the spec binds no latency (R109).  Log entry 4. -/
opaque stepCycles : Nat → Nat

/-- How many 4-byte words of a copy land in one step, beyond the first (R158).  Log entry 6. -/
opaque landWords : Nat → Nat

/-- The order in which contributions to a window word are merged (R242).  Log entry 7. -/
opaque mergeOrder : Nat → Nat

/-- What the tuple engines read from a frame the driver has reused (R283), and any other byte the
spec calls undefined.  Log entry 8. -/
opaque undefinedByte : Nat → BitVec 8

/-- What a user other than the tuple engines reads from a frame recorded for a tuple region (R283), by the
index of the choice, the cycle counter and the address.  Log entry 8. -/
opaque reusedByte : Nat → Nat → Nat → BitVec 8

/-- The digest that bring-up extends a measurement register with (R386).  Log entry 20. -/
opaque bootDigest : Nat → List (BitVec 8)

/-- The vendor's LMS public key in the root of trust (R132).  Log entry 20. -/
opaque vendorKey : List (BitVec 8)

/-- A save key generated by the root of trust (R383).  Log entry 22. -/
opaque saveKey : Nat → List (BitVec 8)

/-- A domain key or pool key generated by the root of trust (R381).  Log entry 22. -/
opaque poolKey : Nat → List (BitVec 8)

/-- How far a line compresses: the number of sectors, less 1, is this mod 4 (R381).  Log entry 147. -/
opaque sectors : List (BitVec 8) → Nat

/-- The sectors of a line that compresses (R381).  Log entry 147. -/
opaque packed : List (BitVec 8) → List (BitVec 8)

/-- The line that sectors decompress to, for sectors that the reader's key gives of a line written under
another (R381, R382).  Log entry 147. -/
opaque unpacked : List (BitVec 8) → List (BitVec 8)

/-- What a slot holds beyond the sectors written to it, by the line's number (R381).  Log entry 147. -/
opaque staleSectors : Nat → List (BitVec 8)

/-- The check symbols of the Reed–Solomon code, whose field and generator the spec does not give (R381).
Log entry 147. -/
opaque checkSymbols : List (BitVec 8) → List (BitVec 8)

/-- The IDE stream that the firmware binds a protected context to (R380).  Log entry 143. -/
opaque ideStream : Nat → Nat

/-- Where the firmware places a save record in the context's save pool, in units of 64 bytes of physical
memory (R363).  Log entry 22. -/
opaque saveAddr : Nat → Nat

/-- The identifier I of the device's LMS key, 16 bytes (R385).  Log entry 21. -/
opaque lmsId : List (BitVec 8)

/-- The secret element of a one-time key of the device's LMS key: key, element (R385).  Log entry 21. -/
opaque lmsSecret : Nat → Nat → List (BitVec 8)

/-- The randomizer C of a signature under a one-time key (R385).  Log entry 21. -/
opaque lmsRandom : Nat → List (BitVec 8)

/-- The responder's secret scalar of a key exchange, by the free choice it takes (R385).  Log entry 21. -/
opaque dheSecret : Nat → Nat

/-- The session key that a key exchange gives, from the shared secret and the transcript (R385).  Log entry 21. -/
opaque sessionKey : List (BitVec 8) → List (BitVec 8) → List (BitVec 8)

/-- The key that follows a session key at KEY_UPDATE (R385).  Log entry 21. -/
opaque updatedKey : List (BitVec 8) → List (BitVec 8)

/-- The body of an SPDM response, from the request and the transcript (R385).  Log entry 21. -/
opaque spdmBody : Nat → List (BitVec 8) → List (BitVec 8) → List (BitVec 8)

/-- Whether an SPDM FINISH or a set of link keys carried by a request verifies (R385).  Log entry 21. -/
opaque spdmVerifies : List (BitVec 8) → List (BitVec 8) → Bool

end Sys2Proof.Config
end

