-- ==== Sys2Proof/Machine/State.lean ====
section
/-! DEFINITION. The state of the package: every piece of state the spec gives the machine
(INVENTORY.md, heading State), as plain data, and the state after reset. -/

namespace Sys2Proof.Machine

/-! ### Values -/

/-- A 64-bit value with its grade: s and k registers, queue entries, UTAG, m registers (R80, R82). -/
structure GW where
  /-- the bits -/
  v : Word := 0
  /-- the grade, 0-7 -/
  g : Nat := 0
  deriving DecidableEq, Repr

/-- What a vector register holds (R83). -/
inductive Shape where
  /-- every lane holds `u` -/
  | uniform (u : Lane)
  /-- lane i holds base + i × stride mod 2^32 -/
  | affine (base stride : Lane)
  /-- lane i holds entry i; 64 entries -/
  | general (l : List Lane)
  deriving DecidableEq, Repr

/-- A vector register: its shape and its grade (R80, R82, R83). -/
structure VReg where
  /-- the lanes -/
  sh : Shape := .uniform 0
  /-- the grade -/
  g : Nat := 0
  deriving DecidableEq, Repr

/-- The policy for special encodings of a format (R57, R68). -/
inductive Special where
  | none
  | ieee
  | nanOnly
  deriving DecidableEq, Repr

/-- A table entry's class (R71). -/
inductive TabCls where
  | fin
  | inf
  | nan
  deriving DecidableEq, Repr

/-- One entry of a table format (R71). -/
structure TabEntry where
  /-- class -/
  cls : TabCls
  /-- sign -/
  neg : Bool
  /-- exponent of two -/
  exp : Int
  /-- integer significand -/
  sig : Nat
  deriving DecidableEq, Repr

/-- A number format (R56, R66, R68-R71). -/
inductive Fmt where
  /-- parametric with LOG = 0 (R69) -/
  | float (signed : Bool) (ebits fbits : Nat) (bias : Int) (sp : Special)
  /-- parametric with LOG = 1 (R70) -/
  | log (signed : Bool) (ebits fbits : Nat) (bias : Int) (sp : Special)
  /-- table of 2^width entries (R71) -/
  | table (width : Nat) (entries : List TabEntry)
  /-- ob8, offset binary (R66) -/
  | offset
  deriving DecidableEq, Repr

/-! ### The accumulator store -/

/-- Class of an accumulator element (R76). -/
inductive ElCls where
  | fin
  | pinf
  | ninf
  | nan
  deriving DecidableEq, Repr

/-- An accumulator element: 40-bit signed mantissa, class, zero sign (R76). -/
structure Elem where
  /-- mantissa -/
  m : Int := 0
  /-- class -/
  cls : ElCls := .fin
  /-- sign of a zero -/
  z : Bool := false
  deriving DecidableEq, Repr

/-- A run of 16 elements with its exponent (R76). -/
structure Run where
  /-- exponent X, 0-255 -/
  x : Nat := 0
  /-- the elements -/
  els : List Elem := List.replicate 16 {}
  deriving DecidableEq, Repr

/-- A bank: run r of row i at 8 × i + r (R207). -/
abbrev Bank := List Run

/-- A bank as mxzero leaves it (R76, R178). -/
def Bank.zero : Bank := List.replicate 1024 {}

/-! ### Who acts -/

/-- A live troupe: its ring's number in the model and its troupe index (R15). -/
structure TroupeId where
  /-- the ring -/
  ring : Nat
  /-- the troupe index, 0-31 -/
  idx : Nat
  deriving DecidableEq, Repr

/-- What a device step or host action names: each step reads the fields it needs, as its own
description says. -/
structure Event where
  /-- a ring, by its number in the model -/
  ring : Nat := 0
  /-- a troupe index -/
  idx : Nat := 0
  /-- an operation of a troupe, a bin, an entry, or a contribution -/
  op : Nat := 0
  /-- a lane -/
  lane : Nat := 0
  /-- a die -/
  die : Nat := 0
  /-- a core, 64 × die + core -/
  core : Nat := 0
  /-- a launch queue or a copy-engine queue -/
  queue : Nat := 0
  /-- a memory slice, a refresh controller, a roustabout -/
  unit_ : Nat := 0
  /-- a launch or neighbourhood, by its number in the model -/
  obj : Nat := 0
  /-- a context -/
  asid : Nat := 0
  /-- a function: 0 PF0, 1-63 a VF -/
  fn : Nat := 0
  /-- a format slot, tree barrier, window, port, extent, or line -/
  num : Nat := 0
  /-- an address, or a register's offset -/
  addr : Word := 0
  /-- a value written -/
  val : Word := 0
  /-- further numbers, in the order of the command's argument layout (R393) -/
  args : List Nat := []
  /-- bytes: a key, a message, data written -/
  bytes : List Byte := []
  /-- a switch: enable, write -/
  on : Bool := false
  deriving DecidableEq, Repr

/-- The party whose instruction `exec` runs. -/
inductive Agent where
  /-- nobody: the device itself acts, or nothing does -/
  | device
  /-- the scalar side of a troupe -/
  | scalar (t : TroupeId)
  /-- the vector side of a troupe, at the head of its dispatched instructions -/
  | vside (t : TroupeId)
  /-- the matrix stream of a ring -/
  | stream (ring : Nat)
  deriving DecidableEq, Repr

/-- Why a party waits (R20, R91, R157, R183). -/
inductive Wait where
  /-- clause WAIT names a set flag -/
  | flags (mask : BitVec 12)
  /-- a register is the destination of an operation not completed, or of a dispatched
  instruction (R81, R90) -/
  | hold (regs : List Nat)
  /-- a full queue to push to, or an empty one to pop from (R91) -/
  | queue (push : Bool)
  /-- sleep until the die's counter reaches the value (R100) -/
  | sleep (until_ : Nat)
  /-- acwait (R233) -/
  | counter (j n : Nat)
  /-- tgwany or tgwall (R165) -/
  | tags
  /-- bwait (R169) -/
  | barrier
  /-- bwait whose condition an update of the object has met: the status word at that update (R169, R170) -/
  | barrierOver (status : Word)
  /-- nbsync: barrier and phase arrived at (R173) -/
  | nb (j phase : Nat)
  /-- tbsync: barrier and phase arrived at (R174) -/
  | tb (j phase : Nat)
  /-- nqsend or nqrecv, with the order of blocking (R172) -/
  | nq (order : Nat)
  /-- a draining format slot (R139) -/
  | slot (n : Nat)
  /-- fmfence: copies numbered below `upto` were issued before it, and so was the stream's instruction of
  this number if one that names the slot was outstanding (R144) -/
  | fmfence (upto : Nat) (op : Option Nat)
  /-- ticket of a class (R340) -/
  | ticket (c : Nat)
  /-- ticket decided: its result -/
  | ticketed (status : Nat)
  /-- the whole instruction is parked on a translation fault (R253) -/
  | parked
  /-- the parked instruction is to be tried again (R254) -/
  | retry
  /-- a wait at issue that costs time only: full log, full copy or solver queue, counter limits,
  flags not yet recorded, 16 dispatched instructions (R157, R231, R305, R347, R357) -/
  | issue
  /-- the scalar side waits for the vector side before its own fault (R346) -/
  | drain
  deriving DecidableEq, Repr

/-- The scalar operands captured when an instruction is dispatched (R47, R368). -/
structure Cap where
  /-- operand A -/
  a : GW := {}
  /-- operand B -/
  b : GW := {}
  /-- operand C -/
  c : GW := {}
  /-- further registers: coordinates of xgat and xsct, the mask of a pattern, values of fres.ret -/
  more : List GW := []
  /-- k0 as every earlier instruction left it -/
  k0 : Word := 0
  deriving DecidableEq, Repr

/-- An instruction dispatched to the vector side (R81, R368). -/
structure VEntry where
  /-- the instruction -/
  instr : Instr
  /-- its captured operands -/
  cap : Cap := {}
  /-- byte address of its unit -/
  iaddr : Word := 0
  /-- the wait flag its clause gives it (R38, R88) -/
  flag : Option Nat := none
  /-- clauses of the troupe retired when it was dispatched (R347) -/
  cno : Nat := 0
  deriving DecidableEq, Repr

/-- Where a lane of an outstanding operation stands (R230, R253, R347). -/
inductive LaneSt where
  /-- performed; these words are its reply, on its way -/
  | reply (vals : List Word)
  /-- the reply has arrived and waits for the others to be written with it -/
  | got (vals : List Word)
  /-- complete -/
  | done
  /-- parked on a translation fault -/
  | parked
  /-- performed once earlier accesses of the troupe are (R269, R270) -/
  | behind
  /-- took a final fault: cause, reason; the pending record that reports it -/
  | faulted (c : Cause) (r : Nat) (fseq : Option Nat)
  /-- dropped by a handler while its troupe was saved: done at the restore (R353, R367) -/
  | dropped
  /-- to be performed again: `fres` has named it, or its translation is to be tried again -/
  | redo
  /-- sent to a memory slice, first reply awaited (R298) -/
  | sent
  /-- parked in a memory slice, delivery awaited (R299) -/
  | waiting
  deriving DecidableEq, Repr

/-- One lane of an outstanding operation, with what the operand log keeps of it (R367). -/
structure LaneRec where
  /-- lane number -/
  lane : Nat
  /-- address -/
  addr : Word := 0
  /-- data c -/
  data : Word := 0
  /-- `acas`'s d -/
  dold : Lane := 0
  /-- tag and values of a tuple lane -/
  vals : List Lane := []
  /-- state -/
  st : LaneSt
  deriving DecidableEq, Repr

/-- A write of a vector register still to be made. -/
structure VWrite where
  /-- destination specifier, vector class -/
  d : BitVec 8
  /-- lanes written -/
  mask : Word
  /-- the result, with the shape it has when every lane is written (R84) -/
  sh : Shape
  /-- its grade -/
  g : Nat
  deriving DecidableEq, Repr

/-- A write of a scalar-class register still to be made. -/
structure SWrite where
  /-- destination specifier, scalar class -/
  d : BitVec 8
  /-- the value -/
  v : GW
  deriving DecidableEq, Repr

/-- An operation of a troupe that has issued and not completed (R88, R231, R236, R347). -/
structure Op where
  /-- its number in the troupe -/
  id : Nat
  /-- the instruction -/
  instr : Instr
  /-- byte address of its unit -/
  iaddr : Word := 0
  /-- captured operands -/
  cap : Cap := {}
  /-- wait flag counted for it -/
  flag : Option Nat := none
  /-- arrival counter counted for it (R231, R299) -/
  ac : Option Nat := none
  /-- operand-log entry it holds (R347) -/
  slot : Option Nat := none
  /-- whether its destinations are held (R90) -/
  held : Bool := true
  /-- its vector destinations, v0-v63 -/
  vdest : List Nat := []
  /-- its scalar-class destinations: s n as n, k n as 128 + n -/
  sdest : List Nat := []
  /-- whether its result makes its vector destinations general (R84) -/
  general : Bool := false
  /-- clauses of the troupe retired when it was dispatched -/
  cno : Nat := 0
  /-- highest grade among its operands and data (R350) -/
  grade : Nat := 0
  /-- grade of its result so far -/
  rgrade : Nat := 0
  /-- grade of the data it writes (R228) -/
  dgrade : Nat := 0
  /-- its lanes -/
  lanes : List LaneRec := []
  /-- vector results to be written at completion -/
  vres : List VWrite := []
  /-- scalar results to be written at completion -/
  sres : List SWrite := []
  /-- numeric flags to be recorded at completion -/
  fl : BitVec 4 := 0
  deriving DecidableEq, Repr

/-! ### Troupes -/

/-- A troupe (R80, R18). -/
structure Troupe where
  /-- its ring and troupe index -/
  id : TroupeId
  /-- s0-s127 -/
  s : List GW := List.replicate 128 {}
  /-- k0-k95 -/
  k : List GW := List.replicate 96 {}
  /-- v0-v63 -/
  v : List VReg := List.replicate 64 {}
  /-- w0-w11, counts 0-63 (R88) -/
  w : List Nat := List.replicate 12 0
  /-- ac0-ac15, counts 0-4095 (R231) -/
  ac : List Nat := List.replicate 16 0
  /-- down queue, oldest first (R91) -/
  down : List GW := []
  /-- up queue, oldest first (R91) -/
  up : List GW := []
  /-- UTAG (R99) -/
  utag : GW := {}
  /-- byte address of the next unit of the scalar side (NEXT, R366) -/
  pc : Word := 0
  /-- byte address of the current clause header (CLAUSE, R99) -/
  clause : Word := 0
  /-- instructions of the clause still to be executed; 0 at a boundary -/
  left : Nat := 0
  /-- flag for the clause's first long-latency producer (SETA) -/
  seta : Option Nat := none
  /-- flag for the second (SETB) -/
  setb : Option Nat := none
  /-- producers of the clause already named, 0-2 (R366) -/
  named : Nat := 0
  /-- the lines of code fetched for the clause: address and 128 bytes (R36) -/
  code : List (Word × List Byte) := []
  /-- the clause counts as a milestone -/
  mile : Bool := false
  /-- MILES (R99) -/
  miles : Nat := 0
  /-- clauses retired -/
  cno : Nat := 0
  /-- sticky numeric flags (R356) -/
  sticky : BitVec 4 := 0
  /-- deferred-flag word merged at the latest restore (R357) -/
  defl : Word := 0
  /-- dispatched instructions, oldest first, at most 16 -/
  vq : List VEntry := []
  /-- why the scalar side waits -/
  wait : Option Wait := none
  /-- why the vector side waits -/
  vwait : Option Wait := none
  /-- operations issued and not completed -/
  ops : List Op := []
  /-- number of the next operation -/
  nextOp : Nat := 0
  /-- operations with lane faults not yet reported in a record (R347) -/
  reports : List Nat := []
  /-- the troupe is stopped on the pending records with these FSEQ (R346-R348) -/
  stopped : List Nat := []
  /-- done executed, retirement awaited (R21) -/
  ending : Bool := false
  /-- a handler ended it while it was saved: it ends at the restore (R353) -/
  killed : Bool := false
  /-- issue slot 0-3 (R327) -/
  slot : Nat := 0
  /-- age stamp (R327) -/
  age : Nat := 0
  /-- starvation count (R328) -/
  starve : Nat := 0
  /-- registers with an uncorrectable error: s n as n, k n as 128 + n, v n as 256 + n (R389) -/
  regErr : List Nat := []
  /-- number of its creation, by which a copy knows its issuer (R359) -/
  uid : Nat := 0
  deriving DecidableEq, Repr

/-! ### Rings -/

/-- A numbered barrier, or a ring's part of a tree barrier (R173, R174, R365). -/
structure NB where
  /-- phases completed; the phase is this mod 2^16 -/
  phase : Nat := 0
  /-- expected count of the current phase -/
  count : Nat := 0
  /-- the count is fixed -/
  fixed : Bool := false
  /-- the count was fixed by n = 0 -/
  zero : Bool := false
  /-- arrivals -/
  arrived : Nat := 0
  /-- troupes arrived -/
  mask : List Nat := []
  deriving DecidableEq, Repr

/-- Why a stream waits (R183, R198, R199). -/
inductive SWait where
  | tags
  | barrier
  /-- mxwait.bo whose condition an update of the object has met: the phase that ended was cancelled -/
  | barrierOver (cancelled : Bool)
  /-- mxnb: barrier and phase arrived at -/
  | nb (j phase : Nat)
  | slot (n : Nat)
  | parked
  | retry
  | ending
  deriving DecidableEq, Repr

/-- An entry of the alias unit (R212). -/
structure AliasEnt where
  /-- PR -/
  pr : Nat := 0
  /-- AL -/
  al : Nat := 0
  /-- weight, f32 -/
  rho : Lane := 0
  deriving DecidableEq, Repr

/-- The alias unit of a core (R212). -/
structure AliasUnit where
  /-- ring that holds it -/
  holder : Option Nat := none
  /-- K -/
  k : Nat := 0
  /-- S, f32 -/
  s : Lane := 0
  /-- grade -/
  g : Nat := 0
  /-- the table is marked ZERO (R213) -/
  zero : Bool := false
  /-- entries -/
  ents : List AliasEnt := []
  /-- it holds an uncorrectable error (R389) -/
  bad : Bool := false
  deriving DecidableEq, Repr

/-- A matrix stream (R177, R203, R207). -/
structure Stream where
  /-- stream start address -/
  start : Word := 0
  /-- byte address of the current instruction unit -/
  pc : Word := 0
  /-- argument-block address -/
  args : Word := 0
  /-- grade of the registers that named the stream -/
  g0 : Nat := 0
  /-- troupe that issued mxgo -/
  by_ : Nat := 0
  /-- STATE of MXSTAT: 0-5 -/
  state : Nat := 0
  /-- instructions of the clause still to be executed -/
  left : Nat := 0
  /-- the lines of code fetched for the clause: address and 128 bytes (R36) -/
  code : List (Word × List Byte) := []
  /-- the clause counts as a milestone -/
  mile : Bool := false
  /-- m0-m7 -/
  m : List GW := List.replicate 8 {}
  /-- t0-t7 -/
  t : List Word := List.replicate 8 0
  /-- loop stack, top first -/
  loops : List Nat := []
  /-- FLAGS -/
  flags : BitVec 4 := 0
  /-- ROWPROG -/
  row : BitVec 32 := 0
  /-- CAUSE of the last stop -/
  cause : Nat := 0
  /-- TWO -/
  two : Bool := false
  /-- SMP -/
  smp : Bool := false
  /-- za -/
  za : Bank := Bank.zero
  /-- zb -/
  zb : Bank := Bank.zero
  /-- bank grades -/
  ga : Nat := 0
  /-- bank grade of zb -/
  gb : Nat := 0
  /-- za holds an uncorrectable error (R389) -/
  badA : Bool := false
  /-- zb holds one -/
  badB : Bool := false
  /-- it holds its contexts -/
  ctx : Bool := false
  /-- class of the implicit grant it holds, 0 for none (R184) -/
  implicit : Nat := 0
  /-- class it relies on -/
  relies : Nat := 0
  /-- instructions of the ring's streams completed, by which a fence knows an operation (R144) -/
  nth_ : Nat := 0
  /-- why it waits -/
  wait : Option SWait := none
  /-- formats of an operation issued before a mark and not completed (R138) -/
  fmts : List (Nat × Fmt) := []
  /-- pending record of its stop -/
  fseq : Option Nat := none
  /-- the argument block has been read -/
  loaded : Bool := false
  /-- contents of the alias unit of a restored stream, until it has its contexts again (R206, R222) -/
  unit_ : Option AliasUnit := none
  deriving DecidableEq, Repr

/-- A sample's state in the solver sequencer (R308, R309). -/
structure Sample where
  /-- t -/
  t : Lane := 0
  /-- h -/
  h : Lane := 0
  /-- t_end -/
  tEnd : Lane := 0
  /-- atol -/
  atol : Lane := 0
  /-- rtol -/
  rtol : Lane := 0
  /-- e -/
  e : Lane := 0
  /-- TS -/
  ts : Lane := 0
  /-- status -/
  status : Lane := 0
  deriving DecidableEq, Repr

/-- A queued solver operation (R305, R316). -/
structure SolvOp where
  /-- the instruction -/
  instr : Instr
  /-- captured A -/
  a : GW := {}
  /-- issuing troupe and, for slvst, its outstanding operation -/
  by_ : TroupeId
  /-- that operation's number -/
  op : Nat := 0
  /-- byte address of the unit -/
  iaddr : Word := 0
  deriving DecidableEq, Repr

/-- A ring's solver state (R303-R316). -/
structure Solver where
  /-- state code of R303 -/
  state : Nat := 0
  /-- ERR (R313) -/
  err : Nat := 0
  /-- FLAGS (R314) -/
  flags : BitVec 4 := 0
  /-- batch grade (R315) -/
  grade : Nat := 0
  /-- installed table, 384 bytes (R306) -/
  tab : Option (List Byte) := none
  /-- CQ (R311) -/
  cq : Lane := 0
  /-- grade of the installed table: A of slvtab and what it read (R315) -/
  tgrade : Nat := 0
  /-- descriptor address -/
  daddr : Word := 0
  /-- descriptor as read, 128 bytes (R307) -/
  desc : List Byte := []
  /-- samples held -/
  samples : List Sample := []
  /-- solver queue, oldest first, at most 16 (R305) -/
  queue : List SolvOp := []
  /-- the head of the queue waits: for its grant, or parked (R304, R253) -/
  hold : Bool := false
  /-- the grant is held and slots may be claimed (R304) -/
  granted : Bool := false
  /-- a batch slot and its samples are claimed -/
  claimed : Bool := false
  /-- the grant is implicit -/
  implicit : Bool := false
  /-- order of obtaining the grant (R304) -/
  order : Nat := 0
  /-- samples that the operation at the head of the queue has processed -/
  pos : Nat := 0
  /-- samples still to be read again from their records after a restore (R316) -/
  reload : Nat := 0
  deriving DecidableEq, Repr

/-- A ring (R17, R18, R147, R164, R173, R219, R330, R361). -/
structure Ring where
  /-- its number in the model -/
  id : Nat
  /-- its neighbourhood -/
  nb : Nat
  /-- ring index in the neighbourhood (R14) -/
  ridx : Nat := 0
  /-- core, 64 × die + core -/
  core : Nat := 0
  /-- ring slot of the core -/
  rslot : Nat := 0
  /-- neighbourhood coordinate -/
  x : Nat := 0
  /-- neighbourhood coordinate -/
  y : Nat := 0
  /-- first byte of its scratchpad on the core -/
  spBase : Nat := 0
  /-- its scratchpad's size, in whole granules -/
  spLen : Nat := 0
  /-- ring index modulo stage count (R16) -/
  stage : Nat := 0
  /-- troupe limit L -/
  limit : Nat := 1
  /-- general-register budget g (R86) -/
  vgen : Nat := 0
  /-- copy-tag share -/
  tags : Nat := 0
  /-- TAGMAP (R164) -/
  tagmap : Word := 0
  /-- TAGERR (R164) -/
  tagerr : Word := 0
  /-- outstanding counts of the tags -/
  tagcnt : List Nat := List.replicate 64 0
  /-- nb0-nb15 (R173) -/
  nbs : List NB := List.replicate 16 {}
  /-- bt0-bt3, this ring's part (R174) -/
  bts : List NB := List.replicate 4 {}
  /-- bin timer n (R333) -/
  binN : Nat := 256
  /-- milestone clauses retired, P (R361) -/
  miles : Nat := 0
  /-- grants held, by class 1-5 (R330) -/
  grants : List Nat := []
  /-- classes whose tkret is deferred (R184, R340) -/
  returns : List Nat := []
  /-- end of the declared compute-bound interval (R341) -/
  phint : Option Nat := none
  /-- a drain of the overflow area is in progress (R336) -/
  draining : Bool := false
  /-- SMPSTAT (R219) -/
  smpstat : Word := 0
  /-- SVAR (R219) -/
  svar : Word := 0
  /-- grade of the bank the latest mxsamp wrote (R220) -/
  smpg : Nat := 0
  /-- the stream, when one has been started (R176) -/
  stream : Option Stream := none
  /-- solver state -/
  solver : Solver := {}
  /-- the ring has ended and waits for its neighbourhood (R22) -/
  ended : Bool := false
  deriving DecidableEq, Repr

/-- Pre-emption of a neighbourhood in progress (R361, R362). -/
inductive PreSt where
  | none
  /-- requested: the modes allowed ([0] drain, [1] flush, [2] save) and the notice address, 0 for none -/
  | asked (modes notice : Nat)
  /-- draining until the die's counter reaches the deadline; notice address -/
  | drain (deadline : Nat) (notice : Nat)
  /-- flushed: its started copies complete; notice address -/
  | flush (notice : Nat)
  /-- chosen for save -/
  | save (notice : Nat)
  deriving DecidableEq, Repr

/-- A placed neighbourhood (R17, R22, R24, R174). -/
structure Nbhd where
  /-- its number in the model -/
  id : Nat
  /-- its launch -/
  launch : Nat
  /-- neighbourhood index n (R322) -/
  n : Nat
  /-- die -/
  die : Nat
  /-- lower-left corner -/
  row0 : Nat := 0
  /-- lower-left corner -/
  col0 : Nat := 0
  /-- route tag held (R174) -/
  tag : Option Nat := none
  /-- when each complete tree barrier releases: barrier and cycle (R174) -/
  release : List (Nat × Nat) := []
  /-- phases of bt0-bt3 that the tree has released (R174) -/
  tphase : List Nat := [0, 0, 0, 0]
  /-- order of placement (R326) -/
  placed : Nat := 0
  /-- pre-emption in progress -/
  pre : PreSt := .none
  /-- it has ended; accesses that its troupes left behind are still to be performed (R21, R22) -/
  past : Bool := false
  deriving DecidableEq, Repr

/-! ### Launches -/

/-- A launch record (R319). -/
structure LRec where
  /-- SEQ -/
  seq : Nat := 0
  /-- IDEM -/
  idem : Bool := false
  /-- SERIAL -/
  serial : Bool := false
  /-- ENTRY -/
  entry : Word := 0
  /-- ARGS -/
  args : Word := 0
  /-- GX -/
  gx : Nat := 1
  /-- GY -/
  gy : Nat := 1
  /-- GZ -/
  gz : Nat := 1
  /-- W -/
  w : Nat := 1
  /-- H -/
  h : Nat := 1
  /-- N -/
  n : Nat := 1
  /-- L -/
  l : Nat := 1
  /-- S -/
  s : Nat := 1
  /-- G -/
  g : Nat := 0
  /-- TAGS -/
  tags : Nat := 0
  /-- GRADE -/
  grade : Nat := 0
  /-- SCRATCH -/
  scratch : Nat := 0
  /-- TCLASS -/
  tclass : Nat := 0
  /-- DOMAIN -/
  domain : Nat := 0
  /-- MEST -/
  mest : Nat := 0
  /-- CREC -/
  crec : Word := 0
  /-- SOVA -/
  sova : Word := 0
  /-- SOVCAP -/
  sovcap : Nat := 0
  /-- SLOTPKG, slots 8-15 -/
  slotpkg : List Word := List.replicate 8 0
  /-- the record's 256 bytes -/
  raw : List Byte := []
  deriving DecidableEq, Repr

/-- How far a launch has come (R318-R321). -/
inductive LStage where
  /-- accepted and checked; slots still to bind -/
  | binding
  /-- may start -/
  | ready
  /-- started: ranges handed out -/
  | running
  /-- ended; the completion record is to be written -/
  | ended
  /-- torn down; the record is written once a host link is up (R387) -/
  | torn
  deriving DecidableEq, Repr

/-- A launch (R317-R326). -/
structure Launch where
  /-- its number in the model -/
  id : Nat
  /-- launch queue -/
  queue : Nat
  /-- function of the queue -/
  fn : Nat := 0
  /-- context -/
  asid : Nat
  /-- priority of its queue (R318) -/
  prio : Nat := 0
  /-- the record -/
  lr : LRec
  /-- stage -/
  stage : LStage := .binding
  /-- completion code -/
  code : Nat := 0
  /-- neighbourhoods of each die still to place, in increasing n -/
  todo : List (List Nat) := [[], [], [], []]
  /-- the same, held as a first and a limit: the unplaced rest of each die's range (R322) -/
  range : List (Nat × Nat) := [(0, 0), (0, 0), (0, 0), (0, 0)]
  /-- dies whose head has its grants (R324) -/
  granted : List Nat := []
  /-- dies whose head has requested its grants -/
  asked : List Nat := []
  /-- neighbourhoods ended -/
  doneN : Nat := 0
  /-- tick of die 0 at start, or at acceptance (R394) -/
  tick0 : Nat := 0
  /-- order of start (R323) -/
  started : Nat := 0
  /-- slots 8-15 made available by fmreq of its troupes (R134) -/
  avail : List Nat := []
  /-- listed slots that its binding has passed (R141) -/
  bound : List Nat := []
  /-- corners chosen for its head while a frame there is reconfigured: die, row and column (R141) -/
  chosen : List (Nat × Nat × Nat) := []
  /-- physical bytes of its completion record, kept when its context is torn down (R387) -/
  crecAt : List Nat := []
  /-- number of the key that pooled ones of them are written under (R381) -/
  crecKey : Option Nat := none
  deriving DecidableEq, Repr

/-- A launch queue block (R317). -/
structure LQueue where
  /-- QBASE -/
  base : Word := 0
  /-- QASID -/
  asid : Nat := 0
  /-- QLOG -/
  log : Nat := 0
  /-- QEN -/
  en : Bool := false
  /-- QPRIO -/
  prio : Nat := 0
  /-- TAIL -/
  tail : BitVec 32 := 0
  /-- HEAD -/
  head : BitVec 32 := 0
  /-- ACCSEQ -/
  accseq : BitVec 32 := 0xFFFFFFFF
  /-- DONESEQ -/
  doneseq : BitVec 32 := 0xFFFFFFFF
  /-- QERR -/
  err : Nat := 0
  /-- QSTATE -/
  state : Nat := 0
  /-- QVEC -/
  vec : Nat := 0
  /-- function it belongs to -/
  fn : Nat := 0
  /-- SEQ values completed beyond DONESEQ (R321) -/
  doneSet : List Nat := []
  deriving DecidableEq, Repr

/-! ### Cores -/

/-- A leaf of the page tables, decoded (R249). -/
structure Leaf where
  /-- 2 GiB page -/
  big : Bool := false
  /-- GRADE -/
  grade : Nat := 0
  /-- DOM -/
  dom : Bool := false
  /-- KIND -/
  kind : Nat := 0
  /-- FRAME as a physical address; KIND 3: bits 51:18 as they stand -/
  frame : Nat := 0
  /-- HFN (KIND 2) -/
  hfn : Nat := 0
  /-- LFN (KIND 2) -/
  lfn : Nat := 0
  /-- CP -/
  cp : Nat := 0
  /-- EX -/
  ex : Bool := false
  /-- WR -/
  wr : Bool := false
  /-- RD -/
  rd : Bool := false
  deriving DecidableEq, Repr

/-- A TLB entry (R256): 256 KiB page number, or that of the 2 GiB page's first page. -/
structure TlbEnt where
  /-- address-space identifier -/
  asid : Nat
  /-- VA bits 56:18; the low 13 bits zero for a 2 GiB page -/
  vpn : Nat
  /-- the leaf -/
  leaf : Leaf
  /-- the entry holds an uncorrectable error (R389) -/
  bad : Bool := false
  deriving DecidableEq, Repr

/-- An Elsan frame (R129, R130). -/
structure Frame where
  /-- STATE: 0 free, 1 resident, 2 loading, 3 ready -/
  state : Nat := 0
  /-- USERS -/
  users : Nat := 0
  /-- image hash -/
  ihash : List Byte := []
  /-- reserved for reconfiguration in place once a drain is over (R136, R137) -/
  pend : Bool := false
  deriving DecidableEq, Repr

/-- One byte of a copy still to be written: which bits, and their value. -/
structure CByte where
  /-- bits written -/
  mask : Byte := 0xFF
  /-- their value -/
  val : Byte
  deriving DecidableEq, Repr

/-- One word of a copy still to be written: its first byte's virtual address in the view of a
ring, the bytes, and the grade (R158, R159). -/
structure CWord where
  /-- ring whose windows the address is in -/
  ring : Nat
  /-- virtual address of the first byte -/
  va : Word
  /-- bytes, at most 4 -/
  bytes : List CByte
  /-- grade of the data -/
  g : Nat
  /-- bytes that count against a bound barrier object -/
  counts : Nat
  /-- bytes of the count, or box elements, that are written once this word is (R365) -/
  prog : Nat
  deriving DecidableEq, Repr

/-- An entry of a copy-engine queue (R155-R163, R365). -/
structure CopyEnt where
  /-- its number: the two entries of one join share it -/
  id : Nat
  /-- the instruction -/
  instr : Instr
  /-- byte address of the unit -/
  iaddr : Word := 0
  /-- issuing ring -/
  ring : Nat
  /-- issuing troupe's index -/
  troupe : Nat
  /-- the number of that troupe's creation -/
  uid : Nat := 0
  /-- the number of the troupe's next operation when the copy issued -/
  mark : Nat := 0
  /-- captured operands -/
  cap : Cap := {}
  /-- slot of an xld.nt judged at issue, with its format (R156, R138) -/
  fmt : Option (Nat × Fmt) := none
  /-- the SLOT byte of an xld.nt as its issue read it; one that names a draining slot stalls the copy at its start
  (R138, R156) -/
  nslot : Option Nat := none
  /-- started -/
  started : Bool := false
  /-- it had started before a save, and starts again from its progress (R370) -/
  again : Bool := false
  /-- parked on a translation fault -/
  parked : Bool := false
  /-- its final fault: cause, reason, address (R163) -/
  fault : Option (Cause × Nat × Word) := none
  /-- its latest record: while it is held the copy does not complete (R349) -/
  fseq : Option Nat := none
  /-- the record of its final fault has been made (R163) -/
  posted : Bool := false
  /-- words still to land -/
  words : List CWord := []
  /-- progress: bytes, or box elements, already written (R365) -/
  landed : Nat := 0
  /-- highest grade of the data read (R350) -/
  dgrade : Nat := 0
  /-- numeric flags of norm tracking (R358) -/
  fl : BitVec 4 := 0
  deriving DecidableEq, Repr

/-- A spawn record (R333, R342). -/
structure SRec where
  /-- payload words -/
  p : List Lane
  /-- grade -/
  g : Nat
  deriving DecidableEq, Repr

/-- A spawn bin (R333-R335). -/
structure Bin where
  /-- key: ring and entry address; none when free -/
  key : Option (Nat × Word) := none
  /-- records in arrival order -/
  recs : List SRec := []
  /-- when its countdown ends -/
  deadline : Nat := 0
  /-- it is ready, in this order of becoming ready -/
  ready : Option Nat := none
  deriving DecidableEq, Repr

/-- A core (R2, R129, R147, R157, R182, R212, R256, R333). -/
structure CoreSt where
  /-- Elsan frames 0-15 -/
  frames : List Frame := List.replicate 8 ({ state := 1, users := 255 } : Frame) ++ List.replicate 8 ({} : Frame)
  /-- L1 TLB, at most 512 entries, youngest first -/
  tlb : List TlbEnt := []
  /-- copy-engine queue 0 -/
  cq0 : List CopyEnt := []
  /-- copy-engine queue 1 -/
  cq1 : List CopyEnt := []
  /-- spawn bins 0-7 -/
  bins : List Bin := List.replicate 8 {}
  /-- alias unit -/
  au : AliasUnit := {}
  /-- accumulator store, where no stream holds it: za as the latest stream left it (R201, R409) -/
  za : Bank := Bank.zero
  /-- zb as the latest two-bank stream left it -/
  zb : Bank := Bank.zero
  /-- rings waiting for matrix contexts, in arrival order (R182) -/
  mxq : List Nat := []
  /-- ring whose context took the latest turn of the array (R183) -/
  mxlast : Option Nat := none
  /-- instruction-cache lines: context, line address, its 128 bytes (R35, R36) -/
  icache : List (Nat × Word × List Byte) := []
  /-- scratchpad bytes that are not zero, by core offset -/
  spad : List Host.Cell := []
  /-- grades of scratchpad lines that are not 0, by line number (R151) -/
  spgr : List (Nat × Nat) := []
  /-- scratchpad bytes with an uncorrectable error, by core offset (R389) -/
  spBad : List Nat := []
  deriving DecidableEq, Repr

/-! ### Dies -/

/-- An entry of the fault buffer (R253). -/
structure FBEnt where
  /-- VPAGE -/
  vpage : Word
  /-- ASID -/
  asid : Nat
  /-- CAUSE: 1 NOTPRESENT, 2 EXTENT -/
  cause : Nat
  /-- LEVEL -/
  level : Nat
  /-- KINDS seen -/
  kinds : BitVec 8
  /-- CORE -/
  core : Nat
  /-- PARKED -/
  count : Nat
  /-- SEQ -/
  seq : Nat
  deriving DecidableEq, Repr

/-- What a parked access belongs to (R253). -/
inductive ParkWho where
  /-- a lane of an outstanding operation -/
  | lane (t : TroupeId) (op lane : Nat)
  /-- a whole vector-side instruction at the head of the dispatched ones -/
  | instr (t : TroupeId)
  /-- a copy: core, queue, entry number -/
  | copy (core queue id : Nat)
  /-- a stream operation -/
  | stream (ring : Nat)
  /-- the head of a ring's solver queue -/
  | solver (ring : Nat)
  /-- a ring's drain of its overflow area (R336) -/
  | drain (ring : Nat)
  deriving DecidableEq, Repr

/-- A parked access (R253, R254). -/
structure Parked where
  /-- its owner -/
  who : ParkWho
  /-- context -/
  asid : Nat
  /-- page -/
  vpage : Word
  /-- the cause it parked with -/
  cause : Cause
  /-- marked for retry by REPLAY_ALL -/
  marked : Bool := false
  deriving DecidableEq, Repr

/-- Who asks for an admission grant (R331). -/
inductive GWho where
  | ticket (t : TroupeId) (deadline : Option Nat)
  | stream (ring : Nat)
  | solver (ring : Nat)
  /-- every ring of the head neighbourhood of a launch (R324) -/
  | place (launch : Nat) (rings : Nat)
  /-- a grant that a restored ring held when it was saved (R331, R370) -/
  | ring (ring : Nat)
  deriving DecidableEq, Repr

/-- A queued grant request (R331). -/
structure GReq where
  /-- requester -/
  who : GWho
  /-- class -/
  cls : Nat
  deriving DecidableEq, Repr

/-- The die's reservation (R325). -/
structure Resv where
  /-- launch whose head holds it -/
  launch : Nat
  /-- corner of the target -/
  row0 : Nat
  /-- corner of the target -/
  col0 : Nat
  /-- when it was made -/
  since : Nat
  deriving DecidableEq, Repr

/-- A die (R100, R174, R253, R254, R256, R261, R325, R326, R330, R332, R362). -/
structure Die where
  /-- cycle counter (R100) -/
  tick : Nat := 0
  /-- L2 TLB, at most 32,768 entries, youngest first -/
  tlb : List TlbEnt := []
  /-- fault buffer, at most 8 entries -/
  fbuf : List FBEnt := []
  /-- DROPPED -/
  dropped : Bool := false
  /-- fault sequence number -/
  fbseq : Nat := 0
  /-- MMUARG -/
  mmuarg : Word := 0
  /-- BUSY -/
  busy : Bool := false
  /-- OPC of MMUCMD -/
  mmuopc : Nat := 0
  /-- ASID of MMUCMD -/
  mmuasid : Nat := 0
  /-- MMUVEC -/
  mmuvec : Nat := 0
  /-- parked accesses, oldest first -/
  parked : List Parked := []
  /-- admission queue in arrival order -/
  grantq : List GReq := []
  /-- current set aside for work without a grant, in A (R330) -/
  base : Nat := 400
  /-- current budget in A; the grant budget is what BASE leaves of it (R330) -/
  total : Nat := 1500
  /-- route tags in use (R174) -/
  tags : List Nat := []
  /-- reservation -/
  resv : Option Resv := none
  /-- pre-emption wait, in cycles at the maximum clock (R326): 2 ms -/
  preWait : Nat := 4800000
  /-- drain wait, in cycles at the maximum clock (R362): 1 ms -/
  drainWait : Nat := 2400000
  /-- refresh intervals banked by the controllers of its four HBM4E stacks (R261) -/
  allow : List Nat := List.replicate 4 0
  /-- clock cycles are stretched (R332) -/
  stretched : Bool := false
  /-- ring whose solver queue was served last (R305) -/
  solvRR : Nat := 0
  /-- its temperature (R403) -/
  temp : Nat := 0
  deriving DecidableEq, Repr

/-! ### Memory slices -/

/-- A tuple (R286), with its full sequence number. -/
structure Tup where
  /-- TAG -/
  tag : Lane
  /-- ARITY -/
  arity : Nat
  /-- GRADE -/
  grade : Nat
  /-- sequence number -/
  seq : Nat
  /-- f0-f13 -/
  f : List Lane
  /-- the store holds an uncorrectable error in it (R389) -/
  bad : Bool := false
  deriving DecidableEq, Repr

/-- What a tuple request asks (R290, R292, R300, R301). -/
inductive TKind where
  | dep
  | read
  | take
  | cancel
  | stat
  deriving DecidableEq, Repr

/-- A request on its way to, or parked in, a memory slice (R288-R300). -/
structure TReq where
  /-- what it asks -/
  kind : TKind
  /-- troupe -/
  t : TroupeId
  /-- its operation -/
  op : Nat
  /-- lane -/
  lane : Nat := 0
  /-- context -/
  asid : Nat
  /-- region -/
  rid : Nat := 0
  /-- tag; none for a whole-region tstat -/
  tag : Option Lane := none
  /-- pattern word -/
  pat : Word := 0
  /-- mask M -/
  mask : Lane := 0
  /-- values, or the fields of a deposit -/
  vals : List Lane := []
  /-- arity of a deposit -/
  arity : Nat := 0
  /-- QUOTA of the region's word, as the request found it (R284) -/
  quota : Nat := 0
  /-- SCAP of the region's word, as the request found it (R284) -/
  scap : Nat := 0
  /-- grade of the registers read, with the base page's for a match (R294) -/
  g : Nat := 0
  /-- park, counting on this arrival counter -/
  park : Option Nat := none
  /-- trap on FULL (R297) -/
  trap : Bool := false
  /-- lanes named by a tcan -/
  lanes : Word := 0
  deriving DecidableEq, Repr

/-- A reply or delivery on its way back to a lane (R298, R299). -/
structure TReply where
  /-- troupe -/
  t : TroupeId
  /-- operation -/
  op : Nat
  /-- lane -/
  lane : Nat
  /-- status word, or the word of a tstat slice -/
  status : Word
  /-- fields -/
  f : List Lane := []
  /-- grade -/
  g : Nat := 0
  /-- a later delivery to a parked lane, not a first reply -/
  later : Bool := false
  /-- a deposit refused with FULL -/
  full : Bool := false
  /-- its tuple is in error (R389) -/
  bad : Bool := false
  deriving DecidableEq, Repr

/-- A region's tuples at one slice (R286, R293). -/
structure RegSt where
  /-- context -/
  asid : Nat
  /-- region -/
  rid : Nat
  /-- on-slice store, oldest first -/
  store : List Tup := []
  /-- spilled tuples, as the engine wrote them to the spill area, oldest first -/
  spill : List Tup := []
  /-- where they stand: sequence number, and entry of the slice's part of the area (R284) -/
  places : List (Nat × Nat) := []
  /-- deposit count -/
  count : Nat := 0
  deriving DecidableEq, Repr

/-- A memory slice (R286-R293, R261). -/
structure Slice where
  /-- regions -/
  regs : List RegSt := []
  /-- parked entries: entry number and request, in park order (R291) -/
  parked : List (Nat × TReq) := []
  /-- requests waiting at the four ports, oldest first (R289) -/
  ports : List (List TReq) := [[], [], [], []]
  /-- rotation pointer -/
  rot : Nat := 0
  /-- ports already passed in the cycle being served (R289) -/
  turn : Nat := 0
  /-- troupe and operation whose lanes the current port delivers in this cycle (R289) -/
  now_ : Option (TroupeId × Nat) := none
  /-- replies on their way, oldest first -/
  replies : List TReply := []
  /-- RFRETRY (R261) -/
  rfretry : Nat := 0
  /-- requests told to retry and waiting for the hint (R261) -/
  retries : Nat := 0
  deriving DecidableEq, Repr

/-! ### Contexts -/

/-- A fault record (R350). -/
structure FRec where
  /-- FSEQ -/
  fseq : Nat := 0
  /-- CAUSE -/
  cause : Cause
  /-- REASON -/
  reason : Nat := 0
  /-- KIND -/
  kind : Nat
  /-- IADDR -/
  iaddr : Word := 0
  /-- LMASK -/
  lmask : Word := 0
  /-- K0 -/
  k0 : Word := 0
  /-- AUX -/
  aux : Word := 0
  /-- YCL -/
  ycl : Nat := 0
  /-- CODE -/
  code : Nat := 0
  /-- operand-log slot -/
  slot : Option Nat := none
  /-- GRADE -/
  grade : Nat := 0
  /-- ring index -/
  ridx : Nat := 0
  /-- troupe index; 255 when none is named -/
  tidx : Nat := 255
  /-- core, 64 × die + core -/
  core : Nat := 0
  /-- neighbourhood index n -/
  n : Nat := 0
  /-- SEQ of the launch -/
  seq : Nat := 0
  /-- launch queue -/
  queue : Nat := 0
  /-- entries: bytes 0-7 and bytes 8-15 of each -/
  ents : List (Word × Word) := []
  /-- the troupe it names -/
  troupe : Option TroupeId := none
  /-- the ring it is about -/
  ring : Nat := 0
  /-- the operation of a KIND 1 record -/
  op : Nat := 0
  /-- the fault is one of the vector side -/
  vside : Bool := false
  /-- length of the faulting unit -/
  ulen : Nat := 0
  /-- the record is kept until a handler resolves it (R344) -/
  pending : Bool := false
  deriving DecidableEq, Repr

/-- A loadable slot of a context (R130, R135). -/
structure SlotEnt where
  /-- state code of R135 -/
  state : Nat := 0
  /-- a release is pending -/
  rel : Bool := false
  /-- image hash of the binding -/
  ihash : List Byte := []
  /-- its format -/
  fmt : Option Fmt := none
  /-- core and frame it maps to there -/
  map : List (Nat × Nat) := []
  /-- binding under way: hash, format, core and frame chosen -/
  next : Option (List Byte × Fmt × List (Nat × Nat)) := none
  deriving DecidableEq, Repr

/-- A tuple region (R283, R284). -/
structure Region where
  /-- RID -/
  rid : Nat
  /-- region base -/
  base : Word
  /-- QUOTA -/
  quota : Nat
  /-- SCAP -/
  scap : Nat
  /-- frames recorded for its pages, base page first -/
  frames : List Nat
  deriving DecidableEq, Repr

/-- A context (R245, R349, R383, R393). -/
structure Ctx where
  /-- ASID -/
  asid : Nat
  /-- function it belongs to -/
  fn : Nat := 0
  /-- ROOT -/
  root : Nat := 0
  /-- RPLY -/
  rply : Bool := false
  /-- PROT -/
  prot : Bool := false
  /-- domain -/
  domain : Nat := 0
  /-- FQBASE -/
  fqbase : Word := 0
  /-- FQLOG -/
  fqlog : Nat := 4
  /-- FQVEC -/
  fqvec : Nat := 0
  /-- last FSEQ given -/
  fseq : Nat := 0
  /-- TAIL of the fault queue, as the device keeps it -/
  fqtail : BitVec 32 := 0
  /-- records pending, oldest first -/
  recs : List FRec := []
  /-- records held, not yet posted, oldest first (R349) -/
  held : List FRec := []
  /-- slots 8-15 -/
  slots : List SlotEnt := List.replicate 8 {}
  /-- regions -/
  regions : List Region := []
  /-- SAVECTR (R383) -/
  savectr : Nat := 0
  /-- kept values: (queue, SEQ, n) and SAVECTR (R383) -/
  kept : List ((Nat × Nat × Nat) × Nat) := []
  /-- the IDE stream a protected context is bound to: port 18 or 19, and selective stream 0-7 or the link stream,
  8 (R380) -/
  stream : Nat × Nat := (18, 8)
  /-- suspended by a link-down (R387) -/
  suspended : Bool := false
  /-- number of its save key; none once the key is destroyed (R383, R387) -/
  key : Option Nat := none
  deriving DecidableEq, Repr

/-! ### Saved neighbourhoods -/

/-- An event for a saved ring (R369). -/
structure Mail where
  /-- KIND 1-4 -/
  kind : Nat
  /-- ring index -/
  ridx : Nat
  /-- troupe index -/
  tidx : Nat := 0
  /-- lane -/
  lane : Nat := 0
  /-- the word at 0x04 -/
  info : Nat := 0
  /-- the doubleword at 0x08 -/
  info2 : Word := 0
  /-- status and fields -/
  words : List Word := []
  /-- grade -/
  g : Nat := 0
  deriving DecidableEq, Repr

/-- A ring as saved (R365). -/
structure SavedRing where
  /-- the ring, its stream and solver state -/
  ring : Ring
  /-- its troupes -/
  troupes : List Troupe
  /-- its scratchpad bytes, by offset in the allocation -/
  spad : List Host.Cell
  /-- its line grades -/
  spgr : List (Nat × Nat)
  /-- its copies: queue and entry -/
  copies : List (Nat × CopyEnt)
  /-- bins 0-7 of its core, those of the ring: entry, records, remaining countdown (R338) -/
  bins : List (Option (Word × List SRec × Nat))
  /-- the alias unit when it held it -/
  au : Option AliasUnit
  /-- internal word of the operation at which its stream stood stopped; zero when none (R207) -/
  word : List Byte := []
  deriving DecidableEq, Repr

/-- A saved neighbourhood (R363-R370). -/
structure Saved where
  /-- its number -/
  nb : Nbhd
  /-- its rings -/
  rings : List SavedRing
  /-- physical address of the save record -/
  addr : Nat
  /-- SAVECTR of the save -/
  ctr : Nat
  /-- total length of the record -/
  len : Nat
  /-- mailbox, oldest first -/
  mail : List Mail := []
  deriving DecidableEq, Repr

/-! ### The rest of the package -/

/-- A request to the format manager (R133-R143). -/
structure FmReq where
  /-- context -/
  asid : Nat
  /-- slot 8-15 -/
  slot : Nat
  /-- package address -/
  addr : Word
  /-- grade of the request -/
  grade : Nat
  /-- requesting troupe and its operation; none for a launch binding -/
  by_ : Option (TroupeId × Nat)
  /-- ring that asks -/
  ring : Nat
  /-- the launch that asks to have a listed slot bound (R141) -/
  launch : Option Nat := none
  /-- checks passed and the swap is under way -/
  going : Bool := false
  deriving DecidableEq, Repr

/-- A reduction window (R400, R401). -/
structure Win where
  /-- window number -/
  num : Nat
  /-- home package -/
  home : Nat
  /-- home physical base -/
  base : Nat
  /-- page count -/
  pages : Nat
  /-- reductions allowed -/
  red : Bool
  /-- loads, stores and returning atomics allowed -/
  acc : Bool
  /-- members -/
  members : Nat
  deriving DecidableEq, Repr

/-- A troupe whose window reduction is part of a contribution, and the page that carried it (R242). -/
structure Issuer where
  /-- number of the troupe's creation -/
  uid : Nat
  /-- its ring -/
  ring : Nat
  /-- its die -/
  die : Nat
  /-- its launch -/
  launch : Nat
  /-- its context -/
  asid : Nat
  /-- colour of the reduction -/
  col : Nat
  /-- virtual address of the word -/
  va : Nat
  deriving DecidableEq, Repr

/-- A contribution to a window word on its way: one reduction, or those that the switches merged (R242). -/
structure Contrib where
  /-- its number -/
  id : Nat
  /-- the reduction instruction -/
  instr : Instr
  /-- address in the home package's memory -/
  addr : Nat
  /-- operand -/
  c : Lane
  /-- the reductions in it -/
  who : List Issuer
  /-- number of the key under which a pooled word at the home is written (R381) -/
  key : Option Nat := none
  deriving DecidableEq, Repr

/-- A firewall window (R377). -/
structure FwWin where
  /-- physical base -/
  base : Nat
  /-- length -/
  len : Nat
  /-- grade ceiling -/
  ceil : Nat
  /-- domain, 0 for none -/
  domain : Nat
  /-- where the window stands in the BAR2 aperture of PF0 (R377, R391) -/
  bar2 : Nat := 0
  deriving DecidableEq, Repr

/-- A fabric or host link (R380, R389). -/
structure Link where
  /-- 0 up, 1 retraining, 2 down -/
  state : Nat := 0
  /-- time of the latest failed flit check -/
  failed : Option Nat := none
  /-- flits counted since the key was set -/
  flits : Nat := 0
  /-- number of the key in use -/
  key : Nat := 0
  deriving DecidableEq, Repr

/-- The SPDM responder (R385). -/
structure Spdm where
  /-- 0 start, 1 version, 2 capabilities, 3 algorithms, 4 authenticated -/
  stage : Nat := 0
  /-- session: 0 none, 1 keys exchanged, 2 established -/
  session : Nat := 0
  /-- running transcript hash -/
  transcript : List Byte := []
  /-- measurements have been given in this session -/
  measured : Bool := false
  /-- the latest response -/
  response : List Byte := []
  /-- key of the session, 32 bytes (R385) -/
  key : List Byte := []
  /-- messages sealed under it -/
  sealed : Nat := 0
  deriving DecidableEq, Repr

/-- The answer to an inbound access (R377). -/
inductive Inbound where
  /-- nothing has come back: no access yet, or its traffic was not delivered (R380) -/
  | silent
  /-- the bytes read, none for a write -/
  | done (bytes : List Byte)
  /-- refused on PCIe or CXL -/
  | completerAbort
  /-- refused on the fabric -/
  | nak
  /-- the data is poisoned (R382, R389) -/
  | poisoned
  deriving DecidableEq, Repr

/-- The command block of a function (R393). -/
structure CmdBlock where
  /-- the function -/
  fn : Nat
  /-- OPC -/
  opc : Nat := 0
  /-- STATUS -/
  status : BitVec 32 := 0
  /-- the words at 0x08-0xFF; the result of a command in the first -/
  words : List Word := List.replicate 31 0
  deriving DecidableEq, Repr

/-- The firmware complex, the Midway die and the fabric (R376, R377, R385-R403). -/
structure Fw where
  /-- format manager's requests in arrival order (R137) -/
  fm : List FmReq := []
  /-- owner keys: function and key (R132) -/
  owners : List (Nat × List Byte) := []
  /-- number of the package's pool key (R381) -/
  poolKey : Nat := 1
  /-- domain keys: domain and number of its key (R381, R387) -/
  domKeys : List (Nat × Nat) := []
  /-- number of the next domain or pool key (R381) -/
  nextKey : Nat := 2
  /-- rosters: domain and package IDs (R376) -/
  rosters : List (Nat × List Nat) := []
  /-- staged roster: domain, COUNT, IDs so far (R393) -/
  staged : Option (Nat × Nat × List Nat) := none
  /-- reduction windows -/
  wins : List Win := []
  /-- contributions on their way -/
  contribs : List Contrib := []
  /-- number of this package in its domain (R400) -/
  pkg : Nat := 0
  /-- firewall windows -/
  fwins : List FwWin := []
  /-- size of the BAR2 aperture (R391) -/
  bar2 : Nat := 2 ^ 30
  /-- interrupts raised: function and vector -/
  irqs : List (Nat × Nat) := []
  /-- vector counts of the functions: PF0 first (R391) -/
  vectors : List Nat := 2048 :: List.replicate 63 0
  /-- command blocks of the functions that have used theirs (R392, R393) -/
  blocks : List CmdBlock := []
  /-- functions whose command is still to be performed, in the order of the OPC writes (R393) -/
  cmdq : List Nat := []
  /-- extents whose release waits for accesses that passed the present check (R259) -/
  releasing : List Nat := []
  /-- MEAS[0]-MEAS[15] (R386) -/
  meas : List (List Byte) := List.replicate 16 (List.replicate 32 0)
  /-- SPDM responder -/
  spdm : Spdm := {}
  /-- fabric ports 0-17, then PCIe (18) and CXL (19) -/
  links : List Link := List.replicate 20 {}
  /-- IDE keys are set (R387) -/
  ide : Bool := false
  /-- selective streams in Insecure: port and stream (R380) -/
  insecure : List (Nat × Nat) := []
  /-- ECC counters in the order of R389 -/
  ecc : List Nat := List.replicate 6 0
  /-- VFs whose reset drains: VF and deadline on die 0's counter (R388) -/
  vfReset : List (Nat × Nat) := []
  /-- restarts of the roustabouts' queues (R402) -/
  restarts : Nat := 0
  /-- for each priority, the queue whose record was read last, for the round robin of R318 -/
  qrr : List Nat := List.replicate 16 1023
  /-- clocks at base after a thermal trip (R403) -/
  tripped : Bool := false
  /-- the package has power (R403) -/
  powered : Bool := true
  /-- the host link is up (R387) -/
  hostUp : Bool := true
  /-- save records written: the number of the next address from the save pool (R363) -/
  pool : Nat := 0
  /-- answer to the latest inbound access (R377) -/
  inbound : Inbound := .silent
  /-- current of each supply rail (R403) -/
  rails : List Nat := []
  /-- one-time keys of the device's LMS key that signatures have used (R385) -/
  lms : Nat := 0
  deriving DecidableEq, Repr

/-- The whole package. -/
structure State where
  /-- C-dies 0-3 -/
  dies : List Die := List.replicate 4 {}
  /-- cores, 64 × die + core -/
  cores : List CoreSt := List.replicate 256 {}
  /-- memory slices, 4 × die + slice -/
  slices : List Slice := List.replicate 16 {}
  /-- live troupes -/
  troupes : List Troupe := []
  /-- placed rings -/
  rings : List Ring := []
  /-- placed neighbourhoods -/
  nbhds : List Nbhd := []
  /-- launches accepted and not yet recorded as complete -/
  launches : List Launch := []
  /-- launch queues 0-1023 -/
  queues : List LQueue := List.replicate 1024 {}
  /-- live contexts -/
  ctxs : List Ctx := [{ asid := 0 }]
  /-- saved neighbourhoods -/
  saved : List Saved := []
  /-- firmware, Midway die, fabric -/
  fw : Fw := {}
  /-- physical memory: bytes that are not zero (R257, R387) -/
  mem : List Host.Cell := []
  /-- poisoned 128-byte lines (R382, R389) -/
  poison : List Nat := []
  /-- symbol errors in pooled lines: 128-byte line number and count (R382) -/
  symErr : List (Nat × Nat) := []
  /-- pooled lines and the number of the key each was written under; an unlisted line has not been written since
  it was last wiped (R381) -/
  pkeys : List (Nat × Nat) := []
  /-- pooled extents present (R259) -/
  extents : List Nat := []
  /-- the party whose instruction runs (the model's own) -/
  cur : Agent := .device
  /-- host actions and device events to be performed next (the model's own) -/
  agenda : List (Instr × Event) := []
  /-- what the device step being performed names (the model's own) -/
  ev : Event := {}
  /-- length of the unit being executed (the model's own) -/
  len : Nat := 0
  /-- index of the next free choice (the model's own) -/
  choice : Nat := 0
  /-- the vector side lags: a dispatched instruction issues in a step of its own (the model's own) -/
  lag : Bool := false
  /-- number of the next object made (the model's own) -/
  fresh : Nat := 0
  deriving DecidableEq, Repr

/-- Reasons a step stops the model. -/
inductive Fault where
  /-- An instruction of a program is run while no live party is acting: `exec` of an instruction
  at a state whose `cur` names no live troupe or stream raises it.  The step function never does. -/
  | noAgent
  deriving DecidableEq, Repr

/-- Reasons `exec` refuses an instruction. -/
inductive Refusal where
  /-- Raised by the arm of an instruction that has no meaning yet.  Safe: nothing is claimed. -/
  | notModelled (mnemonic : String)
  deriving DecidableEq, Repr

/-- What a step answers. -/
abbrev Out := Host.Outcome State Fault Refusal

/-- The package right after a cold reset (R386, R387, R403): every memory wiped to zero, no context
but the firmware's, every launch queue as R317 gives it, every counter 0, MEAS[i] zero, and no host link:
bring-up is still to come. -/
def State.reset : State := { fw := { hostUp := false } }

end Sys2Proof.Machine
end

