-- ==== Sys2Proof/Machine/Access.lean ====
section
/-! DEFINITION. Finding and replacing the parts of the state; grades; small list operations. -/

namespace Sys2Proof.Machine

/-! ### Lists -/

/-- Zero bytes. -/
def zeroBytes (n : Nat) : List Byte := List.replicate n 0

/-- Bytes padded with zeros to a length. -/
def padTo (n : Nat) (l : List Byte) : List Byte := l ++ zeroBytes (n - l.length)

/-- Element i, or the default. -/
def nth {α : Type} (l : List α) (i : Nat) (d : α) : α := l.getD i d

/-- The list with element i changed. -/
def upd {α : Type} (l : List α) (i : Nat) (f : α → α) : List α := l.modify i f

/-- Every element that satisfies `p`, changed. -/
def updWhere {α : Type} (l : List α) (p : α → Bool) (f : α → α) : List α :=
  l.map fun x => if p x then f x else x

/-- Put an element in order: before the first that it may precede. -/
def insertBy {α : Type} (le : α → α → Bool) (x : α) : List α → List α
  | [] => [x]
  | y :: ys => if le x y then x :: y :: ys else y :: insertBy le x ys

/-- A list in order; elements that may go either way keep their order. -/
def sortBy {α : Type} (le : α → α → Bool) (l : List α) : List α := l.foldr (insertBy le) []

/-- The largest of a list of numbers; 0 for none. -/
def maxOf (l : List Nat) : Nat := l.foldl max 0

/-- Lanes 0-63 whose bit is set (R47). -/
def lanesOf (m : Word) : List Nat := (List.range 64).filter fun i => m.getLsbD i

/-- The mask of a list of lanes. -/
def maskOf (l : List Nat) : Word := l.foldl (fun m i => m ||| (1#64 <<< i)) 0

/-- All 64 lanes. -/
def allLanes : Word := BitVec.allOnes 64

/-! ### Parts of the package -/

/-- The die with a number. -/
def State.die (s : State) (d : Nat) : Die := nth s.dies d {}

/-- Change a die. -/
def State.modDie (s : State) (d : Nat) (f : Die → Die) : State := { s with dies := upd s.dies d f }

/-- The core with an index 64 × die + core. -/
def State.core (s : State) (c : Nat) : CoreSt := nth s.cores c {}

/-- Change a core. -/
def State.modCore (s : State) (c : Nat) (f : CoreSt → CoreSt) : State :=
  { s with cores := upd s.cores c f }

/-- The memory slice 4 × die + slice. -/
def State.slice (s : State) (n : Nat) : Slice := nth s.slices n {}

/-- Change a memory slice. -/
def State.modSlice (s : State) (n : Nat) (f : Slice → Slice) : State :=
  { s with slices := upd s.slices n f }

/-- A live troupe. -/
def State.troupe? (s : State) (t : TroupeId) : Option Troupe := s.troupes.find? fun u => u.id == t

/-- Change a troupe. -/
def State.modTroupe (s : State) (t : TroupeId) (f : Troupe → Troupe) : State :=
  { s with troupes := updWhere s.troupes (fun u => u.id == t) f }

/-- Replace a troupe by its new value. -/
def State.setTroupe (s : State) (t : Troupe) : State := s.modTroupe t.id fun _ => t

/-- A placed ring. -/
def State.ring? (s : State) (r : Nat) : Option Ring := s.rings.find? fun x => x.id == r

/-- A placed ring, or an empty one. -/
def State.ring (s : State) (r : Nat) : Ring := (s.ring? r).getD { id := r, nb := 0 }

/-- Change a ring. -/
def State.modRing (s : State) (r : Nat) (f : Ring → Ring) : State :=
  { s with rings := updWhere s.rings (fun x => x.id == r) f }

/-- A placed neighbourhood. -/
def State.nbhd? (s : State) (n : Nat) : Option Nbhd := s.nbhds.find? fun x => x.id == n

/-- A placed neighbourhood, or an empty one. -/
def State.nbhd (s : State) (n : Nat) : Nbhd :=
  (s.nbhd? n).getD { id := n, launch := 0, n := 0, die := 0 }

/-- Change a neighbourhood. -/
def State.modNbhd (s : State) (n : Nat) (f : Nbhd → Nbhd) : State :=
  { s with nbhds := updWhere s.nbhds (fun x => x.id == n) f }

/-- A launch. -/
def State.launch? (s : State) (l : Nat) : Option Launch := s.launches.find? fun x => x.id == l

/-- A launch, or an empty one. -/
def State.launch (s : State) (l : Nat) : Launch :=
  (s.launch? l).getD { id := l, queue := 0, asid := 0, lr := {} }

/-- Change a launch. -/
def State.modLaunch (s : State) (l : Nat) (f : Launch → Launch) : State :=
  { s with launches := updWhere s.launches (fun x => x.id == l) f }

/-- A live context. -/
def State.ctx? (s : State) (a : Nat) : Option Ctx := s.ctxs.find? fun x => x.asid == a

/-- A live context, or an empty one. -/
def State.ctx (s : State) (a : Nat) : Ctx := (s.ctx? a).getD { asid := a }

/-- Change a context. -/
def State.modCtx (s : State) (a : Nat) (f : Ctx → Ctx) : State :=
  { s with ctxs := updWhere s.ctxs (fun x => x.asid == a) f }

/-- A launch queue. -/
def State.queue (s : State) (q : Nat) : LQueue := nth s.queues q {}

/-- Change a launch queue. -/
def State.modQueue (s : State) (q : Nat) (f : LQueue → LQueue) : State :=
  { s with queues := upd s.queues q f }

/-- Change the firmware complex. -/
def State.modFw (s : State) (f : Fw → Fw) : State := { s with fw := f s.fw }

/-! ### From a ring to what it belongs to -/

/-- The launch of a ring. -/
def State.launchOf (s : State) (r : Nat) : Launch := s.launch (s.nbhd (s.ring r).nb).launch

/-- The context of a ring. -/
def State.asidOf (s : State) (r : Nat) : Nat := (s.launchOf r).asid

/-- The die of a ring. -/
def State.dieOf (s : State) (r : Nat) : Nat := (s.ring r).core / 64

/-- The cycle counter of a ring's die (R100). -/
def State.tickOf (s : State) (r : Nat) : Nat := (s.die (s.dieOf r)).tick

/-- The rings of a neighbourhood, ended ones included (R22). -/
def State.ringsOf (s : State) (nb : Nat) : List Ring := s.rings.filter fun x => x.nb == nb

/-- A troupe is live, and not what a retired one has left: operations still to be performed, which stand
under an index beyond the 32 of a ring (R15, R21). -/
def Troupe.live (t : Troupe) : Bool := t.id.idx < 32

/-- The live troupes of a ring. -/
def State.troupesOf (s : State) (r : Nat) : List Troupe :=
  s.troupes.filter fun t => t.id.ring == r && t.live

/-- Raise an interrupt of a function: an index at or beyond its vector count is taken modulo the
count, and a function with no vectors raises none (R391). -/
def State.irq (s : State) (fn vec : Nat) : State :=
  let n := nth s.fw.vectors fn 0
  if n = 0 then s else s.modFw fun w => { w with irqs := w.irqs ++ [(fn, vec % n)] }

/-! ### Vector registers -/

/-- What lane i of a shape holds (R83). -/
def Shape.lane (sh : Shape) (i : Nat) : Lane :=
  match sh with
  | .uniform u => u
  | .affine b st => b + BitVec.ofNat 32 i * st
  | .general l => nth l i 0

/-- The 64 lanes of a shape. -/
def Shape.lanes (sh : Shape) : List Lane := (List.range 64).map sh.lane

/-- An affine result whose stride is 0 is held as uniform (R83). -/
def Shape.norm (sh : Shape) : Shape :=
  match sh with
  | .affine b st => if st = 0 then .uniform b else .affine b st
  | x => x

/-- The shape code of R83. -/
def Shape.code : Shape → Nat
  | .uniform _ => 0
  | .affine .. => 1
  | .general _ => 2

/-- The shape is general. -/
def Shape.isGeneral : Shape → Bool
  | .general _ => true
  | _ => false

/-- Register v n of a troupe. -/
def Troupe.vreg (t : Troupe) (n : Nat) : VReg := nth t.v n {}

/-- Write a vector register under a lane mask: all lanes give the result's shape and grade, some
give a general register with the higher grade, none change nothing; the zero specifier discards
(R47, R84, R85). -/
def Troupe.writeV (t : Troupe) (w : VWrite) : Troupe :=
  if w.d.toNat < 64 then
    if w.mask = 0 then t
    else
      let old := t.vreg w.d.toNat
      let new : VReg :=
        if w.mask = allLanes then { sh := w.sh.norm, g := w.g }
        else
          { sh := .general ((List.range 64).map fun i =>
              if w.mask.getLsbD i then w.sh.lane i else old.sh.lane i),
            g := max old.g w.g }
      { t with v := upd t.v w.d.toNat fun _ => new,
               regErr := t.regErr.filter (· != 256 + w.d.toNat) }
  else t

/-- Write one scalar-class register; the zero specifier discards (R41). -/
def Troupe.writeS (t : Troupe) (d : BitVec 8) (x : GW) : Troupe :=
  let n := d.toNat
  if n < 0x80 then { t with s := upd t.s n fun _ => x, regErr := t.regErr.filter (· != n) }
  else if n < 0xE0 then
    { t with k := upd t.k (n - 0x80) fun _ => x, regErr := t.regErr.filter (· != n) }
  else t

/-- k0. -/
def Troupe.k0 (t : Troupe) : Word := (nth t.k 0 {}).v

/-- Whether the write of a destination under a mask makes it general (R84, R85). -/
def makesGeneral (d : BitVec 8) (mask : Word) (sh : Shape) : Bool :=
  d.toNat < 64 && mask != 0 && (mask != allLanes || sh.isGeneral)

/-- Registers that are general, or will be when an operation already issued completes; one that such an
operation will make uniform counts until it completes (R86, log entry 157). -/
def Troupe.generals (t : Troupe) : List Nat :=
  (List.range 64).filter fun i =>
    (t.vreg i).sh.isGeneral
      || t.ops.any fun o => o.general && o.vdest.contains i

/-- Whether making these registers general breaks the budget g (R86). -/
def Troupe.overBudget (t : Troupe) (g : Nat) (ds : List (BitVec 8)) : Bool :=
  let have_ := t.generals
  let new := (ds.map (·.toNat)).filter fun d => d < 64 && !have_.contains d
  new != [] && g < have_.length + new.length

end Sys2Proof.Machine
end

