-- ==== Sys2Proof/Machine/Crypto.lean ====
section
/-! DEFINITION. SHA-256, LMS signatures of RFC 8554 and the curve secp384r1, which the loader and the root of trust
use (spec/06_format_slots.md R131, R132, spec/17_grades_and_keys.md R385; log entries 9 and 21). -/

namespace Sys2Proof.Machine

/-- The round constants of SHA-256. -/
def shaK : List (BitVec 32) :=
  [0x428A2F98, 0x71374491, 0xB5C0FBCF, 0xE9B5DBA5, 0x3956C25B, 0x59F111F1, 0x923F82A4, 0xAB1C5ED5,
   0xD807AA98, 0x12835B01, 0x243185BE, 0x550C7DC3, 0x72BE5D74, 0x80DEB1FE, 0x9BDC06A7, 0xC19BF174]
  ++ [0xE49B69C1, 0xEFBE4786, 0x0FC19DC6, 0x240CA1CC, 0x2DE92C6F, 0x4A7484AA, 0x5CB0A9DC, 0x76F988DA,
   0x983E5152, 0xA831C66D, 0xB00327C8, 0xBF597FC7, 0xC6E00BF3, 0xD5A79147, 0x06CA6351, 0x14292967]
  ++ [0x27B70A85, 0x2E1B2138, 0x4D2C6DFC, 0x53380D13, 0x650A7354, 0x766A0ABB, 0x81C2C92E, 0x92722C85,
   0xA2BFE8A1, 0xA81A664B, 0xC24B8B70, 0xC76C51A3, 0xD192E819, 0xD6990624, 0xF40E3585, 0x106AA070]
  ++ [0x19A4C116, 0x1E376C08, 0x2748774C, 0x34B0BCB5, 0x391C0CB3, 0x4ED8AA4A, 0x5B9CCA4F, 0x682E6FF3,
   0x748F82EE, 0x78A5636F, 0x84C87814, 0x8CC70208, 0x90BEFFFA, 0xA4506CEB, 0xBEF9A3F7, 0xC67178F2]

/-- The initial hash value of SHA-256. -/
def shaInit : List (BitVec 32) :=
  [0x6A09E667, 0xBB67AE85, 0x3C6EF372, 0xA54FF53A, 0x510E527F, 0x9B05688C, 0x1F83D9AB, 0x5BE0CD19]

/-- Big-endian number of some bytes. -/
def beNat (l : List Byte) : Nat := l.foldl (fun n b => n * 256 + b.toNat) 0

/-- The next word of a message schedule held newest first. -/
def shaNext (w : List (BitVec 32)) : BitVec 32 :=
  let x := nth w 14 0
  let y := nth w 1 0
  let s0 := x.rotateRight 7 ^^^ x.rotateRight 18 ^^^ (x >>> 3)
  let s1 := y.rotateRight 17 ^^^ y.rotateRight 19 ^^^ (y >>> 10)
  nth w 15 0 + s0 + nth w 6 0 + s1

/-- The message schedule of a block, oldest first. -/
def shaSchedule (block : List Byte) : List (BitVec 32) :=
  let first := (List.range 16).map fun i => BitVec.ofNat 32 (beNat ((block.drop (4 * i)).take 4))
  ((List.range 48).foldl (fun w _ => shaNext w :: w) first.reverse).reverse

/-- One round. -/
def shaRound (h : List (BitVec 32)) (kw : BitVec 32 × BitVec 32) : List (BitVec 32) :=
  match h with
  | [a, b, c, d, e, f, g, hh] =>
      let s1 := e.rotateRight 6 ^^^ e.rotateRight 11 ^^^ e.rotateRight 25
      let ch := (e &&& f) ^^^ (~~~e &&& g)
      let t1 := hh + s1 + ch + kw.1 + kw.2
      let s0 := a.rotateRight 2 ^^^ a.rotateRight 13 ^^^ a.rotateRight 22
      let maj := (a &&& b) ^^^ (a &&& c) ^^^ (b &&& c)
      [t1 + (s0 + maj), a, b, c, d + t1, e, f, g]
  | x => x

/-- One block. -/
def shaBlock (h : List (BitVec 32)) (block : List Byte) : List (BitVec 32) :=
  ((h.zip ((shaK.zip (shaSchedule block)).foldl shaRound h)).map fun x => x.1 + x.2)

/-- The blocks of a padded message. -/
def shaBlocks : Nat → List Byte → List (BitVec 32) → List (BitVec 32)
  | 0, _, h => h
  | n + 1, m, h => shaBlocks n (m.drop 64) (shaBlock h (m.take 64))

/-- SHA-256. -/
def sha256 (m : List Byte) : List Byte :=
  let zeros := (119 - m.length % 64) % 64
  let p := m ++ [0x80] ++ List.replicate zeros 0 ++ beBytes 8 (8 * m.length)
  (shaBlocks (p.length / 64) p shaInit).flatMap fun w => beBytes 4 w.toNat

/-! ### LMS (RFC 8554) -/

/-- A slice of bytes. -/
def bytesAt (l : List Byte) (o n : Nat) : List Byte := (l.drop o).take n

/-- One Winternitz chain from step a to its end. -/
def otsChain (i q : List Byte) (j : Nat) : Nat → Nat → List Byte → List Byte
  | 0, _, x => x
  | n + 1, a, x => otsChain i q j n (a + 1) (sha256 (i ++ q ++ beBytes 2 j ++ beBytes 1 a ++ x))

/-- The public-key candidate of an LM-OTS signature, type LMOTS_SHA256_N32_W8. -/
def otsCandidate (i : List Byte) (q : Nat) (sig msg : List Byte) : List Byte :=
  let qs := beBytes 4 q
  let c := bytesAt sig 4 32
  let h := sha256 (i ++ qs ++ beBytes 2 0x8181 ++ c ++ msg)
  let sum := (h.map fun b => 255 - b.toNat).foldl (· + ·) 0
  let digits := h ++ beBytes 2 sum
  let z := (List.range 34).flatMap fun j =>
    let a := (nth digits j 0).toNat
    otsChain i qs j (255 - a) a (bytesAt sig (36 + 32 * j) 32)
  sha256 (i ++ qs ++ beBytes 2 0x8080 ++ z)

/-- Climb the tree from a node to the root. -/
def lmsClimb (i : List Byte) (path : List Byte) : Nat → Nat → Nat → List Byte → List Byte
  | 0, _, _, x => x
  | n + 1, level, node, x =>
      let sib := bytesAt path (32 * level) 32
      let pre := i ++ beBytes 4 (node / 2) ++ beBytes 2 0x8383
      lmsClimb i path n (level + 1) (node / 2) (sha256 (pre ++ if node % 2 = 1 then sib ++ x else x ++ sib))

/-- An LMS signature of a message verifies under a 56-byte public key: the typecodes of R131, then the
computation of RFC 8554. -/
def lmsVerify (key sig msg : List Byte) : Bool :=
  let i := bytesAt key 8 16
  let q := beNat (bytesAt sig 0 4)
  let ots := bytesAt sig 4 1124
  let kc := otsCandidate i q ots msg
  let leaf := sha256 (i ++ beBytes 4 (1024 + q) ++ beBytes 2 0x8282 ++ kc)
  sig.length == 1452 && key.length == 56 && beNat (bytesAt key 0 4) == 6 && beNat (bytesAt key 4 4) == 4
    && beNat (bytesAt ots 0 4) == 4 && beNat (bytesAt sig 1128 4) == 6 && decide (q < 1024)
    && lmsClimb i (bytesAt sig 1132 320) 10 0 (1024 + q) leaf == bytesAt key 24 32

/-- The public key of a one-time key, from its secret elements. -/
def otsPublic (i : List Byte) (q : Nat) (x : Nat → List Byte) : List Byte :=
  let qs := beBytes 4 q
  sha256 (i ++ qs ++ beBytes 2 0x8080 ++ (List.range 34).flatMap fun j => otsChain i qs j 255 0 (x j))

/-- A node of the tree of an LMS key, by its height over the leaves and its number. -/
def lmsNode (i : List Byte) (x : Nat → Nat → List Byte) : Nat → Nat → List Byte
  | 0, r => sha256 (i ++ beBytes 4 r ++ beBytes 2 0x8282 ++ otsPublic i (r - 1024) (x (r - 1024)))
  | h + 1, r => sha256 (i ++ beBytes 4 r ++ beBytes 2 0x8383 ++ lmsNode i x h (2 * r) ++ lmsNode i x h (2 * r + 1))

/-- The 56-byte public key of an LMS key (R131, R385). -/
def lmsPublic (i : List Byte) (x : Nat → Nat → List Byte) : List Byte :=
  beBytes 4 6 ++ beBytes 4 4 ++ i ++ lmsNode i x 10 1

/-- The LM-OTS signature of a message under one-time key q, with randomizer c. -/
def otsSign (i : List Byte) (q : Nat) (x : Nat → List Byte) (c msg : List Byte) : List Byte :=
  let qs := beBytes 4 q
  let h := sha256 (i ++ qs ++ beBytes 2 0x8181 ++ c ++ msg)
  let digits := h ++ beBytes 2 ((h.map fun b => 255 - b.toNat).foldl (· + ·) 0)
  beBytes 4 4 ++ c ++ (List.range 34).flatMap fun j => otsChain i qs j (nth digits j 0).toNat 0 (x j)

/-- The LMS signature of a message under one-time key q, below 1024, with randomizer c: 1452 bytes. -/
def lmsSign (i : List Byte) (x : Nat → Nat → List Byte) (q : Nat) (c msg : List Byte) : List Byte :=
  beBytes 4 q ++ otsSign i q (x q) c msg ++ beBytes 4 6
    ++ (List.range 10).flatMap fun k => lmsNode i x k ((1024 + q) / 2 ^ k ^^^ 1)

/-! ### The curve secp384r1 (R385) -/

/-- The prime of the field. -/
def ecP : Nat := 2 ^ 384 - 2 ^ 128 - 2 ^ 96 + 2 ^ 32 - 1
/-- The coefficient b; a is −3. -/
def ecB : Nat := 0xb3312fa7e23ee7e4988e056be3f82d19181d9c6efe8141120314088f5013875ac656398d8a2ed19d2a85c8edd3ec2aef
/-- The order of the base point. -/
def ecN : Nat := 0xffffffffffffffffffffffffffffffffffffffffffffffffc7634d81f4372ddf581a0db248b0a77aecec196accc52973
/-- The base point. -/
def ecG : Nat × Nat :=
  (0xaa87ca22be8b05378eb1c71ef320ad746e1d3b628ba79b9859f741e082542a385502f25dbf55296c3a545e3872760ab7,
   0x3617de4a96262c6f5d9e98bf9292dc29f8f41dbd289a147ce9da3113b5f0b8c00a60b1ce1d7e819d7a431d7c90ea0e5f)

/-- A power in the field, by the exponent's bits from bit n − 1 down. -/
def ecPow (b e : Nat) : Nat → Nat
  | 0 => 1
  | n + 1 =>
      let r := ecPow b (e / 2) n
      r * r % ecP * (if e % 2 = 1 then b else 1) % ecP

/-- The inverse in the field. -/
def ecInv (a : Nat) : Nat := ecPow (a % ecP) (ecP - 2) 384

/-- a − b in the field, of numbers below the prime. -/
def ecSub (a b : Nat) : Nat := (a + ecP - b) % ecP

/-- The sum of two points; none is the neutral one. -/
def ecAdd : Option (Nat × Nat) → Option (Nat × Nat) → Option (Nat × Nat)
  | none, q => q
  | p, none => p
  | some (x1, y1), some (x2, y2) =>
      if x1 = x2 && (y1 + y2) % ecP == 0 then none
      else
        let l := if x1 = x2 then ecSub (3 * x1 * x1 % ecP) 3 * ecInv (2 * y1) % ecP
          else ecSub y2 y1 * ecInv (ecSub x2 x1) % ecP
        let x := ecSub (ecSub (l * l % ecP) x1) x2
        some (x, ecSub (l * ecSub x1 x % ecP) y1)

/-- A multiple of a point, by n bits of the scalar. -/
def ecMul (k : Nat) (p : Option (Nat × Nat)) : Nat → Option (Nat × Nat)
  | 0 => none
  | n + 1 =>
      let r := ecMul (k / 2) p n
      ecAdd (ecAdd r r) (if k % 2 = 1 then p else none)

/-- A point of the curve. -/
def ecOn (x y : Nat) : Bool :=
  x < ecP && y < ecP && (y * y) % ecP == ecSub ((x * x % ecP * x + ecB) % ecP) (3 * x % ecP)

/-- The 96 bytes of a point: its coordinates, big-endian. -/
def ecBytes : Option (Nat × Nat) → List Byte
  | some (x, y) => beBytes 48 x ++ beBytes 48 y
  | none => zeroBytes 96

end Sys2Proof.Machine
end

