-- ==== Sys2Proof/Machine/Flags.lean ====
section
/-! DEFINITION. Numeric flags (spec/03_numbers.md R61, spec/16_faults_and_preemption.md R356) and how
an instruction records them (R110). -/

namespace Sys2Proof.Machine

/-- No flag. -/
def flNone : BitVec 4 := 0
/-- Invalid, bit 0. -/
def flInvalid : BitVec 4 := 1
/-- Overflow, bit 1. -/
def flOverflow : BitVec 4 := 2
/-- Inexact, bit 2. -/
def flInexact : BitVec 4 := 4
/-- Divide by zero, bit 3. -/
def flDivZero : BitVec 4 := 8

/-- The flag, or none. -/
def flIf (c : Bool) (f : BitVec 4) : BitVec 4 := if c then f else 0

/-- The OR of several operations' flags. -/
def flAll (l : List (BitVec 4)) : BitVec 4 := l.foldl (· ||| ·) 0

/-- OR flags into a troupe's sticky flags (R110, R356). -/
def Troupe.raise (t : Troupe) (f : BitVec 4) : Troupe := { t with sticky := t.sticky ||| f }

end Sys2Proof.Machine
end

