-- ==== Sys2Proof/Machine/Formats.lean ====
section
/-! DEFINITION. The values of number formats, Decode and Encode (spec/03_numbers.md R55-R62, R66-R73). -/

namespace Sys2Proof.Machine

/-- An exact value: a NaN, an infinity, or (−1)^neg × m × 2^e; zeros keep their sign.  A quotient,
root or transcendental value that is no such number is given by an odd m whose neighbours bracket
it far below every grid and midpoint, so that every comparison with a representable value is that
of the exact value. -/
inductive FV where
  | nan
  | inf (neg : Bool)
  | fin (neg : Bool) (m : Nat) (e : Int)
  deriving DecidableEq, Repr

/-- How Encode rounds (R59). -/
inductive RMode where
  | nearest
  | zero
  /-- stochastic: random bits ρ, their number r, source exponent p (R62) -/
  | stoch (rho r : Nat) (p : Int)
  deriving DecidableEq, Repr

/-- The rounding mode that MODX[1:0] selects among the first two (R118). -/
def rmodeOf (modx : Nat) : RMode := if modx % 4 = 1 then .zero else .nearest

/-! ### Comparing magnitudes -/

/-- m × 2^e scaled to exponent `base` ≤ e. -/
def scaleTo (m : Nat) (e base : Int) : Nat := m * 2 ^ (e - base).toNat

/-- m1 × 2^e1 ≤ m2 × 2^e2. -/
def magLe (m1 : Nat) (e1 : Int) (m2 : Nat) (e2 : Int) : Bool :=
  let b := min e1 e2
  scaleTo m1 e1 b ≤ scaleTo m2 e2 b

/-- The largest c in [lo, lo + 2^n) for which a downward-closed `p` holds, given that it holds at lo. -/
def bsearch (p : Nat → Bool) : Nat → Nat → Nat
  | 0, lo => lo
  | n + 1, lo => if p (lo + 2 ^ n) then bsearch p n (lo + 2 ^ n) else bsearch p n lo

/-- The integer square root, rounded down. -/
def natSqrt (n : Nat) : Nat := bsearch (fun r => r * r ≤ n) (n.log2 / 2 + 1) 0

/-! ### Formats -/

/-- Width in bits of an element (R55, R68). -/
def Fmt.width : Fmt → Nat
  | .float s e f _ _ => s.toNat + e + f
  | .log s e f _ _ => s.toNat + e + f
  | .table w _ => w
  | .offset => 8

/-- f32, slot 0 (R56). -/
def fmtF32 : Fmt := .float true 8 23 127 .ieee
/-- bf16, slot 1. -/
def fmtBf16 : Fmt := .float true 8 7 127 .ieee
/-- e2m1, slot 6. -/
def fmtE2m1 : Fmt := .float true 2 1 1 .none
/-- The unsigned e3m5 of block scales (R64). -/
def fmtE3m5 : Fmt := .float false 3 5 3 .none

/-- The resident formats, slots 0-7 (R56). -/
def residentFmt (slot : Nat) : Fmt :=
  nth [fmtF32, fmtBf16, .float true 5 10 15 .ieee, .float true 4 3 7 .nanOnly,
    .float true 5 2 15 .ieee, .float true 2 3 1 .none, fmtE2m1, .offset] slot fmtF32

/-- The magnitude of code c of a floating-point format (R57). -/
def floatMag (fbits : Nat) (bias : Int) (c : Nat) : Nat × Int :=
  if c / 2 ^ fbits = 0 then (c, 1 - bias - fbits)
  else (2 ^ fbits + c % 2 ^ fbits, (c / 2 ^ fbits : Nat) - bias - fbits)

/-- RoundNearestEven(2^(cf / 2^F), −8) × 256 (R70); there is no tie. -/
def logFrac (fbits cf : Nat) : Nat :=
  bsearch (fun n => decide ((2 * n - 1) ^ 2 ^ fbits ≤ 512 ^ 2 ^ fbits * 2 ^ cf)) 8 256

/-- The magnitude of code c of a logarithmic format (R70). -/
def logMag (fbits : Nat) (bias : Int) (c : Nat) : Nat × Int :=
  if c = 0 then (0, 0)
  else (logFrac fbits (c % 2 ^ fbits), (c / 2 ^ fbits : Nat) - bias - 8)

/-- The largest finite magnitude code of a parametric format (R57, R70). -/
def maxCode (ebits fbits : Nat) (sp : Special) : Nat :=
  match sp with
  | .ieee => (2 ^ ebits - 1) * 2 ^ fbits - 1
  | .nanOnly => 2 ^ (ebits + fbits) - 2
  | .none => 2 ^ (ebits + fbits) - 1

/-- The value of a magnitude code with a sign, specials included. -/
def codeValue (mag : Nat → Nat × Int) (ebits fbits : Nat) (sp : Special) (neg : Bool) (c : Nat) : FV :=
  if sp = .ieee ∧ c / 2 ^ fbits = 2 ^ ebits - 1 then
    if c % 2 ^ fbits = 0 then .inf neg else .nan
  else if sp = .nanOnly ∧ c = 2 ^ (ebits + fbits) - 1 then .nan
  else .fin neg (mag c).1 (mag c).2

/-- The value of a table entry (R71). -/
def TabEntry.value (t : TabEntry) : FV :=
  match t.cls with
  | .fin => .fin t.neg t.sig t.exp
  | .inf => .inf t.neg
  | .nan => .nan

/-- Decode: the value of the low `width` bits (R47, R55). -/
def Fmt.decode (f : Fmt) (bits : Nat) : FV :=
  match f with
  | .float s e fb b sp =>
      let c := bits % 2 ^ (e + fb)
      codeValue (floatMag fb b) e fb sp (s && bits / 2 ^ (e + fb) % 2 == 1) c
  | .log s e fb b sp =>
      let c := bits % 2 ^ (e + fb)
      codeValue (logMag fb b) e fb sp (s && bits / 2 ^ (e + fb) % 2 == 1) c
  | .table w es =>
      match es[bits % 2 ^ w]? with
      | some t => t.value
      | none => .nan
  | .offset =>
      let n := bits % 256
      if 128 ≤ n then .fin false (n - 128) 0 else .fin true (128 - n) 0

/-! ### Encode -/

/-- Whether a stochastic step leaves Lo for Hi: D of d discarded bits, with r random bits (R62). -/
def stochStep (dd d rho r : Nat) : Bool :=
  let rr := if d ≤ r then rho % 2 ^ r / 2 ^ (r - d) else rho % 2 ^ r * 2 ^ (d - r)
  2 ^ d ≤ dd + rr

/-- The smallest d with 2^d ≥ num / den; 0 when num ≤ den (R70). -/
def ceilLog2 (num den : Nat) : Nat :=
  if num ≤ den then 0
  else
    let q := (num + den - 1) / den
    if 2 ^ q.log2 = q then q.log2 else q.log2 + 1

/-- Whether a magnitude m × 2^e between two neighbouring magnitudes rounds to the upper one; `odd`
says that the lower neighbour's code is odd (R59, R62, R70). -/
def roundsUp (lo hi : Nat × Int) (odd : Bool) (m : Nat) (e : Int) (mode : RMode) : Bool :=
  let b := min e (min lo.2 hi.2)
  let x := scaleTo m e b
  let l := scaleTo lo.1 lo.2 b
  let h := scaleTo hi.1 hi.2 b
  match mode with
  | .nearest => l + h < 2 * x || (l + h == 2 * x && odd)
  | .zero => false
  | .stoch rho r p =>
      -- Γ = (h − l) × 2^(b − p)
      let d := if p ≤ b then ceilLog2 ((h - l) * 2 ^ (b - p).toNat) 1
        else ceilLog2 (h - l) (2 ^ (p - b).toNat)
      l < x && stochStep ((x - l) * 2 ^ d / (h - l)) d rho r

/-- A magnitude m × 2^e rounded into the codes 0 to `top`: the code, whether it overflows, and
whether it is exact.  The code after `top` stands for the value the grid would have there (R60). -/
def encodeMag (mag : Nat → Nat × Int) (top : Nat) (isLog : Bool) (m : Nat) (e : Int) (mode : RMode) :
    Nat × Bool × Bool :=
  let le := fun c => decide (c ≤ top) && magLe (mag c).1 (mag c).2 m e
  let c := bsearch le 33 0
  let exact := magLe m e (mag c).1 (mag c).2
  if exact then (c, false, true)
  else if c < top then
    (if roundsUp (mag c) (mag (c + 1)) (c % 2 == 1) m e mode then c + 1 else c, false, false)
  else
    let beyond := magLe (mag (top + 1)).1 (mag (top + 1)).2 m e
    let past_ :=
      match mode with
      | .zero => true
      | .nearest => beyond || roundsUp (mag top) (mag (top + 1)) (top % 2 == 1) m e .nearest
      | .stoch .. =>
          isLog || beyond || roundsUp (mag top) (mag (top + 1)) (top % 2 == 1) m e mode
    (top, past_, false)

/-- Encode into a parametric format (R59-R62, R70). -/
def encodeParam (mag : Nat → Nat × Int) (signed : Bool) (ebits fbits : Nat) (sp : Special)
    (isLog : Bool) (x : FV) (mode : RMode) (sat : Bool) : Nat × BitVec 4 :=
  let sign := fun (neg : Bool) => if neg && signed then 2 ^ (ebits + fbits) else 0
  let top := maxCode ebits fbits sp
  let infCode := (2 ^ ebits - 1) * 2 ^ fbits
  match x with
  | .nan =>
      if sp = .ieee ∧ fbits ≠ 0 then (infCode + 2 ^ (fbits - 1), 0)
      else if sp = .nanOnly then (2 ^ (ebits + fbits) - 1, 0)
      else (0, flInvalid)
  | .inf neg =>
      if neg && !signed then (0, flInvalid)
      else if sp = .ieee ∧ !sat then (sign neg + infCode, 0)
      else (sign neg + top, flInvalid)
  | .fin neg m e =>
      if m = 0 then (sign neg, 0)
      else
        let (c, past_, exact) := encodeMag mag top isLog m e mode
        if neg && !signed then (0, if c = 0 then flInexact else flInvalid)
        else if past_ then
          let toInf := sp = .ieee ∧ !sat ∧ mode ≠ .zero
          (sign neg + (if toInf then infCode else top), flOverflow ||| flInexact)
        else (sign neg + c, flIf (!exact) flInexact)

/-- The finite entries of a table with their indices: index, sign, significand, exponent. -/
def tabFinite (es : List TabEntry) : List (Nat × TabEntry) :=
  ((List.range es.length).zip es).filter fun x => x.2.cls == .fin

/-- A signed value at exponent b. -/
def signedTo (neg : Bool) (m : Nat) (e b : Int) : Int :=
  if neg then -(scaleTo m e b : Int) else scaleTo m e b

/-- Among entries equally good: the smallest even index, or the smallest (R71). -/
def tabPick (l : List Nat) : Option Nat :=
  match l.find? (· % 2 == 0) with
  | some i => some i
  | none => l.head?

/-- The entries of least `key`, by the rule for ties. -/
def tabBest (l : List (Nat × TabEntry)) (key : TabEntry → Nat) : Option Nat :=
  match (l.map fun x => key x.2).min? with
  | none => none
  | some k => tabPick ((l.filter fun x => key x.2 == k).map (·.1))

/-- The index of the lowest entry of a class, and sign where it has one. -/
def tabSpecial (es : List TabEntry) (c : TabCls) (neg : Bool) : Option Nat :=
  es.findIdx? fun t => t.cls == c && (c == .nan || t.neg == neg)

/-- The exponent to which every entry and x scale. -/
def tabBase (es : List TabEntry) (e : Int) : Int := es.foldl (fun b t => min b t.exp) e

/-- A finite value encoded into a table (R71).  Toward zero or stochastically, with no zero and no finite
entry of its sign at or below its magnitude, the nearest entry stands (log entry 75). -/
def encodeTabFin (es : List TabEntry) (neg : Bool) (m : Nat) (e : Int) (mode : RMode) :
    Nat × BitVec 4 :=
  let b := tabBase es e
  let fin := tabFinite es
  let val := fun (t : TabEntry) => signedTo t.neg t.sig t.exp b
  let x := signedTo neg m e b
  let side := fin.filter fun y => y.2.sig == 0 || y.2.neg == neg
  let below := side.filter fun y => (val y.2).natAbs ≤ x.natAbs
  let above := side.filter fun y => x.natAbs < (val y.2).natAbs
  let nearest := tabBest fin fun t => (val t - x).natAbs
  let lo := tabBest below fun t => x.natAbs - (val t).natAbs
  let hi := tabBest above fun t => (val t).natAbs - x.natAbs
  let exceeds := side.all fun y => (val y.2).natAbs < x.natAbs
  let pick :=
    if exceeds then
      if side.isEmpty then nearest
      else tabBest side fun t => x.natAbs - (val t).natAbs
    else
      match mode, lo, hi with
      | .nearest, _, _ => nearest
      | .zero, some l, _ => some l
      | .stoch rho r p, some l, some h =>
          let lv := (val (nth es l ⟨.fin, false, 0, 0⟩)).natAbs
          let hv := (val (nth es h ⟨.fin, false, 0, 0⟩)).natAbs
          if roundsUp (lv, b) (hv, b) false x.natAbs b (.stoch rho r p) then some h else some l
      | _, some l, _ => some l
      | _, none, _ => nearest
  match pick with
  | some i =>
      let v := val (nth es i ⟨.fin, false, 0, 0⟩)
      (i, flIf (v != x) flInexact ||| flIf exceeds flOverflow)
  | none => ((Config.undefinedByte 0).toNat % es.length, flInexact)

/-- Encode into a table format (R58, R60, R71).  A NaN in a table without a NaN entry encodes +0 with invalid; where
the table has no zero entry either, the spec names no entry, and the finite entry nearest to 0 is taken (DESIGN
CHOICE, log entry 75). -/
def encodeTable (es : List TabEntry) (x : FV) (mode : RMode) : Nat × BitVec 4 :=
  match x with
  | .nan =>
      match tabSpecial es .nan false with
      | some i => (i, 0)
      | none => ((encodeTabFin es false 0 0 .nearest).1, flInvalid)
  | .inf neg =>
      match tabSpecial es .inf neg with
      | some i => (i, 0)
      | none => ((encodeTabFin es neg 1 200 .zero).1, flInvalid)
  | .fin neg m e => encodeTabFin es neg m e mode

/-- Encode into offset binary (R66). -/
def encodeOffset (x : FV) (mode : RMode) : Nat × BitVec 4 :=
  match x with
  | .nan => (128, flInvalid)
  | .inf neg => (if neg then 0 else 255, flInvalid)
  | .fin neg m e =>
      let lo := if 0 ≤ e then m * 2 ^ e.toNat else m / 2 ^ (-e).toNat
      let exact := magLe m e lo 0
      let n := if !exact && roundsUp (lo, 0) (lo + 1, 0) (lo % 2 == 1) m e mode then lo + 1 else lo
      if neg then
        if 128 < n then (0, flOverflow ||| flInexact) else (128 - n, flIf (!exact) flInexact)
      else if 127 < n then (255, flOverflow ||| flInexact)
      else (128 + n, flIf (!exact) flInexact)

/-- Encode: the bits of a value, and the flags raised (R47, R59-R62). -/
def Fmt.encode (f : Fmt) (x : FV) (mode : RMode) (sat : Bool) : Nat × BitVec 4 :=
  match f with
  | .float s e fb b sp => encodeParam (floatMag fb b) s e fb sp false x mode sat
  | .log s e fb b sp => encodeParam (logMag fb b) s e fb sp true x mode sat
  | .table _ es => encodeTable es x mode
  | .offset => encodeOffset x mode

/-- The exponent of the least significant bit of a format's grid at |x| (R62 steps 1 and 2). -/
def Fmt.gridExp (f : Fmt) (x : FV) : Int :=
  match f, x with
  | .float _ e fb b sp, .fin _ m ex =>
      (floatMag fb b (bsearch (fun c => decide (c ≤ maxCode e fb sp)
        && magLe (floatMag fb b c).1 (floatMag fb b c).2 m ex) 33 0)).2
  | .offset, _ => 0
  | _, .fin _ _ ex => ex
  | _, _ => 0

end Sys2Proof.Machine
end

