-- ==== Sys2Proof/Machine/Float.lean ====
section
/-! DEFINITION. Exact operations on values, with the flags they raise before rounding
(spec/05_vector_arithmetic.md R118-R128). -/

namespace Sys2Proof.Machine

/-- A value and the flags of the operation that gave it. -/
abbrev FVF := FV × BitVec 4

/-- The sign of a value that is no NaN. -/
def FV.neg : FV → Bool
  | .nan => false
  | .inf n => n
  | .fin n _ _ => n

/-- The value is a NaN. -/
def FV.isNan : FV → Bool
  | .nan => true
  | _ => false

/-- The value is a zero. -/
def FV.isZero : FV → Bool
  | .fin _ 0 _ => true
  | _ => false

/-- The value is infinite. -/
def FV.isInf : FV → Bool
  | .inf _ => true
  | _ => false

/-- −x. -/
def FV.negate : FV → FV
  | .nan => .nan
  | .inf n => .inf !n
  | .fin n m e => .fin (!n) m e

/-- |x|. -/
def FV.abs : FV → FV
  | .nan => .nan
  | .inf _ => .inf false
  | .fin _ m e => .fin false m e

/-- An integer times 2^e, a zero taken as +0. -/
def FV.ofInt (x : Int) (e : Int) : FV := .fin (x < 0) x.natAbs e

/-- a + b exactly; a zero sum of opposite signs is +0; ∞ − ∞ is invalid (R118, R119). -/
def FV.add (a b : FV) : FVF :=
  match a, b with
  | .nan, _ => (.nan, 0)
  | _, .nan => (.nan, 0)
  | .inf x, .inf y => if x = y then (.inf x, 0) else (.nan, flInvalid)
  | .inf x, _ => (.inf x, 0)
  | _, .inf y => (.inf y, 0)
  | .fin n1 m1 e1, .fin n2 m2 e2 =>
      if m1 = 0 ∧ m2 = 0 then (.fin (n1 && n2) 0 0, 0)
      else
        let base := min e1 e2
        (FV.ofInt (signedTo n1 m1 e1 base + signedTo n2 m2 e2 base) base, 0)

/-- a × b exactly; 0 × ∞ is invalid (R118). -/
def FV.mul (a b : FV) : FVF :=
  match a, b with
  | .nan, _ => (.nan, 0)
  | _, .nan => (.nan, 0)
  | .inf x, y => if y.isZero then (.nan, flInvalid) else (.inf (x != y.neg), 0)
  | x, .inf y => if x.isZero then (.nan, flInvalid) else (.inf (x.neg != y), 0)
  | .fin n1 m1 e1, .fin n2 m2 e2 => (.fin (n1 != n2) (m1 * m2) (e1 + e2), 0)

/-- a × b + c exactly (R119). -/
def FV.fma (a b c : FV) : FVF :=
  let p := a.mul b
  let r := p.1.add c
  (r.1, p.2 ||| (if p.1.isNan then 0 else r.2))

/-- The exact sum of a list: NaN for a NaN or opposite infinities, an infinity when a term is one,
−0 when every term is −0 (R127). -/
def FV.sum (l : List FV) : FVF :=
  let opposite := l.any (· == .inf false) && l.any (· == .inf true)
  if l.any FV.isNan || opposite then (.nan, flIf opposite flInvalid)
  else if l.any (· == .inf false) then (.inf false, 0)
  else if l.any (· == .inf true) then (.inf true, 0)
  else if l.all FV.isZero then (.fin (l.all FV.neg) 0 0, 0)
  else
    let base := l.foldl (fun b x => match x with | .fin _ _ e => min b e | _ => b) 0
    (FV.ofInt ((l.map fun x => match x with | .fin n m e => signedTo n m e base | _ => 0).sum) base, 0)

/-- Whether a ≤ b for values that are no NaN, −0 equal to +0 (R122). -/
def FV.le (a b : FV) : Bool :=
  match a, b with
  | .inf true, _ => true
  | _, .inf false => true
  | .inf false, _ => false
  | _, .inf true => false
  | .fin n1 m1 e1, .fin n2 m2 e2 =>
      let base := min e1 e2
      signedTo n1 m1 e1 base ≤ signedTo n2 m2 e2 base
  | _, _ => false

/-- a < b, −0 equal to +0. -/
def FV.lt (a b : FV) : Bool := a.le b && !b.le a

/-- The order of R120, which puts −0 below +0. -/
def FV.below (a b : FV) : Bool :=
  a.lt b || (a.isZero && b.isZero && a.neg && !b.neg)

/-- fmin (R120). -/
def FV.min (a b : FV) : FV :=
  if a.isNan then b else if b.isNan then a else if b.below a then b else a

/-- fmax (R120). -/
def FV.max (a b : FV) : FV :=
  if a.isNan then b else if b.isNan then a else if a.below b then b else a

/-- a × 2^b; specials and zeros pass through (R119). -/
def FV.scale (a : FV) (b : Int) : FV :=
  match a with
  | .fin n m e => .fin n m (e + b)
  | x => x

/-- The integer parts of a magnitude: rounded down, and whether something is left, more than a half,
exactly a half. -/
def intParts (m : Nat) (e : Int) : Nat × Bool × Bool × Bool :=
  if 0 ≤ e then (m * 2 ^ e.toNat, false, false, false)
  else
    let q := 2 ^ (-e).toNat
    (m / q, m % q != 0, q < 2 * (m % q), q == 2 * (m % q))

/-- A magnitude with a sign rounded to an integer magnitude: 0 nearest-even, 1 zero, 2 down, 3 up
(R121, R125). -/
def roundInt (dir : Nat) (neg : Bool) (m : Nat) (e : Int) : Nat :=
  let (q, rest, more, half) := intParts m e
  let up :=
    if dir = 0 then more || (half && q % 2 == 1)
    else if dir = 1 then false
    else if dir = 2 then rest && neg
    else rest && !neg
  if up then q + 1 else q

/-- frnd's integer (R121). -/
def FV.roundTo (a : FV) (dir : Nat) : FV :=
  match a with
  | .fin n m e => if m = 0 then a else .fin n (roundInt dir n m e) 0
  | x => x

/-! ### Quotients and roots -/

/-- A rational below the grids: num / den × 2^e to `k` more bits, odd when not exact. -/
def quotient (num den : Nat) (e : Int) (k : Nat) : Nat × Int :=
  let q := num * 2 ^ k / den
  if q * den = num * 2 ^ k then (q, e - k) else (2 * q + 1, e - k - 1)

/-- a / b exactly or bracketed; used by divisions by an integer or a value. -/
def FV.quot (a b : FV) : FV :=
  match a, b with
  | .fin n1 m1 e1, .fin n2 m2 e2 =>
      let q := quotient m1 m2 (e1 - e2) (256 + m2.log2)
      .fin (n1 != n2) q.1 q.2
  | .fin n _ _, .inf y => .fin (n != y) 0 0
  | _, _ => .nan

/-- frcp (R123). -/
def FV.rcp (a : FV) : FVF :=
  match a with
  | .nan => (.nan, 0)
  | .inf n => (.fin n 0 0, 0)
  | .fin n m e =>
      if m = 0 then (.inf n, flDivZero)
      else
        let q := quotient 1 m (-e) (256 + m.log2)
        (.fin n q.1 q.2, 0)

/-- The root of m × 2^e to 256 bits past its own. -/
def rootMag (m : Nat) (e : Int) : Nat × Int :=
  let (m, e) := if e % 2 = 0 then (m, e) else (2 * m, e - 1)
  let r := natSqrt (m * 2 ^ 512)
  if r * r = m * 2 ^ 512 then (r, e / 2 - 256) else (2 * r + 1, e / 2 - 257)

/-- fsqrt (R123). -/
def FV.sqrt (a : FV) : FVF :=
  match a with
  | .nan => (.nan, 0)
  | .inf n => if n then (.nan, flInvalid) else (.inf false, 0)
  | .fin n m e =>
      if m = 0 then (.fin n 0 0, 0)
      else if n then (.nan, flInvalid)
      else
        let r := rootMag m e
        (.fin false r.1 r.2, 0)

/-- frsq (R123). -/
def FV.rsqrt (a : FV) : FVF :=
  match a with
  | .nan => (.nan, 0)
  | .inf n => if n then (.nan, flInvalid) else (.fin false 0 0, 0)
  | .fin n m e =>
      if m = 0 then (.inf n, flDivZero)
      else if n then (.nan, flInvalid)
      else
        let (m, e) := if e % 2 = 0 then (m, e) else (2 * m, e - 1)
        let k := 300 + m.log2
        let r := natSqrt (2 ^ (2 * k) / m)
        if r * r * m = 2 ^ (2 * k) then (.fin false r (-(e / 2) - k), 0)
        else (.fin false (2 * r + 1) (-(e / 2) - k - 1), 0)

/-! ### Classes (R124) -/

/-- An encoding is subnormal: e = 0, not zero, EBITS ≥ 1, floating point. -/
def Fmt.subnormal (f : Fmt) (bits : Nat) : Bool :=
  match f with
  | .float _ e fb _ _ =>
      let c := bits % 2 ^ (e + fb)
      e != 0 && c != 0 && c / 2 ^ fb == 0
  | _ => false

/-- fclass's mask. -/
def Fmt.classMask (f : Fmt) (bits : Nat) : Nat :=
  match f.decode bits with
  | .nan => 2 ^ 8
  | .inf n => if n then 2 ^ 0 else 2 ^ 7
  | .fin n m _ =>
      if m = 0 then (if n then 2 ^ 3 else 2 ^ 4)
      else if f.subnormal bits then (if n then 2 ^ 2 else 2 ^ 5)
      else if n then 2 ^ 1 else 2 ^ 6

/-! ### The two roundings of R118 -/

/-- Encode(0, x), then for another slot Encode(TY, ·): bits and the flags of both steps. -/
def finish (f : Fmt) (x : FVF) (mode : RMode) (sat : Bool) : Nat × BitVec 4 :=
  let y := fmtF32.encode x.1 mode sat
  if f = fmtF32 then (y.1, x.2 ||| y.2)
  else
    let z := f.encode (fmtF32.decode y.1) mode sat
    (z.1, x.2 ||| y.2 ||| z.2)

/-- One Encode. -/
def finish1 (f : Fmt) (x : FVF) (mode : RMode) (sat : Bool) : Nat × BitVec 4 :=
  let z := f.encode x.1 mode sat
  (z.1, x.2 ||| z.2)

end Sys2Proof.Machine
end

