-- ==== Sys2Proof/Machine/Trig.lean ====
section
/-! DEFINITION. The functions fexp2, flog2, fsin, fcos and ftanh, and the normal and exponential values
the sampler needs, to far more bits than any rounding uses (spec/05_vector_arithmetic.md R123).
Fixed point with 640 fraction bits; log entry 12. -/

namespace Sys2Proof.Machine

/-- Fraction bits of the fixed-point numbers below. -/
def fxBits : Nat := 640

/-- One in fixed point. -/
def fxOne : Nat := 2 ^ fxBits

/-- Product in fixed point. -/
def fxMul (a b : Nat) : Nat := a * b / fxOne

/-- Σ y^k / k! for k below n. -/
def fxExp (y : Nat) (n : Nat) : Nat :=
  ((List.range n).foldl (fun (s : Nat × Nat) k => (s.1 + s.2, fxMul s.2 y / (k + 1))) (0, fxOne)).1

/-- Σ z^(2k+1) / (2k+1), the series of atanh. -/
def fxAtanh (z : Nat) (n : Nat) : Nat :=
  let zz := fxMul z z
  ((List.range n).foldl (fun (s : Nat × Nat) k => (s.1 + s.2 / (2 * k + 1), fxMul s.2 zz)) (0, z)).1

/-- ln of x in [1, 2]. -/
def fxLn (x : Nat) : Nat := 2 * fxAtanh ((x - fxOne) * fxOne / (x + fxOne)) 210

/-- ln 2. -/
def fxLn2 : Nat := fxLn (2 * fxOne)

/-- arctan of 1/d, d ≥ 5. -/
def fxAtanInv (d : Nat) : Nat :=
  let r := (List.range 300).foldl
    (fun (s : Nat × Nat × Nat) k =>
      let t := s.2.2 / (2 * k + 1)
      (if k % 2 = 0 then (s.1 + t, s.2.1) else (s.1, s.2.1 + t)) |> fun p =>
        (p.1, p.2, s.2.2 / (d * d)))
    (0, 0, fxOne / d)
  r.1 - r.2.1

/-- π by Machin's formula. -/
def fxPi : Nat := 16 * fxAtanInv 5 - 4 * fxAtanInv 239

/-- sin y for 0 ≤ y ≤ 2 in fixed point. -/
def fxSin (y : Nat) : Nat :=
  let yy := fxMul y y
  let r := (List.range 90).foldl
    (fun (s : Nat × Nat × Nat) k =>
      let t := s.2.2
      let n := fxMul t yy / ((2 * k + 2) * (2 * k + 3))
      if k % 2 = 0 then (s.1 + t, s.2.1, n) else (s.1, s.2.1 + t, n))
    (0, 0, y)
  r.1 - r.2.1

/-- A fixed-point result as a value that is never on a grid or midpoint. -/
def fxValue (neg : Bool) (x : Nat) : FV := .fin neg (2 * x + 1) (-(fxBits : Int) - 1)

/-- A magnitude in fixed point, rounded down. -/
def toFx (m : Nat) (e : Int) : Nat :=
  if 0 ≤ e + fxBits then m * 2 ^ (e + fxBits).toNat else m / 2 ^ (-(e + fxBits)).toNat

/-- 2^a (R123). -/
def FV.exp2 (a : FV) : FVF :=
  match a with
  | .nan => (.nan, 0)
  | .inf n => (if n then .fin false 0 0 else .inf false, 0)
  | .fin n m e =>
      if magLe 1024 0 m e then (.fin false 1 (if n then -2000 else 2000), 0)
      else
        let (q, rest, _, _) := intParts m e
        if !rest then (.fin false 1 (if n then -(q : Int) else q), 0)
        else
          let x := toFx m e
          -- floor and fraction of the signed argument
          let fl : Int := if n then -(q : Int) - 1 else q
          let fr := if n then (q + 1) * fxOne - x else x - q * fxOne
          ((fxValue false (fxExp (fxMul fr fxLn2) 150)).scale fl, 0)

/-- log2 a (R123). -/
def FV.log2 (a : FV) : FVF :=
  match a with
  | .nan => (.nan, 0)
  | .inf n => if n then (.nan, flInvalid) else (.inf false, 0)
  | .fin n m e =>
      if m = 0 then (.inf true, flDivZero)
      else if n then (.nan, flInvalid)
      else
        let k := m.log2
        let whole : Int := e + k
        if m = 2 ^ k then (FV.ofInt whole 0, 0)
        else
          let x := m * fxOne / 2 ^ k
          let fr := fxLn x * fxOne / fxLn2
          let s : Int := 2 * (whole * fxOne + fr) + 1
          (.fin (s < 0) s.natAbs (-(fxBits : Int) - 1), 0)

/-- sin or cos of π × r for 0 ≤ r < 2 in fixed point: sign and magnitude of the sine at r. -/
def fxSinPi (r : Nat) : Bool × Nat :=
  let neg := fxOne ≤ r
  let r := if fxOne ≤ r then r - fxOne else r
  let r := if fxOne < 2 * r then fxOne - r else r
  (neg, fxSin (fxMul r fxPi))

/-- sin(π × a) (R123). -/
def FV.sinPi (a : FV) : FVF :=
  match a with
  | .nan => (.nan, 0)
  | .inf _ => (.nan, flInvalid)
  | .fin n m e =>
      let (q, rest, _, half) := intParts m e
      if !rest then (.fin n 0 0, 0)
      else if half then (.fin (n != (q % 2 == 1)) 1 0, 0)
      else
        let x := toFx m e
        let r := x % (2 * fxOne)
        let (neg, v) := fxSinPi r
        (fxValue (n != neg) v, 0)

/-- cos(π × a) (R123). -/
def FV.cosPi (a : FV) : FVF :=
  match a with
  | .nan => (.nan, 0)
  | .inf _ => (.nan, flInvalid)
  | .fin _ m e =>
      let (q, rest, _, half) := intParts m e
      if !rest then (.fin (q % 2 == 1) 1 0, 0)
      else if half then (.fin false 0 0, 0)
      else
        let r := (toFx m e + fxOne / 2) % (2 * fxOne)
        let (neg, v) := fxSinPi r
        (fxValue neg v, 0)

/-- tanh a (R123). -/
def FV.tanh (a : FV) : FVF :=
  match a with
  | .nan => (.nan, 0)
  | .inf n => (.fin n 1 0, 0)
  | .fin n m e =>
      if m = 0 then (.fin n 0 0, 0)
      else if magLe 64 0 m e then (.fin n (2 ^ 200 - 1) (-200), 0)
      else
        let y := 2 * toFx m e
        -- e^y = 2^k × e^(y − k ln 2)
        let k := y / fxLn2
        let ex := fxExp (y - k * fxLn2) 150 * 2 ^ k
        (fxValue n ((ex - fxOne) * fxOne / (ex + fxOne)), 0)

end Sys2Proof.Machine
end

