-- ==== Sys2Proof/Machine/Aes.lean ====
section
/-! DEFINITION. AES-256, its counter mode with GHASH (GCM) and its XTS mode, which seal save records and
pooled lines (spec/17_grades_and_keys.md R381, R383; log entry 161). -/

namespace Sys2Proof.Machine

/-! ### The field GF(2^8) and the cipher -/

/-- Multiplication by x in GF(2^8) modulo x^8 + x^4 + x^3 + x + 1. -/
def gfTwice (a : Byte) : Byte := (a <<< 1) ^^^ (if a.getLsbD 7 then 0x1B else 0)

/-- The product of two elements. -/
def gfMul (a b : Byte) : Byte :=
  ((List.range 8).foldl (fun (x : Byte × Byte) i =>
    (if b.getLsbD i then x.1 ^^^ x.2 else x.1, gfTwice x.2)) (0, a)).1

/-- The inverse, a to the power 254; 0 for 0. -/
def gfInv (a : Byte) : Byte :=
  let sq := fun (x : Byte) => gfMul x x
  let p2 := sq a
  let p4 := sq p2
  let p8 := sq p4
  let p16 := sq p8
  let p32 := sq p16
  let p64 := sq p32
  gfMul p2 (gfMul p4 (gfMul p8 (gfMul p16 (gfMul p32 (gfMul p64 (sq p64))))))

/-- The S-box: the inverse under an affine map. -/
def subByte (a : Byte) : Byte :=
  let b := gfInv a
  b ^^^ b.rotateLeft 1 ^^^ b.rotateLeft 2 ^^^ b.rotateLeft 3 ^^^ b.rotateLeft 4 ^^^ 0x63

/-- The inverse S-box. -/
def unsubByte (a : Byte) : Byte := gfInv (a.rotateLeft 1 ^^^ a.rotateLeft 3 ^^^ a.rotateLeft 6 ^^^ 0x05)

/-- The S-box, tabulated. -/
def subTab : Array Byte := ((List.range 256).map fun i => subByte (BitVec.ofNat 8 i)).toArray

/-- The inverse S-box, tabulated. -/
def unsubTab : Array Byte := ((List.range 256).map fun i => unsubByte (BitVec.ofNat 8 i)).toArray

/-- An entry of a tabulated S-box. -/
def tabByte (t : Array Byte) (b : Byte) : Byte := t.getD b.toNat 0

/-- The bitwise sum of two byte strings. -/
def xorBytes (a b : List Byte) : List Byte := (a.zip b).map fun x => x.1 ^^^ x.2

/-- The round constants of the key schedule. -/
def aesRcon : List Byte := [0x01, 0x02, 0x04, 0x08, 0x10, 0x20, 0x40]

/-- The next word of the key schedule; the words so far stand newest first. -/
def nextKeyWord (i : Nat) (w : List (List Byte)) : List Byte :=
  let last := nth w 0 []
  let t :=
    if i % 8 = 0 then
      xorBytes ((last.drop 1 ++ last.take 1).map (tabByte subTab)) [nth aesRcon (i / 8 - 1) 0, 0, 0, 0]
    else if i % 8 = 4 then last.map (tabByte subTab)
    else last
  xorBytes (nth w 7 []) t

/-- The fifteen round keys of a 32-byte key. -/
def roundKeys (key : List Byte) : List (List Byte) :=
  let first := (List.range 8).map fun i => (key.drop (4 * i)).take 4
  let ws := ((List.range 52).foldl (fun w i => nextKeyWord (i + 8) w :: w) first.reverse).reverse
  (List.range 15).map fun r => ((ws.drop (4 * r)).take 4).flatten

/-- The rows of a block shift left by their numbers. -/
def shiftRows (b : List Byte) : List Byte := (List.range 16).map fun i => nth b ((i + 4 * (i % 4)) % 16) 0

/-- The rows of a block shift right by their numbers. -/
def unshiftRows (b : List Byte) : List Byte := (List.range 16).map fun i => nth b ((i + 12 * (i % 4)) % 16) 0

/-- Every column of a block times the circulant matrix of a row. -/
def mixColumns (m b : List Byte) : List Byte :=
  (List.range 16).map fun i =>
    (List.range 4).foldl (fun x k => x ^^^ gfMul (nth m ((k + 4 - i % 4) % 4) 0) (nth b (i / 4 * 4 + k) 0)) 0

/-- AES-256 encryption of a block under its round keys. -/
def aesBlock (ks : List (List Byte)) (b : List Byte) : List Byte :=
  let x0 := xorBytes b (nth ks 0 [])
  let x1 := (List.range 13).foldl (fun x r =>
    xorBytes (mixColumns [2, 3, 1, 1] (shiftRows (x.map (tabByte subTab)))) (nth ks (r + 1) [])) x0
  xorBytes (shiftRows (x1.map (tabByte subTab))) (nth ks 14 [])

/-- AES-256 decryption of a block. -/
def aesUnblock (ks : List (List Byte)) (b : List Byte) : List Byte :=
  let x0 := (unshiftRows (xorBytes b (nth ks 14 []))).map (tabByte unsubTab)
  (List.range 13).foldl (fun x r =>
    (unshiftRows (mixColumns [14, 11, 13, 9] (xorBytes x (nth ks (13 - r) [])))).map (tabByte unsubTab)) x0
    |> fun x => xorBytes x (nth ks 0 [])

/-! ### GCM -/

/-- A byte string cut into pieces of n bytes, the last one short. -/
def chunksOf (n : Nat) : Nat → List Byte → List (List Byte)
  | 0, _ => []
  | fuel + 1, l => if l.isEmpty then [] else l.take n :: chunksOf n fuel (l.drop n)

/-- The pieces of n bytes of a byte string. -/
def pieces (n : Nat) (l : List Byte) : List (List Byte) := chunksOf n l.length l

/-- A block as a polynomial of GF(2^128): its first bit is the coefficient of 1. -/
def ghashElem (b : List Byte) : BitVec 128 :=
  BitVec.ofNat 128 ((b ++ List.replicate (16 - b.length) 0).foldl (fun (n : Nat) (x : Byte) => n * 256 + x.toNat) 0)

/-- The product in GF(2^128) modulo 1 + x + x^2 + x^7 + x^128. -/
def ghashMul (x y : BitVec 128) : BitVec 128 :=
  ((List.range 128).foldl (fun (a : BitVec 128 × BitVec 128) i =>
    (if x.getLsbD (127 - i) then a.1 ^^^ a.2 else a.1,
     (a.2 >>> 1) ^^^ (if a.2.getLsbD 0 then 0xE1000000000000000000000000000000 else 0))) (0, y)).1

/-- GHASH of associated data and cipher text. -/
def ghash (h : BitVec 128) (aad ct : List Byte) : BitVec 128 :=
  let blocks := pieces 16 aad ++ pieces 16 ct ++ [beBytes 8 (8 * aad.length) ++ beBytes 8 (8 * ct.length)]
  blocks.foldl (fun y b => ghashMul (y ^^^ ghashElem b) h) 0

/-- The counter mode: encryption and decryption alike. -/
def gcmCrypt (key iv text : List Byte) : List Byte :=
  let ks := roundKeys key
  (pieces 16 text).zipIdx.flatMap fun x => xorBytes x.1 (aesBlock ks (iv ++ beBytes 4 (x.2 + 2)))

/-- The tag of AES-256-GCM, with a 96-bit IV. -/
def gcmTag (key iv aad ct : List Byte) : List Byte :=
  let ks := roundKeys key
  let h := ghashElem (aesBlock ks (List.replicate 16 0))
  xorBytes (beBytes 16 (ghash h aad ct).toNat) (aesBlock ks (iv ++ beBytes 4 1))

/-! ### XTS -/

/-- A tweak times x, least significant byte first. -/
def xtsTwice (t : List Byte) : List Byte :=
  let n := leNat t
  leBytes ((n * 2) % 2 ^ 128 ^^^ (if 2 ^ 127 ≤ n then 0x87 else 0)) 16

/-- AES-256-XTS of whole blocks: the first 32 bytes of the key for the data, the next 32 for the tweak. -/
def xtsCrypt (block : List (List Byte) → List Byte → List Byte) (key : List Byte) (tweak : Nat)
    (text : List Byte) : List Byte :=
  let ks := roundKeys (key.take 32)
  let t0 := aesBlock (roundKeys (key.drop 32)) (leBytes tweak 16)
  ((pieces 16 text).foldl (fun (a : List Byte × List Byte) b =>
    (xtsTwice a.1, a.2 ++ xorBytes (block ks (xorBytes b a.1)) a.1)) (t0, [])).2

/-- AES-256-XTS encryption. -/
def xtsSeal (key : List Byte) (tweak : Nat) (text : List Byte) : List Byte := xtsCrypt aesBlock key tweak text

/-- AES-256-XTS decryption. -/
def xtsOpen (key : List Byte) (tweak : Nat) (text : List Byte) : List Byte := xtsCrypt aesUnblock key tweak text

end Sys2Proof.Machine
end

