-- ==== Sys2Proof/Machine/Pool.lean ====
section
/-! DEFINITION. The pipeline of pooled lines: compression, encryption, metadata block and check symbols
(spec/17_grades_and_keys.md R381, R382; log entry 147). -/

namespace Sys2Proof.Machine

/-- The 64 bytes of the key with a number: data key, then tweak key.  Number 0 is no key. -/
def poolKeyBytes (key : Nat) : List Byte := padTo 64 ((Config.poolKey key).take 64)

/-- Sectors that a line compresses to, 1 to 4 (R381 step 1). -/
def lineSectors (line : List Byte) : Nat := 1 + Config.sectors line % 4

/-- The sectors of a line, 32 bytes each; a line that does not compress is stored as it is. -/
def packLine (line : List Byte) : List Byte :=
  if lineSectors line = 4 then line else padTo (32 * lineSectors line) ((Config.packed line).take (32 * lineSectors line))

/-- The metadata block of a line: the number of sectors in bits [1:0], 4 as 0, and zeros (R381 step 2). -/
def metaBlock (line : List Byte) : List Byte := leBytes (lineSectors line % 4) 16

/-- The sectors of a line as the slot at a line number holds them: encrypted, the tweak being the line's
physical address (R381 step 2). -/
def slotBytes (key n : Nat) (line : List Byte) : List Byte := xtsSeal (poolKeyBytes key) (128 * n) (packLine line)

/-- The metadata block as the side table holds it: encrypted with tweak PA + 1 (R381 step 2). -/
def sealedMeta (key n : Nat) (line : List Byte) : List Byte :=
  xtsSeal (poolKeyBytes key) (128 * n + 1) (metaBlock line)

/-- The side-table entry of a line: the metadata block, and 16 check symbols over the sectors and the block as
stored (R381 step 3). -/
def sideEntry (key n : Nat) (line : List Byte) : List Byte :=
  sealedMeta key n line
    ++ padTo 16 ((Config.checkSymbols (slotBytes key n line ++ sealedMeta key n line)).take 16)

/-- The metadata block that a reader finds in a side-table entry under its own key (R382). -/
def openMeta (key n : Nat) (side : List Byte) : List Byte :=
  xtsOpen (poolKeyBytes key) (128 * n + 1) (side.take 16)

/-- The metadata block that a reader decrypts has a reserved bit set: the line is poisoned to it.  Every value
of bits [1:0] stands for a c from 1 to 4 (R381, R382; log entry 147). -/
def metaLost (reader writer n : Nat) (line : List Byte) : Bool :=
  reader != writer && 4 ≤ leNat (openMeta reader n (sideEntry writer n line))

/-- The line that a reader under another key decrypts, when its metadata block passes (R382). -/
def openLine (reader writer n : Nat) (line : List Byte) : List Byte :=
  let b := leNat (openMeta reader n (sideEntry writer n line)) % 4
  let c := if b = 0 then 4 else b
  let slot := padTo 128 ((slotBytes writer n line ++ Config.staleSectors n).take 128)
  let sectors := xtsOpen (poolKeyBytes reader) (128 * n) (slot.take (32 * c))
  if c = 4 then sectors else padTo 128 ((Config.unpacked sectors).take 128)

end Sys2Proof.Machine
end

