-- ==== Sys2Proof/Machine/Memory.lean ====
section
/-! DEFINITION. Physical memory, scratchpad, translation and the checks of an access
(spec/11_pages_and_tiers.md, spec/10_memory_access.md R225-R228, spec/07_scratchpad.md R148-R151). -/

namespace Sys2Proof.Machine

/-! ### Cells in canonical form -/

/-- What an address not listed reads as: every memory is wiped to zero at cold reset (R387); pooled
and host memory read as zero by the choice of log entry 2. -/
def unlisted : Byte := 0

/-- The byte at an address. -/
def cellRead (m : List Host.Cell) (a : Nat) : Byte :=
  match m.find? fun c => c.1 == a with
  | some c => c.2
  | none => unlisted

/-- The bytes at consecutive addresses. -/
def cellReadN (m : List Host.Cell) (a n : Nat) : List Byte :=
  (List.range n).map fun i => cellRead m (a + i)

/-- Bytes placed from an address up, without those equal to what an unlisted address reads as. -/
def placed (a : Nat) : List Byte → List Host.Cell
  | [] => []
  | b :: bs => if b = unlisted then placed (a + 1) bs else (a, b) :: placed (a + 1) bs

/-- Write consecutive bytes, keeping the canonical form. -/
def cellWriteN (m : List Host.Cell) (a : Nat) (bs : List Byte) : List Host.Cell :=
  (m.filter fun c => c.1 < a) ++ placed a bs ++ m.filter fun c => a + bs.length ≤ c.1

/-- The canonical form: addresses strictly rising, no byte equal to an unlisted one. -/
def Memory.wf (m : List Host.Cell) : Bool :=
  (m.all fun c => c.2 != unlisted) && decide (m.Pairwise fun x y => x.1 < y.1)

/-- Wipe a range of addresses (R387). -/
def cellWipe (m : List Host.Cell) (a n : Nat) : List Host.Cell :=
  m.filter fun c => c.1 < a || a + n ≤ c.1

/-! ### Page tables (R245-R251) -/

/-- The first physical address after HBM4E. -/
def hbmEnd : Nat := 2 ^ 40
/-- The first physical address after LPDDR6. -/
def lpEnd : Nat := 2 ^ 42
/-- The first physical address of CXL pooled memory. -/
def poolBase : Nat := 2 ^ 46
/-- The first physical address after pooled memory. -/
def poolEnd : Nat := 2 ^ 47
/-- The first physical address of host memory. -/
def hostBase : Nat := 2 ^ 51
/-- The first address after the physical space. -/
def physEnd : Nat := 2 ^ 52

/-- A physical address in a reserved range (R257). -/
def reservedPA (a : Nat) : Bool :=
  (lpEnd ≤ a && a < poolBase) || (poolEnd ≤ a && a < hostBase) || physEnd ≤ a

/-- The memory tiers of R240. -/
inductive Tier where
  | hbm
  | lpddr
  | pool
  | host
  deriving DecidableEq, Repr

/-- The tier of a physical address that is not reserved. -/
def tierOf (a : Nat) : Tier :=
  if a < hbmEnd then .hbm else if a < lpEnd then .lpddr else if a < poolEnd then .pool else .host

/-- The memory slice, 4 × die + slice, that homes an HBM4E byte (R258). -/
def homeSlice (a : Nat) : Nat := 4 * bitsOf a 39 38 + bitsOf a 13 12

/-- The LPDDR6 controller of an LPDDR6 byte: PA[15:12] from the 2^40 origin (R258). -/
def homeController (a : Nat) : Nat := bitsOf (a - hbmEnd) 15 12

/-- PAGE reason NOTPRESENT (R350). -/
def rNotPresent : Nat := 1
/-- PAGE reason BADPTE. -/
def rBadPte : Nat := 2
/-- PAGE reason BADPA. -/
def rBadPa : Nat := 3
/-- PAGE reason NOREAD. -/
def rNoRead : Nat := 4
/-- PAGE reason NOWRITE. -/
def rNoWrite : Nat := 5
/-- PAGE reason NOEXEC. -/
def rNoExec : Nat := 6
/-- PAGE reason HIGHBITS. -/
def rHighBits : Nat := 7
/-- The model's own: the walk met an uncorrectable error, and the access takes MEMERR (R389). -/
def rMemErr : Nat := 8

/-- The end of a walk: a leaf, or PAGE with a reason and the level. -/
inductive Walk where
  | leaf (l : Leaf)
  | fault (reason level : Nat)
  deriving DecidableEq, Repr

/-- The index of a level into its table node (R247). -/
def levelIndex (lvl va : Nat) : Nat :=
  if lvl = 0 then bitsOf va 56 44 else if lvl = 1 then bitsOf va 43 31 else bitsOf va 30 18

/-- The fields of a leaf entry (R249). -/
def leafFields (e lvl : Nat) : Leaf :=
  let kind := bitsOf e 59 58
  { big := lvl == 1, grade := bitsOf e 63 61, dom := bitsOf e 60 60 == 1, kind := kind,
    frame := bitsOf e 51 18 * 2 ^ 18, hfn := bitsOf e 57 35, lfn := bitsOf e 34 10,
    cp := bitsOf e 7 6, ex := bitsOf e 5 5 == 1, wr := bitsOf e 4 4 == 1, rd := bitsOf e 3 3 == 1 }

/-- A leaf entry with a reserved bit set, a reserved CP, or a KIND 2 above level 2 (R249, R250). -/
def leafBad (e lvl : Nat) : Bool :=
  let kind := bitsOf e 59 58
  bitsOf e 2 2 != 0 || bitsOf e 7 6 == 3
    || (if kind = 2 then lvl != 2 || bitsOf e 9 8 != 0
        else bitsOf e 57 52 != 0 || bitsOf e 17 8 != 0)
    || (lvl == 1 && bitsOf e 30 18 != 0)

/-- The window page an access through a KIND 3 leaf names (R249, R400). -/
def winPage (l : Leaf) (va : Nat) : Nat :=
  bitsOf l.frame 43 18 + if l.big then bitsOf va 30 18 else 0

/-- The window number of a KIND 3 leaf. -/
def winNum (l : Leaf) : Nat := bitsOf l.frame 51 44

/-- Addresses a leaf may not name: reason BADPA (R250).  A window whose page would lie in a reserved range
names one too: no access reaches it (R257; log entry 178). -/
def leafBadPA (wins : List Win) (l : Leaf) (va : Nat) : Bool :=
  if l.kind = 0 then reservedPA l.frame
  else if l.kind = 1 then hbmEnd ≤ l.frame
  else if l.kind = 2 then 25165824 ≤ l.lfn
  else
    match wins.find? fun w => w.num == winNum l with
    | none => true
    | some w => w.pages ≤ winPage l va || reservedPA (w.base + winPage l va * 2 ^ 18)

/-- The walk from a node, over the levels still to go (R250); `rd` gives the bytes of an entry, none where
they are poisoned (R389). -/
def walkFrom (rd : Nat → Option (List Byte)) (wins : List Win) (va : Nat) : List Nat → Nat → Walk
  | [], _ => .fault rBadPte 2
  | lvl :: rest, node =>
      if lpEnd ≤ node then .fault rBadPa lvl else
      match rd (node + 8 * levelIndex lvl va) with
      | none => .fault rMemErr lvl
      | some b =>
      let e := leNat b
      if bitsOf e 0 0 = 0 then .fault rNotPresent lvl
      else if bitsOf e 1 1 = 1 then
        if lvl = 0 || leafBad e lvl then .fault rBadPte lvl
        else
          let l := leafFields e lvl
          if leafBadPA wins l va then .fault rBadPa lvl else .leaf l
      else if lvl = 2 || bitsOf e 63 52 != 0 || bitsOf e 15 2 != 0 then .fault rBadPte lvl
      else
        let next := bitsOf e 51 16 * 2 ^ 16
        if lpEnd ≤ next then .fault rBadPa lvl else walkFrom rd wins va rest next

/-- An uncorrectable error in the line of a physical byte (R382, R389). -/
def State.lineError (s : State) (a : Nat) : Bool :=
  s.poison.contains (a / 128) || s.symErr.any fun e => e.1 == a / 128 && 8 < e.2

/-- A physical byte in a frame recorded for a tuple region (R283). -/
def State.reused (s : State) (a : Nat) : Bool :=
  s.ctxs.any fun c => c.regions.any fun r => r.frames.any fun f => f ≤ a && a < f + 2 ^ 18

/-- What a user other than a tuple engine reads at a physical address: memory, and a free byte in a frame
recorded for a tuple region (R283; log entry 8). -/
def State.physByte (s : State) (a : Nat) : Byte :=
  if s.reused a then Config.reusedByte s.choice (s.die 0).tick a else cellRead s.mem a

/-- The bytes of a table entry, as the walk reads them (R250). -/
def State.walkEntry (s : State) (a : Nat) : Option (List Byte) :=
  if s.lineError a then none else some ((List.range 8).map fun i => s.physByte (a + i))

/-- The walk of an address under a context's root (R250). -/
def State.walk (s : State) (root va : Nat) : Walk := walkFrom s.walkEntry s.fw.wins va [0, 1, 2] root

/-! ### TLBs (R256) -/

/-- A TLB entry covers an address of a context. -/
def TlbEnt.covers (e : TlbEnt) (asid va : Nat) : Bool :=
  e.asid == asid
    && (if e.leaf.big then e.vpn / 8192 == va / 2 ^ 31 else e.vpn == va / 2 ^ 18)

/-- What an entry gives: its leaf, or MEMERR where it is in error (R389). -/
def TlbEnt.result (e : TlbEnt) : Walk := if e.bad then .fault rMemErr 2 else .leaf e.leaf

/-- The leaf for an address: L1 TLB of the core, L2 TLB of its die, then a walk.  An agent with no
core walks. -/
def State.leafFor (s : State) (asid : Nat) (core : Option Nat) (va : Nat) : Walk :=
  let walk := s.walk (s.ctx asid).root va
  match core with
  | none => walk
  | some c =>
      match (s.core c).tlb.find? (fun e => e.covers asid va) with
      | some e => e.result
      | none =>
          match (s.die (c / 64)).tlb.find? (fun e => e.covers asid va) with
          | some e => e.result
          | none => walk

/-- Keep a leaf in the L1 TLB of a core and the L2 TLB of its die; the eldest entry gives way. -/
def State.tlbFill (s : State) (asid core va : Nat) (l : Leaf) : State :=
  let vpn := if l.big then va / 2 ^ 31 * 8192 else va / 2 ^ 18
  let e : TlbEnt := { asid := asid, vpn := vpn, leaf := l }
  let add := fun (n : Nat) (t : List TlbEnt) =>
    if t.any (fun x => x.covers asid va) then t else (e :: t).take n
  (s.modCore core fun c => { c with tlb := add 512 c.tlb }).modDie (core / 64)
    fun d => { d with tlb := add 32768 d.tlb }

/-! ### Accesses -/

/-- Where a byte lies: physical memory (a peer package's memory above 2^52), or a core's
scratchpad. -/
inductive Loc where
  | phys (a : Nat)
  | spad (core off : Nat)
  deriving DecidableEq, Repr

/-- Where an access lands. -/
structure Site where
  /-- its bytes -/
  locs : List Loc
  /-- grade of the page or line -/
  g : Nat
  /-- in a scratchpad window -/
  scratch : Bool := false
  /-- the leaf -/
  leaf : Leaf := {}
  /-- the reduction window -/
  win : Option Win := none
  /-- number of the key under which pooled bytes are read and written (R381) -/
  key : Option Nat := none
  deriving DecidableEq, Repr

/-- Who accesses: context, ring (for the windows), core (for the TLBs). -/
structure Party where
  /-- context -/
  asid : Nat
  /-- ring -/
  ring : Option Nat := none
  /-- core -/
  core : Option Nat := none
  deriving DecidableEq, Repr

/-- What an access wants (R224-R227, R240). -/
structure Want where
  /-- bytes -/
  n : Nat
  /-- it reads -/
  rd : Bool := false
  /-- it writes -/
  wr : Bool := false
  /-- atomic or reduction -/
  atomic : Bool := false
  /-- reduction -/
  red : Bool := false
  /-- pref or cfl -/
  maint : Bool := false
  /-- allowed on host memory (R240) -/
  hostOk : Bool := true
  /-- allowed on split-word pages (R240, R244) -/
  splitOk : Bool := true
  /-- required alignment; 1 for none -/
  align : Nat := 1
  /-- grade of the data written -/
  g : Nat := 0
  /-- instruction fetch -/
  ex : Bool := false
  /-- the address must name scratchpad (R148) -/
  mustScratch : Bool := false
  /-- the tuple instructions themselves: KIND 1 is wanted (R296) -/
  tuple : Bool := false
  /-- the GRADE of the page is checked against the data (R227 order 8) -/
  gradeChk : Bool := true
  deriving DecidableEq, Repr

/-- The outcome of the checks of one access. -/
inductive Acc where
  | ok (site : Site)
  | final (c : Cause) (reason : Nat)
  | replay (c : Cause) (level : Nat)
  deriving DecidableEq, Repr

/-- First address of the ring window (R148). -/
def ringWin : Nat := 0x01F0000000000000
/-- First address of the neighbourhood window (R148). -/
def nbWin : Nat := 0x01F1000000000000
/-- First address after the windows. -/
def winEnd : Nat := 0x01F2000000000000

/-- An address in the range of the windows (R148). -/
def inWindows (va : Nat) : Bool := ringWin ≤ va && va < winEnd

/-- The ring with a ring index in the neighbourhood of a ring (R148). -/
def State.peerRing (s : State) (r n : Nat) : Option Ring :=
  s.rings.find? fun x => x.nb == (s.ring r).nb && x.ridx == n

/-- Core and offset of `n` bytes at a window address, in the view of a ring; none outside an
allocation (R148). -/
def State.scratchAt (s : State) (ring : Option Nat) (va n : Nat) : Option (Nat × Nat × Nat) :=
  match ring with
  | none => none
  | some r =>
      if va < nbWin then
        let o := va - ringWin
        match s.ring? r with
        | none => none
        | some x => if o + n ≤ x.spLen then some (x.core, x.spBase + o, x.id) else none
      else
        let o := (va - nbWin) % 0x80000
        match s.peerRing r ((va - nbWin) / 0x80000) with
        | none => none
        | some x => if o + n ≤ x.spLen then some (x.core, x.spBase + o, x.id) else none

/-- Grade of a scratchpad line (R151). -/
def State.lineGrade (s : State) (core off : Nat) : Nat :=
  match (s.core core).spgr.find? fun e => e.1 == off / 128 with
  | some e => e.2
  | none => 0

/-- The physical address of a home package's byte: the package's own memory, or a peer's above
2^52 (R400). -/
def State.homeAddr (s : State) (home a : Nat) : Nat :=
  if home = s.fw.pkg then a else (home + 1) * 2 ^ 52 + a

/-- Byte i of an access through a leaf (R249). -/
def leafLoc (s : State) (l : Leaf) (va : Nat) : Loc :=
  let off := if l.big then va % 2 ^ 31 else va % 2 ^ 18
  if l.kind = 2 then
    let j := off / 4
    let b := off % 4
    if b < 2 then .phys (hbmEnd + l.lfn * 2 ^ 17 + 2 * j + b)
    else .phys (l.hfn * 2 ^ 17 + 2 * j + (b - 2))
  else if l.kind = 3 then
    match s.fw.wins.find? fun w => w.num == winNum l with
    | some w => .phys (s.homeAddr w.home (w.base + winPage l va * 2 ^ 18 + va % 2 ^ 18))
    | none => .phys off
  else .phys (l.frame + off)

/-- The extent of a pooled physical address is not present (R259). -/
def State.extentAbsent (s : State) (loc : Loc) : Bool :=
  match loc with
  | .phys a => poolBase ≤ a && a < poolEnd && !s.extents.contains ((a - poolBase) / 2 ^ 28)
  | .spad .. => false

/-- A byte whose line is poisoned or beyond correction, or a scratchpad byte in error (R382, R389). -/
def State.poisoned (s : State) (loc : Loc) : Bool :=
  match loc with
  | .phys a => s.lineError a
  | .spad c o => (s.core c).spBad.contains o

/-- A byte of pooled memory (R257). -/
def Loc.pooled : Loc → Bool
  | .phys a => poolBase ≤ a && a < poolEnd
  | .spad .. => false

/-- The number of a domain's key; 0 when it has none (R381, R387). -/
def State.domainKey (s : State) (domain : Nat) : Nat :=
  match s.fw.domKeys.find? fun k => k.1 == domain with
  | some k => k.2
  | none => 0

/-- The number of the key for a context's pooled lines through a leaf: its domain's for a page of the domain,
else the package's pool key (R374, R381; log entry 171). -/
def State.keyFor (s : State) (asid : Nat) (l : Leaf) : Nat :=
  let c := s.ctx asid
  if c.prot && l.dom then s.domainKey c.domain else s.fw.poolKey

/-- The 128 bytes of a line. -/
def State.lineBytes (s : State) (n : Nat) : List Byte := cellReadN s.mem (128 * n) 128

/-- The side-table entry of a pooled line that has been written (R381). -/
def State.poolSide (s : State) (n : Nat) : Option (List Byte) :=
  (s.pkeys.find? fun e => e.1 == n).map fun e => sideEntry e.2 n (s.lineBytes n)

/-- The slot of a pooled line that has been written (R381). -/
def State.poolSlot (s : State) (n : Nat) : Option (List Byte) :=
  (s.pkeys.find? fun e => e.1 == n).map fun e => slotBytes e.2 n (s.lineBytes n)

/-- A pooled byte whose line is poisoned to a reader with a key, since it was written under another (R382). -/
def State.lineLost (s : State) (key : Nat) (x : Loc) : Bool :=
  match x with
  | .phys a =>
      x.pooled && (match s.pkeys.find? fun e => e.1 == a / 128 with
        | some e => metaLost key e.2 (a / 128) (s.lineBytes (a / 128))
        | none => false)
  | .spad .. => false

/-- The keys of pooled lines once one is written under a key. -/
def keyLine (l : List (Nat × Nat)) (n key : Nat) : List (Nat × Nat) :=
  (l.filter fun e => e.1 < n) ++ [(n, key)] ++ l.filter fun e => n < e.1

/-- The keys of pooled lines once bytes at some places are written under a key (R381). -/
def keyLocs (l : List (Nat × Nat)) (key : Nat) (locs : List Loc) : List (Nat × Nat) :=
  locs.foldl (fun l x => match x with | .phys a => if x.pooled then keyLine l (a / 128) key else l | .spad .. => l) l

/-- A package is on the roster of a context (R376). -/
def State.onRoster (s : State) (asid pkg : Nat) : Bool :=
  match s.fw.rosters.find? fun r => r.1 == (s.ctx asid).domain with
  | some r => r.2.contains pkg
  | none => false

/-- A translation fault, replayable as R252 gives; an error that the walk met is MEMERR (R389). -/
def State.xlatFault (s : State) (asid : Nat) (w : Want) (c : Cause) (reason level : Nat) : Acc :=
  if reason == rMemErr then .final .memerr 0
  else if (s.ctx asid).rply && !w.ex && (c == .extent || reason == rNotPresent) then .replay c level
  else .final c reason

/-- The party of a ring's own accesses. -/
def State.ringParty (s : State) (ring : Nat) : Party :=
  { asid := s.asidOf ring, ring := some ring, core := some (s.ring ring).core }

/-- Checks 5 to 8 of R227, on a leaf. -/
def State.leafAccess (s : State) (p : Party) (va : Nat) (w : Want) (l : Leaf) : Acc :=
  let locs := (List.range w.n).map fun i => leafLoc s l (va + i)
  let win := if l.kind = 3 then s.fw.wins.find? fun x => x.num == winNum l else none
  let home := match win with | some x => x.home | none => s.fw.pkg
  let ctx := s.ctx p.asid
  -- a 2 GiB leaf kept in a TLB is judged at the page it serves (R250)
  if l.kind == 3 && leafBadPA s.fw.wins l va then
    s.xlatFault p.asid w .page rBadPa 2
  else if w.rd && !l.rd then .final .page rNoRead
  else if w.wr && !l.wr then .final .page rNoWrite
  else if w.ex && !l.ex then .final .page rNoExec
  else if locs.any s.extentAbsent then s.xlatFault p.asid w .extent 0 0
  else if (l.kind == 1) != w.tuple then .final .cls 0
  else if l.kind == 3 && (match win with | some x => if w.red then !x.red else !x.acc | none => true) then
    .final .cls 0
  else if w.atomic && l.kind == 2 && !w.splitOk then .final .cls 0
  else if w.atomic && l.kind == 0 && tierOf l.frame == .host && !w.hostOk then .final .cls 0
  else if w.wr && ctx.prot && !l.dom then .final .domain 0
  else if home != s.fw.pkg && !s.onRoster p.asid home then .final .roster 0
  else if w.wr && w.gradeChk && l.grade < w.g then .final .grade 0
  else if locs.any fun x => (s.poisoned x && (w.rd || w.ex || x.pooled)) || s.lineLost (s.keyFor p.asid l) x then
    .final .memerr 0
  else
    .ok { locs := locs, g := l.grade, leaf := l, win := win,
          key := if locs.any Loc.pooled then some (s.keyFor p.asid l) else none }

/-- The place of one byte, when a window or a mapping gives it one (R148, R249). -/
def State.byteAt (s : State) (p : Party) (va : Nat) : Option Loc :=
  if inWindows va then (s.scratchAt p.ring va 1).map fun x => .spad x.1 x.2.1
  else
    match s.leafFor p.asid p.core va with
    | .leaf l => some (leafLoc s l va)
    | .fault .. => none

/-- Two byte ranges overlap: in their addresses, or in a byte that both name where its place is known
(log entry 99). -/
def State.touches (s : State) (p : Party) (a n b m : Nat) : Bool :=
  (decide (a < b + m) && decide (b < a + n))
    || (List.range n).any fun i =>
        match s.byteAt p (a + i) with
        | none => false
        | some x => (List.range m).any fun j => s.byteAt p (b + j) == some x

/-! ### Links (R380, R400) -/

/-- Change a link: fabric ports 0-17, PCIe 18, CXL 19. -/
def State.modLink (s : State) (n : Nat) (f : Link → Link) : State :=
  s.modFw fun w => { w with links := upd w.links n f }

/-- The fabric port that carries what leaves for another package: the first that is up (log entry 145). -/
def State.fabricPort (s : State) : Option Nat := (List.range 18).find? fun n => (nth s.fw.links n {}).state == 0

/-- Flits are counted; at 2^48 the link takes a new key and counts afresh (R380). -/
def Link.carry (k : Link) (n : Nat) : Link :=
  if 2 ^ 48 ≤ k.flits + n then { k with flits := 0, key := k.key + 1 } else { k with flits := k.flits + n }

/-- The access leaves through a fabric port: every reduction to a window does (R242), and a load, store or
returning atomic when the window's home is another package (R400). -/
def State.leaves (s : State) (site : Site) (red : Bool) : Bool :=
  match site.win with | some w => red || w.home != s.fw.pkg | none => false

/-- The access leaves the package, and no fabric link is up (R242, R380, R400). -/
def State.cutOff (s : State) (site : Site) (red : Bool := false) : Bool := s.leaves site red && s.fabricPort.isNone

/-- Flits leave the package by the fabric (R380, R400). -/
def State.sendFlits (s : State) (n : Nat) : State :=
  match s.fabricPort with
  | some p => s.modLink p fun k => k.carry n
  | none => s

/-- An access that leaves the package takes a flit of the fabric (R242, R380, R400). -/
def State.sendTo (s : State) (site : Site) (red : Bool := false) : State :=
  if s.leaves site red then s.sendFlits 1 else s

/-- The checks of one access at a virtual address, in the order of R227. -/
def State.access (s : State) (p : Party) (va : Nat) (w : Want) : Acc :=
  if w.mustScratch && !inWindows va then .final .sprange 0
  else if 2 ^ 57 ≤ va then .final .page rHighBits
  else if inWindows va then
    if w.ex then .final .sprange 0
    else
      match s.scratchAt p.ring va w.n with
      | none => .final (if w.maint || w.tuple then .cls else .sprange) 0
      | some (c, o, _) =>
          if w.atomic || w.maint || w.tuple then .final .cls 0
          else if va % w.align != 0 then .final .misalign 0
          else if w.rd && (List.range w.n).any fun i => s.poisoned (.spad c (o + i)) then .final .memerr 0
          else
            .ok { locs := (List.range w.n).map fun i => .spad c (o + i), g := s.lineGrade c o,
                  scratch := true }
  else if va % w.align != 0 then .final .misalign 0
  else
    match s.leafFor p.asid p.core va with
    | .fault reason level => s.xlatFault p.asid w .page reason level
    | .leaf l => s.leafAccess p va w l

/-- Keep in the TLBs what a translated access used. -/
def State.touch (s : State) (p : Party) (va : Nat) (site : Site) : State :=
  match p.core with
  | some c => if site.scratch then s else s.tlbFill p.asid c va site.leaf
  | none => s

/-- A byte. -/
def State.readLoc (s : State) (l : Loc) : Byte :=
  match l with
  | .phys a => cellRead s.mem a
  | .spad c o => cellRead (s.core c).spad o

/-- The bytes of a site. -/
def State.readSite (s : State) (site : Site) : List Byte := site.locs.map s.readLoc

/-- A pooled byte whose line was written under another key than the one at hand (R381). -/
def State.otherKey (s : State) (key : Option Nat) (x : Loc) : Bool :=
  match key, x with
  | some k, .phys a => x.pooled && s.pkeys.any fun e => e.1 == a / 128 && e.2 != k
  | _, _ => false

/-- A pooled line as a reader with a key decrypts it (R382). -/
def State.openedLine (s : State) (key n : Nat) : List Byte :=
  match s.pkeys.find? fun e => e.1 == n with
  | some e => if e.2 = key then s.lineBytes n else openLine key e.2 n (s.lineBytes n)
  | none => s.lineBytes n

/-- What a reader with a key finds in a byte: what it holds; a free byte in a frame recorded for a tuple region
(R283; log entry 8); the decrypted byte of a pooled line written under another key (R382). -/
def State.seenByte (s : State) (key : Option Nat) (x : Loc) : Byte :=
  match x with
  | .phys a => if s.otherKey key x then nth (s.openedLine (key.getD 0) (a / 128)) (a % 128) 0 else s.physByte a
  | .spad .. => s.readLoc x

/-- The bytes that a reader finds at a site. -/
def State.loadSite (s : State) (site : Site) : List Byte := site.locs.map (s.seenByte site.key)

/-- Write a byte; a scratchpad line takes the higher of its grade and the data's (R151), and a byte written
afresh is no longer in error. -/
def State.writeLoc (s : State) (l : Loc) (b : Byte) (g : Nat) : State :=
  match l with
  | .phys a => { s with mem := cellWriteN s.mem a [b] }
  | .spad c o =>
      s.modCore c fun k =>
        let old := match k.spgr.find? fun e => e.1 == o / 128 with | some e => e.2 | none => 0
        { k with
          spad := cellWriteN k.spad o [b], spBad := k.spBad.filter (· != o),
          spgr := if old < g then
              (k.spgr.filter fun e => e.1 < o / 128) ++ [(o / 128, g)]
                ++ k.spgr.filter fun e => o / 128 < e.1
            else k.spgr }

/-- Write bytes to places. -/
def State.writeLocs (s : State) (ls : List Loc) (bs : List Byte) (g : Nat) : State :=
  (ls.zip bs).foldl (fun s x => s.writeLoc x.1 x.2 g) s

/-- Pooled lines with bytes at some places are about to be written under a key (R381): one written under another
key is first read, so that its other bytes become what this key decrypts (R382). -/
def State.takeKey (s : State) (key : Nat) (locs : List Loc) : State :=
  let mem := locs.foldl (fun m x =>
    match x with
    | .phys a =>
        if s.otherKey (some key) x then cellWriteN m (a / 128 * 128) (padTo 128 ((s.openedLine key (a / 128)).take 128)) else m
    | .spad .. => m) s.mem
  { s with mem := mem, pkeys := keyLocs s.pkeys key locs }

/-- The pooled lines of a site are written under its key (R381). -/
def State.keySite (s : State) (site : Site) : State :=
  match site.key with
  | some k => s.takeKey k site.locs
  | none => s

/-- Write bytes at physical places under a key, where the byte is in no reserved range and its extent is present
(R257, R259, R381). -/
def State.writePhys (s : State) (key : Option Nat) (bs : List (Nat × Byte)) : State :=
  let l : List (Nat × Byte) := bs.filter fun x => !s.extentAbsent (.phys x.1) && !(x.1 < physEnd && reservedPA x.1)
  let locs := l.map fun x => Loc.phys x.1
  let s1 := match key with | some k => s.takeKey k locs | none => s
  s1.writeLocs locs (l.map fun x => x.2) 0

/-- Write the bytes of a site. -/
def State.writeSite (s : State) (site : Site) (bs : List Byte) (g : Nat) : State :=
  (s.keySite site).writeLocs site.locs bs g

/-! ### Accesses of many bytes by the device itself -/

/-- Bytes at a virtual address, byte by byte through the checks; the first fault otherwise, and the site itself
where the byte lies in another package and no link is up (R380). -/
def State.readBytes (s : State) (p : Party) (va n : Nat) : Except (Acc × Nat) (List Byte × Nat) :=
  (List.range n).foldl
    (fun r i =>
      match r with
      | .error e => .error e
      | .ok (bs, g) =>
          match s.access p (va + i) { n := 1, rd := true } with
          | .ok site => if s.cutOff site then .error (.ok site, va + i) else .ok (bs ++ s.loadSite site, max g site.g)
          | a => .error (a, va + i))
    (.ok ([], 0))

/-- The access of a byte at an address goes to another package (R400). -/
def State.remoteAt (s : State) (p : Party) (va : Nat) : Bool :=
  match s.access p va { n := 1, rd := true } with
  | .ok site => s.leaves site false
  | _ => false

/-- Count the flits of n bytes at an address, one for each 256, where they lie in another package (R380, R400;
log entry 145). -/
def State.countFlits (s : State) (p : Party) (va n : Nat) : State :=
  if s.remoteAt p va then s.sendFlits ((n + 255) / 256) else s

/-- Write bytes at a virtual address, all or none; none on the first fault, and none where a byte lies in another
package and no link is up (R380). -/
def State.writeBytes (s : State) (p : Party) (va : Nat) (bs : List Byte) (w : Want) :
    Except (Acc × Nat) State :=
  let sites := (List.range bs.length).map fun i => (va + i, s.access p (va + i) { w with n := 1 })
  match sites.find? fun x => match x.2 with | .ok site => s.cutOff site | _ => true with
  | some x => .error (x.2, x.1)
  | none =>
      let s1 := (sites.zip bs).foldl
        (fun s x => match x.1.2 with | .ok site => s.writeSite site [x.2] w.g | _ => s) s
      .ok (if sites.any fun x => match x.2 with | .ok site => s.leaves site false | _ => false then
        s1.sendFlits ((bs.length + 255) / 256) else s1)

/-! ### Instruction fetch (R35, R36) -/

/-- A byte of code: from the lines `held` for the clause being executed (R36), else the cached line when
there is one, else memory; the faulting page's address where the fetch faults (R35).  A line held with no
bytes is one whose fetch faulted. -/
def State.fetchByte (s : State) (held : List (Word × List Byte)) (asid core : Nat) (va : Nat) :
    Except Word Byte :=
  let page : Word := BitVec.ofNat 64 (va / 2 ^ 18 * 2 ^ 18)
  let line : Word := BitVec.ofNat 64 (va / 128 * 128)
  match held.find? fun e => e.1 == line with
  | some e => if e.2 = [] then .error page else .ok (nth e.2 (va % 128) 0)
  | none =>
  if 2 ^ 57 ≤ va || inWindows va then .error page
  else
    match (s.core core).icache.find? fun e => e.1 == asid && e.2.1 == line with
    | some e => .ok (nth e.2.2 (va % 128) 0)
    | none =>
        match s.access { asid := asid, core := some core } va { n := 1, ex := true } with
        | .ok site =>
            match s.loadSite site with
            | b :: _ => .ok b
            | [] => .error page
        | _ => .error page

/-- A unit as fetched: decoded, or poisoned by a fetch fault with the faulting page (R35). -/
inductive Fetched where
  | unit_ (d : Decoded)
  | poison (page : Word) (len : Nat)
  deriving DecidableEq, Repr

/-- The first n bytes at an address, or the first faulting page. -/
def State.fetchBytes (s : State) (held : List (Word × List Byte)) (asid core va : Nat) :
    Nat → Except Word (List Byte)
  | 0 => .ok []
  | n + 1 =>
      match s.fetchByte held asid core va with
      | .error p => .error p
      | .ok b =>
          match s.fetchBytes held asid core ((va + 1) % 2 ^ 64) n with
          | .error p => .error p
          | .ok bs => .ok (b :: bs)

/-- The unit at an address, from the lines held for a clause where they have it (R26, R27, R35, R36).  A unit
whose first byte cannot be fetched counts as 1 byte long where the units after it are placed: the spec gives it
no length (DESIGN CHOICE, log entry 179). -/
def State.fetchHeld (s : State) (held : List (Word × List Byte)) (asid core va : Nat) : Fetched :=
  match s.fetchByte held asid core va with
  | .error p => .poison p 1
  | .ok b =>
      match s.fetchBytes held asid core va (unitLen b) with
      | .error p => .poison p (unitLen b)
      | .ok bs => .unit_ (decode bs)

/-- The unit at an address (R26, R27, R35). -/
def State.fetch (s : State) (asid core va : Nat) : Fetched := s.fetchHeld [] asid core va

/-- A 128-byte line of code as a core fetches it: the cached line, else memory; no bytes where its fetch
faults (R35, R36). -/
def State.codeLine (s : State) (asid core line : Nat) : Word × List Byte :=
  let w : Word := BitVec.ofNat 64 line
  match (s.core core).icache.find? fun e => e.1 == asid && e.2.1 == w with
  | some e => (w, e.2.2)
  | none =>
      if 2 ^ 57 ≤ line || inWindows line then (w, [])
      else
        match s.access { asid := asid, core := some core } line { n := 128, ex := true } with
        | .ok site => (w, s.loadSite site)
        | _ => (w, [])

/-- The lines that a clause from an address up to its end touches, as they are fetched for it: each unit
of the clause is taken from them (R36). -/
def State.codeLines (s : State) (asid core first last : Nat) : List (Word × List Byte) :=
  (List.range ((last - 1) / 128 + 1 - first / 128)).map fun i => s.codeLine asid core ((first / 128 + i) * 128)

/-- The next unit of a scalar side: within a clause from the lines fetched for it (R36). -/
def State.fetchTroupe (s : State) (t : Troupe) : Fetched :=
  s.fetchHeld (if t.left = 0 then [] else t.code) (s.asidOf t.id.ring) (s.ring t.id.ring).core t.pc.toNat

/-- The next unit of a matrix stream: within a clause from the lines fetched for it (R36). -/
def State.fetchStream (s : State) (ring : Nat) (st : Stream) : Fetched :=
  s.fetchHeld (if st.left = 0 then [] else st.code) (s.asidOf ring) (s.ring ring).core st.pc.toNat

/-- The length of a fetched unit. -/
def Fetched.len : Fetched → Nat
  | .unit_ d => d.len
  | .poison _ n => n

/-- The fetched unit is a clause header. -/
def Fetched.isHeader : Fetched → Bool
  | .unit_ (.ok (.clauseHeader _) _) => true
  | _ => false

end Sys2Proof.Machine
end

