-- ==== Sys2Proof/Machine/Operands.lean ====
section
/-! DEFINITION. Operands: integer types, specifiers and specials, capture at dispatch, and which
registers an instruction reads and writes (spec/02_encoding.md R40-R43, spec/04_registers.md R81, R90, R94). -/

namespace Sys2Proof.Machine

/-! ### Integer types (R40, R94, R111) -/

/-- The width w of an integer type. -/
def tyWidth (ty : Nat) : Nat := 8 * 2 ^ (ty % 4)

/-- i types are signed, n types are not. -/
def tySigned (ty : Nat) : Bool := ty < 4

/-- The low w bits of a number read as the type. -/
def tyInt (ty v : Nat) : Int :=
  let u := v % 2 ^ tyWidth ty
  if tySigned ty && 2 ^ (tyWidth ty - 1) ≤ u then (u : Int) - 2 ^ tyWidth ty else u

/-- The least value of a type. -/
def tyLeast (ty : Nat) : Int := if tySigned ty then -(2 ^ (tyWidth ty - 1)) else 0

/-- The greatest value of a type. -/
def tyGreatest (ty : Nat) : Int :=
  if tySigned ty then 2 ^ (tyWidth ty - 1) - 1 else 2 ^ tyWidth ty - 1

/-- A result clamped to the type when SAT is set (R101, R112). -/
def tySat (ty : Nat) (sat : Bool) (x : Int) : Int :=
  if sat then min (max x (tyLeast ty)) (tyGreatest ty) else x

/-- x mod 2^w extended as the type to n bits (R94, R111). -/
def tyExtend (n ty : Nat) (x : Int) : BitVec n :=
  BitVec.ofInt n (tyInt ty (x % 2 ^ tyWidth ty).toNat)

/-- IMM as an operand of the type: extended as R42 gives, then read from its low w bits as every operand is
(R94; DEDUCED, log entry 176). -/
def immInt (ty : Nat) (imm : BitVec 32) : Int :=
  tyInt ty (if tySigned ty then (imm.signExtend 64).toNat else imm.toNat)

/-- The unsigned shift amount that IMM gives, extended to n bits as R42 says (R104, R113). -/
def immShift (n ty : Nat) (imm : BitVec 32) : Nat :=
  if tySigned ty then (imm.signExtend n).toNat else imm.toNat

/-! ### Scalar-class operands (R41) -/

/-- A scalar special, 0xE0-0xE9 (R15, R41). -/
def State.special (s : State) (id : TroupeId) (n : Nat) : Word :=
  let r := s.ring id.ring
  if n = 0xE1 then 64
  else if n = 0xE2 then BitVec.ofNat 64 id.idx
  else if n = 0xE3 then BitVec.ofNat 64 r.ridx
  else if n = 0xE4 then BitVec.ofNat 64 r.x
  else if n = 0xE5 then BitVec.ofNat 64 r.y
  else if n = 0xE6 then BitVec.ofNat 64 r.stage
  else if n = 0xE7 then BitVec.ofNat 64 (r.core % 64)
  else if n = 0xE8 then BitVec.ofNat 64 (r.core / 64)
  else if n = 0xE9 then BitVec.ofNat 64 (s.tickOf id.ring % 2 ^ 32)
  else 0

/-- A scalar-class register, by its specifier below 0xE0. -/
def Troupe.reg (t : Troupe) (n : Nat) : GW :=
  if n < 0x80 then nth t.s n {} else nth t.k (n - 0x80) {}

/-- The value a scalar-class specifier names, with its grade (R41, R82). -/
def readS (s : State) (t : Troupe) (x : BitVec 8) : GW :=
  if x.toNat < 0xE0 then t.reg x.toNat else { v := s.special t.id x.toNat }

/-- Operand B of a scalar instruction that allows an immediate: value as the type, and grade (R101). -/
def opB (s : State) (t : Troupe) (f : Fields) : Int × Nat :=
  if f.sub.getLsbD 3 then (immInt f.ty.toNat f.imm, 0)
  else
    let b := readS s t f.b
    (tyInt f.ty.toNat b.v.toNat, b.g)

/-! ### Vector-class operands -/

/-- The scalar-class specifier a vector-class specifier broadcasts, if any (R41). -/
def broadcastOf (x : BitVec 8) : Option (BitVec 8) :=
  let n := x.toNat
  if n < 0x40 then none
  else if n < 0xC0 then some (x - 0x40)
  else if n < 0xC2 then none
  else if n < 0xCB then some (x + 0x1F)
  else none

end Sys2Proof.Machine

namespace Sys2Proof
open Machine

/-- The scalar-class specifier that a position reads, broadcasts included (R42, R43). -/
def Pos.scalarSpec (p : Pos) (f : Fields) (x : BitVec 8) : Option (BitVec 8) :=
  match p with
  | .src => some x
  | .srcImm => if f.sub.getLsbD 3 then Option.none else some x
  | .srcIx => if f.modx.getLsbD 3 then some x else Option.none
  | .src1 => if f.sub == 1 then some x else Option.none
  | .vsrc => broadcastOf x
  | .vsrcImm => if f.sub.getLsbD 3 then Option.none else broadcastOf x
  | .vsrcIx => if f.modx.getLsbD 3 then broadcastOf x else Option.none
  | .vsrc1 => if f.sub == 1 then broadcastOf x else Option.none
  | .ldsB => if f.sub == 0 && f.modx.getLsbD 3 then broadcastOf x else Option.none
  | .gradeA => if f.sub == 1 then broadcastOf x else some x
  | .gradeV => if f.sub == 1 then broadcastOf x else some x
  | .retB => some x
  | _ => Option.none

/-- The vector register that a position reads, if it reads one. -/
def Pos.vectorSpec (p : Pos) (f : Fields) (x : BitVec 8) : Option Nat :=
  let v := if x.toNat < 0x40 then some x.toNat else Option.none
  match p with
  | .vsrc => v
  | .vsrcImm => if f.sub.getLsbD 3 then Option.none else v
  | .vsrcIx => if f.modx.getLsbD 3 then v else Option.none
  | .vsrc1 => if f.sub == 1 then v else Option.none
  | .ldsB => if f.sub == 0 && f.modx.getLsbD 3 then v else Option.none
  | .gradeA => if f.sub == 1 then v else Option.none
  | .gradeV => if f.sub == 1 then v else Option.none
  | _ => Option.none

/-- Some field of a pattern word has mode 2, so that the mask M is read (R288). -/
def patMasked (p : Word) : Bool := (List.range 14).any fun j => bitsOf p.toNat (2 * j + 1) (2 * j) == 2

/-- The register of the mask M that a pattern needs: the one after the pattern word's (R288). -/
def Instr.maskReg (i : Instr) (p : Word) : List (BitVec 8) :=
  match i with
  | .tread f => if f.b.toNat < 127 && patMasked p then [f.b + 1] else []
  | .ttake f => if f.b.toNat < 127 && patMasked p then [f.b + 1] else []
  | _ => []

/-- Operand B is read: fsrnd with r = 0 does not read it (R126). -/
def Instr.readsB (i : Instr) : Bool :=
  match i with
  | .fsrnd f => f.imm.toNat % 32 != 0
  | _ => true

/-- Further scalar registers captured at dispatch: the coordinates of xgat and xsct (R155), the values of
fres.ret (R352). -/
def Instr.moreRegs (i : Instr) : List (BitVec 8) :=
  match i with
  | .xgat f => ((List.range 7).map fun j => f.c + BitVec.ofNat 8 j).filter fun x => x.toNat < 0x80
  | .xsct f => ((List.range 7).map fun j => f.c + BitVec.ofNat 8 j).filter fun x => x.toNat < 0x80
  | .fresRet f => (List.range 4).map fun j => f.b + BitVec.ofNat 8 j
  | _ => []

end Sys2Proof

namespace Sys2Proof.Machine

/-- Capture the scalar operands of an instruction as the scalar side dispatches it (R47, R81). -/
def capture (s : State) (t : Troupe) (i : Instr) : Cap :=
  match i.row, i.fields with
  | some r, some f =>
      let get := fun (p : Pos) (x : BitVec 8) =>
        match p.scalarSpec f x with
        | some y => readS s t y
        | none => {}
      let b := if i.readsB then get r.b f.b else {}
      { a := get r.a f.a, b := b, c := get r.c f.c,
        more := (i.moreRegs ++ i.maskReg b.v).map (readS s t), k0 := t.k0 }
  | _, _ => { k0 := t.k0 }

/-- A vector-class source: a register, the captured broadcast, zero, or the lane numbers (R41). -/
def readV (t : Troupe) (x : BitVec 8) (cap : GW) : VReg :=
  let n := x.toNat
  if n < 0x40 then t.vreg n
  else if n = 0xC0 then { sh := .uniform 0 }
  else if n = 0xC1 then { sh := .affine 0 1 }
  else { sh := .uniform (cap.v.setWidth 32), g := cap.g }

/-! ### Which registers an instruction reads and writes

A register is named by a number: s n is n, k n is 128 + n, v n is 256 + n. -/

/-- The number of a scalar-class register; none for a special. -/
def sNum (x : BitVec 8) : List Nat := if x.toNat < 0xE0 then [x.toNat] else []

/-- The numbers of `n` vector registers from v `x` up. -/
def vNums (x n : Nat) : List Nat := (List.range n).map fun j => 256 + x + j

/-- The fields of a pattern word whose mode is not 0: those whose values a request reads (R288). -/
def patFields (p : Word) : List Nat :=
  (List.range 14).filter fun j => bitsOf p.toNat (2 * j + 1) (2 * j) != 0

/-- One more than the highest field whose mode in a pattern word is not 0 (R295). -/
def patM (p : Word) : Nat :=
  maxOf ((List.range 14).map fun j => if bitsOf p.toNat (2 * j + 1) (2 * j) = 0 then 0 else j + 1)

end Sys2Proof.Machine

namespace Sys2Proof
open Machine

/-- Vector registers read as blocks or fixed by the instruction. -/
def Instr.blockReads (i : Instr) (cap : Cap) : List Nat :=
  match i with
  | .tdep f => vNums f.c.toNat (1 + f.imm.toNat)
  | .tread f => (0 :: (patFields cap.b.v).map (1 + ·)).map fun j => 256 + f.c.toNat + j
  | .ttake f => (0 :: (patFields cap.b.v).map (1 + ·)).map fun j => 256 + f.c.toNat + j
  | .spawn f => vNums f.b.toNat 4
  | .acas f => if f.d.toNat < 64 then vNums f.d.toNat 1 else []
  | _ => []

/-- Scalar-class registers read beyond the operand positions. -/
def Instr.fixedReads (i : Instr) : List Nat :=
  match i with
  | .ret _ => [127]
  | .bany f => if f.sub == 1 then [128] else []
  | .bnone f => if f.sub == 1 then [128] else []
  | .sins f => sNum f.d
  | .sliHi f => sNum f.d
  | .sysc _ => (List.range 8).map (4 + ·)
  | _ => []

/-- Whether a vector-side instruction uses k0 (R81, R108, R110, R155, R224, R295, R339, R352, R378). -/
def Instr.usesK0 (i : Instr) : Bool :=
  match i, i.row with
  | .vqget _, _ => true
  | .vqput _, _ => true
  | .grraise f, _ => f.sub == 1
  | .grdecl f, _ => f.sub == 1
  | _, some r =>
      (0x40 ≤ r.op && r.op < 0x83) || (0xB4 ≤ r.op && r.op ≤ 0xB7) || r.op == 0xBB || r.op == 0xBC
        || (0xBE ≤ r.op && r.op ≤ 0xD5) || r.op == 0xE6
  | _, none => false

/-- The scalar-class registers an instruction reads when the scalar side executes or dispatches it. -/
def Instr.scalarReads (i : Instr) : List Nat :=
  match i.row, i.fields with
  | some r, some f =>
      let one := fun (p : Pos) (x : BitVec 8) =>
        match p.scalarSpec f x with | some y => sNum y | none => []
      one r.a f.a ++ (if i.readsB then one r.b f.b else []) ++ one r.c f.c ++ i.moreRegs.flatMap sNum
        ++ i.fixedReads
        ++ (if i.usesK0 then [128] else [])
  | _, _ => []

/-- The scalar-class registers that the scalar side needs to dispatch an instruction: those it reads, and
the mask register where the pattern word in B asks for one (R288). -/
def dispatchReads (t : Troupe) (i : Instr) : List Nat :=
  let p := match i.fields with | some f => (t.reg f.b.toNat).v | none => 0
  i.scalarReads ++ (i.maskReg p).flatMap sNum

/-- The vector registers an instruction reads. -/
def Instr.vectorReads (i : Instr) (cap : Cap) : List Nat :=
  match i.row, i.fields with
  | some r, some f =>
      let one := fun (p : Pos) (x : BitVec 8) =>
        match p.vectorSpec f x with | some n => [256 + n] | none => []
      one r.a f.a ++ (if i.readsB then one r.b f.b else []) ++ one r.c f.c ++ i.blockReads cap
  | _, _ => []

/-- The registers an instruction writes. -/
def Instr.writes (i : Instr) : List Nat :=
  let vd := fun (x : BitVec 8) (n : Nat) => if x.toNat < 64 then vNums x.toNat n else []
  match i, i.row, i.fields with
  | .call _, _, _ => [127]
  | .tread f, _, _ => vd f.d (1 + f.imm.toNat)
  | .ttake f, _, _ => vd f.d (1 + f.imm.toNat)
  | .aflim f, _, _ => vd f.d 1 ++ [128 + f.sel.toNat]
  | _, some r, some f =>
      match r.d with
      | .dst => sNum f.d
      | .dstM => sNum f.d
      | .vdst => vd f.d 1
      | .gradeD => if f.sub == 1 then vd f.d 1 else sNum f.d
      | _ => []
  | _, _, _ => []

end Sys2Proof

namespace Sys2Proof.Machine

/-- The scalar-class destinations among register numbers. -/
def scalarNums (l : List Nat) : List Nat := l.filter (· < 256)

/-- Registers whose value waits for an operation that has issued and not completed (R90). -/
def Troupe.pending (t : Troupe) : List Nat :=
  t.ops.flatMap fun o => if o.held then o.sdest ++ o.vdest.map (256 + ·) else []

/-- The arrival counter of a split-phase load. -/
def splitCounter : Instr → Option Nat
  | .ldAc f => some f.sel.toNat
  | .vldAc f => some f.sel.toNat
  | .vldw f => if f.sub == 1 then some f.sel.toNat else none
  | _ => none

/-- Scalar-class destinations of the operations counted on an arrival counter. -/
def Troupe.countedDests (t : Troupe) (j : Nat) : List Nat :=
  t.ops.flatMap fun o => if o.ac == some j then o.sdest else []

/-- Scalar-class registers whose value waits for a dispatched instruction: those it will write, and
for a counter instruction those that its counter's replies may still write, which a later reader in
program order must see as the counter has shown them (R81, R232); log entry 40. -/
def Troupe.unissued (t : Troupe) : List Nat :=
  t.vq.flatMap fun e => scalarNums e.instr.writes
    ++ match e.instr with
       | .acwait f => t.countedDests f.sel.toNat
       | .acget f => t.countedDests f.sel.toNat
       | .acclr f => t.countedDests f.sel.toNat
       | _ => []

/-- The registers among `l` that the scalar side must wait for (R81, R90). -/
def Troupe.scalarHolds (t : Troupe) (l : List Nat) : List Nat :=
  let busy := t.pending ++ t.unissued
  l.filter busy.contains

/-- The registers among `l` that the vector side must wait for (R90). -/
def Troupe.vectorHolds (t : Troupe) (l : List Nat) : List Nat :=
  let busy := t.pending
  l.filter busy.contains

end Sys2Proof.Machine

namespace Sys2Proof
open Machine

/-- Whether an instruction is a long-latency producer (R89). -/
def Instr.longLatency (i : Instr) : Bool :=
  match i, i.row with
  | .ldAc _, _ => false
  | .vldAc _, _ => false
  | .vldw f, _ => f.sub == 0
  | .mxvar _, _ => true
  | _, some r =>
      r.op == 0xB2 || r.op == 0xB4 || r.op == 0x80 || r.op == 0x82 || r.op == 0x90 || r.op == 0x93
        || (0xBE ≤ r.op && r.op ≤ 0xCA) || r.op == 0xD3 || r.op == 0xD4 || r.op == 0xD6
        || r.op == 0x14 || r.op == 0x15 || (0x69 ≤ r.op && r.op ≤ 0x70)
        || r.op == 0x55 || r.op == 0x57 || r.op == 0x58
        || r.op == 0xAD || r.op == 0xDB || r.op == 0xDC || r.op == 0xDE || r.op == 0xE9
  | _, none => false

/-- Whether an instruction is logged (R347). -/
def Instr.logged (i : Instr) : Bool :=
  match i.row with
  | some r =>
      (0x80 ≤ r.op && r.op ≤ 0x82) || (0xB2 ≤ r.op && r.op ≤ 0xB7) || (0xBE ≤ r.op && r.op ≤ 0xD4)
        || r.op == 0xE6
  | none => false

/-! ### Memory operands (R43) -/

end Sys2Proof

namespace Sys2Proof.Machine

/-- The 64-bit address a scalar memory operand forms. -/
def memAddr (a b : GW) (f : Fields) : Word :=
  a.v + (if f.modx.getLsbD 3 then b.v <<< (f.modx.toNat % 4) else 0) + f.imm.signExtend 64

/-- The address of a lane of a vector memory operand. -/
def laneAddr (a : GW) (ix : Lane) (f : Fields) : Word :=
  a.v + (if f.modx.getLsbD 3 then ix.signExtend 64 <<< (f.modx.toNat % 4) else 0)
    + f.imm.signExtend 64

end Sys2Proof.Machine
end

