-- ==== Sys2Proof/Machine/Order.lean ====
section
/-! DEFINITION. What memory instructions do to memory, and the order in which a troupe's accesses are
performed when an earlier one is still to be performed (spec/12_memory_order.md R269-R275,
spec/10_memory_access.md R235). -/

namespace Sys2Proof.Machine

/-! ### Kinds of access -/

/-- The instruction writes memory from operand C. -/
def hasData (i : Instr) : Bool :=
  match i with
  | .st _ => true
  | .sts _ => true
  | .vst _ => true
  | .vstw _ => true
  | _ => match i.row with | some r => 0xBE ≤ r.op && r.op ≤ 0xD1 | none => false

/-- The instruction is a returning atomic (R236). -/
def isAtomic (i : Instr) : Bool :=
  match i.row with | some r => 0xBE ≤ r.op && r.op ≤ 0xCA | none => false

/-- The instruction is a reduction (R241). -/
def isReduction (i : Instr) : Bool :=
  match i.row with | some r => 0xCB ≤ r.op && r.op ≤ 0xD1 | none => false

/-- The instruction is a load, plain or split-phase. -/
def isLoad (i : Instr) : Bool :=
  match i.row with
  | some r => r.op == 0x80 || r.op == 0x82 || r.op == 0xB2 || r.op == 0xB4 || r.op == 0xB6
  | none => false

/-- The instruction is pref or cfl. -/
def isMaint : Instr → Bool
  | .pref _ => true
  | .cfl _ => true
  | _ => false

/-- A float atomic or reduction, whose TY is a slot (R238). -/
def isFloatAtomic : Instr → Bool
  | .aaddf _ => true
  | .redaddf _ => true
  | _ => false

/-- The bytes of one access (R225, R230, R238). -/
def accessBytes (i : Instr) (f : Fields) : Nat :=
  match i with
  | .aflim _ => 8
  | .pref _ => 1
  | .cfl _ => 1
  | _ => if isFloatAtomic i then (if f.ty == 0 then 4 else 2) else tyWidth f.ty.toNat / 8

/-! ### Operations with accesses still to be performed -/

/-- The lane's access is still to be performed.  One that took a final fault orders nothing (R354). -/
def LaneSt.owed : LaneSt → Bool
  | .parked => true
  | .behind => true
  | .redo => true
  | _ => false

/-- An access of the operation is still to be performed. -/
def Op.owes (o : Op) : Bool := o.lanes.any fun l => l.st.owed

/-- A fence that waits for accesses before it (R235). -/
def Op.isFence (o : Op) : Bool := match o.instr with | .fence _ => true | _ => false

/-- The fields of an operation's instruction. -/
def Op.fields (o : Op) : Fields := o.instr.fields.getD {}

/-- The operation reads memory, split-phase loads apart (R269, R270). -/
def Op.reads (o : Op) : Bool :=
  (isLoad o.instr && (splitCounter o.instr).isNone) || isAtomic o.instr

/-- The instruction is a spawn. -/
def isSpawn : Instr → Bool
  | .spawn _ => true
  | _ => false

/-- The operation writes memory: it carries data, or it is a spawn, whose lanes still to be performed spill to
the overflow area as writes of colour 0 (R337). -/
def Op.writes (o : Op) : Bool := hasData o.instr || isSpawn o.instr

/-- ORD names an acquire (1, 3). -/
def acquires (f : Fields) : Bool := f.ord.toNat % 2 == 1

/-- ORD names a release (2, 3). -/
def releases (f : Fields) : Bool := 2 ≤ f.ord.toNat

/-- Accesses still to be performed of two operations touch an overlapping byte.  A spawn's lanes hold entry
addresses, not places in memory. -/
def Op.overlaps (a b : Op) (s : State) (p : Party) : Bool :=
  !isSpawn a.instr && !isSpawn b.instr && a.lanes.any fun x => x.st.owed && b.lanes.any fun y =>
    y.st.owed
      && s.touches p x.addr.toNat (accessBytes a.instr a.fields) y.addr.toNat (accessBytes b.instr b.fields)

/-- The operation is a deposit or take that a slice has not answered. -/
def Op.tupleOwed (a : Op) : Bool :=
  (match a.instr with | .tdep _ => true | .ttake _ => true | _ => false)
    && a.lanes.any fun l => l.st.owed || l.st == .sent

/-- The fence behind what a restored troupe owes: it waits for every access, split-phase loads too (R282).  No
instruction has this IMM (R235). -/
def restoreFence : Fields := { ord := 3, scp := 3, imm := 0x1FF }

/-- A fence waits for an earlier operation: its release part for reads and for writes of the mask's
colours, its acquire part for reads (R235, R270).  A release of colour 7 at device or system scope waits
for deposits and takes (R275). -/
def Op.beforeFence (a : Op) (f : Fields) : Bool :=
  (a.owes && f.imm.getLsbD 8) ||
  (a.owes && ((a.reads && f.ord != 0) || (releases f && a.writes && f.imm.getLsbD a.fields.col.toNat)))
    || (a.tupleOwed && releases f && 2 ≤ f.scp.toNat && f.imm.getLsbD 7)

/-- An access waits for an earlier operation or fence (R269, R270): an acquire read, a read before a
write, what a release store of its colour carries, an overlapping byte, a fence. -/
def Op.beforeAccess (a b : Op) (s : State) (p : Party) : Bool :=
  if a.isFence then acquires a.fields || b.writes
  else
    a.owes
      && ((a.reads && (acquires a.fields || b.writes))
          || (b.writes && releases b.fields
              && (a.reads || (a.writes && a.fields.col == b.fields.col)))
          || a.overlaps b s p)

/-- An operation of a troupe, issued or about to be, waits for an earlier one. -/
def Troupe.behind (t : Troupe) (s : State) (o : Op) : Bool :=
  if isMaint o.instr then false
  else t.ops.any fun a =>
    decide (a.id < o.id) && (if o.isFence then a.beforeFence o.fields else a.beforeAccess o s (s.ringParty t.id.ring))

/-- An operation that waits for earlier ones. -/
def Op.waits (o : Op) : Bool := o.isFence || o.lanes.any fun l => l.st == .behind

/-! ### Instructions that wait at issue -/

/-- A wait that an instruction entered after it had begun. -/
def Wait.begun : Wait → Bool
  | .nb .. => true
  | .tb .. => true
  | .nq _ => true
  | _ => false

/-- How an instruction that acts at its issue stands to the accesses before it (R262, R270). -/
inductive IssueKind where
  /-- it releases every earlier access by an edge of R175, R342, R397 or R398, and may write -/
  | release
  /-- it changes a synchronisation object -/
  | write
  /-- it reads one -/
  | read
  /-- it issues a copy -/
  | copy
  /-- it starts a stream, an edge of R208 -/
  | stream
  /-- tuple and solver traffic (R275, R276) -/
  | engine
  /-- it changes the bins (R343) -/
  | bins
  /-- any other -/
  | none
  deriving DecidableEq, Repr

/-- The kind of an instruction. -/
def issueKind : Instr → IssueKind
  | .barr _ => .release
  | .barrN _ => .release
  | .barrExp _ => .release
  | .nqsend _ => .release
  | .nbsync _ => .release
  | .nbarv _ => .release
  | .tbsync _ => .release
  | .tbarv _ => .release
  | .spawn _ => .release
  | .post _ => .release
  | .qring _ => .release
  | .bini _ => .write
  | .bexp _ => .write
  | .bcan _ => .write
  | .nqini _ => .write
  | .nqrecv _ => .write
  | .nqret _ => .write
  | .nqtry _ => .write
  | .bwait _ => .read
  | .btest _ => .read
  | .xld _ => .copy
  | .xldX24 _ => .copy
  | .xldNt _ => .copy
  | .xst _ => .copy
  | .xgat _ => .copy
  | .xsct _ => .copy
  | .xcpy _ => .copy
  | .xcpyMc _ => .copy
  | .xfill _ => .copy
  | .qjoin _ => .copy
  | .mxgo _ => .stream
  | .tdep _ => .engine
  | .tread _ => .engine
  | .ttake _ => .engine
  | .slvtab _ => .engine
  | .slvini _ => .engine
  | .slvstg _ => .engine
  | .slvend _ => .engine
  | .slvst _ => .engine
  | .slvstRel _ => .engine
  | .binflush _ => .bins
  | .bincfg _ => .bins
  | _ => .none

/-- A plain load or returning atomic is still to be performed. -/
def Troupe.owesRead (t : Troupe) : Bool := t.ops.any fun o => o.owes && o.reads

/-- A write is still to be performed. -/
def Troupe.owesWrite (t : Troupe) : Bool := t.ops.any fun o => o.owes && o.writes

/-- A scratchpad access is still to be performed. -/
def Troupe.owesScratch (t : Troupe) : Bool :=
  t.ops.any fun o => o.lanes.any fun l => l.st.owed && inWindows l.addr.toNat

/-- A fence is waiting. -/
def Troupe.fencing (t : Troupe) : Bool := t.ops.any Op.isFence

/-- What every later access waits for: an acquire read or a fence with an acquire part (R270 rows 2 and 4). -/
def Troupe.acquiring (t : Troupe) : Bool :=
  t.ops.any fun o => (o.isFence || (o.owes && o.reads)) && acquires o.fields

/-- An instruction stays at issue while accesses before it are still to be performed: one that releases
earlier accesses by an edge of R175, R208, R342, R397 or R398; a change of a synchronisation object behind a
read, a fence or a scratchpad access (R269, R270 rows 1, 2, 4 and 5); any access, a copy's issue and a
stream's start included, behind an acquire (R262, R270 rows 2 and 4); tuple and solver traffic behind a
waiting fence of device or system scope (R275, R276); a change of the bins behind a spawn (R343). -/
def Troupe.holdsBack (t : Troupe) (i : Instr) : Bool :=
  match issueKind i with
  | .release => t.owesRead || t.owesWrite || t.fencing
  | .write => t.owesRead || t.fencing || t.owesScratch
  | .read => t.acquiring || t.owesScratch
  | .copy => t.acquiring
  | .stream => t.owesWrite || t.acquiring
  | .engine => t.ops.any fun o => o.isFence && 2 ≤ o.fields.scp.toNat
  | .bins => t.ops.any fun o => o.owes && isSpawn o.instr
  | .none => false

/-- The first dispatched instruction of a troupe is held back. -/
def Troupe.heldBack (t : Troupe) (i : Instr) : Bool :=
  !(match t.vwait with | some w => w.begun | none => false) && t.holdsBack i

/-- A copy waits for a write of its troupe that precedes it: with `.rel` for every one, else for one that
touches its source (R155, R158).  `src` is the source, when it is one range. -/
def Op.beforeCopy (a : Op) (f : Fields) (src : Option (Nat × Nat)) (s : State) (p : Party) : Bool :=
  a.owes && a.writes
    && (releases f
        || (match src with
            | some r => !isSpawn a.instr && a.lanes.any fun x =>
                x.st.owed && s.touches p x.addr.toNat (accessBytes a.instr a.fields) r.1 r.2
            | none => true))

end Sys2Proof.Machine
end

