-- ==== Sys2Proof/Machine/Ops.lean ====
section
/-! DEFINITION. The shared operations of the machine: taking a fault, posting its record, stopping and
resuming a troupe, parking an access, and the frames in which the scalar side, the vector side and a
matrix stream execute an instruction (spec/16_faults_and_preemption.md R344-R355, spec/04_registers.md
R81, R88-R92, spec/02_encoding.md R38, R46). -/

namespace Sys2Proof.Machine

/-! ### Little helpers over troupes -/

/-- Leave a wait flag's count one lower (R88). -/
def Troupe.lowerFlag (t : Troupe) (w : Option Nat) : Troupe :=
  match w with
  | some j => { t with w := upd t.w j (· - 1) }
  | none => t

/-- Leave an arrival counter one lower (R231). -/
def Troupe.lowerCounter (t : Troupe) (j : Option Nat) : Troupe :=
  match j with
  | some j => { t with ac := upd t.ac j (· - 1) }
  | none => t

/-- Change one operation of a troupe. -/
def Troupe.modOp (t : Troupe) (id : Nat) (f : Op → Op) : Troupe :=
  { t with ops := updWhere t.ops (fun o => o.id == id) f }

/-- An operation of a troupe. -/
def Troupe.op? (t : Troupe) (id : Nat) : Option Op := t.ops.find? fun o => o.id == id

/-- WFLAGS: bit j set while wj is set (R99). -/
def Troupe.wflags (t : Troupe) : BitVec 12 :=
  BitVec.ofNat 12 ((List.range 12).foldl (fun m j => if nth t.w j 0 = 0 then m else m + 2 ^ j) 0)

/-- Every wait flag is clear and every arrival counter 0 (R21). -/
def Troupe.settled (t : Troupe) : Bool := t.w.all (· == 0) && t.ac.all (· == 0)

/-- Retire a clause: count it, as a milestone of the troupe and its ring when MILE is set
(R38, R99, R361). -/
def State.retireClause (s : State) (id : TroupeId) : State :=
  match s.troupe? id with
  | none => s
  | some t =>
      let s1 := s.setTroupe
        { t with cno := t.cno + 1, left := 0, code := [], seta := none, setb := none, named := 0, mile := false,
                 miles := if t.mile then (t.miles + 1) % 2 ^ 32 else t.miles }
      if t.mile then s1.modRing id.ring fun r => { r with miles := min (2 ^ 32 - 1) (r.miles + 1) }
      else s1

/-! ### Fault records (R349-R351) -/

/-- The code of a cause (R351). -/
def causeCode : Cause → Nat
  | .illop => 1
  | .illtype => 2
  | .ifetch => 3
  | .regbudget => 4
  | .qstall => 5
  | .noslot => 6
  | .misalign => 7
  | .page => 8
  | .extent => 9
  | .cls => 10
  | .grade => 11
  | .domain => 12
  | .roster => 13
  | .sprange => 14
  | .badarg => 15
  | .notag => 16
  | .full => 17
  | .spawnfull => 18
  | .trap => 19
  | .sysc => 20
  | .mxstop => 21
  | .solver => 22
  | .deflag => 23
  | .priv => 24
  | .memerr => 25
  | .regerr => 26

/-- The 64-byte header of a record (R350). -/
def FRec.header (r : FRec) : List Byte :=
  leBytes r.fseq 4 ++ leBytes (causeCode r.cause) 2 ++ leBytes r.reason 1 ++ leBytes r.kind 1
    ++ leBytes r.iaddr.toNat 8 ++ leBytes r.lmask.toNat 8 ++ leBytes r.k0.toNat 8
    ++ leBytes r.aux.toNat 8 ++ leBytes r.ycl 4 ++ leBytes r.code 2
    ++ leBytes (match r.slot with | some n => n + 8 | none => 0) 1 ++ leBytes r.grade 1
    ++ leBytes r.ridx 2 ++ leBytes r.tidx 1 ++ leBytes r.core 1 ++ leBytes r.n 4
    ++ leBytes r.seq 4 ++ leBytes r.queue 2 ++ leBytes r.ents.length 2

/-- The 1088 bytes of a record's slot (R350). -/
def FRec.bytes (r : FRec) : List Byte :=
  let b := r.header ++ r.ents.flatMap fun e => leBytes e.1.toNat 8 ++ leBytes e.2.toNat 8
  b ++ List.replicate (1088 - b.length) 0

/-- What the device's own accesses to a fault queue want (R349); log entry 30. -/
def fqWant : Want := { n := 1, wr := true, gradeChk := false }

/-- HEAD of a context's fault queue as memory holds it; none when it cannot be read. -/
def State.fqHead (s : State) (c : Ctx) : Option (BitVec 32) :=
  match s.readBytes { asid := c.asid } (c.fqbase.toNat + 4) 4 with
  | .ok (bs, _) => some (BitVec.ofNat 32 (leNat bs))
  | .error _ => none

/-- Post one record: write it, advance TAIL, interrupt the host; none while the queue is full or
cannot be written (R349). -/
def State.fqWrite (s : State) (c : Ctx) (r : FRec) : Option State :=
  match s.fqHead c with
  | none => none
  | some h =>
      if (c.fqtail - h).toNat = 2 ^ c.fqlog then none
      else
        let slot := c.fqbase.toNat + 64 + 1088 * (c.fqtail.toNat % 2 ^ c.fqlog)
        let p : Party := { asid := c.asid }
        match s.writeBytes p slot r.bytes fqWant with
        | .error _ => none
        | .ok s1 =>
            match s1.writeBytes p c.fqbase.toNat (leBytes (c.fqtail + 1).toNat 4) fqWant with
            | .error _ => none
            | .ok s2 =>
                some ((s2.modCtx c.asid fun x => { x with fqtail := x.fqtail + 1 }).irq c.fn c.fqvec)

/-- Post held records in FSEQ order, up to the first that must stay held (R349). -/
def fqFlush (asid : Nat) : List FRec → State → State
  | [], s => s.modCtx asid fun c => { c with held := [] }
  | r :: rs, s =>
      match s.fqWrite (s.ctx asid) r with
      | some s1 => fqFlush asid rs s1
      | none => s.modCtx asid fun c => { c with held := r :: rs }

/-- Try the held records of a context (R349). -/
def State.fqRetry (s : State) (asid : Nat) : State := fqFlush asid (s.ctx asid).held s

/-- The FSEQ the next record of a context takes: they count from 1 (R350). -/
def State.nextFseq (s : State) (asid : Nat) : Nat := (s.ctx asid).fseq + 1

/-- Give a record its FSEQ and post it, or hold it (R349). -/
def State.postRecord (s : State) (asid : Nat) (r : FRec) : State :=
  let r := { r with fseq := s.nextFseq asid }
  (s.modCtx asid fun c =>
    { c with fseq := r.fseq, recs := if r.pending then c.recs ++ [r] else c.recs,
             held := c.held ++ [r] }).fqRetry asid

/-- A record about a ring, with where it is (R350). -/
def State.ringRecord (s : State) (ring kind : Nat) (cause : Cause) : FRec :=
  let r := s.ring ring
  let l := s.launchOf ring
  { cause := cause, kind := kind, ridx := r.ridx, core := r.core % 256, n := (s.nbhd r.nb).n % 2 ^ 32,
    seq := l.lr.seq, queue := l.queue, ring := ring }

/-! ### Stopping a troupe (R346-R348) -/

/-- What a whole-instruction fault reports. -/
structure FInfo where
  /-- cause -/
  cause : Cause
  /-- REASON -/
  reason : Nat := 0
  /-- AUX -/
  aux : Word := 0
  /-- CODE -/
  code : Nat := 0
  /-- entries, for SYSC -/
  ents : List (Word × Word) := []
  /-- GRADE -/
  grade : Nat := 0
  deriving DecidableEq, Repr

/-- The lanes of an operation that have faulted and stand in no record yet. -/
def Op.unreported (o : Op) : List LaneRec :=
  o.lanes.filter fun l => match l.st with | .faulted _ _ none => true | _ => false

/-- The entry of lane i in a KIND 1 record: address, then cause and reason (R350). -/
def laneEntry (l : Option LaneRec) : Word × Word :=
  match l with
  | some x =>
      match x.st with
      | .faulted c r none => (x.addr, BitVec.ofNat 64 (causeCode c + r * 2 ^ 16))
      | _ => (x.addr, 0)
  | none => (0, 0)

/-- The KIND 1 record of an operation's faulted lanes; its GRADE counts what the lanes performed have read (R347,
R350). -/
def State.laneRecord (s : State) (t : Troupe) (o : Op) : FRec :=
  let bad := o.unreported
  let first := match bad with | x :: _ => (match x.st with | .faulted c r _ => (c, r) | _ => (.page, 0)) | [] => (.page, 0)
  { s.ringRecord t.id.ring 1 first.1 with
    reason := first.2, iaddr := o.iaddr, lmask := maskOf (bad.map (·.lane)), k0 := o.cap.k0,
    ycl := t.cno - (o.cno + 1), slot := o.slot, grade := max o.grade o.rgrade, tidx := t.id.idx % 32,
    ents := (List.range 64).map fun i => laneEntry (o.lanes.find? fun l => l.lane == i),
    troupe := some t.id, op := o.id, pending := true }

/-- Post the record of one operation's faulted lanes and stop the troupe on it (R347). -/
def State.reportOp (id : TroupeId) (s : State) (op : Nat) : State :=
  match s.troupe? id with
  | none => s
  | some t =>
      match t.op? op with
      | none => s
      | some o =>
          if o.unreported.isEmpty then s
          else
            let asid := s.asidOf id.ring
            let n := s.nextFseq asid
            let s1 := s.postRecord asid (s.laneRecord t o)
            s1.modTroupe id fun t =>
              { (t.modOp op fun o => { o with lanes := o.lanes.map fun l =>
                    match l.st with
                    | .faulted c r none => { l with st := .faulted c r (some n) }
                    | _ => l }) with
                stopped := t.stopped ++ [n] }

/-- Post the records of every operation with unreported lanes, in program order (R347). -/
def State.reportAll (s : State) (id : TroupeId) : State :=
  match s.troupe? id with
  | none => s
  | some t =>
      ((sortBy (fun a b => decide (a ≤ b)) t.reports).foldl (State.reportOp id) s).modTroupe id
        fun t => { t with reports := [] }

/-- Take a whole-instruction fault: post its KIND 0 record, which touches no troupe, and stop the troupe (R344-R346).
Earlier lane faults are reported first. -/
def State.takeFault (s : State) (id : TroupeId) (vside : Bool) (iaddr k0 : Word) (fi : FInfo) : State :=
  let s := s.reportAll id
  let asid := s.asidOf id.ring
  let n := s.nextFseq asid
  let r : FRec :=
    { s.ringRecord id.ring 0 fi.cause with
      reason := fi.reason, iaddr := iaddr, k0 := k0, aux := fi.aux, code := fi.code, ents := fi.ents,
      grade := fi.grade, tidx := id.idx, troupe := some id, vside := vside, ulen := s.len,
      pending := true }
  { s.postRecord asid r with
    troupes := updWhere s.troupes (fun t => t.id == id) fun t => { t with stopped := t.stopped ++ [n] } }

/-- The queue that a side waits on still makes it wait (R91). -/
def Troupe.queueBlocks (t : Troupe) (scalar push : Bool) : Bool :=
  if scalar then (if push then 16 ≤ t.down.length else t.up.isEmpty)
  else if push then 16 ≤ t.up.length
  else t.down.isEmpty

/-- The vector side waits on a queue. -/
def Troupe.vectorStuck (t : Troupe) : Bool :=
  match t.vwait with
  | some (.queue p) => t.queueBlocks false p
  | _ => false

/-- The scalar side waits on a queue, or for a vector-side instruction not yet issued (R92).  A trap, a sysc
or a scalar-side fault that waits for the vector side counts as done does (log entry 61). -/
def Troupe.scalarStuck (t : Troupe) : Bool :=
  match t.wait with
  | some (.queue p) => t.queueBlocks true p
  | some (.hold regs) => regs.any t.unissued.contains
  | some (.flags m) => t.vq.any fun e => match e.flag with | some j => m.getLsbD j | none => false
  | some .drain => !t.vq.isEmpty
  | _ => false

/-- Both sides wait for each other (R92). -/
def Troupe.stalled (t : Troupe) : Bool :=
  t.stopped.isEmpty && t.scalarStuck && (t.vq.isEmpty || t.vectorStuck)

/-- The troupe has lane faults to report and stands at a clause boundary or waits, and its vector
side has issued what it can (R347). -/
def Troupe.mustReport (t : Troupe) : Bool :=
  !t.reports.isEmpty
    && (!t.stopped.isEmpty
        || ((t.left == 0 || t.wait.isSome) && (t.vq.isEmpty || t.vwait.isSome)))

/-- The grade of the registers with these numbers (R350). -/
def Troupe.gradeOf (t : Troupe) (l : List Nat) : Nat :=
  maxOf (l.map fun n => if n < 256 then (t.reg n).g else (t.vreg (n - 256)).g)

/-- The grade of the operands of the unit that a troupe's scalar side waits at: its registers, and k0 for a
clause header with Z (R350). -/
def Troupe.waitGrade (t : Troupe) : Fetched → Nat
  | .unit_ (.ok (.clauseHeader h) _) => if h.z = 1 then t.gradeOf [128] else 0
  | .unit_ (.ok i _) => t.gradeOf i.scalarReads
  | _ => 0

/-- What follows of itself after a troupe has acted: QSTALL at once (R92), a stop for lane faults
(R347). -/
def State.settle (s : State) (id : TroupeId) : State :=
  match s.troupe? id with
  | none => s
  | some t =>
      if t.stalled then
        let n := if s.cur = .scalar id then s.len
          else (s.fetchTroupe t).len
        { ({ s with len := n }.takeFault id false t.pc t.k0
            { cause := .qstall, grade := t.waitGrade (s.fetchTroupe t) }) with len := s.len }
      else if t.mustReport then s.reportAll id
      else s

/-! ### The scalar side -/

/-- What the effect of a scalar-side instruction answers. -/
inductive SRes where
  /-- the effect is made; the next unit follows -/
  | done (s : State)
  /-- the effect is made; control goes to an address -/
  | goto (s : State) (pc : Word)
  /-- it waits -/
  | wait (w : Wait) (s : State)
  /-- a fault of its own -/
  | fault (f : FInfo)
  /-- the instruction is executed and stops the troupe behind it: trap and sysc (R98, R346) -/
  | trap (f : FInfo)
  deriving DecidableEq, Repr

/-- The control instructions that must end their clause (R28, R95). -/
def endsClause : Instr → Bool
  | .bra _ => true
  | .brc _ => true
  | .bany _ => true
  | .bnone _ => true
  | .call _ => true
  | .ret _ => true
  | .jmp _ => true
  | .done _ => true
  | .trap _ => true
  | .sysc _ => true
  | _ => false

/-- The scalar side waits. -/
def State.blockScalar (s : State) (id : TroupeId) (w : Wait) : State :=
  (s.modTroupe id fun t => { t with wait := some w }).settle id

/-- A fault of the scalar side at its current unit: reported once every dispatched instruction has
issued, QSTALL at once (R346). -/
def State.scalarFault (s : State) (t : Troupe) (fi : FInfo) : State :=
  if t.vq.isEmpty || fi.cause == .qstall then
    (s.modTroupe t.id fun t => { t with wait := none }).takeFault t.id false t.pc t.k0 fi
  else s.blockScalar t.id .drain

/-- The scalar side goes on to an address; the clause retires with its last instruction (R38). -/
def State.endInstr (s : State) (id : TroupeId) (pc : Word) : State :=
  match s.troupe? id with
  | none => s
  | some t =>
      let s1 := s.setTroupe { t with pc := pc, left := t.left - 1, wait := none }
      (if t.left ≤ 1 then s1.retireClause id else s1).settle id

/-- Whether an instruction reads a register with an uncorrectable error (R389). -/
def Troupe.readsBad (t : Troupe) (l : List Nat) : Bool :=
  !t.regErr.isEmpty && l.any t.regErr.contains

/-- A scalar-side fault with the grade of what the instruction reads. -/
def State.scalarFaultOf (s : State) (i : Instr) (t : Troupe) (fi : FInfo) : State :=
  s.scalarFault t { fi with grade := max fi.grade (t.gradeOf i.scalarReads) }

/-- Execute a scalar-side instruction of a troupe: the clause, decode faults, register errors and
holds first, then its effect (R28, R46, R90, R345). -/
def scalarRun (i : Instr) (t : Troupe) (s : State) (eff : Troupe → State → SRes) : State :=
  if t.left = 0 then s.scalarFaultOf i t { cause := .illop }
  else
    match decodeFault false i with
    | some c => s.scalarFaultOf i t { cause := c }
    | none =>
        if endsClause i && t.left != 1 then s.scalarFaultOf i t { cause := .illop }
        else
          match t.scalarHolds (i.scalarReads ++ i.writes) with
          | r :: rs => s.blockScalar t.id (.hold (r :: rs))
          | [] =>
              if t.readsBad i.scalarReads then s.scalarFaultOf i t { cause := .regerr }
              else
                match eff t s with
                | .done s1 => s1.endInstr t.id (t.pc + BitVec.ofNat 64 s.len)
                | .goto s1 pc => s1.endInstr t.id pc
                | .wait w s1 => s1.blockScalar t.id w
                | .fault fi => s.scalarFaultOf i t fi
                | .trap fi =>
                    if t.vq.isEmpty then
                      (s.endInstr t.id (t.pc + BitVec.ofNat 64 s.len)).takeFault t.id false t.pc t.k0
                        { fi with grade := t.gradeOf i.scalarReads }
                    else s.blockScalar t.id .drain

/-- The scalar side's entry for an operation it starts itself: sdiv, srem, fmreq, fmq. -/
def Troupe.scalarEntry (t : Troupe) (i : Instr) (flag : Option Nat) : VEntry :=
  { instr := i, iaddr := t.pc, flag := flag, cno := t.cno, cap := { k0 := t.k0 } }

/-! ### The vector side -/

/-- What the effect of a vector-side instruction answers. -/
inductive VRes where
  | done (s : State)
  | wait (w : Wait) (s : State)
  | fault (f : FInfo)
  deriving DecidableEq, Repr

/-- The vector side waits. -/
def State.blockVector (s : State) (id : TroupeId) (w : Wait) : State :=
  (s.modTroupe id fun t => { t with vwait := some w }).settle id

/-- A whole-instruction fault of the vector side: the faulting instruction stays the first of the
dispatched ones (R346). -/
def State.vectorFault (s : State) (id : TroupeId) (e : VEntry) (fi : FInfo) : State :=
  (s.modTroupe id fun t => { t with vwait := none }).takeFault id true e.iaddr e.cap.k0 fi

/-- A vector-side fault with the grade of the instruction's operands. -/
def State.vectorFaultOf (s : State) (i : Instr) (t : Troupe) (e : VEntry) (fi : FInfo) : State :=
  let c := e.cap
  s.vectorFault t.id e
    { fi with grade := maxOf [fi.grade, c.a.g, c.b.g, c.c.g, maxOf (c.more.map (·.g)),
        t.gradeOf (i.vectorReads c)] }

/-- The first dispatched instruction of a troupe has issued (R88). -/
def State.vectorEnd (s : State) (id : TroupeId) : State :=
  (s.modTroupe id fun t => { t with vq := t.vq.tail, vwait := none }).settle id

/-- Issue the first dispatched instruction of a troupe. -/
def vectorHead (i : Instr) (id : TroupeId) (s : State)
    (issue : VEntry → Troupe → State → VRes) : State :=
  match s.troupe? id with
  | none => s
  | some t =>
      match t.vq with
      | [] => s
      | e :: _ =>
          match decodeFault false i with
          | some c => s.vectorFaultOf i t e { cause := c }
          | none =>
              match t.vectorHolds (i.vectorReads e.cap ++ i.writes) with
              | r :: rs => s.blockVector id (.hold (r :: rs))
              | [] =>
                  if t.readsBad (i.vectorReads e.cap) then s.vectorFaultOf i t e { cause := .regerr }
                  else if t.heldBack i then s.blockVector id .issue
                  else
                    match issue e t s with
                    | .done s1 => s1.vectorEnd id
                    | .wait w s1 => s1.blockVector id w
                    | .fault fi => s.vectorFaultOf i t e fi

/-- What naming a producer's wait flag gives. -/
inductive Naming where
  | none
  /-- the flag is named and counted -/
  | named (j : Nat) (t : Troupe)
  /-- no flag left to name: ILLOP (R38) -/
  | noFlag
  /-- its count stands at 63: the producer is held (R88) -/
  | full
  deriving DecidableEq, Repr

/-- Name the flag of a long-latency producer and raise its count (R38, R88). -/
def Troupe.nameFlag (t : Troupe) (i : Instr) : Naming :=
  if i.longLatency then
    match if t.named = 0 then t.seta else if t.named = 1 then t.setb else none with
    | .none => .noFlag
    | some j =>
        if 63 ≤ nth t.w j 0 then .full
        else .named j { t with w := upd t.w j (· + 1), named := t.named + 1 }
  else .none

/-- Dispatch a vector-side instruction: its scalar operands are captured and its flag counted; with
nothing dispatched before it, it issues in the same step unless the vector side lags (R81, R88, R366).  A
seventeenth instruction waits without QSTALL, even behind a queue (log entry 61). -/
def vectorDispatch (i : Instr) (t : Troupe) (s : State)
    (issue : VEntry → Troupe → State → VRes) : State :=
  if t.left = 0 then s.scalarFaultOf i t { cause := .illop }
  else
    match i.row with
    | none => s.scalarFaultOf i t { cause := .illop }
    | some r =>
        if !r.inTroupe then s.scalarFaultOf i t { cause := .illop }
        else
          let bad := (decodeFault false i).isSome
          match (if bad then [] else t.scalarHolds (dispatchReads t i)) with
          | r :: rs => s.blockScalar t.id (.hold (r :: rs))
          | [] =>
              if !bad && t.readsBad (dispatchReads t i) then s.scalarFaultOf i t { cause := .regerr }
              else if 16 ≤ t.vq.length then s.blockScalar t.id .issue
              else
                match (if bad then Naming.none else t.nameFlag i) with
                | .noFlag => s.scalarFaultOf i t { cause := .illop }
                | .full => s.blockScalar t.id .issue
                | nm =>
                    let (flag, t1) := match nm with | .named j u => (some j, u) | _ => (.none, t)
                    let e : VEntry :=
                      { instr := i, cap := capture s t i, iaddr := t.pc, flag := flag, cno := t.cno }
                    let s1 := (s.setTroupe { t1 with vq := t.vq ++ [e] }).endInstr t.id
                      (t.pc + BitVec.ofNat 64 s.len)
                    if t.vq.isEmpty && !s.lag && t.stopped.isEmpty then vectorHead i t.id s1 issue
                    else s1

/-! ### Stopping a stream (R204) -/

/-- The stream of a ring. -/
def State.stream? (s : State) (ring : Nat) : Option Stream :=
  match s.ring? ring with
  | some r => r.stream
  | none => none

/-- Change the stream of a ring. -/
def State.modStream (s : State) (ring : Nat) (f : Stream → Stream) : State :=
  s.modRing ring fun r => { r with stream := r.stream.map f }

/-- Stop codes of R204. -/
def mxIll : Nat := 1
/-- ILLOP. -/
def mxIllop : Nat := 2
/-- ILLTYPE. -/
def mxIlltype : Nat := 3
/-- BADARG. -/
def mxBadarg : Nat := 4
/-- MXBANK. -/
def mxBank : Nat := 5
/-- MXTICKET. -/
def mxTicket : Nat := 6
/-- NOSLOT. -/
def mxNoslot : Nat := 7
/-- FAULTED. -/
def mxFaulted : Nat := 8
/-- CANCELLED. -/
def mxCancelled : Nat := 9
/-- TAGERR. -/
def mxTagerr : Nat := 10
/-- MEMFAULT. -/
def mxMemfault : Nat := 11
/-- IFETCH. -/
def mxIfetch : Nat := 12

/-- Stop a stream: one KIND 3 record, and the stream keeps what it has (R204, R344). -/
def State.stopStream (s : State) (ring code grade : Nat) : State :=
  match s.stream? ring with
  | none => s
  | some st =>
      let asid := s.asidOf ring
      let n := s.nextFseq asid
      let s1 := s.postRecord asid
        { s.ringRecord ring 3 .mxstop with iaddr := st.pc, code := code, grade := grade, pending := true }
      s1.modStream ring fun st => { st with state := 5, cause := code, fseq := some n, wait := none }

/-- An instruction that no stream may hold stops the stream that meets it (R45, R28). -/
def State.foreign (s : State) (ring : Nat) : State :=
  match s.stream? ring with
  | some st => s.stopStream ring (if st.left = 0 then mxIllop else mxIll) 0
  | none => s

/-! ### The party that runs an instruction -/

/-- Run a scalar-side instruction for the party that acts; a matrix stream that meets one stops
(R45). -/
def scalarInstr (i : Instr) (s : State) (eff : Troupe → State → SRes) : Out :=
  match s.cur with
  | .scalar id =>
      match s.troupe? id with
      | some t => .next (scalarRun i t s eff)
      | none => .fault .noAgent
  | .stream ring => .next (s.foreign ring)
  | _ => .fault .noAgent

/-- Run a vector-side instruction for the party that acts: the scalar side dispatches it, the vector
side issues it; a matrix stream that meets one stops (R45). -/
def vectorInstr (i : Instr) (s : State) (issue : VEntry → Troupe → State → VRes) : Out :=
  match s.cur with
  | .scalar id =>
      match s.troupe? id with
      | some t => .next (vectorDispatch i t s issue)
      | none => .fault .noAgent
  | .vside id =>
      match s.troupe? id with
      | some _ => .next (vectorHead i id s issue)
      | none => .fault .noAgent
  | .stream ring => .next (s.foreign ring)
  | .device => .fault .noAgent

/-! ### Operations outstanding -/

/-- A vector destination as an operation holds it. -/
def vDests (d : BitVec 8) (n : Nat) : List Nat :=
  if d.toNat < 64 then (List.range n).map (d.toNat + ·) else []

/-- Put a new operation among a troupe's, taking the entry's flag, address, operands and clause. -/
def Troupe.startOp (t : Troupe) (e : VEntry) (o : Op) : Troupe :=
  { t with
    ops := t.ops ++ [{ o with id := t.nextOp, instr := e.instr, iaddr := e.iaddr, cap := e.cap,
                              flag := e.flag, cno := e.cno }],
    nextOp := t.nextOp + 1 }

/-- A troupe whose operation has nothing left: it is removed, its flag lowered (R88). -/
def Troupe.endOp (t : Troupe) (o : Op) : Troupe :=
  { (t.lowerFlag o.flag) with ops := t.ops.filter fun x => x.id != o.id }

/-- Write the results an operation holds, and its numeric flags (R88, R110). -/
def Troupe.writeResults (t : Troupe) (o : Op) : Troupe :=
  let t := o.vres.foldl Troupe.writeV t
  let t := o.sres.foldl (fun t w => t.writeS w.d w.v) t
  t.raise o.fl

/-- A free entry of the operand log: none when all 8 are in use (R347). -/
def Troupe.freeSlot (t : Troupe) : Option Nat :=
  (List.range 8).find? fun n => !(t.ops.any fun o => o.slot == some n)

/-! ### Parked accesses (R253) -/

/-- Bits of KINDS (R253). -/
def kLoad : BitVec 8 := 1
/-- Store. -/
def kStore : BitVec 8 := 2
/-- Atomic or reduction. -/
def kAtomic : BitVec 8 := 4
/-- Copy. -/
def kCopy : BitVec 8 := 8
/-- Matrix engine. -/
def kMatrix : BitVec 8 := 16

/-- Record a parked access in the die's fault buffer, or set DROPPED; interrupt the host driver and
Cuchehild when an entry enters an empty buffer or DROPPED rises.  `again` says that the instruction
already counts on this page (R253). -/
def State.recordPark (s : State) (die core asid : Nat) (vpage : Word) (c : Cause) (level : Nat)
    (kind : BitVec 8) (again : Bool) : State :=
  let d := s.die die
  match d.fbuf.find? fun e => e.vpage == vpage && e.asid == asid with
  | some _ =>
      s.modDie die fun d =>
        { d with fbuf := updWhere d.fbuf (fun e => e.vpage == vpage && e.asid == asid) fun e =>
            { e with kinds := e.kinds ||| kind,
                     count := if again then e.count else min (2 ^ 32 - 1) (e.count + 1) } }
  | none =>
      if 8 ≤ d.fbuf.length then
        let s1 := s.modDie die fun d => { d with dropped := true }
        if d.dropped then s1 else s1.irq 0 d.mmuvec
      else
        let e : FBEnt :=
          { vpage := vpage, asid := asid, cause := if c = .extent then 2 else 1, level := level,
            kinds := kind, core := core % 64, count := 1, seq := d.fbseq }
        let s1 := s.modDie die fun d => { d with fbuf := d.fbuf ++ [e], fbseq := d.fbseq + 1 }
        if d.fbuf.isEmpty then s1.irq 0 d.mmuvec else s1

/-- The 256 KiB page of an address. -/
def pageOf (va : Word) : Word := (va >>> 18) <<< 18

/-- Two owners are lanes of one operation. -/
def ParkWho.sameOp : ParkWho → ParkWho → Bool
  | .lane t o _, .lane t' o' _ => t == t' && o == o'
  | x, y => x == y

/-- Park an access of a ring (R253). -/
def State.park (s : State) (ring : Nat) (who : ParkWho) (va : Word) (c : Cause) (level : Nat)
    (kind : BitVec 8) : State :=
  let die := s.dieOf ring
  let asid := s.asidOf ring
  let page := pageOf va
  let again := (s.die die).parked.any fun p => p.asid == asid && p.vpage == page && p.who.sameOp who
  (s.recordPark die (s.ring ring).core asid page c level kind again).modDie die fun d =>
    { d with parked := d.parked ++ [{ who := who, asid := asid, vpage := page, cause := c }] }

/-- Withdraw the parked accesses of an owner. -/
def State.unpark (s : State) (p : ParkWho → Bool) : State :=
  { s with dies := s.dies.map fun d => { d with parked := d.parked.filter fun x => !p x.who } }

end Sys2Proof.Machine
end

