-- ==== Sys2Proof/Machine/Slots.lean ====
section
/-! DEFINITION. What a format slot means to a ring now, and the frame shared by the vector
instructions (spec/06_format_slots.md R134, R135, R139; spec/05_vector_arithmetic.md R110). -/

namespace Sys2Proof

/-- The format slots a vector instruction names (R138). -/
def Instr.slots (i : Instr) : List Nat :=
  match i with
  | .vred f => if f.modx.getLsbD 0 then [f.ty.toNat] else []
  | .vscan f => if f.modx.getLsbD 0 then [f.ty.toNat] else []
  | .fcvtSlot f => [f.ty.toNat, f.sel.toNat]
  | .fsrnd f => [f.ty.toNat, f.sel.toNat]
  | _ =>
    match i.row, i.fields with
    | some r, some f => if 0x60 ≤ r.op && r.op ≤ 0x77 then [f.ty.toNat] else []
    | _, _ => []

end Sys2Proof

namespace Sys2Proof.Machine

/-- How a slot stands for an operation of a ring (R134, R135, R139). -/
inductive SlotView where
  | ready (f : Fmt)
  | stall
  | unbound
  deriving DecidableEq, Repr

/-- A loadable slot of a context. -/
def State.slotEnt (s : State) (asid slot : Nat) : SlotEnt := nth (s.ctx asid).slots (slot - 8) {}

/-- Whether a ring may use a slot (R134). -/
def State.slotAvail (s : State) (ring slot : Nat) : Bool :=
  let l := s.launchOf ring
  slot < 8 || nth l.lr.slotpkg (slot - 8) 0 != 0 || l.avail.contains slot

/-- The view of a slot from a ring.  The frames of its core are not asked: a ring to which another ring's
fmreq made the slot available uses the binding at once (log entry 156). -/
def State.slotView (s : State) (ring slot : Nat) : SlotView :=
  if slot < 8 then .ready (residentFmt slot)
  else
    let e := s.slotEnt (s.asidOf ring) slot
    if e.state = 1 ∨ e.state = 2 then .stall
    else
      match e.fmt with
      | some f => if e.state = 3 ∧ s.slotAvail ring slot then .ready f else .unbound
      | none => .unbound

/-- The format of a slot that is ready. -/
def State.slotFmt (s : State) (ring slot : Nat) : Fmt :=
  match s.slotView ring slot with
  | .ready f => f
  | _ => fmtF32

/-- The first slot of a list that stalls or is unbound decides: a draining slot blocks, an unbound
one is NOSLOT (R139). -/
def State.judgeSlots (s : State) (ring : Nat) : List Nat → Option (Option Nat)
  | [] => none
  | n :: rest =>
      match s.slotView ring n with
      | .ready _ => s.judgeSlots ring rest
      | .stall => some (some n)
      | .unbound => some none

/-! ### Shape classes (R84) -/

/-- The class of a vector instruction. -/
inductive VClass where
  | move
  | linear
  | scale
  | other
  | producing
  | reduction
  deriving DecidableEq, Repr

/-- A shape is uniform. -/
def Shape.isUniform : Shape → Bool
  | .uniform _ => true
  | _ => false

/-- A shape is affine. -/
def Shape.isAffine : Shape → Bool
  | .affine .. => true
  | _ => false

/-- The general shape of a lane function. -/
def generalOf (lane : Nat → Lane) : Shape := .general ((List.range 64).map lane)

/-- The affine shape of a lane function that is one. -/
def affineOf (lane : Nat → Lane) : Shape := .affine (lane 0) (lane 1 - lane 0)

/-- The shape of a result written to all lanes (R84). -/
def resultShape (c : VClass) (ins : List Shape) (lane : Nat → Lane) : Shape :=
  match c with
  | .producing => generalOf lane
  | .reduction => .uniform (lane 0)
  | _ =>
      if ins.all Shape.isUniform then .uniform (lane 0)
      else if ins.any Shape.isGeneral then generalOf lane
      else
        match c with
        | .move => affineOf lane
        | .linear => affineOf lane
        | .scale => if (ins.filter Shape.isAffine).length = 1 then affineOf lane else generalOf lane
        | _ => generalOf lane

/-! ### Completing a vector instruction -/

/-- What a vector instruction writes: vector register, scalar register, flags. -/
structure VOut where
  /-- vector writes -/
  vs : List VWrite := []
  /-- scalar writes -/
  ss : List SWrite := []
  /-- numeric flags -/
  fl : BitVec 4 := 0
  deriving DecidableEq, Repr

/-- The registers among some writes that become general. -/
def VOut.generals (o : VOut) : List (BitVec 8) :=
  (o.vs.filter fun w => makesGeneral w.d w.mask w.sh).map (·.d)

/-- Issue a vector instruction that only computes: REGBUDGET, then the slots it names, then its
results, at once or, for a long-latency producer, held until its operation completes (R86, R88,
R110, R345).  With no active lane a producer's count falls at issue. -/
def computeIssue (out : Troupe → State → VOut) (e : VEntry) (t : Troupe) (s : State) : VRes :=
  let o := out t s
  if t.overBudget (s.ring t.id.ring).vgen o.generals then .fault { cause := .regbudget }
  else
    match s.judgeSlots t.id.ring e.instr.slots with
    | some (some n) => .wait (.slot n) s
    | some none => .fault { cause := .noslot }
    | none =>
        if e.instr.longLatency then
          if e.cap.k0 = 0 then .done (s.setTroupe (t.lowerFlag e.flag))
          else
            .done (s.setTroupe (t.startOp e
              { id := 0, instr := e.instr, vdest := o.vs.flatMap fun w => vDests w.d 1,
                sdest := o.ss.flatMap fun w => sNum w.d, general := !o.generals.isEmpty,
                grade := maxOf (o.vs.map (·.g)), vres := o.vs, sres := o.ss, fl := o.fl }))
        else
          let t := o.vs.foldl Troupe.writeV t
          let t := o.ss.foldl (fun t w => t.writeS w.d w.v) t
          .done (s.setTroupe (t.raise o.fl))

/-- The operands of a vector instruction: A, B and C as registers, broadcasts or lane numbers. -/
structure VOps where
  /-- A -/
  a : VReg := {}
  /-- B -/
  b : VReg := {}
  /-- C -/
  c : VReg := {}
  deriving DecidableEq, Repr

/-- Read the vector-class operands of a dispatched instruction. -/
def readOps (f : Fields) (e : VEntry) (t : Troupe) : VOps :=
  { a := readV t f.a e.cap.a, b := readV t f.b e.cap.b, c := readV t f.c e.cap.c }

end Sys2Proof.Machine
end

