-- ==== Sys2Proof/Machine/Lanes.lean ====
section
/-! DEFINITION. The lanes of memory instructions: their addresses and data, how one is checked and
performed, how its reply returns (spec/10_memory_access.md R224-R238, spec/07_scratchpad.md R153,
R154, spec/16_faults_and_preemption.md R347). -/

namespace Sys2Proof.Machine

/-! ### Which lanes, where, with what data -/

/-- The form of a memory instruction's addresses. -/
inductive AForm where
  /-- one access: ld and st -/
  | one
  /-- R43 with a vector index -/
  | lane
  /-- one scalar address for every active lane: ldsb -/
  | bcast
  /-- R229's stride -/
  | stride
  /-- lds.row -/
  | row
  /-- lds.col -/
  | col
  deriving DecidableEq, Repr

/-- The address form of a memory instruction. -/
def addrForm : Instr → AForm
  | .ld _ => .one
  | .ldAc _ => .one
  | .st _ => .one
  | .ldsb _ => .bcast
  | .vldw _ => .stride
  | .vstw _ => .stride
  | .lds f => if f.sub == 2 then .row else if f.sub == 3 then .col else .lane
  | .sts f => if f.sub == 2 then .row else if f.sub == 3 then .col else .lane
  | _ => .lane

/-- The address of lane i (R43, R154, R229). -/
def lanePlace (i : Instr) (f : Fields) (e : VEntry) (t : Troupe) (n : Nat) : Word :=
  let base := e.cap.a.v + f.imm.signExtend 64
  match addrForm i with
  | .one => memAddr e.cap.a e.cap.b f
  | .bcast => memAddr e.cap.a e.cap.b f
  | .lane => laneAddr e.cap.a ((readV t f.b e.cap.b).sh.lane n) f
  | .row => base + BitVec.ofNat 64 (4 * n)
  | .col => base + BitVec.ofNat 64 (64 * (n % 16) + 4 * (n / 16))
  | .stride =>
      let b := f.modx.toNat
      base + BitVec.ofNat 64 (n / 2 ^ b) * e.cap.b.v
        + BitVec.ofNat 64 (n % 2 ^ b * (tyWidth f.ty.toNat / 8))

/-- One access that k0 does not gate (R226). -/
def isScalarAccess (i : Instr) : Bool := addrForm i == .one

/-- The lanes an instruction accesses with (R226, R230). -/
def accessLanes (i : Instr) (k0 : Word) : List Nat := if isScalarAccess i then [0] else lanesOf k0

/-- The data grade of a write: C's, with D's for acas (R228). -/
def dataGrade (i : Instr) (f : Fields) (e : VEntry) (t : Troupe) : Nat :=
  match i with
  | .st _ => e.cap.c.g
  | .acas _ =>
      max (readV t f.c e.cap.c).g (if f.d.toNat < 64 then (t.vreg f.d.toNat).g else 0)
  | _ => if hasData i then (readV t f.c e.cap.c).g else 0

/-- The index of a memory operand is in use (R43, R229). -/
def usesIndex (i : Instr) (f : Fields) : Bool := addrForm i == .stride || f.modx.getLsbD 3

/-- The grade of the address operands. -/
def addressGrade (i : Instr) (f : Fields) (e : VEntry) (t : Troupe) : Nat :=
  max e.cap.a.g
    (if usesIndex i f then
      (match addrForm i with | .lane => (readV t f.b e.cap.b).g | _ => e.cap.b.g)
     else 0)

/-- The lane records of an instruction at issue, all still to be performed (R347, R367). -/
def laneRecs (i : Instr) (f : Fields) (e : VEntry) (t : Troupe) : List LaneRec :=
  (accessLanes i e.cap.k0).map fun n =>
    { lane := n, addr := lanePlace i f e t n,
      data := if isScalarAccess i then e.cap.c.v
        else if hasData i then ((readV t f.c e.cap.c).sh.lane n).setWidth 64 else 0,
      dold := match i with
        | .acas _ => if f.d.toNat < 64 then (t.vreg f.d.toNat).sh.lane n else 0
        | _ => 0,
      st := .redo }

/-- What an instruction's access wants (R224-R227, R240, R244). -/
def accessWant (i : Instr) (f : Fields) (g : Nat) : Want :=
  let n := accessBytes i f
  let host := match i with
    | .aadd _ => true | .axch _ => true | .acas _ => true | .redadd _ => true | _ => false
  let at_ := isAtomic i || isReduction i
  { n := n, rd := isLoad i || isAtomic i, wr := hasData i, atomic := at_, red := isReduction i,
    maint := isMaint i, hostOk := !at_ || host, splitOk := !at_ || (isFloatAtomic i && f.ty == 0),
    align := n, g := g,
    mustScratch := match i with | .lds _ => true | .sts _ => true | .ldsb _ => true | _ => false }

/-- KINDS of a parked access (R253). -/
def accessKind (i : Instr) : BitVec 8 :=
  if isAtomic i || isReduction i then kAtomic else if hasData i then kStore else kLoad

/-! ### Atomic operations (R238, R241) -/

/-- New value, returned value, failure and flags of an atomic or reduction on an old value with
operand c and, for acas, d. -/
def atomicOp (i : Instr) (f : Fields) (old c d : Nat) : Nat × Nat × Bool × BitVec 4 :=
  let ty := f.ty.toNat
  let m := 2 ^ 32
  let le := fun (x y : Nat) => decide (tyInt ty x ≤ tyInt ty y)
  let plain := fun (x : Nat) => (x % m, old, false, (0 : BitVec 4))
  let addf := fun (_ : Unit) =>
    let fm := residentFmt ty
    let x := (fm.decode old).add (fm.decode c)
    let z := fm.encode x.1 .nearest (f.sat == 1)
    (z.1, old, false, x.2 ||| z.2)
  match i with
  | .aadd _ => plain (old + c)
  | .redadd _ => plain (old + c)
  | .amin _ => plain (if le c old then c else old)
  | .redmin _ => plain (if le c old then c else old)
  | .amax _ => plain (if le old c then c else old)
  | .redmax _ => plain (if le old c then c else old)
  | .aand _ => plain (old &&& c)
  | .redand _ => plain (old &&& c)
  | .aor _ => plain (old ||| c)
  | .redor _ => plain (old ||| c)
  | .axor _ => plain (old ^^^ c)
  | .redxor _ => plain (old ^^^ c)
  | .axch _ => plain c
  | .acas _ => plain (if old = d then c else old)
  | .ainb _ => plain (if !le c old then old + 1 else old)
  | .ainw _ => plain (if le c old then 0 else old + 1)
  | .adecp _ => plain (if 0 < tyInt ty old then old - 1 else old)
  | .aflim _ =>
      let lo := old % m
      let lim := old / m
      let sum := tyInt ty lo + tyInt ty c
      if tyInt ty lim < sum then (old, lo, true, 0)
      else ((sum % m).toNat + lim * m, lo, false, 0)
  | .aaddf _ => addf ()
  | .redaddf _ => addf ()
  | _ => plain old

/-! ### Performing one lane -/

/-- Whose a window reduction is. -/
def State.issuer (s : State) (id : TroupeId) (f : Fields) (l : LaneRec) : Issuer :=
  { uid := ((s.troupe? id).map (·.uid)).getD 0, ring := id.ring, die := (s.ring id.ring).core / 64, launch := (s.launchOf id.ring).id,
    asid := s.asidOf id.ring, col := f.col.toNat, va := l.addr.toNat }

/-- What a performed access leaves: the state, how its lane stands, the grade it read. -/
def doAccess (i : Instr) (f : Fields) (id : TroupeId) (dg : Nat) (l : LaneRec) (site : Site)
    (s : State) : State × LaneSt × Nat :=
  let n := accessBytes i f
  if isLoad i then (s, .reply [BitVec.ofNat 64 (leNat (s.loadSite site))], site.g)
  else if isMaint i then (s, .done, 0)
  else if isReduction i && site.win.isSome then
    -- the contribution leaves for the window's home (R242)
    match site.locs with
    | .phys a :: _ =>
        ({ (s.modFw fun w => { w with contribs := w.contribs ++
            [{ id := s.fresh, instr := i, addr := a, c := l.data.setWidth 32, who := [s.issuer id f l],
               key := site.key }] }) with
           fresh := s.fresh + 1 }, .done, 0)
    | _ => (s, .done, 0)
  else if isAtomic i || isReduction i then
    let old := leNat (s.loadSite site)
    let c := l.data.toNat % 2 ^ (if isFloatAtomic i then 8 * n else 32)
    let r := atomicOp i f old c l.dold.toNat
    let s1 := if r.1 = old then s else s.writeSite site (leBytes r.1 n) dg
    (s1,
     if isAtomic i then
       .reply [BitVec.ofNat 64 r.2.1, if r.2.2.1 then 1 else 0, r.2.2.2.setWidth 64]
     else .done, site.g)
  else (s.writeSite site (leBytes l.data.toNat n) dg, .done, 0)

/-- Set how a lane of an operation stands. -/
def Troupe.setLane (t : Troupe) (op lane : Nat) (st : LaneSt) : Troupe :=
  t.modOp op fun o => { o with lanes := updWhere o.lanes (fun l => l.lane == lane) fun l => { l with st := st } }

/-- Every lane of an operation that stands one way stands another. -/
def Troupe.setLanes (t : Troupe) (op : Nat) (a b : LaneSt) : Troupe :=
  t.modOp op fun o => { o with lanes := updWhere o.lanes (fun l => l.st == a) fun l => { l with st := b } }

/-- A final fault of a lane, to be reported when the troupe stops (R228, R347). -/
def State.faultLane (s : State) (id : TroupeId) (op lane : Nat) (c : Cause) (r : Nat) : State :=
  s.modTroupe id fun t =>
    { (t.setLane op lane (.faulted c r none)) with
      reports := if t.reports.contains op then t.reports else t.reports ++ [op] }

/-- Park a lane (R253). -/
def State.parkLane (s : State) (id : TroupeId) (op lane : Nat) (va : Word) (c : Cause) (level : Nat)
    (kind : BitVec 8) : State :=
  (s.park id.ring (.lane id op lane) va c level kind).modTroupe id fun t => t.setLane op lane .parked

/-- Check and perform one lane of an operation (R227, R228, R230). -/
def performLane (id : TroupeId) (o : Op) (f : Fields) (s : State) (l : LaneRec) : State :=
  let w := accessWant o.instr f o.dgrade
  let p := s.ringParty id.ring
  match s.access p l.addr.toNat w with
  | .final c r =>
      -- a dropped prefetch or flush lane faults only in a window (R234)
      if isMaint o.instr && !inWindows l.addr.toNat then
        s.modTroupe id fun t => t.setLane o.id l.lane .done
      else s.faultLane id o.id l.lane c r
  | .replay c level =>
      if isMaint o.instr then s.modTroupe id fun t => t.setLane o.id l.lane .done
      else s.parkLane id o.id l.lane l.addr c level (accessKind o.instr)
  | .ok site =>
      -- with no link up, the lane waits for one (R380)
      if s.cutOff site (isReduction o.instr) then s.modTroupe id fun t => t.setLane o.id l.lane .behind
      else
      let (s1, st, g) := doAccess o.instr f id o.dgrade l site ((s.touch p l.addr.toNat site).sendTo site (isReduction o.instr))
      s1.modTroupe id fun t =>
        (t.setLane o.id l.lane st).modOp o.id fun o => { o with rgrade := max o.rgrade g }

/-- Every lane of an operation is complete. -/
def Op.allDone (o : Op) : Bool := o.lanes.all fun l => l.st == .done

/-- End an operation whose lanes are all complete. -/
def State.tidyOp (s : State) (id : TroupeId) (op : Nat) : State :=
  match s.troupe? id with
  | none => s
  | some t =>
      match t.op? op with
      | none => s
      | some o => if o.allDone then s.setTroupe (t.endOp o) else s

/-- Perform every lane of a memory operation that is to be performed, in increasing lane order
(R230, R237, R354). -/
def performOp (id : TroupeId) (op : Nat) (s : State) : State :=
  match s.troupe? id with
  | none => s
  | some t =>
      match t.op? op with
      | none => s
      | some o =>
          match o.instr.fields with
          | none => s
          | some f => ((o.lanes.filter fun l => l.st == .redo).foldl (performLane id o f) s).tidyOp id op

/-! ### Replies -/

/-- The lane values an operation has received. -/
def Op.gotVals (o : Op) (lane : Nat) : List Word :=
  match o.lanes.find? fun l => l.lane == lane with
  | some l => match l.st with | .got v => v | .reply v => v | _ => []
  | none => []

/-- The register value of a load's or atomic's word in a lane (R230, R236). -/
def laneValue (i : Instr) (f : Fields) (v : Word) : Lane :=
  if isAtomic i then v.setWidth 32 else tyExtend 32 f.ty.toNat (tyInt f.ty.toNat v.toNat)

/-- The lanes of an operation in some state, as a mask. -/
def Op.maskWhere (o : Op) (p : LaneSt → Bool) : Word := maskOf ((o.lanes.filter fun l => p l.st).map (·.lane))

/-- A reply that has arrived. -/
def LaneSt.isGot : LaneSt → Bool
  | .got _ => true
  | _ => false

/-- A reply on its way. -/
def LaneSt.isReply : LaneSt → Bool
  | .reply _ => true
  | _ => false

/-- Every lane of a full mask has its result: D takes the result's grade, however its lanes arrived (R82, R85). -/
def Op.whole (o : Op) : Bool :=
  o.lanes.length == 64 && o.lanes.all fun l => l.st.isGot || l.st == .done

/-- Give a vector register a grade. -/
def Troupe.regrade (t : Troupe) (d : BitVec 8) (g : Nat) : Troupe :=
  if d.toNat < 64 then { t with v := upd t.v d.toNat fun r => { r with g := g } } else t

/-- Write what a load or atomic has received to its destination: a scalar register, or the lanes
received (R230, R236); aflim also writes its failure mask. -/
def writeGot (o : Op) (f : Fields) (t : Troupe) : Troupe :=
  let m := o.maskWhere LaneSt.isGot
  let v := fun n => nth (o.gotVals n) 0 0
  if isScalarAccess o.instr then
    t.writeS f.d { v := tyExtend 64 f.ty.toNat (tyInt f.ty.toNat (v 0).toNat), g := o.rgrade }
  else
    let lane := fun n => laneValue o.instr f (v n)
    let sh := match o.instr with
      | .ldsb _ => Shape.uniform (match lanesOf m with | n :: _ => lane n | [] => 0)
      | _ => generalOf lane
    let t := t.writeV { d := f.d, mask := m, sh := sh, g := o.rgrade }
    let t := if o.whole then t.regrade f.d o.rgrade else t
    match o.instr with
    | .aflim _ =>
        let kd : BitVec 8 := 0x80 + f.sel.setWidth 8
        let old := t.reg kd.toNat
        let fails := maskOf ((lanesOf m).filter fun n => nth (o.gotVals n) 1 0 == 1)
        t.writeS kd { v := (old.v &&& ~~~m) ||| fails, g := max old.g o.rgrade }
    | _ => t

/-- Write every reply that has arrived; the operation ends when no lane is left (R88, R347). -/
def deliverOp (id : TroupeId) (op : Nat) (s : State) : State :=
  match s.troupe? id with
  | none => s
  | some t =>
      match t.op? op with
      | none => s
      | some o =>
          match o.instr.fields with
          | none => s
          | some f =>
              let t1 := (writeGot o f t).modOp op fun o =>
                { o with lanes := o.lanes.map fun l => if l.st.isGot then { l with st := .done } else l }
              (s.setTroupe t1).tidyOp id op

/-- Mark every reply of an operation as arrived. -/
def Op.arriveAll (o : Op) : Op :=
  { o with lanes := o.lanes.map fun l => match l.st with | .reply v => { l with st := .got v } | _ => l }

/-! ### Issue of a memory instruction -/

/-- A window reduction that the home has still to apply, of the troupe of a creation number (R242). -/
def State.windowOwes (s : State) (uid : Nat) (col : Nat → Bool) : Bool :=
  s.fw.contribs.any fun c => c.who.any fun w => w.uid == uid && col w.col

/-- A release at system scope waits for the troupe's window reductions of its colours (R235, R242). -/
def State.windowWaits (s : State) (uid ord scp : Nat) (col : Nat → Bool) : Bool :=
  2 ≤ ord && scp == 3 && s.windowOwes uid col

/-- An instruction that reads scratchpad lanes (R153). -/
def isLaneLoad : Instr → Bool
  | .lds _ => true
  | .ldsb _ => true
  | _ => false

/-- The vector destination that a load or atomic makes general, as REGBUDGET counts it: whatever k0 holds
for the memory instructions (R226), with an active lane for lds and a partial mask for ldsb (R154). -/
def loadDests (i : Instr) (f : Fields) (k0 : Word) : List (BitVec 8) :=
  if (isLoad i || isAtomic i) && !isScalarAccess i then
    let general := match i with
      | .lds _ => k0 != 0
      | .ldsb _ => k0 != 0 && k0 != allLanes
      | _ => true
    if f.d.toNat < 64 && general then [f.d] else []
  else []

/-- Make a register general as it stands, with its grade: the destination of a split-phase load
(R232). -/
def Troupe.makeGeneral (t : Troupe) (d : BitVec 8) : Troupe :=
  if d.toNat < 64 then
    { t with v := upd t.v d.toNat fun r => { r with sh := .general r.sh.lanes } }
  else t

/-- The arrival counter of a split-phase load would pass 4095 (R231). -/
def counterFull (i : Instr) (t : Troupe) (n : Nat) : Bool :=
  match splitCounter i with
  | some j => decide (4095 < nth t.ac j 0 + n)
  | none => false

/-- The operation a memory instruction issues: its lanes, destinations, grades and log entry (R88, R228,
R231, R236, R347). -/
def memOp (f : Fields) (e : VEntry) (t : Troupe) : Op :=
  let i := e.instr
  let dg := dataGrade i f e t
  let ag := addressGrade i f e t
  { id := t.nextOp, instr := i, ac := splitCounter i, slot := if i.logged then t.freeSlot else none,
    held := (splitCounter i).isNone,
    vdest := if isScalarAccess i then [] else if isLoad i || isAtomic i then vDests f.d 1 else [],
    sdest := (if isScalarAccess i && isLoad i then sNum f.d else [])
      ++ (match i with | .aflim f => [128 + f.sel.toNat] | _ => []),
    general := !(loadDests i f e.cap.k0).isEmpty, grade := max ag dg,
    rgrade := if isAtomic i then max ag (readV t f.c e.cap.c).g else if isLaneLoad i then 0 else ag,
    dgrade := dg,
    lanes := laneRecs i f e t }

/-- The troupe with a memory operation among its operations: a split-phase load raises its arrival counter
by its lanes, and its destination is general at once (R231, R232). -/
def Troupe.startMem (t : Troupe) (f : Fields) (e : VEntry) : Troupe :=
  let o := memOp f e t
  let t1 := t.startOp e o
  match o.ac with
  | some j =>
      let t2 := { t1 with ac := upd t1.ac j (· + o.lanes.length) }
      if o.general then t2.makeGeneral f.d else t2
  | none => t1

/-- Issue a memory instruction: REGBUDGET, a place in the log, the arrival counter, then its lanes, which
wait where an earlier access of the troupe must be performed first (R86, R226, R231, R269, R270, R345,
R347).  Without an active lane nothing is accessed. -/
def memIssue (f : Fields) (e : VEntry) (t : Troupe) (s : State) : VRes :=
  let i := e.instr
  if t.overBudget (s.ring t.id.ring).vgen (loadDests i f e.cap.k0) then .fault { cause := .regbudget }
  else if (accessLanes i e.cap.k0).isEmpty then .done (s.setTroupe (t.lowerFlag e.flag))
  else if s.windowWaits t.uid f.ord.toNat f.scp.toNat (· == f.col.toNat) then .wait .issue s
  else if (i.logged && t.freeSlot.isNone) || counterFull i t (accessLanes i e.cap.k0).length then
    .wait .issue s
  else if t.behind s (memOp f e t) then
    .done (s.setTroupe ((t.startMem f e).setLanes t.nextOp .redo .behind))
  else .done (performOp t.id t.nextOp (s.setTroupe (t.startMem f e)))

/-! ### The events that return results -/

/-- An operation's results reach the registers: the held results of a computation, or every reply of
a load (R88, R230).  An operation of a troupe that returns lane by lane, or has nothing to return, is
left as it is. -/
def completeLong (id : TroupeId) (op : Nat) (s : State) : State :=
  match s.troupe? id with
  | none => s
  | some t =>
      match t.op? op with
      | none => s
      | some o =>
          if isLoad o.instr then
            if o.held && o.lanes.any fun l => l.st.isReply then
              deliverOp id op (s.setTroupe (t.modOp op Op.arriveAll))
            else s
          else if o.lanes.isEmpty && (!o.vres.isEmpty || !o.sres.isEmpty) then
            s.setTroupe ((t.writeResults o).endOp o)
          else s

/-- LONG_LATENCY_COMPLETE (R88, R230). -/
def execLongLatencyComplete (s : State) : Out :=
  let id : TroupeId := ⟨s.ev.ring, s.ev.idx⟩
  .next ((completeLong id s.ev.op s).settle id)

/-- One reply of a split-phase load: its lane is written, its counter falls (R231, R232). -/
def splitReply (id : TroupeId) (op lane : Nat) (s : State) : State :=
  match s.troupe? id with
  | none => s
  | some t =>
      match t.op? op, (t.op? op).bind (·.instr.fields) with
      | some o, some f =>
          match (o.lanes.find? fun l => l.lane == lane).map LaneRec.st with
          | some (LaneSt.reply vals) =>
              if o.held then s
              else
                let v := nth vals 0 0
                let t1 :=
                  if isScalarAccess o.instr then
                    let old := if f.d.toNat < 0xE0 then t.reg f.d.toNat else {}
                    t.writeS f.d { v := tyExtend 64 f.ty.toNat (tyInt f.ty.toNat v.toNat),
                                   g := max old.g o.rgrade }
                  else if f.d.toNat < 64 then
                    let old := t.vreg f.d.toNat
                    { t with v := upd t.v f.d.toNat fun _ =>
                        { sh := .general ((List.range 64).map fun n =>
                            if n = lane then laneValue o.instr f v else old.sh.lane n),
                          g := max old.g o.rgrade } }
                  else t
                (s.setTroupe ((t1.lowerCounter o.ac).setLane op lane .done)).tidyOp id op
          | _ => s
      | _, _ => s

/-- SPLIT_LOAD_REPLY (R231, R232). -/
def execSplitLoadReply (s : State) : Out :=
  let id : TroupeId := ⟨s.ev.ring, s.ev.idx⟩
  .next ((splitReply id s.ev.op s.ev.lane s).settle id)

/-- One reply of an atomic: its flags join the sticky flags; with the last of the outstanding ones the
destination is written (R236, R238). -/
def atomicReply (id : TroupeId) (op lane : Nat) (s : State) : State :=
  match s.troupe? id with
  | none => s
  | some t =>
      match t.op? op with
      | none => s
      | some o =>
          match (o.lanes.find? fun l => l.lane == lane).map LaneRec.st with
          | some (LaneSt.reply vals) =>
              if isAtomic o.instr then
                let t1 := (t.setLane op lane (.got vals)).raise ((nth vals 2 0).setWidth 4)
                let s1 := s.setTroupe t1
                let left := match t1.op? op with
                  | some o => o.lanes.any fun l => l.st.isReply
                  | none => false
                if left then s1 else deliverOp id op s1
              else s
          | _ => s

/-- ATOMIC_REPLY (R236, R238). -/
def execAtomicReply (s : State) : Out :=
  let id : TroupeId := ⟨s.ev.ring, s.ev.idx⟩
  .next ((atomicReply id s.ev.op s.ev.lane s).settle id)

end Sys2Proof.Machine
end

