-- ==== Sys2Proof/Machine/Sync.lean ====
section
/-! DEFINITION. Copy tags, barrier objects, named queues, numbered barriers and the barrier tree
(spec/07_scratchpad.md R164-R174). -/

namespace Sys2Proof.Machine

/-- Write a scalar result of a vector-side instruction: at once, or, for a long-latency producer,
when its operation completes (R88). -/
def scalarResult (e : VEntry) (t : Troupe) (s : State) (d : BitVec 8) (v : GW) : State :=
  if e.instr.longLatency then
    s.setTroupe (t.startOp e
      { id := 0, instr := e.instr, sdest := sNum d, grade := v.g, sres := [{ d := d, v := v }] })
  else s.setTroupe (t.writeS d v)

/-! ### Copy tags (R164, R165) -/

/-- The tags a mask names within a ring's share. -/
def namedTags (r : Ring) (m : Word) : List Nat := (lanesOf m).filter fun j => j < r.tags

/-- A tag's ready bit. -/
def tagReady (r : Ring) (j : Nat) : Bool := r.tagmap.getLsbD j

/-- A tag is idle: no outstanding entry and its ready bit clear. -/
def tagIdle (r : Ring) (j : Nat) : Bool := nth r.tagcnt j 0 == 0 && !tagReady r j

/-- tgwany's condition. -/
def anyTag (r : Ring) (m : Word) : Bool :=
  (namedTags r m).any (tagReady r) || (namedTags r m).all (tagIdle r)

/-- tgwall's condition. -/
def allTags (r : Ring) (m : Word) : Bool := (namedTags r m).all fun j => tagReady r j || tagIdle r j

/-- An instruction that waits for tags and answers TAGMAP AND A. -/
def tagWait (cond : Ring → Word → Bool) (f : Fields) (e : VEntry) (t : Troupe) (s : State) : VRes :=
  let r := s.ring t.id.ring
  if cond r e.cap.a.v then .done (scalarResult e t s f.d { v := r.tagmap &&& e.cap.a.v })
  else .wait .tags s

/-- tgwany (R165). -/
def execTgwany (f : Fields) (s : State) : Out := vectorInstr (.tgwany f) s (tagWait anyTag f)

/-- tgwall (R165). -/
def execTgwall (f : Fields) (s : State) : Out := vectorInstr (.tgwall f) s (tagWait allTags f)

/-- tgffr: the lowest ready named tag, or 64 (R165). -/
def execTgffr (f : Fields) (s : State) : Out :=
  vectorInstr (.tgffr f) s fun e t s =>
    let m := (s.ring t.id.ring).tagmap &&& e.cap.a.v
    let n := match lanesOf m with | j :: _ => j | [] => 64
    .done (scalarResult e t s f.d { v := BitVec.ofNat 64 n })

/-- tgclr: clears ready and error bits (R165). -/
def execTgclr (f : Fields) (s : State) : Out :=
  vectorInstr (.tgclr f) s fun e t s =>
    .done (s.modRing t.id.ring fun r =>
      { r with tagmap := r.tagmap &&& ~~~e.cap.a.v, tagerr := r.tagerr &&& ~~~e.cap.a.v })

/-- tgget: TAGMAP, TAGERR or the busy mask (R165). -/
def execTgget (f : Fields) (s : State) : Out :=
  vectorInstr (.tgget f) s fun e t s =>
    let r := s.ring t.id.ring
    let v := if f.sub == 0 then r.tagmap else if f.sub == 1 then r.tagerr
      else maskOf ((List.range 64).filter fun j => 0 < nth r.tagcnt j 0)
    .done (scalarResult e t s f.d { v := v })

/-- A copy or join on a tag issues: its count rises and both bits clear (R164). -/
def Ring.tagIssue (r : Ring) (j : Nat) : Ring :=
  { r with tagcnt := upd r.tagcnt j (· + 1), tagmap := r.tagmap &&& ~~~(1#64 <<< j),
           tagerr := r.tagerr &&& ~~~(1#64 <<< j) }

/-- An entry on a tag completes: its count falls, the ready bit sets at 0, and a final fault sets
the error bit (R164). -/
def Ring.tagDone (r : Ring) (j : Nat) (err : Bool) : Ring :=
  let n := nth r.tagcnt j 0 - 1
  { r with tagcnt := upd r.tagcnt j fun _ => n,
           tagmap := if n = 0 then r.tagmap ||| (1#64 <<< j) else r.tagmap,
           tagerr := if err then r.tagerr ||| (1#64 <<< j) else r.tagerr }

/-! ### Barrier objects (R166-R170) -/

/-- A barrier object (R166). -/
structure BObj where
  /-- FREC -/
  frec : Nat := 0
  /-- bits 95:91 -/
  rsv : Nat := 0
  /-- CANCELLED -/
  cancelled : Bool := false
  /-- FAULTED -/
  faulted : Bool := false
  /-- VALID -/
  valid : Bool := true
  /-- PENDB -/
  pendb : Int := 0
  /-- EXPB -/
  expb : Nat := 0
  /-- PENDA -/
  penda : Nat := 0
  /-- EXPA -/
  expa : Nat := 0
  /-- PHASE -/
  phase : Nat := 0
  deriving DecidableEq, Repr

/-- The fields of the 128-bit value (R166). -/
def BObj.ofNat (w : Nat) : BObj :=
  let b := bitsOf w 87 64
  { frec := bitsOf w 127 96, rsv := bitsOf w 95 91, cancelled := bitsOf w 90 90 == 1,
    faulted := bitsOf w 89 89 == 1, valid := bitsOf w 88 88 == 1,
    pendb := if 2 ^ 23 ≤ b then (b : Int) - 2 ^ 24 else b,
    expb := bitsOf w 63 40, penda := bitsOf w 39 28, expa := bitsOf w 27 16, phase := bitsOf w 15 0 }

/-- The 128-bit value of the fields (R166). -/
def BObj.toNat (o : BObj) : Nat :=
  o.phase % 2 ^ 16 + o.expa % 2 ^ 12 * 2 ^ 16 + o.penda % 2 ^ 12 * 2 ^ 28 + o.expb % 2 ^ 24 * 2 ^ 40
    + (o.pendb % 2 ^ 24).toNat * 2 ^ 64 + o.valid.toNat * 2 ^ 88 + o.faulted.toNat * 2 ^ 89
    + o.cancelled.toNat * 2 ^ 90 + o.rsv % 2 ^ 5 * 2 ^ 91 + o.frec % 2 ^ 32 * 2 ^ 96

/-- The advance rule, applied in every update (R167). -/
def BObj.advance (o : BObj) : BObj :=
  if o.valid && o.penda == 0 && o.pendb == 0 && !o.faulted then
    { o with phase := (o.phase + 1) % 2 ^ 16, penda := o.expa, pendb := 0, expb := 0,
             cancelled := false }
  else o

/-- Arrive `n` times, expecting `b` more bytes; PENDB stands still while FAULTED (R167, R168). -/
def BObj.arrive (o : BObj) (n b : Nat) : BObj :=
  { o with penda := o.penda - n, expb := o.expb + b,
           pendb := if o.faulted then o.pendb else o.pendb + b }.advance

/-- Expecting `b` more bytes stays within PENDB and EXPB (R168). -/
def BObj.expectOk (o : BObj) (b : Nat) : Bool :=
  b < 2 ^ 23 && o.expb + b < 2 ^ 24 && (o.faulted || o.pendb + b < 2 ^ 23)

/-- bcan's update (R170). -/
def BObj.cancel (o : BObj) : BObj :=
  { o with phase := (o.phase + 1) % 2 ^ 16, penda := o.expa, pendb := 0, expb := 0, faulted := false,
           cancelled := true, frec := 0 }

/-- The condition of bwait for a token or, with `par`, a parity (R169). -/
def BObj.ready (o : BObj) (par : Bool) (b : Word) : Bool :=
  if par then o.phase % 2 != b.toNat % 2 else o.phase != b.toNat % 2 ^ 16

/-- The status word of bwait and btest (R169). -/
def BObj.status (o : BObj) (par : Bool) (b : Word) : Word :=
  let gap := (o.phase + 2 ^ 16 - b.toNat % 2 ^ 16) % 2 ^ 16
  let done := o.ready par b
  let can := o.cancelled && (if par then done else gap == 1)
  BitVec.ofNat 64 (o.phase + (!par && decide (2 ≤ gap)).toNat * 2 ^ 16 + o.faulted.toNat * 2 ^ 17
    + can.toNat * 2 ^ 18 + done.toNat * 2 ^ 19)

/-- Where an object or queue header stands: core, offset; SPRANGE outside an allocation (R148). -/
def State.objectAt (s : State) (ring : Nat) (va n : Nat) : Option (Nat × Nat) :=
  if inWindows va then (s.scratchAt (some ring) va n).map fun x => (x.1, x.2.1) else none

/-- A little-endian number of n bytes in a scratchpad. -/
def State.spadNat (s : State) (core off n : Nat) : Nat := leNat (cellReadN (s.core core).spad off n)

/-- Write a little-endian number of n bytes, raising line grades (R151). -/
def State.spadPut (s : State) (core off n v g : Nat) : State :=
  s.writeLocs ((List.range n).map fun i => .spad core (off + i)) (leBytes v n) g

/-- The object at a place. -/
def State.barrierObj (s : State) (p : Nat × Nat) : BObj := BObj.ofNat (s.spadNat p.1 p.2 16)

/-- The address sA + off. -/
def objAddr (f : Fields) (e : VEntry) : Nat := (e.cap.a.v + f.imm.signExtend 64).toNat

/-- A bwait that waits on the object at a place returns with the status of the update that meets its
condition (R169, R170). -/
def State.wakeTroupe (s : State) (p : Nat × Nat) (o : BObj) (t : Troupe) : Troupe :=
  match t.vwait, t.vq with
  | some .barrier, e :: _ =>
      match e.instr with
      | .bwait f =>
          let b := e.cap.b.v
          if s.objectAt t.id.ring (objAddr f e) 16 == some p && (o.ready (f.sub == 1) b || o.faulted) then
            { t with vwait := some (.barrierOver (o.status (f.sub == 1) b)) }
          else t
      | _ => t
  | _, _ => t

/-- A stream that waits on the object at a place for a phase that ends (R170, R198). -/
def State.wakeStream (s : State) (p : Nat × Nat) (o : BObj) (r : Ring) : Ring :=
  match r.stream with
  | some st =>
      match st.wait, s.fetchStream r.id st with
      | some .barrier, .unit_ (.ok (.mxwaitBo f) _) =>
          let b := (nth st.m f.b.toNat {}).v
          if s.objectAt r.id ((nth st.m f.a.toNat {}).v + f.imm.signExtend 64).toNat 16 == some p
              && o.ready false b then
            { r with stream := some { st with wait := some (.barrierOver o.cancelled) } }
          else r
      | _, _ => r
  | none => r

/-- Replace the object at a place: the waiters whose condition the update meets are to return. -/
def State.putBarrier (s : State) (p : Nat × Nat) (o : BObj) (g : Nat) : State :=
  let s1 := s.spadPut p.1 p.2 16 o.toNat g
  { s1 with troupes := s1.troupes.map (s.wakeTroupe p o), rings := s1.rings.map (s.wakeStream p o) }

/-- The frame of the barrier and queue instructions: SPRANGE, then MISALIGN, then the effect on the
object's place (R168). -/
def objectInstr (f : Fields) (e : VEntry) (t : Troupe) (s : State) (eff : Nat × Nat → VRes) : VRes :=
  let va := objAddr f e
  match s.objectAt t.id.ring va 16 with
  | none => .fault { cause := .sprange }
  | some p => if va % 16 != 0 then .fault { cause := .misalign } else eff p

/-- An uncorrectable error in n scratchpad bytes (R389). -/
def State.spadBad (s : State) (p : Nat × Nat) (n : Nat) : Bool :=
  (List.range n).any fun i => s.poisoned (.spad p.1 (p.2 + i))

/-- The frame of the barrier instructions but bini: MEMERR on an object in error (R389), BADARG while not VALID
(R168). -/
def barrierInstr (f : Fields) (e : VEntry) (t : Troupe) (s : State)
    (eff : Nat × Nat → BObj → Nat → VRes) : VRes :=
  objectInstr f e t s fun p =>
    if s.spadBad p 16 then .fault { cause := .memerr } else
    let o := s.barrierObj p
    if !o.valid then .fault { cause := .badarg } else eff p o (s.lineGrade p.1 p.2)

/-- A barrier object's update, with a scalar result or none. -/
def barrierPut (e : VEntry) (t : Troupe) (s : State) (p : Nat × Nat) (o : BObj) (g : Nat)
    (d : Option (BitVec 8 × GW)) : VRes :=
  let s1 := s.putBarrier p o g
  match d with
  | some (d, v) => .done (scalarResult e t s1 d v)
  | none => .done s1

/-- bini (R168). -/
def execBini (f : Fields) (s : State) : Out :=
  vectorInstr (.bini f) s fun e t s =>
    objectInstr f e t s fun p =>
      let b := e.cap.b.v.toNat
      if b = 0 ∨ 4096 ≤ b then .fault { cause := .badarg }
      else barrierPut e t s p { penda := b, expa := b } e.cap.b.g none

/-- An arrival at a barrier object: D takes PHASE before the update (R168). -/
def arriveAt (f : Fields) (e : VEntry) (t : Troupe) (s : State) (ok : BObj → Bool) (n b : Nat) : VRes :=
  barrierInstr f e t s fun p o g =>
    if !ok o then .fault { cause := .badarg }
    else barrierPut e t s p (o.arrive n b) e.cap.b.g
      (some (f.d, { v := BitVec.ofNat 64 o.phase, g := g }))

/-- barr (R168). -/
def execBarr (f : Fields) (s : State) : Out :=
  vectorInstr (.barr f) s fun e t s => arriveAt f e t s (fun o => o.penda != 0) 1 0

/-- barr.n (R168). -/
def execBarrN (f : Fields) (s : State) : Out :=
  vectorInstr (.barrN f) s fun e t s =>
    let b := e.cap.b.v.toNat
    arriveAt f e t s (fun o => b != 0 && decide (b ≤ o.penda)) b 0

/-- barr.exp (R168). -/
def execBarrExp (f : Fields) (s : State) : Out :=
  vectorInstr (.barrExp f) s fun e t s =>
    let b := e.cap.b.v.toNat
    arriveAt f e t s (fun o => o.penda != 0 && o.expectOk b) 1 b

/-- bexp (R168). -/
def execBexp (f : Fields) (s : State) : Out :=
  vectorInstr (.bexp f) s fun e t s =>
    let b := e.cap.b.v.toNat
    barrierInstr f e t s fun p o _ =>
      if !o.expectOk b then .fault { cause := .badarg }
      else barrierPut e t s p (o.arrive 0 b) e.cap.b.g none

/-- bwait: blocks until the phase is ready or FAULTED; a waiter returns with what the update that ended its
wait gave (R169, R170). -/
def execBwait (f : Fields) (s : State) : Out :=
  vectorInstr (.bwait f) s fun e t s =>
    barrierInstr f e t s fun _ o g =>
      let par := f.sub == 1
      match t.vwait with
      | some (.barrierOver v) => .done (scalarResult e t s f.d { v := v, g := g })
      | _ =>
      if o.ready par e.cap.b.v || o.faulted then
        .done (scalarResult e t s f.d { v := o.status par e.cap.b.v, g := g })
      else .wait .barrier s

/-- btest (R169). -/
def execBtest (f : Fields) (s : State) : Out :=
  vectorInstr (.btest f) s fun e t s =>
    barrierInstr f e t s fun _ o g =>
      .done (scalarResult e t s f.d { v := o.status (f.sub == 1) e.cap.b.v, g := g })

/-- bcan (R170). -/
def execBcan (f : Fields) (s : State) : Out :=
  vectorInstr (.bcan f) s fun e t s =>
    barrierInstr f e t s fun p o _ => barrierPut e t s p o.cancel 0 none

/-! ### Named queues (R171, R172) -/

/-- A named queue's header (R171). -/
structure NQ where
  /-- VALID -/
  valid : Bool := true
  /-- ALLOW -/
  allow : Nat
  /-- COUNT -/
  count : Nat := 0
  /-- HEAD -/
  head : Nat := 0
  /-- NSLOT -/
  nslot : Nat
  deriving DecidableEq, Repr

/-- The header's fields. -/
def NQ.ofNat (w : Nat) : NQ :=
  { valid := bitsOf w 32 32 == 1, allow := bitsOf w 31 24, count := bitsOf w 23 16,
    head := bitsOf w 15 8, nslot := bitsOf w 7 0 }

/-- The header's first 8 bytes. -/
def NQ.toNat (q : NQ) : Nat :=
  q.nslot + q.head * 2 ^ 8 + q.count * 2 ^ 16 + q.allow * 2 ^ 24 + q.valid.toNat * 2 ^ 32

/-- The value that is no handle. -/
def noHandle : Word := BitVec.allOnes 64

/-- nqini (R171, R172). -/
def execNqini (f : Fields) (s : State) : Out :=
  vectorInstr (.nqini f) s fun e t s =>
    let b := e.cap.b.v.toNat
    let c := e.cap.c.v.toNat
    let bad := b = 0 ∨ 255 < b
    if !bad && (s.objectAt t.id.ring (objAddr f e) (16 + 8 * b)).isNone then
      .fault { cause := .sprange }
    else
      objectInstr f e t s fun p =>
        if bad || 255 < c then .fault { cause := .badarg }
        else .done (s.spadPut p.1 p.2 16 ({ allow := c, nslot := b } : NQ).toNat
          (max e.cap.b.g e.cap.c.g))

/-- The frame of the queue instructions but nqini: MEMERR on a header in error (R389), BADARG while not VALID
(R172). -/
def queueInstr (f : Fields) (e : VEntry) (t : Troupe) (s : State) (eff : Nat × Nat → NQ → VRes) : VRes :=
  objectInstr f e t s fun p =>
    if s.spadBad p 8 then .fault { cause := .memerr } else
    let q := NQ.ofNat (s.spadNat p.1 p.2 8)
    if !q.valid then .fault { cause := .badarg } else eff p q

/-- The place of slot j; none where it lies outside the allocation. -/
def State.slotPlace (s : State) (ring : Nat) (f : Fields) (e : VEntry) (j : Nat) : Option (Nat × Nat) :=
  s.objectAt ring (objAddr f e + 16 + 8 * j) 8

/-- The instruction sends to a named queue, or receives from one. -/
def nqRole : Instr → Option Bool
  | .nqsend _ => some true
  | .nqrecv _ => some false
  | _ => none

/-- A party of the same role blocked earlier on the queue at a place (R172). -/
def State.nqBehind (s : State) (t : Troupe) (send : Bool) (p : Nat × Nat) : Bool :=
  s.troupes.any fun u =>
    match u.vwait, u.vq with
    | some (.nq o), e :: _ =>
        u.id != t.id && u.stopped.isEmpty && nqRole e.instr == some send
          && (match t.vwait with | some (.nq mine) => decide (o < mine) | _ => true)
          && (match e.instr.fields with
              | some f => s.objectAt u.id.ring (objAddr f e) 16 == some p
              | none => false)
    | _, _ => false

/-- Block on a named queue, keeping the order in which the party blocked. -/
def blockNq (t : Troupe) (s : State) : VRes :=
  match t.vwait with
  | some (.nq o) => .wait (.nq o) s
  | _ => .wait (.nq s.fresh) { s with fresh := s.fresh + 1 }

/-- nqsend (R172). -/
def execNqsend (f : Fields) (s : State) : Out :=
  vectorInstr (.nqsend f) s fun e t s =>
    queueInstr f e t s fun p q =>
      if e.cap.b.v == noHandle then .fault { cause := .badarg }
      else if q.allow = 0 ∨ q.nslot ≤ q.count ∨ s.nqBehind t true p then blockNq t s
      else
        match s.slotPlace t.id.ring f e ((q.head + q.count) % q.nslot) with
        | none => .fault { cause := .sprange }
        | some a =>
            .done ((s.spadPut a.1 a.2 8 e.cap.b.v.toNat e.cap.b.g).spadPut p.1 p.2 8
              { q with count := q.count + 1, allow := q.allow - 1 }.toNat 0)

/-- Take the oldest handle of a queue that holds one (R172). -/
def nqTake (f : Fields) (e : VEntry) (t : Troupe) (s : State) (p : Nat × Nat) (q : NQ) : VRes :=
  match s.slotPlace t.id.ring f e q.head with
  | none => .fault { cause := .sprange }
  | some a =>
      if s.spadBad a 8 then .fault { cause := .memerr } else
      let v : GW := { v := BitVec.ofNat 64 (s.spadNat a.1 a.2 8), g := s.lineGrade a.1 a.2 }
      let s1 := s.spadPut p.1 p.2 8
        { q with count := q.count - 1, head := (q.head + 1) % q.nslot }.toNat 0
      .done (scalarResult e t s1 f.d v)

/-- nqrecv (R172). -/
def execNqrecv (f : Fields) (s : State) : Out :=
  vectorInstr (.nqrecv f) s fun e t s =>
    queueInstr f e t s fun p q =>
      if q.count = 0 ∨ s.nqBehind t false p then blockNq t s else nqTake f e t s p q

/-- nqret: the header's line takes at least B's grade (R151, R172). -/
def execNqret (f : Fields) (s : State) : Out :=
  vectorInstr (.nqret f) s fun e t s =>
    queueInstr f e t s fun p q =>
      let b := e.cap.b.v.toNat
      if b = 0 ∨ 255 < b then .fault { cause := .badarg }
      else .done (s.spadPut p.1 p.2 8 { q with allow := min 255 (q.allow + b) }.toNat e.cap.b.g)

/-- nqtry (R172).  From an empty queue D takes no slot's value, and its grade is 0 (DESIGN CHOICE, log entry 188). -/
def execNqtry (f : Fields) (s : State) : Out :=
  vectorInstr (.nqtry f) s fun e t s =>
    queueInstr f e t s fun p q =>
      if q.count = 0 then .done (scalarResult e t s f.d { v := noHandle })
      else nqTake f e t s p q

/-! ### Numbered barriers and the barrier tree (R173, R174) -/

/-- The live troupes of a ring that have not executed done. -/
def State.activeTroupes (s : State) (ring : Nat) : List Troupe :=
  (s.troupesOf ring).filter fun t => !t.ending

/-- The barrier completes its phase when the arrivals reach the count. -/
def NB.close (b : NB) : NB :=
  if b.fixed && b.count ≤ b.arrived then { phase := b.phase + 1 } else b

/-- An arrival naming n, with the ring's live troupes and the troupe that arrives; none is BADARG
(R173). -/
def NB.arrive (b : NB) (n live : Nat) (who : Option Nat) : Option NB :=
  if b.fixed && (b.zero != (n == 0) || (n != 0 && b.count != n)) then none
  else
    let b := if b.fixed then b
      else { b with fixed := true, zero := n == 0, count := if n = 0 then live else n }
    some { b with arrived := b.arrived + 1, mask := b.mask ++ who.toList }.close

/-- A troupe that executes done counts as arrived under n = 0 (R173). -/
def NB.leave (b : NB) (who : Nat) : NB :=
  if b.fixed && b.zero && !b.mask.contains who then
    { b with arrived := b.arrived + 1, mask := b.mask ++ [who] }.close
  else b

/-- Whether a neighbourhood has more than one ring. -/
def State.multiRing (s : State) (nb : Nat) : Bool := 1 < (s.ringsOf nb).length

/-- Tree barriers whose every ring has reached its local count, and whose release is not yet under
way, release 40 cycles from now (R174). -/
def State.treeCheck (s : State) (nb : Nat) : State :=
  if s.multiRing nb then
    let n := s.nbhd nb
    let full := (List.range 4).filter fun j =>
      (s.ringsOf nb).all (fun r => r.ended || nth n.tphase j 0 < (nth r.bts j {}).phase)
        && (s.ringsOf nb).any (fun r => !r.ended)
        && !(n.release.any fun x => x.1 == j)
    if full.isEmpty then s
    else
      s.modNbhd nb fun n =>
        { n with release := n.release ++ full.map fun j => (j, (s.die n.die).tick + 40) }
  else s

/-- Arrive at a numbered barrier of a ring, or at its part of a tree barrier; the phase arrived in. -/
def State.nbArrive (s : State) (ring : Nat) (tree : Bool) (j n : Nat) (who : Option Nat) :
    Option (Nat × State) :=
  let r := s.ring ring
  let b := nth (if tree then r.bts else r.nbs) j {}
  match b.arrive n (s.activeTroupes ring).length who with
  | none => none
  | some b1 =>
      let s1 := s.modRing ring fun r =>
        if tree then { r with bts := upd r.bts j fun _ => b1 }
        else { r with nbs := upd r.nbs j fun _ => b1 }
      some (b.phase, if tree then s1.treeCheck r.nb else s1)

/-- The phase with this number is over for a ring. -/
def State.nbOver (s : State) (ring : Nat) (tree : Bool) (j phase : Nat) : Bool :=
  let r := s.ring ring
  if tree then
    if s.multiRing r.nb then phase < nth (s.nbhd r.nb).tphase j 0 else phase < (nth r.bts j {}).phase
  else phase < (nth r.nbs j {}).phase

/-- An instruction that arrives at a barrier and, with `sync`, waits for the phase. -/
def nbInstr (tree sync : Bool) (f : Fields) (_ : VEntry) (t : Troupe) (s : State) : VRes :=
  let j := f.sel.toNat
  let waiting := match t.vwait with
    | some (.nb _ p) => some p
    | some (.tb _ p) => some p
    | _ => none
  let mk_ := fun (p : Nat) => if tree then Wait.tb j p else Wait.nb j p
  match waiting with
  | some p => if s.nbOver t.id.ring tree j p then .done s else .wait (mk_ p) s
  | none =>
      match s.nbArrive t.id.ring tree j f.imm.toNat (some t.id.idx) with
      | none => .fault { cause := .badarg }
      | some (p, s1) =>
          if sync && !s1.nbOver t.id.ring tree j p then .wait (mk_ p) s1 else .done s1

/-- nbsync (R173). -/
def execNbsync (f : Fields) (s : State) : Out := vectorInstr (.nbsync f) s (nbInstr false true f)

/-- nbarv (R173). -/
def execNbarv (f : Fields) (s : State) : Out := vectorInstr (.nbarv f) s (nbInstr false false f)

/-- tbsync (R174). -/
def execTbsync (f : Fields) (s : State) : Out := vectorInstr (.tbsync f) s (nbInstr true true f)

/-- tbarv (R174). -/
def execTbarv (f : Fields) (s : State) : Out := vectorInstr (.tbarv f) s (nbInstr true false f)

/-- TREE_BARRIER_RELEASE: 40 cycles after every ring has reached its count the phase advances and
every waiter is released (R174). -/
def execTreeBarrierRelease (s : State) : Out :=
  let nb := s.ev.obj
  let j := s.ev.num
  match (s.nbhd nb).release.find? fun x => x.1 == j with
  | none => .next s
  | some (_, at_) =>
      let s1 := s.modDie (s.nbhd nb).die fun d => { d with tick := max d.tick at_ }
      let s2 := s1.modNbhd nb fun n =>
        { n with release := n.release.filter fun x => x.1 != j, tphase := upd n.tphase j (· + 1) }
      .next (s2.treeCheck nb)

end Sys2Proof.Machine
end

