-- ==== Sys2Proof/Machine/Accum.lean ====
section
/-! DEFINITION. Group sums and the accumulator store (spec/03_numbers.md R74-R79). -/

namespace Sys2Proof.Machine

/-! ### Group sums (R74, R75) -/

/-- ⌊log2 |x|⌋ of a non-zero finite value. -/
def FV.expOf : FV → Int
  | .fin _ m e => m.log2 + e
  | _ => 0

/-- A finite value truncated toward −∞ to a multiple of 2^q, as that multiple. -/
def floorAt (x : FV) (q : Int) : Int :=
  match x with
  | .fin neg m e =>
      let v := if neg then -(m : Int) else m
      if q ≤ e then v * 2 ^ (e - q).toNat else v / 2 ^ (q - e).toNat
  | _ => 0

/-- The larger of two integers. -/
def intMax (a b : Int) : Int := if a ≤ b then b else a

/-- The sum of a group of products (R75). -/
def groupSum (l : List FV) : FV :=
  let pinf := l.any fun x => x == .inf false
  let ninf := l.any fun x => x == .inf true
  if l.any FV.isNan || (pinf && ninf) then .nan
  else if pinf then .inf false
  else if ninf then .inf true
  else
    match l.filter fun x => !x.isZero with
    | [] => .fin (l.all FV.neg) 0 0
    | x :: xs =>
        let q := xs.foldl (fun a y => intMax a y.expOf) x.expOf - 33
        .ofInt ((x :: xs).foldl (fun a y => a + floorAt y q) 0) q

/-! ### Runs (R76-R78) -/

/-- A finite value rounded to nearest, ties to even, at 2^q, as the multiple, and whether that
changes it. -/
def nearestAt (x : FV) (q : Int) : Int × Bool :=
  match x with
  | .fin neg m e =>
      if q ≤ e then
        let v : Int := m * 2 ^ (e - q).toNat
        (if neg then -v else v, false)
      else
        let d := 2 ^ (q - e).toNat
        let lo := m / d
        let r := m % d
        let n : Int := if d < 2 * r || (2 * r == d && lo % 2 == 1) then lo + 1 else lo
        (if neg then -n else n, r != 0)
  | _ => (0, false)

/-- A mantissa fits 40 bits. -/
def mantOk (x : Int) : Bool := decide (-(2 ^ 39) ≤ x ∧ x ≤ 2 ^ 39 - 1)

/-- The grid of a run with exponent X. -/
def gridOf (x : Nat) : Int := (x : Int) - 166

/-- The value of an element of a run with exponent X (R76). -/
def Elem.value (e : Elem) (x : Nat) : FV :=
  match e.cls with
  | .nan => .nan
  | .pinf => .inf false
  | .ninf => .inf true
  | .fin => if e.m = 0 then .fin e.z 0 0 else .ofInt e.m (gridOf x)

/-- What a pass leaves of an element before rounding: its class, and for a finite one its exact value
and zero sign. -/
structure Pend where
  /-- the element -/
  el : Elem
  /-- exact value of a finite one -/
  v : FV := .fin false 0 0
  /-- its zero sign -/
  zs : Bool := false
  deriving DecidableEq, Repr

/-- The least exponent from `x` up, at most 255, at which every finite value fits (R77). -/
def growTo (ps : List Pend) : Nat → Nat → Nat
  | 0, x => x
  | n + 1, x =>
      if 255 ≤ x then x
      else if ps.all fun p => p.el.cls != .fin || mantOk (nearestAt p.v (gridOf x)).1 then x
      else growTo ps n (x + 1)

/-- The last loop of R77 for one element. -/
def Pend.round (p : Pend) (x : Nat) : Elem × BitVec 4 :=
  if p.el.cls = .fin then
    let t := nearestAt p.v (gridOf x)
    if mantOk t.1 then ({ p.el with m := t.1, z := p.zs }, flIf t.2 flInexact)
    else ({ p.el with cls := if p.v.neg then .ninf else .pinf }, flOverflow)
  else (p.el, 0)

/-- Grow a run's exponent as needed and round its elements, with the flags raised (R77, R78). -/
def settleRun (x : Nat) (ps : List Pend) : Run × BitVec 4 :=
  let xn := growTo ps 256 x
  let rs := ps.map fun p => p.round xn
  ({ x := xn, els := rs.map (·.1) }, rs.foldl (fun a r => a ||| r.2) 0)

/-- One element of a pass: G added exactly (R77). -/
def Elem.plus (e : Elem) (x : Nat) (g : FV) : Pend :=
  let v := e.value x
  match e.cls, g with
  | .nan, _ => { el := e }
  | _, .nan => { el := { e with cls := .nan } }
  | .pinf, .inf neg => { el := if neg then { e with cls := .nan } else e }
  | .ninf, .inf neg => { el := if neg then e else { e with cls := .nan } }
  | .pinf, _ => { el := e }
  | .ninf, _ => { el := e }
  | .fin, .inf neg => { el := { e with cls := if neg then .ninf else .pinf } }
  | .fin, .fin .. =>
      let w := (v.add g).1
      let zs := if w.isZero && e.m == 0 then e.z && g.neg else !w.isZero && w.neg
      { el := e, v := w, zs := zs }

/-- One pass over a run: the group sums of its 16 elements added (R77). -/
def Run.pass (r : Run) (g : List FV) : Run × BitVec 4 :=
  settleRun r.x ((r.els.zip g).map fun y => y.1.plus r.x y.2)

/-- An element times a scale (R197); NaN from an infinite operand is invalid. -/
def Elem.times (e : Elem) (x : Nat) (k : FV) : Pend × BitVec 4 :=
  let toNan : Elem := { e with cls := .nan }
  if e.cls = .nan ∨ k.isNan then ({ el := toNan }, 0)
  else if e.cls ≠ .fin then
    if k.isZero then ({ el := toNan }, flInvalid)
    else ({ el := { e with cls := if (e.cls == .ninf) != k.neg then .ninf else .pinf } }, 0)
  else if k.isInf then
    if e.m = 0 then ({ el := toNan }, flInvalid)
    else ({ el := { e with cls := if decide (e.m < 0) != k.neg then .ninf else .pinf } }, 0)
  else
    let w := ((e.value x).mul k).1
    ({ el := e, v := w, zs := if w.isZero then e.z != k.neg else w.neg }, 0)

/-- A run scaled (R197). -/
def Run.scale (r : Run) (k : FV) : Run × BitVec 4 :=
  let ps := r.els.map fun e => e.times r.x k
  let z := settleRun r.x (ps.map (·.1))
  (z.1, ps.foldl (fun a p => a ||| p.2) z.2)

/-- A run divided by a number of samples; zeros keep their sign (R218). -/
def Run.divide (r : Run) (n : Nat) : Run × BitVec 4 :=
  settleRun r.x (r.els.map fun e =>
    if e.cls = .fin then
      let v := e.value r.x
      { el := e, v := v.quot (.fin false n 0), zs := if e.m = 0 then e.z else decide (e.m < 0) }
    else { el := e })

/-- A run loaded with exact values: the least exponent that fits (R194). -/
def Run.load (vs : List FV) : Run × BitVec 4 :=
  let ps := vs.map fun v =>
    match v with
    | .nan => ({ el := { cls := .nan } } : Pend)
    | .inf neg => { el := { cls := if neg then .ninf else .pinf } }
    | .fin neg m e => { el := {}, v := .fin neg m e, zs := neg }
  settleRun 0 ps

/-! ### Banks -/

/-- Run r of row i. -/
def Bank.run (b : Bank) (i r : Nat) : Run := nth b (8 * i + r) {}

/-- The value of an element of a bank. -/
def Bank.value (b : Bank) (row col : Nat) : FV :=
  let r := b.run row (col / 16)
  (nth r.els (col % 16) {}).value r.x

/-- The runs of a tile with origin (row, col): bank index, row of the tile, first column of the tile. -/
def tileRuns (row col m n : Nat) : List (Nat × Nat × Nat) :=
  (List.range m).flatMap fun i =>
    (List.range (n / 16)).map fun r => (8 * (row + i) + col / 16 + r, i, 16 * r)

/-- Replace each run of a tile; the function takes the run, its row and first column in the tile. -/
def Bank.onTile (b : Bank) (row col m n : Nat) (f : Run → Nat → Nat → Run × BitVec 4) :
    Bank × BitVec 4 :=
  (tileRuns row col m n).foldl
    (fun acc x =>
      let z := f (nth acc.1 x.1 {}) x.2.1 x.2.2
      (upd acc.1 x.1 fun _ => z.1, acc.2 ||| z.2))
    (b, 0)

/-- One pass over a tile: `g m n` is the group sum of element (m, n) (R77, R191). -/
def Bank.addTile (b : Bank) (row col m n : Nat) (g : Nat → Nat → FV) : Bank × BitVec 4 :=
  b.onTile row col m n fun r i c => r.pass ((List.range 16).map fun j => g i (c + j))

end Sys2Proof.Machine
end

