-- ==== Sys2Proof/Machine/Tiles.lean ====
section
/-! DEFINITION. Operand headers, the layout of their elements, seeded patterns, scales, zero points,
and norms (spec/08_matrix_engine.md R185-R188, spec/03_numbers.md R64-R67, spec/09_sampled_products.md
R209, R210). -/

namespace Sys2Proof.Machine

/-! ### Reading -/

/-- Why a read stopped: parked at an address, or a final fault there, with the grade of what had been read
before (R350), or no link up to the package it goes to (R380). -/
inductive RStop where
  | park (va : Nat) (c : Cause) (level : Nat)
  | final (va : Nat) (c : Cause) (reason : Nat) (g : Nat)
  | cut
  deriving DecidableEq, Repr

/-- The outcome of device reads: a value and the highest grade read, or why they stopped. -/
abbrev Rd (α : Type) := Except RStop (α × Nat)

/-- Bytes at an address. -/
def State.fetchData (s : State) (p : Party) (va n : Nat) : Rd (List Byte) :=
  match s.readBytes p va n with
  | .ok r => .ok r
  | .error (.replay c l, a) => .error (.park a c l)
  | .error (.final c r, a) => .error (.final a c r 0)
  | .error (.ok _, _) => .error .cut

/-- A stop after something of a grade had been read. -/
def RStop.after (g : Nat) : RStop → RStop
  | .final va c r h => .final va c r (max g h)
  | e => e

/-- What a read gave, with its own grade beside it. -/
def Rd.graded {α : Type} (x : Rd α) : Rd (α × Nat) :=
  match x with
  | .error e => .error e
  | .ok (a, g) => .ok ((a, g), g)

/-- Go on with what a read gave, joining the grades. -/
def Rd.andThen {α β : Type} (x : Rd α) (f : α → Rd β) : Rd β :=
  match x with
  | .error e => .error e
  | .ok (a, g) =>
      match f a with
      | .error e => .error (e.after g)
      | .ok (b, h) => .ok (b, max g h)

/-- Read for each of a list in order. -/
def Rd.all {α β : Type} (f : α → Rd β) : List α → Rd (List β)
  | [] => .ok ([], 0)
  | x :: xs => (f x).andThen fun y => (Rd.all f xs).andThen fun ys => .ok (y :: ys, 0)

/-- w bits at a bit address (R55). -/
def State.fetchBits (s : State) (p : Party) (bit w : Nat) : Rd Nat :=
  (s.fetchData p (bit / 8) ((bit % 8 + w + 7) / 8)).andThen fun bs =>
    .ok (leNat bs / 2 ^ (bit % 8) % 2 ^ w, 0)

/-! ### The mixing function (R187) -/

/-- MatrixMix on 32-bit values. -/
def matrixMix (x : Nat) : Nat :=
  let m := 2 ^ 32
  let x := (x ^^^ (x >>> 16)) * 0x6C8E9CF5 % m
  let x := (x ^^^ (x >>> 15)) * 0xB52A3D17 % m
  x ^^^ (x >>> 16)

/-! ### Operand headers (R185) -/

/-- An operand header. -/
structure Hdr where
  /-- BASE -/
  base : Nat := 0
  /-- RSTR -/
  rstr : Nat := 0
  /-- KSTR -/
  kstr : Nat := 0
  /-- SLOT -/
  slot : Nat := 0
  /-- T -/
  tr : Bool := false
  /-- SPAR -/
  spar : Nat := 0
  /-- NARROW -/
  narrow : Bool := false
  /-- NT -/
  nt : Bool := false
  /-- PORG -/
  porg : Nat := 0
  /-- SEED -/
  seed : Nat := 0
  /-- AUX -/
  aux : Nat := 0
  /-- a reserved bit of SLOT or FLAGS is set -/
  rsv : Bool := false
  deriving DecidableEq, Repr

/-- A field of little-endian bytes. -/
def fieldAt (b : List Byte) (off n : Nat) : Nat := leNat ((b.drop off).take n)

/-- The fields of a header's 32 bytes. -/
def Hdr.ofBytes (b : List Byte) : Hdr :=
  let sl := fieldAt b 0x10 1
  let fl := fieldAt b 0x11 1
  { base := fieldAt b 0 8, rstr := fieldAt b 8 4, kstr := fieldAt b 0xC 4, slot := sl % 16,
    tr := fl % 2 == 1, spar := bitsOf fl 2 1, narrow := bitsOf fl 3 3 == 1, nt := bitsOf fl 4 4 == 1,
    porg := fieldAt b 0x12 2, seed := fieldAt b 0x14 4, aux := fieldAt b 0x18 8,
    rsv := decide (16 ≤ sl ∨ 32 ≤ fl) }

/-- The header at an address breaks R185's table. -/
def Hdr.bad (h : Hdr) (va : Nat) : Bool :=
  va % 32 != 0 || decide (2 ^ 57 ≤ h.base) || h.base % 4 != 0 || h.rstr % 4 != 0 || h.kstr % 4 != 0
    || h.rsv || h.spar == 3 || (h.spar != 0 && h.tr)
    || (h.aux != 0 && h.slot != 6 && h.slot != 7)

/-! ### Elements (R186, R187) -/

/-- An operand as an operation uses it. -/
structure Operand where
  /-- header -/
  h : Hdr
  /-- format of its slot -/
  fmt : Fmt
  /-- P rows -/
  p : Nat
  /-- K elements along K -/
  k : Nat
  /-- with .kx7: whether it is signed (R67) -/
  kx7 : Option Bool := none
  deriving DecidableEq, Repr

/-- The element width. -/
def Operand.w (o : Operand) : Nat := if o.h.narrow then 4 else o.fmt.width

/-- The bit address of element (p, k), `j` standing for its place in the group (R186). -/
def Operand.bitAt (o : Operand) (p k j : Nat) : Nat :=
  if o.h.tr then 8 * (o.h.base + k * o.h.rstr + p / 32 * o.h.kstr) + p % 32 * o.w
  else 8 * (o.h.base + p * o.h.rstr + k / 32 * o.h.kstr) + j * o.w

/-- The kept positions of a group of 32 in a seeded mode, in increasing order (R187). -/
def keptOf (spar seed row g : Nat) : List Nat :=
  let h := matrixMix ((seed ^^^ matrixMix ((row * 2 ^ 16 + g) % 2 ^ 32)) % 2 ^ 32)
  (List.range 8).flatMap fun q =>
    let c := h / 2 ^ (4 * q) % 16
    let l := if spar = 1 then
        nth [[0, 1], [0, 2], [0, 3], [1, 2], [1, 3], [2, 3]] (c % 6) []
      else [c % 4]
    l.map fun x => 4 * q + x

/-- The place of element (p, k) in its group's storage; none where a seeded mode does not keep it. -/
def Operand.rank (o : Operand) (p k : Nat) : Option Nat :=
  if o.h.spar = 0 then some (k % 32)
  else (keptOf o.h.spar o.h.seed (o.h.porg + p) (k / 32)).findIdx? (· == k % 32)

/-- Encoding of a stored element, with the grade read. -/
def Operand.raw (o : Operand) (s : State) (pa : Party) (p k j : Nat) : Rd Nat :=
  s.fetchBits pa (o.bitAt p k j) o.w

/-- The block and band scale of an e2m1 element (R64, R65). -/
def Operand.scales (o : Operand) (s : State) (pa : Party) (p k : Nat) : Rd (FV × FV) :=
  let one := FV.fin false 1 0
  if o.h.aux = 0 then .ok ((one, one), 0)
  else
    let bands := o.h.aux + (o.p * (o.k / 8) + 63) / 64 * 64
    (s.fetchData pa (o.h.aux + p * (o.k / 8) + k / 8) 1).andThen fun b =>
      (s.fetchData pa (bands + 2 * (p / 64)) 2).andThen fun c =>
        .ok ((fmtE3m5.decode (leNat b), fmtBf16.decode (leNat c)), 0)

/-- A scaled e2m1 element: a band scale that is infinite or NaN makes it, and so each of its products, NaN
(R64). -/
def scaledValue (x block band : FV) : FV :=
  if band.isInf || band.isNan then .nan else ((x.mul block).1.mul band).1

/-- The value in the product path of element (p, k) whose encoding is n (R64-R67). -/
def Operand.valueOf (o : Operand) (s : State) (pa : Party) (p k n : Nat) : Rd FV :=
  if o.h.slot = 6 then
    (o.scales s pa p k).andThen fun sc =>
      .ok (scaledValue (o.fmt.decode n) sc.1 sc.2, 0)
  else if o.h.slot = 7 then
    match o.kx7 with
    | some sg =>
        .ok (FV.ofInt (if sg && 2 ^ (o.w - 1) ≤ n then (n : Int) - 2 ^ o.w else n) 0, 0)
    | none =>
        let z := fun (b : Nat) => if o.h.narrow then b % 16 else b
        if o.h.aux = 0 then .ok (FV.ofInt ((n : Int) - z 128) 0, 0)
        else
          (s.fetchData pa (o.h.aux + p * (o.k / 32) + k / 32) 1).andThen fun b =>
            .ok (FV.ofInt ((n : Int) - z (leNat b)) 0, 0)
  else .ok (o.fmt.decode n, 0)

/-- The value of element (p, k) in the product path (R64-R67). -/
def Operand.value (o : Operand) (s : State) (pa : Party) (p k : Nat) : Rd FV :=
  match o.rank p k with
  | none => .ok (.fin false 0 0, 0)
  | some j => (o.raw s pa p k j).andThen fun n => o.valueOf s pa p k n

/-- Element (p, k) as a product takes it: none where a seeded mode does not keep its position (R187). -/
def Operand.elem (o : Operand) (s : State) (pa : Party) (p k : Nat) : Rd (Option FV) :=
  match o.rank p k with
  | none => .ok (none, 0)
  | some _ => (o.value s pa p k).andThen fun x => .ok (some x, 0)

/-- The exact product of two elements; a position not kept contributes +0 (R187). -/
def elemMul : Option FV → Option FV → FV
  | some x, some y => (x.mul y).1
  | _, _ => .fin false 0 0

/-- The elements (p, 32g + j), 0 ≤ j < n, of each row p (R191). -/
def Operand.group (o : Operand) (s : State) (pa : Party) (g n : Nat) : Rd (List (List (Option FV))) :=
  Rd.all (fun p => Rd.all (fun j => o.elem s pa p (32 * g + j)) (List.range n)) (List.range o.p)

/-! ### Cell classes (R188) -/

/-- The significant bits P of a loadable format. -/
def Fmt.sigBits : Fmt → Nat
  | .float _ e f _ _ => if e = 0 then f else f + 1
  | .log .. => 9
  | .table _ es => maxOf (es.map fun t => if t.sig = 0 then 0 else t.sig.log2 + 1)
  | .offset => 8

/-- The cell class: 0 quad, 1 single, 2 fourfold, 3 ninefold. -/
def cellClass (h : Hdr) (f : Fmt) : Nat :=
  if h.slot = 7 then if h.narrow then 0 else 1
  else if h.slot < 7 then nth [3, 1, 2, 1, 1, 0, 0] h.slot 0
  else if f.width ≤ 6 ∧ f.sigBits ≤ 4 then 0
  else if f.sigBits ≤ 8 then 1
  else if f.sigBits ≤ 16 then 2
  else 3

/-- Two operands form a valid pair (R188). -/
def pairOk (a b : Hdr) : Bool :=
  (a.slot == 7) == (b.slot == 7) && (!a.narrow || a.slot == 7) && (!b.narrow || b.slot == 7)

/-- The shape code of an operation is one its class allows (R189). -/
def shapeOk (cls c : Nat) : Bool :=
  if cls ≤ 1 then c ≤ 26 else if cls = 2 then c ≤ 17 else c ≤ 8

/-- M, N and K of a shape code (R189). -/
def shapeM (c : Nat) : Nat := 32 * 2 ^ (c / 3 % 3)
/-- N. -/
def shapeN (c : Nat) : Nat := 32 * 2 ^ (c % 3)
/-- K. -/
def shapeK (c : Nat) : Nat := 32 * 2 ^ (c / 9)

/-! ### Norms (R210) -/

/-- Encode(0, x, nearest-even), as a value, with its flags. -/
def enc0 (x : FVF) : FVF :=
  let z := fmtF32.encode x.1 .nearest false
  (fmtF32.decode z.1, x.2 ||| z.2)

/-- The f32 bits of an exact value. -/
def bits0 (x : FV) : Nat := (fmtF32.encode x .nearest false).1

/-- The norm of a column of values, with the flags of every Encode. -/
def normOf (l : List FV) : FV × BitVec 4 :=
  let r := l.foldl
    (fun (acc : FV × BitVec 4) v =>
      let x := enc0 (v, 0)
      let y := enc0 (FV.fma x.1 x.1 acc.1)
      (y.1, acc.2 ||| x.2 ||| y.2))
    (.fin false 0 0, 0)
  let z := enc0 r.1.sqrt
  (z.1, r.2 ||| z.2)

end Sys2Proof.Machine
end

