-- ==== Sys2Proof/Machine/Copies.lean ====
section
/-! DEFINITION. Asynchronous copies: checks at issue, how one starts, lands and completes
(spec/07_scratchpad.md R155-R163, spec/09_sampled_products.md R211). -/

namespace Sys2Proof.Machine

/-! ### Operands of a copy (R155) -/

/-- The most bytes of a copy. -/
def copyMax : Nat := 524288

/-- The byte count of a linear form, fill or multicast; of xld.x24 the dense bytes (R155, R159). -/
def copyCount (i : Instr) (c : Nat) : Nat :=
  match i with
  | .xcpyMc _ => c % 2 ^ 20
  | .xldX24 _ => c % 2 ^ 32 * bitsOf c 37 32 / 8
  | _ => c

/-- The count of C is none the copy allows (R155, R156 step 3).  For the fields of C that R155 gives a form and
R156 does not name, a value outside R155 is BADARG too (DEDUCED, log entry 90). -/
def countBad (i : Instr) (c : Nat) : Bool :=
  let n := copyCount i c
  match i with
  | .xldX24 _ =>
      !([4, 8, 16, 32].contains (bitsOf c 37 32)) || bitsOf c 63 38 != 0 || c % 2 ^ 32 % 64 != 0
        || n == 0 || copyMax < n
  | .xcpyMc _ => bitsOf c 39 20 != 0 || n == 0 || copyMax < n || n % 4 != 0
  | .xldNt _ => false
  | .xgat _ => false
  | .xsct _ => false
  | _ => n == 0 || copyMax < n || n % 4 != 0

/-- A linear form whose addresses are multiples of 4 (R156). -/
def linearBad (i : Instr) (a b : Nat) : Bool :=
  match i with
  | .xld _ => a % 4 != 0 || b % 4 != 0
  | .xst _ => a % 4 != 0 || b % 4 != 0
  | .xcpy _ => a % 4 != 0 || b % 4 != 0
  | .xcpyMc _ => a % 4 != 0 || b % 4 != 0
  | .xfill _ => a % 4 != 0
  | _ => false

/-- The bytes of global memory a copy names directly: operand B and its length; none where B is no
global operand. -/
def globalSpan (i : Instr) (c : Nat) : Option Nat :=
  match i with
  | .xld _ => some c
  | .xst _ => some c
  | .xldX24 _ => some (c % 2 ^ 32 * bitsOf c 37 32 / 16 + c % 2 ^ 32 / 8)
  | .xldNt _ => some 1
  | _ => none

/-- A run of bytes meets the windows. -/
def meetsWindows (va n : Nat) : Bool := inWindows va || inWindows (va + n - 1)

/-- The rings a multicast names, in the neighbourhood of a ring (R155). -/
def State.mcRings (s : State) (ring c : Nat) : List (Option Ring) :=
  ((List.range 24).filter fun j => (c / 2 ^ (40 + j)) % 2 == 1).map (s.peerRing ring)

/-- n scratchpad bytes at a window address: the ring they lie in and its ring-window address. -/
def State.spadDest (s : State) (ring va n : Nat) : Option (Nat × Nat) :=
  if inWindows va then
    match s.scratchAt (some ring) va n with
    | some (_, off, r) => some (r, ringWin + (off - (s.ring r).spBase))
    | none => none
  else none

/-- The scratchpad runs that issue checks: window address and bytes (R156 step 4).  The bytes of xgat, xsct and
xld.nt beyond the first are known only with the record or header: those are checked when the copy starts, as a
final SPRANGE fault (DEDUCED, log entry 183). -/
def spadSpans (i : Instr) (a b c : Nat) : List (Nat × Nat) :=
  let n := copyCount i c
  match i with
  | .xcpy _ => [(a, n), (b, n)]
  | .xcpyMc _ => [(b, n)]
  | .xldNt _ => [(a, 1)]
  | .xgat _ => [(a, 1)]
  | .xsct _ => [(a, 1)]
  | _ => [(a, n)]

/-- The rings whose barrier a bound copy counts against (R155, R159): the issuing ring for xst, and for xsct and
qjoin too (DEDUCED, log entry 184), and while the destination is none. -/
def State.receivers (s : State) (i : Instr) (ring a c : Nat) : List Nat :=
  match i with
  | .xst _ => [ring]
  | .xsct _ => [ring]
  | .qjoin _ => [ring]
  | .xcpyMc _ => (s.mcRings ring c).filterMap fun r => r.map (·.id)
  | _ => match s.spadDest ring a 1 with | some (r, _) => [r] | none => [ring]

/-- Where a ring's barrier object with an offset stands; none outside the allocation. -/
def State.boundObj (s : State) (ring off : Nat) : Option (Nat × Nat) :=
  s.objectAt ring (ringWin + off) 16

/-- A bound object of the issuing ring that is not VALID (R156 step 3). -/
def State.boundInvalid (s : State) (ring off : Nat) (recv : List Nat) : Bool :=
  recv.contains ring
    && match s.boundObj ring off with
       | some p => !(s.barrierObj p).valid
       | none => false

/-- Steps 2 to 4 of R156 on the completion fields of a copy or join (R162). -/
def completionFault (f : Fields) (s : State) (ring : Nat) (recv : List Nat) (bad3 sp : Bool) :
    Option Cause :=
  let bo := f.modx.getLsbD 3
  let off := f.imm.toNat
  if !bo && decide ((s.ring ring).tags ≤ off) then some .notag
  else if bad3 || (bo && (s.boundInvalid ring off recv || off % 16 != 0)) then some .badarg
  else if sp || (bo && recv.any fun r => (s.boundObj r off).isNone) then some .sprange
  else none

/-- RANK of the record of xgat and xsct as it stands at issue, for the check of the C range; 1 where
it cannot be read (R155, R156 step 1; log entry 41). -/
def State.peekRank (s : State) (ring va : Nat) : Nat :=
  match s.fetchData (s.ringParty ring) (va + 8) 1 with
  | .ok (b, _) => max 1 (leNat b)
  | .error _ => 1

/-- The coordinate registers run past s127 (R156 step 1). -/
def coordsBad (i : Instr) (f : Fields) (s : State) (ring b : Nat) : Bool :=
  match i with
  | .xgat _ => 128 < f.c.toNat + min 7 (s.peekRank ring b)
  | .xsct _ => 128 < f.c.toNat + min 7 (s.peekRank ring b)
  | _ => false

/-- Checks 1 to 4 of R156. -/
def copyFault (i : Instr) (f : Fields) (e : VEntry) (s : State) (ring : Nat) : Option Cause :=
  let a := e.cap.a.v.toNat
  let b := e.cap.b.v.toNat
  let c := e.cap.c.v.toNat
  let mc := match i with | .xcpyMc _ => s.mcRings ring c | _ => []
  let mcBad := match i with | .xcpyMc _ => mc.isEmpty || mc.any Option.isNone | _ => false
  let bad3 := countBad i c || linearBad i a b || mcBad
    || (match globalSpan i c with | some n => meetsWindows b n | none => false)
  let sp := (spadSpans i a b c).any (fun x => (s.spadDest ring x.1 x.2).isNone)
    || mc.any fun r => match r with | some x => decide (x.spLen < a + copyCount i c) | none => false
  if coordsBad i f s ring b then some .illop
  else completionFault f s ring (s.receivers i ring a c) bad3 sp

/-- The SLOT byte in the header of an xld.nt; none when it cannot be read (R156 step 5). -/
def State.ntSlot (s : State) (ring va : Nat) : Option Nat :=
  match s.fetchData (s.ringParty ring) (va + 0x10) 1 with
  | .ok (b, _) => some (leNat b)
  | .error _ => none

/-- The queue of a core. -/
def CoreSt.copyQueue (c : CoreSt) (q : Nat) : List CopyEnt := if q = 0 then c.cq0 else c.cq1

/-- Change a queue of a core. -/
def State.modQueueOf (s : State) (core q : Nat) (f : List CopyEnt → List CopyEnt) : State :=
  s.modCore core fun c => if q = 0 then { c with cq0 := f c.cq0 } else { c with cq1 := f c.cq1 }

/-- Change one entry of a queue. -/
def State.modCopy (s : State) (core q id : Nat) (f : CopyEnt → CopyEnt) : State :=
  s.modQueueOf core q fun l => updWhere l (fun e => e.id == id) f

/-- An entry for an instruction at issue. -/
def newCopy (e : VEntry) (t : Troupe) (s : State) (fmt : Option (Nat × Fmt))
    (nslot : Option Nat := none) : CopyEnt :=
  { id := s.fresh, instr := e.instr, iaddr := e.iaddr, ring := t.id.ring, troupe := t.id.idx,
    uid := t.uid, mark := t.nextOp, cap := e.cap, fmt := fmt, nslot := nslot }

/-- Enter a copy or join in queues of its core, unless the tag's count or a queue is full (R157,
R164). -/
def enterCopy (f : Fields) (e : VEntry) (t : Troupe) (s : State) (qs : List Nat)
    (fmt : Option (Nat × Fmt)) (nslot : Option Nat := none) : VRes :=
  let core := (s.ring t.id.ring).core
  let bo := f.modx.getLsbD 3
  let j := f.imm.toNat
  if (!bo && decide (255 ≤ nth (s.ring t.id.ring).tagcnt j 0))
      || qs.any (fun q => decide (32 ≤ ((s.core core).copyQueue q).length)) then .wait .issue s
  else
    let ent := newCopy e t s fmt nslot
    let s1 := qs.foldl (fun s q => s.modQueueOf core q fun l => l ++ [ent]) s
    let s2 := if bo then s1 else s1.modRing t.id.ring fun r => r.tagIssue j
    .done { s2 with fresh := s.fresh + 1 }

/-- Issue a copy (R156, R157). -/
def copyIssue (f : Fields) (e : VEntry) (t : Troupe) (s : State) : VRes :=
  let i := e.instr
  match copyFault i f e s t.id.ring with
  | some c => .fault { cause := c }
  | none =>
      let nt := match i with | .xldNt _ => s.ntSlot t.id.ring e.cap.c.v.toNat | _ => none
      match nt with
      | none => enterCopy f e t s [f.sel.toNat] none
      | some n =>
          match s.slotView t.id.ring (n % 16) with
          | .ready fm => enterCopy f e t s [f.sel.toNat] (some (n % 16, fm)) (some n)
          | .stall => enterCopy f e t s [f.sel.toNat] none (some n)
          | .unbound => .fault { cause := .noslot }

/-- Issue a join (R162). -/
def joinIssue (f : Fields) (e : VEntry) (t : Troupe) (s : State) : VRes :=
  match completionFault f s t.id.ring [t.id.ring] false false with
  | some c => .fault { cause := c }
  | none => enterCopy f e t s ((List.range 2).filter fun q => f.sel.getLsbD q) none

/-- xld (R155, R159). -/
def execXld (f : Fields) (s : State) : Out := vectorInstr (.xld f) s (copyIssue f)

/-- xld.x24 (R161). -/
def execXldX24 (f : Fields) (s : State) : Out := vectorInstr (.xldX24 f) s (copyIssue f)

/-- xld.nt (R211). -/
def execXldNt (f : Fields) (s : State) : Out := vectorInstr (.xldNt f) s (copyIssue f)

/-- xst (R159). -/
def execXst (f : Fields) (s : State) : Out := vectorInstr (.xst f) s (copyIssue f)

/-- xgat (R160). -/
def execXgat (f : Fields) (s : State) : Out := vectorInstr (.xgat f) s (copyIssue f)

/-- xsct (R160). -/
def execXsct (f : Fields) (s : State) : Out := vectorInstr (.xsct f) s (copyIssue f)

/-- xcpy (R159). -/
def execXcpy (f : Fields) (s : State) : Out := vectorInstr (.xcpy f) s (copyIssue f)

/-- xcpy.mc (R159). -/
def execXcpyMc (f : Fields) (s : State) : Out := vectorInstr (.xcpyMc f) s (copyIssue f)

/-- xfill (R159). -/
def execXfill (f : Fields) (s : State) : Out := vectorInstr (.xfill f) s (copyIssue f)

/-- qjoin (R162). -/
def execQjoin (f : Fields) (s : State) : Out := vectorInstr (.qjoin f) s (joinIssue f)

/-! ### What a copy will write -/

/-- What starting a copy gives: the words to land, parked, waiting for a slot or for a link (R380), or a final
fault with the words read before it and the grade of what was read. -/
inductive Started where
  | ready (ws : List CWord) (fl : BitVec 4) (fmt : Option (Nat × Fmt))
  | park (va : Nat) (c : Cause) (level : Nat)
  | stall
  | fault (ws : List CWord) (c : Cause) (r va g : Nat)
  deriving DecidableEq, Repr

/-- Whole bytes. -/
def wholeBytes (l : List Byte) : List CByte := l.map fun b => { val := b }

/-- Consecutive bytes cut into naturally aligned words, every byte counting (R158). -/
def cutWords (ring g : Nat) : Nat → Nat → List CByte → List CWord
  | 0, _, _ => []
  | n + 1, va, bs =>
      if bs.isEmpty then []
      else
        let k := 4 - va % 4
        { ring := ring, va := BitVec.ofNat 64 va, bytes := bs.take k, g := g, counts := (bs.take k).length,
          prog := (bs.take k).length }
          :: cutWords ring g n (va + k) (bs.drop k)

/-- Bytes cut into words. -/
def cutAll (ring g va : Nat) (bs : List CByte) : List CWord := cutWords ring g (bs.length + 1) va bs

/-- A word with the bytes around its own in the aligned word it lies in; those are not written. -/
def CWord.whole (w : CWord) : CWord :=
  let o := w.va.toNat % 4
  let keep : CByte := { mask := 0, val := 0 }
  { w with va := w.va - BitVec.ofNat 64 o,
           bytes := (List.replicate o keep ++ w.bytes ++ List.replicate 4 keep).take 4 }

/-- Two writes of one byte, the second over the first. -/
def CByte.then_ (a b : CByte) : CByte :=
  { mask := a.mask ||| b.mask, val := (a.val &&& ~~~b.mask) ||| (b.val &&& b.mask) }

/-- Add a word to those a copy writes: into the one of the same aligned word, so that each lands whole
(R158). -/
def addWord (l : List CWord) (w : CWord) : List CWord :=
  let x := w.whole
  let same := fun (y : CWord) => y.ring == x.ring && y.va == x.va
  if l.any same then
    updWhere l same fun y =>
      { y with bytes := (y.bytes.zip x.bytes).map fun b => b.1.then_ b.2, g := max y.g x.g,
               counts := y.counts + x.counts, prog := y.prog + x.prog }
  else l ++ [x]

/-- Words joined so that no two lie in one aligned word (R158). -/
def mergeWords (l : List CWord) : List CWord := l.foldl addWord []

/-- The bytes that hold w bits of value v at a bit address. -/
def bitBytes (bit w v : Nat) : List CByte :=
  (List.range ((bit % 8 + w + 7) / 8)).map fun k =>
    { mask := BitVec.ofNat 8 ((2 ^ w - 1) * 2 ^ (bit % 8) / 2 ^ (8 * k)),
      val := BitVec.ofNat 8 (v % 2 ^ w * 2 ^ (bit % 8) / 2 ^ (8 * k)) }

/-- Element number `n` of a copy, w bits at a bit address: its words, which count the bytes that its
bits complete (log entry 42), and itself once the last of them is written. -/
def elemWords (ring g n bit w v : Nat) : List CWord :=
  let l := cutAll ring g (bit / 8 % 2 ^ 64) (bitBytes bit w v)
  (List.range l.length).zip l |>.map fun x =>
    { x.2 with counts := if x.1 = 0 then ((n + 1) * w + 7) / 8 - (n * w + 7) / 8 else 0,
               prog := if x.1 + 1 = l.length then 1 else 0 }

/-- Elements of w bits packed from a scratchpad address, each with its value and grade; the row ends with zero
bits up to the next byte (R55). -/
def packWords (ring dst w : Nat) (l : List (Nat × Nat)) : List CWord :=
  let n := l.length * w
  let pad := if n % 8 = 0 then []
    else (elemWords ring 0 0 (8 * dst + n) (8 - n % 8) 0).map fun x => { x with counts := 0, prog := 0 }
  mergeWords ((((List.range l.length).zip l).flatMap fun x =>
    elemWords ring x.2.2 x.1 (8 * dst + x.1 * w) w x.2.1) ++ pad)

/-- Read words from one address to another until all are read or one fails (R158). -/
def State.readWords (s : State) (p : Party) (dest : Nat → List (Nat × Nat)) (src : Nat) :
    List Nat → List CWord → Started
  | [], acc => .ready acc 0 none
  | k :: ks, acc =>
      match s.fetchData p (src + 4 * k) 4 with
      | .ok (bs, g) =>
          let ds := dest k
          let new := ((List.range ds.length).zip ds).map fun d =>
            ({ ring := d.2.1, va := BitVec.ofNat 64 d.2.2, bytes := wholeBytes bs, g := g, counts := 4,
               prog := if d.1 + 1 = ds.length then 4 else 0 } : CWord)
          s.readWords p dest src ks (acc ++ new)
      | .error (.park va c l) => .park va c l
      | .error .cut => .stall
      | .error (.final va c r g) => .fault acc c r va g

/-- The outcome of reads that give the words of a copy. -/
def Started.ofRd (x : Rd (List CWord × BitVec 4)) (fmt : Option (Nat × Fmt)) : Started :=
  match x with
  | .ok ((ws, fl), _) => .ready ws fl fmt
  | .error (.park va c l) => .park va c l
  | .error .cut => .stall
  | .error (.final va c r g) => .fault [] c r va g

/-- A copy's own final fault, at an address. -/
def badCopy {α : Type} (va : Nat) : Rd α := .error (.final va .badarg 0 0)

/-- xld.x24: the dense elements of kept values and metadata (R161). -/
def x24Dense (w n : Nat) (kept meta_ : Nat) : List Nat :=
  (List.range (n / 4)).flatMap fun g =>
    let nib := meta_ / 2 ^ (4 * g) % 16
    let v := fun (k : Nat) => kept / 2 ^ (w * k) % 2 ^ w
    (List.range 4).map fun x =>
      if x = nib / 4 then v (2 * g + 1) else if x = nib % 4 then v (2 * g) else 0

/-- The grade of what a party reads at an address; 0 where it reads nothing. -/
def State.readGrade (s : State) (p : Party) (va n : Nat) : Nat :=
  match s.fetchData p va n with
  | .ok (_, g) => g
  | .error _ => 0

/-- The words of an xld.x24: each element has the grade of its group's kept values and metadata (R159,
R161). -/
def x24Words (s : State) (p : Party) (ring dst b c : Nat) : Rd (List CWord × BitVec 4) :=
  let n := c % 2 ^ 32
  let w := bitsOf c 37 32
  let meta_ := b + n * w / 16
  (s.fetchData p b (n * w / 16)).andThen fun ks =>
    (s.fetchData p meta_ (n / 8)).andThen fun ms =>
      let grade := fun (g : Nat) =>
        max (s.readGrade p (b + 2 * g * w / 8) ((2 * w + 7) / 8)) (s.readGrade p (meta_ + g / 2) 1)
      let vals := x24Dense w n (leNat ks) (leNat ms)
      let ws := packWords ring dst w (((List.range n).zip vals).map fun x => (x.2, grade (x.1 / 4)))
      -- the copy's count is in bytes (R365)
      .ok ((ws.map fun x => { x with prog := x.counts }, 0), 0)

/-- A shape record (R160). -/
structure ShapeRec where
  /-- BASE -/
  base : Nat
  /-- RANK -/
  rank : Nat
  /-- EW -/
  ew : Nat
  /-- CLIP -/
  clip : Bool
  /-- PERM = 1 -/
  perm : Bool
  /-- log2 of the box extents -/
  box : List Nat
  /-- EXT -/
  ext : List Nat
  /-- strides of the dimensions, dimension 0 first -/
  str : List Nat
  /-- it breaks the table -/
  bad : Bool
  deriving DecidableEq, Repr

/-- The fields of a record's 64 bytes, and whether they break R160's table. -/
def ShapeRec.ofBytes (b : List Byte) : ShapeRec :=
  let base := fieldAt b 0 8
  let rank := fieldAt b 8 1
  let ew := fieldAt b 9 1
  let fl := fieldAt b 0xA 1
  let perm := fieldAt b 0xB 1
  let nib := (List.range 8).map fun d => fieldAt b 0xC 4 / 16 ^ d % 16
  let ext := (List.range 7).map fun d => fieldAt b (0x10 + 3 * d) 3
  let str := (List.range 6).map fun d => fieldAt b (0x28 + 4 * d) 4
  let r := min rank 7
  let total := ((nib.take r).foldl (· + ·) 0)
  { base := base, rank := r, ew := ew, clip := fl % 2 == 1, perm := perm == 1, box := nib.take r,
    ext := ext, str := 1 :: str,
    bad := decide (2 ^ 57 ≤ base) || inWindows base || rank == 0 || decide (7 < rank)
      || decide (ew < 2 ∨ 32 < ew) || decide (2 ≤ fl ∨ 2 ≤ perm) || nib.any (8 < ·)
      || (nib.drop r).any (· != 0) || (ext.drop r).any (· != 0) || fieldAt b 0x25 3 != 0
      || decide (copyMax < (2 ^ total * ew + 7) / 8) }

/-- The indices of a box, dimension 0 fastest. -/
def boxIndices : List Nat → List (List Nat)
  | [] => [[]]
  | b :: bs => (boxIndices bs).flatMap fun rest => (List.range (2 ^ b)).map fun e => e :: rest

/-- The place q of a box index in scratchpad. -/
def boxPlace (r : ShapeRec) (ix : List Nat) : Nat :=
  let dims := (r.box.zip ix).map fun x => (2 ^ x.1, x.2)
  let dims := if r.perm then
      match dims with
      | a :: b :: rest => b :: a :: rest
      | l => l
    else dims
  dims.foldr (fun d acc => acc * d.1 + d.2) 0

/-- Global coordinates of a box index. -/
def boxCoords (coords : List Int) (ix : List Nat) : List Int :=
  (coords.zip ix).map fun x => x.1 + (x.2 : Int)

/-- The bit address of global coordinates, modulo 2^67 (R160). -/
def boxBit (r : ShapeRec) (g : List Int) : Nat :=
  let off := (g.zip r.str).foldl (fun a x => a + x.1 * (x.2 : Int)) 0
  (((r.base : Int) * 8 + off * r.ew) % 2 ^ 67).toNat

/-- Coordinates inside the extents. -/
def boxInside (r : ShapeRec) (g : List Int) : Bool :=
  (g.zip r.ext).all fun x => decide (0 ≤ x.1 ∧ x.1 < x.2)

/-- The box's elements in the order of their places: place, global coordinates. -/
def boxElems (r : ShapeRec) (coords : List Int) : List (Nat × List Int) :=
  ((boxIndices r.box).map fun ix => (boxPlace r ix, boxCoords coords ix)).mergeSort
    fun x y => decide (x.1 ≤ y.1)

/-- Read the shape record and its coordinates (R160).  An address that is no multiple of 64 ends the copy as a
record that breaks the table does (DEDUCED, log entry 185). -/
def readShape (s : State) (p : Party) (f : Fields) (cap : Cap) : Rd (ShapeRec × List Int) :=
  let va := cap.b.v.toNat
  if va % 64 != 0 then badCopy va
  else
    (s.fetchData p va 64).andThen fun bs =>
      let r := ShapeRec.ofBytes bs
      if r.bad || decide (128 < f.c.toNat + r.rank) then badCopy va
      else .ok ((r, (List.range r.rank).map fun d => ((nth cap.more d {}).v.setWidth 32).toInt), 0)

/-- The words of an xgat: each element has the grade of its page (R159, R160). -/
def gatWords (s : State) (p : Party) (f : Fields) (e : CopyEnt) : Rd (List CWord × BitVec 4) :=
  (readShape s p f e.cap).andThen fun (r, coords) =>
    let es := boxElems r coords
    match s.spadDest e.ring e.cap.a.v.toNat ((es.length * r.ew + 7) / 8) with
    | none => .error (.final e.cap.a.v.toNat .sprange 0 0)
    | some (ring, dst) =>
        (Rd.all (fun (x : Nat × List Int) =>
            (if r.clip && !boxInside r x.2 then .ok (0, 0)
             else s.fetchBits p (boxBit r x.2) r.ew).graded) es).andThen fun vs =>
          .ok ((packWords ring dst r.ew vs, 0), 0)

/-- The words of an xsct: each element has the grade of its line (R159, R160). -/
def sctWords (s : State) (p : Party) (f : Fields) (e : CopyEnt) : Rd (List CWord × BitVec 4) :=
  (readShape s p f e.cap).andThen fun (r, coords) =>
    let es := boxElems r coords
    let src := e.cap.a.v.toNat
    if (s.spadDest e.ring src ((es.length * r.ew + 7) / 8)).isNone then .error (.final src .sprange 0 0)
    else
      let live := es.filter fun x => !r.clip || boxInside r x.2
      (Rd.all (fun (x : Nat × List Int) => (s.fetchBits p (8 * src + x.1 * r.ew) r.ew).graded) live).andThen
        fun vs =>
          .ok ((mergeWords (((List.range live.length).zip (live.zip vs)).flatMap fun z =>
            elemWords e.ring z.2.2.2 z.1 (boxBit r z.2.1.2) r.ew z.2.2.1), 0), 0)

/-! ### Norm-tracking copies (R211) -/

/-- The tracking extension. -/
structure NtExt where
  /-- NVA -/
  nva : Nat
  /-- K0 -/
  k0 : Nat
  /-- KCNT -/
  kcnt : Nat
  /-- ROWS -/
  rows : Nat
  /-- SIDE -/
  side : Nat
  /-- reserved bytes are zero -/
  zero : Bool
  deriving DecidableEq, Repr

/-- The fields of the 32 bytes after the header. -/
def NtExt.ofBytes (b : List Byte) : NtExt :=
  { nva := fieldAt b 0 8, k0 := fieldAt b 8 4, kcnt := fieldAt b 0xC 4, rows := fieldAt b 0x10 2,
    side := fieldAt b 0x12 1, zero := fieldAt b 0x13 13 == 0 }

/-- The extension, with the vector's K, breaks R209 or R211. -/
def NtExt.bad (x : NtExt) (k : Nat) : Bool :=
  x.nva % 16 != 0 || x.k0 % 32 != 0 || x.kcnt % 32 != 0 || decide (x.kcnt < 32)
    || decide (k < x.k0 + x.kcnt) || decide (x.rows < 1 ∨ 128 < x.rows) || decide (2 ≤ x.side) || !x.zero
    || k % 32 != 0 || decide (k < 32 ∨ 65536 < k)

/-- The stored elements of the tracked tile: p, k and place in the group. -/
def ntElems (o : Operand) (x : NtExt) : List (Nat × Nat × Nat) :=
  (List.range x.rows).flatMap fun p =>
    (List.range x.kcnt).filterMap fun j =>
      (o.rank p (x.k0 + j)).map fun r => (p, x.k0 + j, r)

/-- The words of an xld.nt, once header, extension and K are read and right, `g` being the grade of those:
the tile, each element with the grade of its page; the norms of the elements it writes, each with the grade
of its column's elements and scales; and DIRTY (R159, R211). -/
def ntTile (s : State) (p : Party) (e : CopyEnt) (o : Operand) (x : NtExt) (g : Nat) :
    Rd (List CWord × BitVec 4) :=
  let src := e.cap.b.v.toNat
  let elems := ntElems o x
  let read := fun (y : Nat × Nat × Nat) =>
    s.fetchBits p (o.bitAt y.1 y.2.1 y.2.2 - 8 * o.h.base + 8 * src) o.w
  let far := elems.any fun y =>
    let bit := o.bitAt y.1 y.2.1 y.2.2
    (s.spadDest e.ring (bit / 8) ((bit % 8 + o.w + 7) / 8)).isNone
  if far then .error (.final e.cap.a.v.toNat .sprange 0 0)
  else
    (Rd.all (fun y => (read y).graded) elems).andThen fun vs =>
      let tile := mergeWords (((List.range elems.length).zip (elems.zip vs)).flatMap fun z =>
        let bit := o.bitAt z.2.1.1 z.2.1.2.1 z.2.1.2.2
        match s.spadDest e.ring (bit / 8) 1 with
        | some (r, va) => elemWords r z.2.2.2 z.1 (8 * va + bit % 8) o.w z.2.2.1
        | none => [])
      let elem := fun (k q : Nat) =>
        match o.rank q k with
        | none => (.ok (.fin false 0 0, 0) : Rd FV)
        | some r => (read (q, k, r)).andThen fun n => o.valueOf s p q k n
      (Rd.all (fun j => (Rd.all (elem (x.k0 + j)) (List.range x.rows)).graded) (List.range x.kcnt)).andThen
        fun cols =>
          let norms := cols.map fun c => (normOf c.1, c.2)
          let entries := ((List.range x.kcnt).zip norms).map fun z =>
            ({ ring := e.ring, va := BitVec.ofNat 64 (x.nva + 0x10 + 8 * (x.k0 + z.1) + 4 * x.side),
               bytes := wholeBytes (leBytes (bits0 z.2.1.1) 4), g := z.2.2, counts := 0, prog := 0 } : CWord)
          let dirty : CWord :=
            { ring := e.ring, va := BitVec.ofNat 64 (x.nva + 4), bytes := [{ mask := 1, val := 1 }],
              g := max g (maxOf (norms.map (·.2))), counts := 0, prog := 0 }
          .ok (((tile.map fun w => { w with prog := w.counts }) ++ entries ++ [dirty],
            norms.foldl (fun a n => a ||| n.1.2) 0), 0)

/-- Start an xld.nt (R211): header, extension and K, the slot, then the tile. -/
def ntStart (s : State) (p : Party) (e : CopyEnt) : Started :=
  let va := e.cap.c.v.toNat
  let r : Rd (Hdr × NtExt × Nat) :=
    (s.fetchData p va 32).andThen fun hb =>
      (s.fetchData p (va + 32) 32).andThen fun xb =>
        let x := NtExt.ofBytes xb
        -- the SLOT byte as the issue read it stands for the header's (R156 step 5)
        let hb := match e.nslot with | some n => hb.set 0x10 (BitVec.ofNat 8 n) | none => hb
        (s.fetchData p x.nva 4).andThen fun kb => .ok ((Hdr.ofBytes hb, x, leNat kb), 0)
  match r with
  | .error (.park a c l) => .park a c l
  | .error .cut => .stall
  | .error (.final a c z g) => .fault [] c z a g
  | .ok ((h, x, k), g) =>
      let slot := h.slot
      let view := match e.fmt with | some (_, fm) => SlotView.ready fm | none => s.slotView e.ring slot
      if h.bad va || !h.nt || h.base != e.cap.a.v.toNat || (h.narrow && slot != 7) || x.bad k then
        .fault [] .badarg 0 va g
      else
        match view with
        | .stall => .stall
        | .unbound => .fault [] .noslot 0 va g
        | .ready fm =>
            let o : Operand := { h := h, fmt := fm, p := x.rows, k := k }
            match ntTile s p e o x g with
            | .ok ((ws, fl), _) => .ready ws fl (some (slot, fm))
            | .error (.park a c l) => .park a c l
            | .error .cut => .stall
            | .error (.final a c z h) => .fault [] c z a (max g h)

/-! ### Starting (R157, R158) -/

/-- Start a copy: read its source. -/
def startOf (s : State) (e : CopyEnt) (f : Fields) : Started :=
  let p := s.ringParty e.ring
  let a := e.cap.a.v.toNat
  let b := e.cap.b.v.toNat
  let c := e.cap.c.v.toNat
  let n := copyCount e.instr c
  let words := List.range (n / 4)
  let at_ := fun (va k : Nat) =>
    match s.spadDest e.ring va n with
    | some (r, d) => [(r, d + 4 * k)]
    | none => []
  match e.instr with
  | .xld _ => s.readWords p (at_ a) b words []
  | .xcpy _ => s.readWords p (at_ a) b words []
  | .xst _ => s.readWords p (fun k => [(e.ring, b + 4 * k)]) a words []
  | .xcpyMc _ =>
      s.readWords p
        (fun k => (s.mcRings e.ring c).filterMap fun r => r.map fun r => (r.id, ringWin + a + 4 * k))
        b words []
  | .xfill _ =>
      .ready (words.flatMap fun k => (at_ a k).map fun d =>
        ({ ring := d.1, va := BitVec.ofNat 64 d.2, bytes := wholeBytes (leBytes (b % 2 ^ 32) 4),
           g := e.cap.b.g, counts := 4, prog := 4 } : CWord)) 0 none
  | .xldX24 _ =>
      match s.spadDest e.ring a n with
      | some (r, d) => .ofRd (x24Words s p r d b c) none
      | none => .fault [] .sprange 0 a 0
  | .xgat _ => .ofRd (gatWords s p f e) none
  | .xsct _ => .ofRd (sctWords s p f e) none
  | .xldNt _ => ntStart s p e
  | _ => .ready [] 0 none

/-- The instruction is a join. -/
def CopyEnt.isJoin (e : CopyEnt) : Bool := match e.instr with | .qjoin _ => true | _ => false

/-- The entries of a queue before one. -/
def entriesBefore (l : List CopyEnt) (id : Nat) : List CopyEnt := l.takeWhile fun e => e.id != id

/-- An entry of a queue. -/
def State.copy? (s : State) (core q id : Nat) : Option CopyEnt :=
  ((s.core core).copyQueue q).find? fun e => e.id == id

/-- The source of a copy that reads one range of addresses (R155). -/
def CopyEnt.source (e : CopyEnt) : Option (Nat × Nat) :=
  match e.instr with
  | .xld _ => some (e.cap.b.v.toNat, e.cap.c.v.toNat)
  | .xst _ => some (e.cap.a.v.toNat, e.cap.c.v.toNat)
  | .xcpy _ => some (e.cap.b.v.toNat, e.cap.c.v.toNat)
  | .xfill _ => some (0, 0)
  | _ => none

/-- A write of the issuing troupe that precedes a copy is to be performed before its reads, be the troupe
alive or not (R155, R158, R242, R272). -/
def State.copyBehind (s : State) (e : CopyEnt) (f : Fields) : Bool :=
  s.windowWaits e.uid f.ord.toNat f.scp.toNat (fun _ => true)
    || s.troupes.any fun t => t.uid == e.uid && t.ops.any fun o => decide (o.id < e.mark) && o.beforeCopy f e.source s (s.ringParty e.ring)

/-- An entry may start: the earlier ones of its queue have started, their writes are performed and none is
a join, and no write of its troupe that its reads must see is outstanding (R155, R157, R162, R272). -/
def State.copyMayStart (s : State) (core q : Nat) (e : CopyEnt) (f : Fields) : Bool :=
  !e.started && !e.parked && !e.isJoin && e.fault.isNone
    && (entriesBefore ((s.core core).copyQueue q) e.id).all (fun x => x.started && x.words.isEmpty && !x.isJoin)
    && !s.copyBehind e f

/-- Park a copy (R163). -/
def State.parkCopy (s : State) (core q : Nat) (e : CopyEnt) (va : Nat) (c : Cause) (level : Nat) :
    State :=
  (s.park e.ring (.copy core q e.id) (BitVec.ofNat 64 va) c level kCopy).modCopy core q e.id
    fun e => { e with parked := true }

/-- The words of a copy beyond its progress: a copy that had started before a save goes on from there
(R370). -/
def skipWords : Nat → List CWord → List CWord
  | 0, l => l
  | _, [] => []
  | n + 1, w :: l => skipWords (n + 1 - w.prog) l

/-- Where a copy begins to read, and how many bytes it reads there, as its flits are counted (log entry 145). -/
def CopyEnt.reads (s : State) (e : CopyEnt) (n : Nat) : Nat × Nat :=
  match e.source with
  | some r => r
  | none =>
      match e.instr.fields with
      | some f =>
          (match readShape s (s.ringParty e.ring) f e.cap with
           | .ok ((r, coords), _) => (boxBit r coords / 8, n)
           | .error _ => (e.cap.b.v.toNat, n))
      | none => (e.cap.b.v.toNat, n)

/-- Start an entry if it may start (R157, R158). -/
def startCopy (core q id : Nat) (s : State) : State :=
  match s.copy? core q id with
  | none => s
  | some e =>
      match e.instr.fields with
      | none => s
      | some f =>
          if s.copyMayStart core q e f then
            match startOf s e f with
            | .ready ws fl fmt =>
                let r := e.reads s (4 * ws.length)
                let ws := skipWords e.landed ws
                (s.countFlits (s.ringParty e.ring) r.1 r.2).modCopy core q id fun e =>
                  { e with started := true, words := ws, fl := fl, fmt := fmt, dgrade := maxOf (ws.map (·.g)) }
            | .park va c l => s.parkCopy core q e va c l
            | .stall => s
            | .fault ws c r va g =>
                let ws := skipWords e.landed ws
                s.modCopy core q id fun e =>
                  { e with started := true, words := ws, fault := some (c, r, BitVec.ofNat 64 va),
                           dgrade := max g (maxOf (ws.map (·.g))) }
          else s

/-- COPY_START (R157). -/
def execCopyStart (s : State) : Out := .next (startCopy s.ev.core s.ev.queue s.ev.op s)

/-! ### Landing (R158, R167) -/

/-- The highest grade among a copy's operands and data (R350). -/
def CopyEnt.grade (e : CopyEnt) : Nat :=
  maxOf (([e.cap.a, e.cap.b, e.cap.c] ++ e.cap.more).map (·.g) ++ [e.dgrade])

/-- A KIND 2 record of a copy (R350). -/
def State.copyRecord (s : State) (e : CopyEnt) (c : Cause) (r : Nat) (va : Word) : FRec :=
  let f := e.instr.fields.getD {}
  { s.ringRecord e.ring 2 c with
    reason := r, iaddr := e.iaddr, aux := va,
    code := if f.modx.getLsbD 3 then 2 ^ 15 + f.imm.toNat / 16 else f.imm.toNat,
    grade := e.grade, tidx := e.troupe }

/-- The object that n bytes of a bound copy reach in a ring, while it counts them (R167). -/
def landsAt (e : CopyEnt) (ring n : Nat) (s : State) : Option ((Nat × Nat) × BObj) :=
  let f := e.instr.fields.getD {}
  if f.modx.getLsbD 3 && n != 0 then
    match s.boundObj ring f.imm.toNat with
    | none => none
    | some p =>
        let o := s.barrierObj p
        if !o.valid || o.faulted then none else some (p, o)
  else none

/-- The bytes would take PENDB below −2^23: a BADARG record (R167). -/
def landFault (e : CopyEnt) (ring n : Nat) (s : State) : Bool :=
  match landsAt e ring n s with
  | some (_, o) => decide (o.pendb - n < -(2 ^ 23))
  | none => false

/-- Bytes of a bound copy reach the barrier object of a ring: PENDB falls, or FAULTED is set with a
BADARG record where it would fall below −2^23 (R167). -/
def landCount (e : CopyEnt) (ring n : Nat) (va : Word) (s : State) : State :=
  match landsAt e ring n s with
  | none => s
  | some (p, o) =>
      if landFault e ring n s then
        let asid := s.asidOf e.ring
        let fs := s.nextFseq asid
        (s.postRecord asid (s.copyRecord e .badarg 0 va)).putBarrier p
          { o with faulted := true, frec := fs } 0
      else s.putBarrier p { o with pendb := o.pendb - n : BObj }.advance 0

/-- Land the first word of an entry: the checks of a write, the bytes, then the barrier (R158, R159,
R163). -/
def landWord (core q id : Nat) (s : State) : State :=
  match s.copy? core q id with
  | none => s
  | some e =>
      match e.words with
      | [] => s
      | w :: ws =>
          if e.parked then s
          else
            let p : Party := { asid := s.asidOf e.ring, ring := some w.ring, core := some core }
            match s.access p w.va.toNat { n := w.bytes.length, wr := true, g := w.g } with
            | .final c r =>
                s.modCopy core q id fun e => { e with words := [], fault := some (c, r, w.va) }
            | .replay c l => s.parkCopy core q e w.va.toNat c l
            | .ok site =>
                -- with no link up, the copy waits for one (R380)
                if s.cutOff site then s else
                let old := s.loadSite site
                let new := (old.zip w.bytes).map fun x => (x.1 &&& ~~~x.2.mask) ||| (x.2.val &&& x.2.mask)
                let s1 := ((s.touch p w.va.toNat site).sendTo site).writeSite site new w.g
                -- a copy does not complete while its record is held (R349)
                (landCount e w.ring w.counts w.va s1).modCopy core q id fun x =>
                  { x with words := ws, landed := x.landed + w.prog,
                           fseq := if landFault e w.ring w.counts s1 then some (s1.nextFseq (s.asidOf e.ring))
                             else x.fseq }

/-- Land some words of an entry. -/
def landWords (core q id : Nat) : Nat → State → State
  | 0, s => s
  | n + 1, s => landWords core q id n (landWord core q id s)

/-- An entry may land: it has started, and no write of an earlier entry of its queue is outstanding
(R157). -/
def State.copyMayLand (s : State) (core q : Nat) (e : CopyEnt) : Bool :=
  e.started && !e.parked && !e.words.isEmpty
    && (entriesBefore ((s.core core).copyQueue q) e.id).all fun x =>
        x.started && x.words.isEmpty && x.fault.isNone

/-- COPY_BYTES_LAND: some 4-byte words of a started copy are written, one at least (R158, R167). -/
def execCopyBytesLand (s : State) : Out :=
  let core := s.ev.core
  let q := s.ev.queue
  match s.copy? core q s.ev.op with
  | some e =>
      .next (if s.copyMayLand core q e then
        landWords core q e.id (1 + Config.landWords s.choice) s else s)
  | none => .next s

/-! ### Completion (R157, R163, R164) -/

/-- A deferred-flag word with one more report: its flags join, its count rises, its source replaces the last
one's (R358). -/
def deferReport (w r : Word) : Word :=
  BitVec.ofNat 64 (min 0xFFFF (w.toNat / 2 ^ 48 + 1) * 2 ^ 48 + r.toNat % 2 ^ 48 / 16 * 16
    + ((w ||| r) &&& 0xF).toNat)

/-- The deferred-flag word of one report of a copy (R358). -/
def copyDefl (e : CopyEnt) (fl : BitVec 4) : Word :=
  let f := e.instr.fields.getD {}
  BitVec.ofNat 64 (2 ^ 48 + fl.toNat
    + (if f.modx.getLsbD 3 then 3 * 2 ^ 8 + f.imm.toNat % 2 ^ 19 * 2 ^ 24
       else 2 * 2 ^ 8 + f.imm.toNat % 64 * 2 ^ 16))

/-- A KIND 5 record: the flags of a copy whose troupe has ended (R359). -/
def lostFlags (e : CopyEnt) (s : State) : State :=
  s.postRecord (s.asidOf e.ring)
    { s.ringRecord e.ring 5 .deflag with
      iaddr := e.iaddr, aux := copyDefl e e.fl, grade := e.grade, tidx := e.troupe }

/-- Norm flags reach the issuing troupe, or a KIND 5 record when it has ended (R211, R359). -/
def reportCopyFlags (e : CopyEnt) (s : State) : State :=
  if e.fl = 0 then s
  else
    match s.troupe? ⟨e.ring, e.troupe⟩ with
    | some t => if t.uid = e.uid then s.modTroupe t.id fun t => t.raise e.fl else lostFlags e s
    | none => lostFlags e s

/-- The barrier of a copy that ended on a final fault becomes FAULTED; FREC stays that of the copy that made it so
(R163, R166, R167). -/
def faultBarrier (off fs : Nat) (s : State) (ring : Nat) : State :=
  match s.boundObj ring off with
  | none => s
  | some p =>
      let o := s.barrierObj p
      if o.valid && !o.faulted then s.putBarrier p { o with faulted := true, frec := fs } 0 else s

/-- Signal the completion of an entry: its tag, or on a fault its barrier (R163, R164). -/
def signalCopy (e : CopyEnt) (s : State) : State :=
  let f := e.instr.fields.getD {}
  let err := e.fault.isSome
  if f.modx.getLsbD 3 then
    match e.fault, e.fseq with
    | some _, some fs =>
        (s.receivers e.instr e.ring e.cap.a.v.toNat e.cap.c.v.toNat).foldl
          (faultBarrier f.imm.toNat fs) s
    | _, _ => s
  else s.modRing e.ring fun r => r.tagDone f.imm.toNat err

/-- The queues that hold an entry. -/
def State.queuesOf (s : State) (core id : Nat) : List Nat :=
  (List.range 2).filter fun q => (s.copy? core q id).isSome

/-- An entry is the first of every queue that holds it. -/
def State.copyFirst (s : State) (core id : Nat) : Bool :=
  (s.queuesOf core id).all fun q =>
    match (s.core core).copyQueue q with
    | x :: _ => x.id == id
    | [] => false

/-- Remove an entry from its queues and signal it. -/
def State.finishCopy (s : State) (core : Nat) (e : CopyEnt) : State :=
  let s1 := (s.queuesOf core e.id).foldl
    (fun s q => s.modQueueOf core q fun l => l.filter fun x => x.id != e.id) s
  reportCopyFlags e (signalCopy e s1)

/-- An entry has nothing left to do: a join, or a copy all of whose bytes have landed. -/
def CopyEnt.over_ (e : CopyEnt) : Bool := e.isJoin || (e.started && e.words.isEmpty && e.fault.isNone)

/-- A record of a context is held (R349). -/
def State.recHeld (s : State) (asid fs : Nat) : Bool := (s.ctx asid).held.any fun r => r.fseq == fs

/-- A record of a copy is held, so that it does not complete (R349). -/
def State.copyHeld (s : State) (e : CopyEnt) : Bool :=
  match e.fseq with
  | some n => s.recHeld (s.asidOf e.ring) n
  | none => false

/-- COPY_COMPLETE: entries complete in queue order (R157, R162). -/
def execCopyComplete (s : State) : Out :=
  let core := s.ev.core
  match s.copy? core s.ev.queue s.ev.op with
  | some e => .next (if s.copyFirst core e.id && e.over_ && !s.copyHeld e then s.finishCopy core e else s)
  | none => .next s

/-- COPY_FINAL_FAULT: the first entry of its queue ends on a final fault.  Its record is posted; it
completes once the record is no longer held (R163, R349). -/
def execCopyFinalFault (s : State) : Out :=
  let core := s.ev.core
  let q := s.ev.queue
  match s.copy? core q s.ev.op with
  | some e =>
      .next (match e.fault with
        | none => s
        | some (c, r, va) =>
            if s.copyFirst core e.id && !s.copyHeld e then
              let asid := s.asidOf e.ring
              let s1 := if e.posted then s
                else
                    let fs := s.nextFseq asid
                    (s.postRecord asid (s.copyRecord e c r va)).modCopy core q e.id fun e =>
                      { e with words := [], fseq := some fs, posted := true }
              match s1.copy? core q e.id with
              | some e1 =>
                  if s1.copyHeld e1 then s1 else s1.finishCopy core e1
              | none => s1
            else s)
  | none => .next s

end Sys2Proof.Machine
end

