-- ==== Sys2Proof/Machine/Stream.lean ====
section
/-! DEFINITION. Matrix streams: how one starts, executes, waits, stops and ends, with the flow
instructions (spec/08_matrix_engine.md R176-R184, R190, R198-R205). -/

namespace Sys2Proof.Machine

/-- What a stream instruction's effect answers. -/
inductive MRes where
  | done (s : State)
  | goto (s : State) (pc : Word)
  /-- a turn of the operation is over, and more of it is to come (R183) -/
  | more (s : State)
  | wait (w : SWait) (s : State)
  | park (va : Nat) (c : Cause) (level : Nat) (s : State)
  | stop (code : Nat) (s : State)
  /-- the stream has ended -/
  | ended (s : State)
  deriving DecidableEq, Repr

/-- The stream goes on to an address; its clause retires with its last instruction, as a milestone of
the ring when MILE is set (R179, R361). -/
def State.streamNext (s : State) (ring : Nat) (pc : Word) : State :=
  match s.stream? ring with
  | none => s
  | some st =>
      let s1 := s.modStream ring fun st =>
        { st with pc := pc, left := st.left - 1, state := 2, wait := none, fmts := [], nth_ := st.nth_ + 1 }
      if st.left ≤ 1 && st.mile then
        s1.modRing ring fun r => { r with miles := min (2 ^ 32 - 1) (r.miles + 1) }
      else s1

/-- The stream instructions that must end their clause (R179). -/
def streamEnds : Instr → Bool
  | .mxloop _ => true
  | .mxend _ => true
  | _ => false

/-- The instruction names bank zb, or needs both banks (R181; log entry 189). -/
def needsTwo (i : Instr) (f : Fields) : Bool :=
  match i with
  | .mxdual _ => true
  | .mxadd _ => f.sub == 0 || f.d == 1
  | _ => match i.row with | some r => (r.d == .bank && f.d == 1) | none => false

/-- The highest grade among the stream registers an instruction names (R350). -/
def streamGrade (i : Instr) (f : Fields) (st : Stream) : Nat :=
  match i.row with
  | some r =>
      let one := fun (p : Pos) (x : BitVec 8) =>
        if p = .mreg ∨ p = .bankM ∧ f.sub = 1 then (nth st.m x.toNat {}).g else 0
      maxOf [one r.a f.a, one r.b f.b, one r.c f.c]
  | none => 0

/-- The banks whose contents an instruction uses: 0 za, 1 zb.  One that writes a tile without reading the bank
uses none of it, and a sampled run that begins zeroes its tile (R191-R197, R216). -/
def bankReads (i : Instr) (f : Fields) (st : Stream) : List Nat :=
  match i with
  | .mxmul _ => [f.d.toNat]
  | .mxsp _ => [f.d.toNat]
  | .mxdual _ => [0, 1]
  | .mxst _ => [f.d.toNat]
  | .mxadd _ => if f.sub == 0 then [f.d.toNat, f.a.toNat] else [f.d.toNat]
  | .mxscl _ => [f.d.toNat]
  | .mxsamp _ => if st.row = 0 then [] else [f.d.toNat]
  | _ => []

/-- An instruction uses a bank, or the alias unit, that holds an uncorrectable error (R389). -/
def usesBad (i : Instr) (f : Fields) (st : Stream) (au : AliasUnit) : Bool :=
  ((bankReads i f st).any fun d => if d = 1 then st.badB else st.badA)
    || (au.bad && match i with | .mxsamp _ => true | _ => false)

/-- Execute an instruction of a stream: the clause, decode faults, then its effect (R45, R46, R179). -/
def streamRun (i : Instr) (f : Fields) (ring : Nat) (st : Stream) (s : State)
    (eff : Stream → State → MRes) : State :=
  let stop := fun (code : Nat) (s : State) => s.stopStream ring code (streamGrade i f st)
  match i.row with
  | none => stop mxIllop s
  | some r =>
      if st.left = 0 then stop mxIllop s
      else if !r.inStream then stop mxIll s
      else
        match decodeFault true i with
        | some .illtype => stop mxIlltype s
        | some _ => stop mxIllop s
        | none =>
            if streamEnds i && st.left != 1 then stop mxIllop s
            else if needsTwo i f && !st.two then stop mxBank s
            else if usesBad i f st (s.core (s.ring ring).core).au then stop mxMemfault s
            else
              match eff st s with
              | .done s1 => s1.streamNext ring (st.pc + BitVec.ofNat 64 s.len)
              | .goto s1 pc => s1.streamNext ring pc
              | .more s1 => s1.modStream ring fun st => { st with state := 2, wait := none }
              | .wait w s1 => s1.modStream ring fun st => { st with state := 3, wait := some w }
              | .park va c l s1 =>
                  (s1.park ring (.stream ring) (BitVec.ofNat 64 va) c l kMatrix).modStream ring
                    fun st => { st with state := 3, wait := some .parked }
              | .stop code s1 => stop code s1
              | .ended s1 => s1

/-- Run a stream instruction: in a troupe it raises ILLOP (R45). -/
def streamInstr (i : Instr) (f : Fields) (s : State) (eff : Stream → State → MRes) : Out :=
  match s.cur with
  | .stream ring =>
      match s.stream? ring with
      | some st => .next (streamRun i f ring st s eff)
      | none => .fault .noAgent
  | .scalar id =>
      match s.troupe? id with
      | some t => .next (s.scalarFaultOf i t { cause := .illop })
      | none => .fault .noAgent
  | _ => .fault .noAgent

/-! ### Grants, contexts and the start (R182, R184, R202, R212) -/

/-- The class a stream requires: 1 matrix full, 2 matrix half, 3 sampling (R184, R330). -/
def streamClass (two smp : Bool) : Nat := if two then 1 else if smp then 3 else 2

/-- The class among the ring's grants that satisfies a stream's requirement: its own, or matrix full
for a one-bank stream. -/
def suitableGrant (r : Ring) (cls : Nat) : Option Nat :=
  if r.grants.contains cls then some cls else if r.grants.contains 1 then some 1 else none

/-- Return a grant of a ring. -/
def State.returnGrant (s : State) (ring cls : Nat) : State :=
  s.modRing ring fun r =>
    { r with grants := r.grants.filter (· != cls), returns := r.returns.filter (· != cls) }

/-- Contexts of a core that streams hold. -/
def State.ctxUsed (s : State) (core : Nat) : Nat :=
  (s.rings.filter fun r => r.core == core).foldl
    (fun n r => match r.stream with
      | some st => if st.ctx then n + (if st.two then 2 else 1) else n
      | none => n) 0

/-- The head of a core's context queue can be served (R182, R212). -/
def State.ctxFree (s : State) (core : Nat) (st : Stream) : Bool :=
  s.ctxUsed core + (if st.two then 2 else 1) ≤ 2
    && (!st.smp || (s.core core).au.holder.isNone)

/-- Request contexts: the ring joins its core's queue (R182). -/
def State.askContexts (s : State) (ring : Nat) : State :=
  s.modCore (s.ring ring).core fun c => { c with mxq := c.mxq ++ [ring] }

/-- A stream asks for its grant, or goes on to its contexts when the ring holds a suitable one (R184). -/
def State.askGrant (s : State) (ring : Nat) (two smp : Bool) : State :=
  let cls := streamClass two smp
  match suitableGrant (s.ring ring) cls with
  | some c => (s.modStream ring fun st => { st with relies := c }).askContexts ring
  | none =>
      s.modDie (s.dieOf ring) fun d => { d with grantq := d.grantq ++ [{ who := .stream ring, cls := cls }] }

/-- A state of a stream in which mxgo raises BADARG (R202). -/
def mxBusy (r : Ring) : Bool :=
  match r.stream with
  | some st => st.state == 1 || st.state == 2 || st.state == 3 || st.state == 5
  | none => false

/-- mxgo (R202). -/
def execMxgo (f : Fields) (s : State) : Out :=
  vectorInstr (.mxgo f) s fun e t s =>
    let ring := t.id.ring
    let a := e.cap.a.v
    let b := e.cap.b.v
    if mxBusy (s.ring ring) || decide (2 ^ 57 ≤ a.toNat ∨ 2 ^ 57 ≤ b.toNat) || b.toNat % 8 != 0 then
      .fault { cause := .badarg }
    else
      let two := f.modx.getLsbD 0
      let smp := f.modx.getLsbD 1
      let st : Stream :=
        { start := a, pc := a, args := b, g0 := max e.cap.a.g e.cap.b.g, by_ := t.id.idx, state := 1,
          two := two, smp := smp, nth_ := ((s.ring ring).stream.map (·.nth_)).getD 0 }
      .done ((s.modRing ring fun r => { r with stream := some st }).askGrant ring two smp)

/-- Read the argument block: m and t registers, each m with the grade of its line (R177). -/
def readArgs (s : State) (ring : Nat) (st : Stream) : Rd (List GW × List Word) :=
  let p := s.ringParty ring
  let reg := fun (j : Nat) => s.fetchData p (st.args.toNat + 8 * j) 8
  (Rd.all (fun j => match reg j with
      | .ok (b, g) => .ok (({ v := BitVec.ofNat 64 (leNat b), g := g } : GW), g)
      | .error e => .error e) (List.range 8)).andThen fun m =>
    (Rd.all (fun j => match reg (8 + j) with
      | .ok (b, g) => .ok (BitVec.ofNat 64 (leNat b), g)
      | .error e => .error e) (List.range 8)).andThen fun t => .ok ((m, t), 0)

/-- A stream that holds its contexts reads its argument block and starts; a fault on the read stops
it (R202, R204). -/
def startStream (ring : Nat) (s : State) : State :=
  match s.stream? ring with
  | none => s
  | some st =>
      match readArgs s ring st with
      | .ok ((m, t), _) =>
          s.modStream ring fun st => { st with m := m, t := t, loaded := true, state := 2, wait := none }
      | .error (.park va c l) =>
          (s.park ring (.stream ring) (BitVec.ofNat 64 va) c l kMatrix).modStream ring
            fun st => { st with state := 3, wait := some .parked }
      | .error .cut => s.modStream ring fun st => { st with state := 3, wait := some .retry }
      | .error (.final ..) => s.stopStream ring mxMemfault st.g0

/-- Give a stream its contexts, its banks set as mxzero sets them at the launch grade, and with .smp
the alias unit, empty (R177, R178, R182, R212). -/
def giveContexts (ring : Nat) (s : State) : State :=
  let g := (s.launchOf ring).lr.grade
  match s.stream? ring with
  | none => s
  | some st =>
      let s1 := s.modCore (s.ring ring).core fun c =>
        { c with mxq := c.mxq.filter (· != ring),
                 au := if st.smp then { (st.unit_.getD {}) with holder := some ring } else c.au }
      if st.loaded || st.state == 5 then
        -- a restored stream goes on with what was saved (R206), a stopped one as its handler says
        s1.modStream ring fun st => { st with ctx := true, unit_ := none }
      else
        startStream ring (s1.modStream ring fun st =>
          { st with ctx := true, za := Bank.zero, zb := Bank.zero, ga := g, gb := g, badA := false, badB := false })

/-- MATRIX_CONTEXT_GRANT: the head of a core's queue takes its contexts, or a stream whose parked
argument read is replayed goes on (R182). -/
def execMatrixContextGrant (s : State) : Out :=
  let ring := s.ev.ring
  match s.stream? ring with
  | none => .next s
  | some st =>
      if st.ctx && !st.loaded then
        .next (if st.wait = some .retry then startStream ring s else s)
      else
        match (s.core (s.ring ring).core).mxq with
        | r :: _ =>
            .next (if r = ring && s.ctxFree (s.ring ring).core st then giveContexts ring s else s)
        | [] => .next s

/-- A stream leaves its contexts, its implicit grant and the alias unit; a deferred tkret takes effect
(R184, R201, R212).  The accumulator store stands as it leaves it (R409; log entry 186). -/
def State.leaveContexts (s : State) (ring : Nat) : State :=
  match s.stream? ring with
  | none => s
  | some st =>
      let core := (s.ring ring).core
      let s1 := s.modCore core fun c =>
        { c with mxq := c.mxq.filter (· != ring), au := if c.au.holder = some ring then {} else c.au,
                 za := if st.ctx then st.za else c.za, zb := if st.ctx && st.two then st.zb else c.zb }
      let s2 := if st.implicit = 0 then s1 else s1.returnGrant ring st.implicit
      let s3 := ((s2.ring ring).returns.filter (· != 4)).foldl (fun s c => s.returnGrant ring c) s2
      s3.modStream ring fun st =>
        { st with ctx := false, implicit := 0, relies := 0 }

/-- REASON 4 and RUN clear when a stream ends inside mxsamp (R219, R221). -/
def abortSample (r : Ring) : Ring :=
  if r.smpstat.getLsbD 49 then
    { r with smpstat := BitVec.ofNat 64 (bitsOf r.smpstat.toNat 48 0 + 4 * 2 ^ 52) }
  else r

/-- End a stream, as mxend does (R201, R353). -/
def State.endStream (s : State) (ring : Nat) : State :=
  ((s.leaveContexts ring).modRing ring abortSample).modStream ring fun st =>
    { st with state := 4, wait := none, left := 0, fmts := [], row := 0, nth_ := st.nth_ + 1 }

/-- mxend (R201). -/
def execMxend (f : Fields) (s : State) : Out :=
  streamInstr (.mxend f) f s fun st s =>
    match s.cur with
    | .stream ring =>
        let s1 := if st.mile then
            s.modRing ring fun r => { r with miles := min (2 ^ 32 - 1) (r.miles + 1) }
          else s
        .ended (s1.endStream ring)
    | _ => .done s

/-! ### Registers and status -/

/-- The ring whose stream acts. -/
def State.actRing (s : State) : Nat := match s.cur with | .stream r => r | _ => 0

/-- A stream register. -/
def Stream.reg (st : Stream) (x : BitVec 8) : GW := nth st.m x.toNat {}

/-- STATE as MXSTAT shows it: 1 also for a restored stream that waits for its grant or contexts (R203,
R206). -/
def Stream.shown (st : Stream) : Nat := if st.ctx || st.state == 0 || st.state == 4 then st.state else 1

/-- The MXSTAT word (R203). -/
def mxstatWord (r : Ring) : Word :=
  match r.stream with
  | none => 0
  | some st =>
      BitVec.ofNat 64 (st.shown + st.two.toNat * 2 ^ 4 + st.smp.toNat * 2 ^ 5
        + (st.pc - st.start).toNat % 2 ^ 24 * 2 ^ 8 + st.cause * 2 ^ 32 + st.flags.toNat * 2 ^ 52)

/-- mxstat (R203). -/
def execMxstat (f : Fields) (s : State) : Out :=
  vectorInstr (.mxstat f) s fun e t s =>
    let r := s.ring t.id.ring
    let v := if f.sub == 0 then mxstatWord r
      else match r.stream with | some st => st.row.setWidth 64 | none => 0
    .done (scalarResult e t s f.d { v := v })

/-- SMPSTAT or SVAR (R219). -/
def sampleReg (r : Ring) (sub : BitVec 4) : GW :=
  { v := if sub == 0 then r.smpstat else r.svar, g := r.smpg }

/-- mxvar, in a troupe and in a stream (R220). -/
def execMxvar (f : Fields) (s : State) : Out :=
  match s.cur with
  | .stream _ =>
      streamInstr (.mxvar f) f s fun _ s =>
        let r := s.ring s.actRing
        .done (s.modStream s.actRing fun st =>
          { st with m := upd st.m f.d.toNat fun _ => sampleReg r f.sub })
  | _ =>
      vectorInstr (.mxvar f) s fun e t s =>
        .done (scalarResult e t s f.d (sampleReg (s.ring t.id.ring) f.sub))

/-! ### Flow and meeting points (R198-R200) -/

/-- mxwait.tg: waits for the tags of the mask; a tag error stops the stream (R198). -/
def execMxwaitTg (f : Fields) (s : State) : Out :=
  streamInstr (.mxwaitTg f) f s fun st s =>
    let r := s.ring s.actRing
    let m := (st.reg f.a).v
    if allTags r m then
      if (namedTags r m).any fun j => r.tagerr.getLsbD j then .stop mxTagerr s else .done s
    else .wait .tags s

/-- mxwait.bo: waits for the phase of a barrier object; mB follows the phase when the condition is met,
whether the stream goes on or stops (R198). -/
def execMxwaitBo (f : Fields) (s : State) : Out :=
  streamInstr (.mxwaitBo f) f s fun st s =>
    let ring := s.actRing
    let va := ((st.reg f.a).v + f.imm.signExtend 64).toNat
    match s.objectAt ring va 16 with
    | none => .stop mxMemfault s
    | some p =>
        if s.spadBad p 16 then .stop mxMemfault s else
        let o := s.barrierObj p
        if va % 16 != 0 || !o.valid then .stop mxBadarg s
        else
          let b := (st.reg f.b).v
          let gap := (o.phase + 2 ^ 16 - b.toNat % 2 ^ 16) % 2 ^ 16
          let s1 := s.modStream ring fun st =>
            { st with m := upd st.m f.b.toNat fun x => { x with v := x.v + 1 } }
          if st.wait == some (.barrierOver true) then .stop mxCancelled s1
          else if st.wait == some (.barrierOver false) then .done s1
          else if o.faulted then .stop mxFaulted s1
          else if gap = 0 then .wait .barrier s
          else if gap = 1 ∧ o.cancelled then .stop mxCancelled s1
          else .done s1

/-- mxnb and mxnb.arv (R199). -/
def mxnbEffect (sync : Bool) (f : Fields) (st : Stream) (s : State) : MRes :=
  let ring := s.actRing
  let j := f.sel.toNat
  match st.wait with
  | some (.nb _ p) => if s.nbOver ring false j p then .done s else .wait (.nb j p) s
  | _ =>
      match s.nbArrive ring false j f.imm.toNat none with
      | none => .stop mxBadarg s
      | some (p, s1) =>
          if sync && !s1.nbOver ring false j p then .wait (.nb j p) s1 else .done s1

/-- mxnb (R199). -/
def execMxnb (f : Fields) (s : State) : Out := streamInstr (.mxnb f) f s (mxnbEffect true f)

/-- mxnb.arv (R199). -/
def execMxnbArv (f : Fields) (s : State) : Out := streamInstr (.mxnbArv f) f s (mxnbEffect false f)

/-- mxloop.begin (R200). -/
def execMxloopBegin (f : Fields) (s : State) : Out :=
  streamInstr (.mxloopBegin f) f s fun st s =>
    if 4 ≤ st.loops.length then .stop mxBadarg s
    else .done (s.modStream s.actRing fun st => { st with loops := f.imm.toNat :: st.loops })

/-- The m registers stepped by the t registers that a mask names (R200). -/
def stepRegs (st : Stream) (mask : BitVec 8) : List GW :=
  (List.range 8).map fun j =>
    let x := nth st.m j {}
    if mask.getLsbD j then { x with v := x.v + nth st.t j 0 } else x

/-- mxloop (R200). -/
def execMxloop (f : Fields) (s : State) : Out :=
  streamInstr (.mxloop f) f s fun st s =>
    match st.loops with
    | [] => .stop mxBadarg s
    | n :: rest =>
        let s1 := s.modStream s.actRing fun st =>
          { st with m := stepRegs st f.c, loops := if n = 1 then rest else (n - 1) :: rest }
        if n = 1 then .done s1 else .goto s1 (st.pc + f.imm.signExtend 64)

end Sys2Proof.Machine
end

