-- ==== Sys2Proof/Machine/Matrix.lean ====
section
/-! DEFINITION. The matrix operations of a stream (spec/08_matrix_engine.md R188-R197, R205). -/

namespace Sys2Proof.Machine

/-! ### What an operation reads -/

/-- Why an operation does not go on. -/
inductive OpStop where
  | stop (code : Nat)
  | park (va : Nat) (c : Cause) (level : Nat)
  | slot (n : Nat)
  /-- no link is up to the package an access goes to (R380) -/
  | link
  deriving DecidableEq, Repr

/-- A device read of an operation: a final fault is MEMFAULT (R204). -/
def opRead {α : Type} (x : Rd α) : Except OpStop (α × Nat) :=
  match x with
  | .ok r => .ok r
  | .error (.park va c l) => .error (.park va c l)
  | .error .cut => .error .link
  | .error (.final ..) => .error (.stop mxMemfault)

/-- An operation that did not go on, in a state. -/
def OpStop.res (x : OpStop) (s : State) : MRes :=
  match x with
  | .stop code => .stop code s
  | .park va c l => .park va c l s
  | .slot n => .wait (.slot n) s
  | .link => .wait .retry s

/-- A header as an operation names it: its fields, its format and the highest grade of the stream
register and the header's line. -/
structure HdrUse where
  /-- header -/
  h : Hdr
  /-- format of its slot -/
  fmt : Fmt
  /-- grade -/
  g : Nat
  deriving DecidableEq, Repr

/-- The format an operation uses for a slot: the one of its issue while it restarts, else the binding
now in force (R138, R139). -/
def opFormat (s : State) (ring : Nat) (st : Stream) (slot : Nat) : Except OpStop Fmt :=
  match st.fmts.find? fun x => x.1 == slot with
  | some x => .ok x.2
  | none =>
      match s.slotView ring slot with
      | .ready f => .ok f
      | .stall => .error (.slot slot)
      | .unbound => .error (.stop mxNoslot)

/-- Read the header that a stream register names and check it; then its slot (R139, R185). -/
def useHdr (s : State) (ring : Nat) (st : Stream) (x : BitVec 8) : Except OpStop HdrUse :=
  let r := st.reg x
  match opRead (s.fetchData (s.ringParty ring) r.v.toNat 32) with
  | .error e => .error e
  | .ok (b, g) =>
      let h := Hdr.ofBytes b
      if h.bad r.v.toNat then .error (.stop mxBadarg)
      else
        match opFormat s ring st h.slot with
        | .error e => .error e
        | .ok f => .ok { h := h, fmt := f, g := max r.g g }

/-- The formats an operation keeps while it is parked or stopped (R138). -/
def keptFormats (l : List HdrUse) : List (Nat × Fmt) :=
  (l.filter fun u => 8 ≤ u.h.slot).map fun u => (u.h.slot, u.fmt)

/-- An operation keeps the formats of the loadable slots that its headers have named so far (R138). -/
def State.keepFmts (s : State) (l : List HdrUse) : State :=
  s.modStream s.actRing fun st => { st with fmts := keptFormats l }

/-- An operation that goes no further at a later header keeps the formats of those before it and what it kept
already; at a slot that drains or is not bound it has not issued, and nothing changes (R138, R139). -/
def State.keepAt (s : State) (e : OpStop) (l : List HdrUse) : State :=
  let add := s.modStream s.actRing fun st =>
    { st with fmts := st.fmts ++ (keptFormats l).filter fun x => !st.fmts.any fun y => y.1 == x.1 }
  match e with
  | .slot _ => s
  | .stop code => if code = mxNoslot then s else add
  | _ => add

/-- Row and column of an origin held in 16 bits (R189). -/
def originRow (imm : Nat) : Nat := imm % 256
/-- Column of an origin. -/
def originCol (imm : Nat) : Nat := imm / 256 % 256

/-- A tile lies in the bank at a legal origin (R189). -/
def originOk (imm m n : Nat) : Bool :=
  originRow imm % 32 == 0 && originCol imm % 16 == 0 && originRow imm + m ≤ 128
    && originCol imm + n ≤ 128

/-- A bank of a stream: 0 za, 1 zb. -/
def Stream.bank (st : Stream) (d : Nat) : Bank := if d = 1 then st.zb else st.za

/-- Its grade. -/
def Stream.bankGrade (st : Stream) (d : Nat) : Nat := if d = 1 then st.gb else st.ga

/-- Replace a bank, raising its grade, and join flags. -/
def Stream.putBank (st : Stream) (d : Nat) (b : Bank × BitVec 4) (g : Nat) : Stream :=
  if d = 1 then { st with zb := b.1, gb := max st.gb g, flags := st.flags ||| b.2 }
  else { st with za := b.1, ga := max st.ga g, flags := st.flags ||| b.2 }

/-- Change the acting stream. -/
def State.onStream (s : State) (f : Stream → Stream) : State := s.modStream s.actRing f

/-- The acting stream. -/
def State.actStream (s : State) : Stream := (s.stream? s.actRing).getD {}

/-! ### Products (R191, R192) -/

/-- The group sum of row m of one operand and row n of the other. -/
def groupAt (a b : List (List (Option FV))) (m n : Nat) : FV :=
  groupSum (((nth a m []).zip (nth b n [])).map fun x => elemMul x.1 x.2)

/-- Count the flits of operands that lie in another package, n bits of each row (R380, R400; log entry 145). -/
def State.countHdrs (s : State) (l : List Operand) (n : Nat) : State :=
  l.foldl (fun s o => s.countFlits (s.ringParty s.actRing) o.h.base (o.p * n / 8)) s

/-- Add group g of a product into a tile of a bank. -/
def addGroup (oa ob : Operand) (d row col g gr : Nat) (s : State) : Except OpStop State :=
  let p := s.ringParty s.actRing
  match opRead (oa.group s p g 32) with
  | .error e => .error e
  | .ok (a, g1) =>
      match opRead (ob.group s p g 32) with
      | .error e => .error e
      | .ok (b, g2) =>
          .ok ((s.countHdrs [oa, ob] (32 * oa.w)).onStream fun st =>
            st.putBank d ((st.bank d).addTile row col oa.p ob.p (groupAt a b)) (max gr (max g1 g2)))

/-- Add the groups from g on, counting each in ROWPROG by `step` (R191, R192, R205). -/
def addGroups (oa ob : Operand) (d row col gr step : Nat) : List Nat → State → MRes
  | [], s => .done s
  | g :: gs, s =>
      match addGroup oa ob d row col g gr s with
      | .error e => e.res s
      | .ok s1 =>
          addGroups oa ob d row col gr step gs
            (s1.onStream fun st => { st with row := st.row + BitVec.ofNat 32 step })

/-- Groups g0 to n − 1. -/
def groupsFrom (g0 n : Nat) : List Nat := (List.range n).drop g0

/-- An operation completes: ROWPROG is 0 again (R205). -/
def opDone (r : MRes) : MRes :=
  match r with
  | .done s => .done (s.onStream fun st => { st with row := 0 })
  | x => x

/-- mxmul and mxsp (R191). -/
def mulOp (sparse : Bool) (f : Fields) (st : Stream) (s : State) : MRes :=
  let ring := s.actRing
  match useHdr s ring st f.a with
  | .error e => e.res s
  | .ok ha =>
      match useHdr s ring st f.b with
      | .error e => e.res (s.keepAt e [ha])
      | .ok hb =>
          let imm := f.imm.toNat
          let c := f.shape
          let ob8 := ha.h.slot == 7 && hb.h.slot == 7
          let sparBad := if sparse then ha.h.spar == 0 || ha.h.tr || hb.h.spar != 0
            else ha.h.spar != 0 || hb.h.spar != 0
          if !pairOk ha.h hb.h || sparBad
              || !shapeOk (max (cellClass ha.h ha.fmt) (cellClass hb.h hb.fmt)) c
              || !originOk imm (shapeM c) (shapeN c) || (bitsOf imm 18 16 != 0 && !ob8) then
            .stop mxBadarg (s.keepFmts [ha, hb])
          else
            let kx := fun (bit : Nat) =>
              if bitsOf imm 16 16 = 1 then some (bitsOf imm bit bit == 1) else none
            let k := shapeK c
            let oa : Operand := { h := ha.h, fmt := ha.fmt, p := shapeM c, k := k, kx7 := kx 17 }
            let ob : Operand := { h := hb.h, fmt := hb.fmt, p := shapeN c, k := k, kx7 := kx 18 }
            let s1 := s.keepFmts [ha, hb]
            opDone (addGroups oa ob f.d.toNat (originRow imm) (originCol imm) (max ha.g hb.g) 1
              (groupsFrom (st.row.toNat % 2 ^ 16) (k / 32)) s1)

/-- mxmul (R191). -/
def execMxmul (f : Fields) (s : State) : Out := streamInstr (.mxmul f) f s (mulOp false f)

/-- mxsp (R191). -/
def execMxsp (f : Fields) (s : State) : Out := streamInstr (.mxsp f) f s (mulOp true f)

/-- Element o of each row of dY, for the rows of one group: dY in the other order (R192). -/
def dualGroup (ox oy : Operand) (g gr : Nat) (s : State) : Except OpStop State :=
  let p := s.ringParty s.actRing
  match opRead (ox.group s p g 32) with
  | .error e => .error e
  | .ok (x, g1) =>
      match opRead (Rd.all (fun o => Rd.all (fun j => oy.elem s p (32 * g + j) o) (List.range 32))
          (List.range oy.k)) with
      | .error e => .error e
      | .ok (y, g2) =>
          .ok ((s.countHdrs [ox, oy] (32 * ox.w)).onStream fun st =>
            { (st.putBank 1 (st.zb.addTile 0 0 ox.p oy.k (groupAt x y)) (max gr (max g1 g2))) with
              row := st.row + 2 ^ 16 })

/-- The groups of mxdual's second product. -/
def dualGroups (ox oy : Operand) (gr : Nat) : List Nat → State → MRes
  | [], s => .done s
  | g :: gs, s =>
      match dualGroup ox oy g gr s with
      | .error e => e.res s
      | .ok s1 => dualGroups ox oy gr gs s1

/-- mxdual (R192). -/
def dualOp (f : Fields) (st : Stream) (s : State) : MRes :=
  let ring := s.actRing
  match useHdr s ring st f.a with
  | .error e => e.res s
  | .ok hy =>
      match useHdr s ring st f.b with
      | .error e => e.res (s.keepAt e [hy])
      | .ok hw =>
          match useHdr s ring st f.c with
          | .error e => e.res (s.keepAt e [hy, hw])
          | .ok hx =>
              let c := f.shape
              let hs := [hy, hw, hx]
              if !pairOk hy.h hw.h || !pairOk hx.h hy.h
                  || (hs.any fun u => u.h.spar != 0 || u.h.narrow)
                  || !shapeOk (maxOf (hs.map fun u => cellClass u.h u.fmt)) c
                  || !inWindows hy.h.base then
                .stop mxBadarg (s.keepFmts hs)
              else
                let m := shapeM c
                let n := shapeN c
                let k := shapeK c
                let oy : Operand := { h := hy.h, fmt := hy.fmt, p := m, k := k }
                let ow : Operand := { h := hw.h, fmt := hw.fmt, p := n, k := k }
                let ox : Operand := { h := hx.h, fmt := hx.fmt, p := n, k := m }
                let gr := maxOf [hy.g, hw.g, hx.g, st.ga, st.gb]
                let s1 := s.onStream fun st =>
                  { st with fmts := keptFormats hs, ga := max st.ga gr, gb := max st.gb gr }
                match addGroups oy ow 0 0 0 gr 1 (groupsFrom (st.row.toNat % 2 ^ 16) (k / 32)) s1 with
                | .done s2 =>
                    -- both banks take the grade of all three operands
                    let s3 := s2.onStream fun st => { st with gb := max st.gb st.ga }
                    opDone (match dualGroups ox oy gr (groupsFrom (st.row.toNat / 2 ^ 16) (m / 32)) s3 with
                      | .done s4 => .done (s4.onStream fun st => { st with ga := max st.ga st.gb })
                      | x => x)
                | x => x

/-- mxdual (R192). -/
def execMxdual (f : Fields) (s : State) : Out := streamInstr (.mxdual f) f s (dualOp f)

/-! ### Housekeeping (R193-R197) -/

/-- A bank written as a whole holds no error (R389). -/
def Stream.cleaned (st : Stream) (d : Nat) : Stream :=
  if d = 1 then { st with badB := false } else { st with badA := false }

/-- mxzero (R193). -/
def execMxzero (f : Fields) (s : State) : Out :=
  streamInstr (.mxzero f) f s fun _ s =>
    let d := f.d.toNat
    let imm := f.imm.toNat
    let c := f.shape
    if f.sub == 1 then .done (s.onStream fun st => (st.putBank d (Bank.zero, 0) 0).cleaned d)
    else if !originOk imm (shapeM c) (shapeN c) then .stop mxBadarg s
    else
      .done (s.onStream fun st => st.putBank d
        ((st.bank d).onTile (originRow imm) (originCol imm) (shapeM c) (shapeN c)
          fun _ _ _ => ({}, 0)) 0)

/-- A tile read through a header for mxld and mxadd: its values by rows, and the grade (R194, R196). -/
def readTile (f : Fields) (x : BitVec 8) (st : Stream) (s : State) :
    Except OpStop (List (List FV) × Operand × Nat) :=
  let ring := s.actRing
  match useHdr s ring st x with
  | .error e => .error e
  | .ok u =>
      if u.h.spar != 0 || (u.h.narrow && u.h.slot != 7)
          || !originOk f.imm.toNat (shapeM f.shape) (shapeN f.shape) then .error (.stop mxBadarg)
      else
        let o : Operand := { h := u.h, fmt := u.fmt, p := shapeM f.shape, k := shapeN f.shape }
        match opRead (Rd.all (fun p => Rd.all (fun k => o.raw s (s.ringParty ring) p k (k % 32))
            (List.range o.k)) (List.range o.p)) with
        | .error e => .error e
        | .ok (vs, g) => .ok (vs.map fun l => l.map u.fmt.decode, o, max u.g g)

/-- An operation that reads a tile stopped: it keeps its format when it had judged its slot (R138). -/
def tileStop (st : Stream) (x : BitVec 8) (s : State) (e : OpStop) : MRes :=
  match useHdr s s.actRing st x with
  | .ok u => e.res (s.keepFmts [u])
  | .error _ => e.res s

/-- 16 values of a tile's row. -/
def tileRow (vs : List (List FV)) (i c : Nat) : List FV :=
  (List.range 16).map fun j => nth (nth vs i []) (c + j) (.fin false 0 0)

/-- mxld (R194). -/
def execMxld (f : Fields) (s : State) : Out :=
  streamInstr (.mxld f) f s fun st s =>
    match readTile f f.a st s with
    | .error e => tileStop st f.a s e
    | .ok (vs, o, g) =>
        let imm := f.imm.toNat
        .done ((s.countHdrs [o] (o.k * o.w)).onStream fun st => st.putBank f.d.toNat
          ((st.bank f.d.toNat).onTile (originRow imm) (originCol imm) (shapeM f.shape) (shapeN f.shape)
            fun _ i c => Run.load (tileRow vs i c)) g)

/-- mxadd (R196). -/
def execMxadd (f : Fields) (s : State) : Out :=
  streamInstr (.mxadd f) f s fun st s =>
    let d := f.d.toNat
    let imm := f.imm.toNat % 2 ^ 16
    let m := shapeM f.shape
    let n := shapeN f.shape
    if f.sub == 0 then
      let a := f.a.toNat
      let src := f.imm.toNat / 2 ^ 16
      if d = a || !originOk imm m n || !originOk src m n then .stop mxBadarg s
      else
        .done (s.onStream fun st => st.putBank d
          ((st.bank d).onTile (originRow imm) (originCol imm) m n fun r i c =>
            r.pass ((List.range 16).map fun j =>
              (st.bank a).value (originRow src + i) (originCol src + c + j))) (st.bankGrade a))
    else
      match readTile f f.a st s with
      | .error e => tileStop st f.a s e
      | .ok (vs, o, g) =>
          .done ((s.countHdrs [o] (o.k * o.w)).onStream fun st => st.putBank d
            ((st.bank d).onTile (originRow imm) (originCol imm) m n fun r i c =>
              r.pass (tileRow vs i c)) g)

/-- mxscl (R197). -/
def execMxscl (f : Fields) (s : State) : Out :=
  streamInstr (.mxscl f) f s fun st s =>
    let imm := f.imm.toNat
    let m := shapeM f.shape
    let n := shapeN f.shape
    let a := st.reg f.a
    if !originOk imm m n then .stop mxBadarg s
    else
      let k := fmtF32.decode (a.v.toNat % 2 ^ 32)
      .done (s.onStream fun st => st.putBank f.d.toNat
        ((st.bank f.d.toNat).onTile (originRow imm) (originCol imm) m n fun r _ _ => r.scale k) a.g)

/-! ### mxst (R195) -/

/-- The rounding mode of an element of mxst (R62, R195). -/
def stMode (f : Fields) (h : Hdr) (row col x : Nat) : RMode :=
  if f.sub == 1 then .zero
  else if f.sub == 2 then
    let r := f.imm.toNat / 2 ^ 16 % 32
    let rho := if r = 0 then 0
      else matrixMix ((h.seed ^^^ matrixMix ((row * 2 ^ 8 ||| col) % 2 ^ 32)) % 2 ^ 32) / 2 ^ (32 - r)
    .stoch rho r (gridOf x)
  else .nearest

/-- Write the bits of bytes from an address up: each byte's page is checked, and none is written when one
of them faults (R195) or no link is up to its package (R380). -/
def storeBytes (g va : Nat) (bs : List CByte) (s : State) : Except OpStop State :=
  let site := fun i => s.access (s.ringParty s.actRing) (va + i) { n := 1, wr := true, g := g }
  match (List.range bs.length).find? fun i => match site i with | .ok w => s.cutOff w | _ => true with
  | some i =>
      match site i with
      | .replay c l => .error (.park (va + i) c l)
      | .ok _ => .error .link
      | _ => .error (.stop mxMemfault)
  | none =>
      .ok ((List.range bs.length).foldl (fun s i =>
        match site i, bs[i]? with
        | .ok w, some b =>
            (s.writeSite w ((s.loadSite w).map fun x => (x &&& ~~~b.mask) ||| (b.val &&& b.mask)) g).sendTo w
        | _, _ => s) s)

/-- Write one element: the checks of a write with the bank's grade, then a read-modify-write of its
bytes; the flags join the stream's (R195). -/
def storeElem (f : Fields) (u : HdrUse) (o : Operand) (d g : Nat) (s : State) (i j : Nat) :
    Except OpStop State :=
  let st := s.actStream
  let row := originRow f.imm.toNat + i
  let col := originCol f.imm.toNat + j
  let run := (st.bank d).run row (col / 16)
  let v := (nth run.els (col % 16) {}).value run.x
  let e := u.fmt.encode v (stMode f u.h row col run.x) (f.sat == 1)
  let bit := o.bitAt i j (j % 32)
  match storeBytes g (bit / 8) (bitBytes bit o.w e.1) s with
  | .error e => .error e
  | .ok s1 => .ok (s1.onStream fun st => { st with flags := st.flags ||| e.2 })

/-- Write the elements of a tile in order. -/
def storeElems (f : Fields) (u : HdrUse) (o : Operand) (d g : Nat) : List (Nat × Nat) → State → MRes
  | [], s => .done s
  | x :: xs, s =>
      match storeElem f u o d g s x.1 x.2 with
      | .error e => e.res s
      | .ok s1 => storeElems f u o d g xs s1

/-- mxst (R195). -/
def execMxst (f : Fields) (s : State) : Out :=
  streamInstr (.mxst f) f s fun st s =>
    let m := shapeM f.shape
    let n := shapeN f.shape
    match useHdr s s.actRing st f.a with
    | .error e => e.res s
    | .ok u =>
        let s1 := s.keepFmts [u]
        if u.h.spar != 0 || (u.h.narrow && u.h.slot != 7) || u.h.aux != 0
            || !originOk (f.imm.toNat % 2 ^ 16) m n then .stop mxBadarg s1
        else
          let o : Operand := { h := u.h, fmt := u.fmt, p := m, k := n }
          storeElems f u o f.d.toNat (st.bankGrade f.d.toNat)
            ((List.range m).flatMap fun i => (List.range n).map fun j => (i, j)) s1

end Sys2Proof.Machine
end

