-- ==== Sys2Proof/Machine/Sampling.lean ====
section
/-! DEFINITION. Sampled matrix products: norms, the alias table and the sampled run
(spec/09_sampled_products.md R209-R222). -/

namespace Sys2Proof.Machine

/-! ### Norm vectors (R209, R210) -/

/-- K is one a norm vector may have. -/
def normK (k : Nat) : Bool := k % 32 == 0 && 32 ≤ k && k ≤ 65536

/-- S of a list of norm pairs, with the flags of every Encode (R210). -/
def normSum (l : List (FV × FV)) : FV × BitVec 4 :=
  l.foldl
    (fun acc x =>
      let q := enc0 ((x.1.mul x.2).1, 0)
      let y := enc0 ((acc.1.add q.1).1, 0)
      (y.1, acc.2 ||| q.2 ||| y.2))
    (.fin false 0 0, 0)

/-- The norms of columns k0 to k0 + n − 1 of an operand, in order, with their flags. -/
def operandNorms (o : Operand) (k0 n : Nat) (s : State) (p : Party) : Rd (List (FV × BitVec 4)) :=
  Rd.all (fun i =>
    match Rd.all (fun q => o.value s p q (k0 + i)) (List.range o.p) with
    | .error e => .error e
    | .ok (l, g) => .ok (normOf l, g)) (List.range n)

/-- Write 4-byte words of the stream's ring in order; the first that cannot be written stops. -/
def writeWords (g : Nat) : List (Nat × Nat) → State → Except OpStop State
  | [], s => .ok s
  | x :: xs, s =>
      match s.access (s.ringParty s.actRing) x.1 { n := 4, wr := true, g := g } with
      | .replay c l => .error (.park x.1 c l)
      | .final .. => .error (.stop mxMemfault)
      | .ok site => if s.cutOff site then .error .link
          else writeWords g xs ((s.writeSite site (leBytes x.2 4) g).sendTo site)

/-- The words of the entries that mxnorm writes for positions k0 on. -/
def normWords (va k0 : Nat) (na nb : List FV) : List (Nat × Nat) :=
  (List.range na.length).flatMap fun i =>
    [(va + 0x10 + 8 * (k0 + i), bits0 (nth na i .nan)), (va + 0x14 + 8 * (k0 + i), bits0 (nth nb i .nan))]

/-- The norms of the 32 positions of K group g, written to the vector's entries; the highest grade read is
kept with the flags (R210). -/
def normGroup (oa ob : Operand) (va gr g : Nat) (s : State) : Except OpStop State :=
  let p := s.ringParty s.actRing
  match opRead (operandNorms oa (32 * g) 32 s p) with
  | .error e => .error e
  | .ok (na, g1) =>
      match opRead (operandNorms ob (32 * g) 32 s p) with
      | .error e => .error e
      | .ok (nb, g2) =>
          match writeWords (maxOf [gr, g1, g2]) (normWords va (32 * g) (na.map (·.1)) (nb.map (·.1))) s with
          | .error e => .error e
          | .ok s1 =>
              .ok ((s1.countHdrs [oa, ob] (32 * oa.w)).onStream fun st =>
                { st with flags := st.flags ||| (na ++ nb).foldl (fun a x => a ||| x.2) 0, row := st.row + 1 })

/-- K groups of mxnorm, in order. -/
def normGroups (oa ob : Operand) (va gr : Nat) : List Nat → State → Except OpStop State
  | [], s => .ok s
  | g :: gs, s =>
      match normGroup oa ob va gr g s with
      | .error e => .error e
      | .ok s1 => normGroups oa ob va gr gs s1

/-- The end of mxnorm: S, from the entries of the vector, and its flags (R210). -/
def normEnd (va k gr : Nat) (s : State) : MRes :=
  match opRead (Rd.all (fun i => s.fetchData (s.ringParty s.actRing) (va + 0x10 + 8 * i) 8) (List.range k)) with
  | .error e => e.res s
  | .ok (rows, g1) =>
      let sum := normSum (rows.map fun b => (fmtF32.decode (fieldAt b 0 4), fmtF32.decode (fieldAt b 4 4)))
      match writeWords (max gr g1) [(va + 8, bits0 sum.1)] s with
      | .error e => e.res s
      | .ok s1 => .done (s1.onStream fun st => { st with flags := st.flags ||| sum.2, row := 0 })

/-- mxnorm: up to 4 K groups in a turn, then S (R183, R205, R210, R221). -/
def normOp (f : Fields) (st : Stream) (s : State) : MRes :=
  let ring := s.actRing
  let p := s.ringParty ring
  match useHdr s ring st f.a with
  | .error e => e.res s
  | .ok ha =>
      match useHdr s ring st f.b with
      | .error e => e.res (s.keepAt e [ha])
      | .ok hb =>
          let s := s.keepFmts [ha, hb]
          let va := (st.reg f.c).v.toNat
          if va % 16 != 0 then .stop mxBadarg s
          else
            match opRead (s.fetchData p va 4) with
            | .error e => e.res s
            | .ok (kb, g0) =>
                let k := leNat kb
                if !normK k || !pairOk ha.h hb.h || ha.h.spar != 0 || hb.h.spar != 0 then
                  .stop mxBadarg s
                else
                  let oa : Operand := { h := ha.h, fmt := ha.fmt, p := shapeM f.shape, k := k }
                  let ob : Operand := { h := hb.h, fmt := hb.fmt, p := shapeN f.shape, k := k }
                  let gr := maxOf [ha.g, hb.g, (st.reg f.c).g, g0]
                  let c := st.row.toNat % 2 ^ 16
                  match normGroups oa ob va gr ((groupsFrom c (k / 32)).take 4) s with
                  | .error e => e.res s
                  | .ok s1 => if c + 4 < k / 32 then .more s1 else normEnd va k gr s1

/-- mxnorm (R210). -/
def execMxnorm (f : Fields) (s : State) : Out := streamInstr (.mxnorm f) f s (normOp f)

/-! ### The alias table (R212, R213) -/

/-- The lists and tables of R213's loop. -/
structure AliasLoop where
  /-- u_k -/
  u : List Nat
  /-- PR -/
  pr : List Nat
  /-- AL -/
  al : List Nat
  /-- small -/
  small : List Nat
  /-- large -/
  large : List Nat
  deriving DecidableEq, Repr

/-- The loop of R213, W being the sum of the weights. -/
def aliasLoop (w : Nat) : Nat → AliasLoop → AliasLoop
  | 0, a => a
  | n + 1, a =>
      match a.small, a.large with
      | l :: ss, g :: ls =>
          let ul := nth a.u l 0
          let ug := nth a.u g 0 - (w - ul)
          let a1 := { a with
            u := upd a.u g fun _ => ug, pr := upd a.pr l fun _ => ul * 2 ^ 16 / w,
            al := upd a.al l fun _ => g }
          aliasLoop w n (if ug < w then { a1 with small := ss ++ [g], large := ls }
            else { a1 with small := ss })
      | _, _ => a

/-- The table of a list of products q_k that are finite, not negative and not all zero (R213); the
flags are those of the weights' Encode. -/
def aliasTable (qs : List FV) (sum : FV) : List AliasEnt × BitVec 4 :=
  let k := qs.length
  let e := qs.foldl (fun m x => if x.isZero then m else intMax m x.expOf) (-100000)
  let ws := qs.map fun x => (floorAt x (e - 23)).toNat
  let w := ws.foldl (· + ·) 0
  let u := ws.map fun x => k * x
  let ks := List.range k
  let a := aliasLoop w (2 * k)
    { u := u, pr := List.replicate k 0xFFFF, al := ks,
      small := ks.filter fun i => nth u i 0 < w, large := ks.filter fun i => w ≤ nth u i 0 }
  -- a position left over keeps 0xFFFF and itself
  let rest := a.small ++ a.large
  let rho := fun (i : Nat) =>
    if nth ws i 0 = 0 then (FV.fin false 0 0, (0 : BitVec 4))
    else enc0 (sum.quot (nth qs i .nan), 0)
  (ks.map fun i =>
     { pr := if rest.contains i then 0xFFFF else nth a.pr i 0,
       al := if rest.contains i then i else nth a.al i 0,
       rho := BitVec.ofNat 32 (bits0 (rho i).1) },
   ks.foldl (fun f i => f ||| (rho i).2) 0)

/-- Norms mxalias refuses: NaN, infinite, or not zero with the sign set (R221). -/
def normBad (x : FV) : Bool := x.isNan || x.isInf || (x.neg && !x.isZero)

/-- Change the alias unit of the acting ring's core. -/
def State.onAlias (s : State) (f : AliasUnit → AliasUnit) : State :=
  s.modCore (s.ring s.actRing).core fun c => { c with au := f c.au }

/-- The alias unit without a table. -/
def AliasUnit.cleared (a : AliasUnit) : AliasUnit := { a with k := 0, ents := [], zero := false, bad := false }

/-- mxalias stops with BADARG: K is 0, and the flags that its loop has raised stand (R213, R221). -/
def aliasFail (fl : BitVec 4) (s : State) : MRes :=
  .stop mxBadarg ((s.onAlias AliasUnit.cleared).onStream fun st => { st with flags := st.flags ||| fl })

/-- A read of mxalias did not go on: a fault leaves K = 0 (R221). -/
def aliasStop (e : OpStop) (s : State) : MRes :=
  match e with
  | .stop _ => e.res (s.onAlias AliasUnit.cleared)
  | _ => e.res s

/-- mxalias (R213, R221). -/
def aliasOp (f : Fields) (st : Stream) (s : State) : MRes :=
  let ring := s.actRing
  let p := s.ringParty ring
  let core := (s.ring ring).core
  let va := (st.reg f.a).v.toNat
  if (s.core core).au.holder != some ring then .stop mxTicket s
  else
    match opRead (s.fetchData p va 4) with
    | .error e => aliasStop e s
    | .ok (kb, g0) =>
        let k := leNat kb
        if !normK k then aliasFail 0 s
        else
          match opRead (Rd.all (fun i => s.fetchData p (va + 0x10 + 8 * i) 8) (List.range k)) with
          | .error e => aliasStop e s
          | .ok (rows, g1) =>
              let norms := rows.map fun b =>
                (fmtF32.decode (fieldAt b 0 4), fmtF32.decode (fieldAt b 4 4))
              let qs := norms.map fun x => enc0 ((x.1.mul x.2).1, 0)
              let sum := normSum norms
              if norms.any (fun x => normBad x.1 || normBad x.2) || sum.1.isInf then aliasFail sum.2 s
              else
                let g := max (st.reg f.a).g (max g0 g1)
                let sbits : Lane := BitVec.ofNat 32 (bits0 sum.1)
                if sum.1.isZero then
                  .done ((s.onAlias fun a =>
                    { a with k := k, s := sbits, g := g, zero := true, ents := List.replicate k {}, bad := false }).onStream
                    fun st => { st with flags := st.flags ||| sum.2 })
                else
                  let t := aliasTable (qs.map (·.1)) sum.1
                  .done ((s.onAlias fun a =>
                    { a with k := k, s := sbits, g := g, zero := false, ents := t.1, bad := false }).onStream
                      fun st => { st with flags := st.flags ||| sum.2 ||| t.2 })

/-- mxalias (R213). -/
def execMxalias (f : Fields) (s : State) : Out := streamInstr (.mxalias f) f s (aliasOp f)

/-! ### The sampled run (R215-R219) -/

/-- The position of sample j (R215). -/
def drawAt (a : AliasUnit) (seed j : Nat) : Nat :=
  let h := fun (n : Nat) => matrixMix ((seed ^^^ matrixMix (n % 2 ^ 32)) % 2 ^ 32)
  let i := h (2 * j) * a.k / 2 ^ 32
  let e := nth a.ents i {}
  if h (2 * j + 1) / 2 ^ 16 < e.pr then i else e.al

/-- What a run is about. -/
structure SampRun where
  /-- bank -/
  d : Nat
  /-- origin -/
  row : Nat
  /-- origin -/
  col : Nat
  /-- A -/
  oa : Operand
  /-- B -/
  ob : Operand
  /-- s_min -/
  smin : Nat
  /-- s_max -/
  smax : Nat
  /-- SEED -/
  seed : Nat
  /-- THR -/
  thr : FV
  /-- grade of registers and headers -/
  g : Nat
  deriving DecidableEq, Repr

/-- Group c of 16 samples: read, then added in one pass (R216). -/
def sampGroup (r : SampRun) (c : Nat) (s : State) : Except OpStop State :=
  let ring := s.actRing
  let p := s.ringParty ring
  let a := (s.core (s.ring ring).core).au
  let ks := (List.range 16).map fun i => drawAt a r.seed (16 * c + i)
  let cols := fun (o : Operand) =>
    Rd.all (fun q => Rd.all (fun k => o.value s p q k) ks) (List.range o.p)
  match opRead (cols r.oa) with
  | .error e => .error e
  | .ok (va, g1) =>
      match opRead (cols r.ob) with
      | .error e => .error e
      | .ok (vb, g2) =>
          let rho := ks.map fun k => fmtF32.decode (nth a.ents k {}).rho.toNat
          let term := fun (m n : Nat) =>
            groupSum ((((nth va m []).zip (nth vb n [])).zip rho).map fun x =>
              ((x.1.1.mul x.1.2).1.mul x.2).1)
          .ok ((s.countHdrs [r.oa, r.ob] (16 * r.oa.w)).onStream fun st =>
            { (st.putBank r.d ((st.bank r.d).addTile r.row r.col r.oa.p r.ob.p term)
                (maxOf [r.g, a.g, g1, g2])) with
              row := BitVec.ofNat 32 ((c + 1) % 2 ^ 16) })

/-- F's sum over the tile, with flags (R217). -/
def tileSquares (b : Bank) (row col m n : Nat) : FV × BitVec 4 :=
  ((List.range m).flatMap fun i => (List.range n).map fun j => (i, j)).foldl
    (fun acc x =>
      let e := enc0 (b.value (row + x.1) (col + x.2), 0)
      let y := enc0 (FV.fma e.1 e.1 acc.1)
      (y.1, acc.2 ||| e.2 ||| y.2))
    (.fin false 0 0, 0)

/-- V at s samples, with flags (R217). -/
def sampVariance (facc tab : FV) (n : Nat) : FV × BitVec 4 :=
  let sn := FV.fin false n 0
  let big := FV.fin false (n * n) 0
  let fr := enc0 (if facc.isInf then facc else if facc.isNan then .nan else facc.quot big, 0)
  if fr.1.isNan then (.nan, fr.2)
  else if fr.1.isZero then (.inf false, fr.2)
  else
    let s2 := enc0 (tab.mul tab)
    let num := enc0 (s2.1.add fr.1.negate)
    let den := enc0 (sn.mul fr.1)
    let v := enc0 (match num.1, den.1 with
      | .nan, _ => (.nan, 0)
      | _, .nan => (.nan, 0)
      | .inf _, .inf _ => (.nan, flInvalid)
      | .inf x, y => (.inf (x != y.neg), 0)
      | x, y => (x.quot y, 0))
    (v.1, fr.2 ||| s2.2 ||| num.2 ||| den.2 ||| v.2)

/-- SMPSTAT (R219). -/
def smpWord (reason : Nat) (run : Bool) (checks n : Nat) : Word :=
  BitVec.ofNat 64 (reason * 2 ^ 52 + run.toNat * 2 ^ 49 + checks % 2 ^ 17 * 2 ^ 32 + n % 2 ^ 21)

/-- Change the acting ring. -/
def State.onRing (s : State) (f : Ring → Ring) : State := s.modRing s.actRing f

/-- CHECKS of SMPSTAT. -/
def checksOf (w : Word) : Nat := bitsOf w.toNat 48 32

/-- The check after a group at s samples: V to SVAR, CHECKS and S; the reason to stop, 0 for none
(R217). -/
def sampCheck (r : SampRun) (n : Nat) (s : State) : Nat × State :=
  let ring := s.actRing
  let a := (s.core (s.ring ring).core).au
  let st := s.actStream
  let fa := tileSquares (st.bank r.d) r.row r.col r.oa.p r.ob.p
  let v := sampVariance fa.1 (fmtF32.decode a.s.toNat) n
  let stop := if !v.1.isNan && !r.thr.isNan && v.1.le r.thr then 1 else if n = r.smax then 2 else 0
  let s1 := (s.onStream fun st => { st with flags := st.flags ||| fa.2 ||| v.2 }).onRing fun x =>
    { x with svar := BitVec.ofNat 64 (a.s.toNat * 2 ^ 32 + bits0 v.1),
             smpstat := smpWord stop true (checksOf x.smpstat + 1) n }
  (stop, s1)

/-- The end of a run: the final division, RUN cleared (R218). -/
def sampEnd (r : SampRun) (reason n : Nat) (s : State) : MRes :=
  let s1 := s.onStream fun st => st.putBank r.d
    ((st.bank r.d).onTile r.row r.col r.oa.p r.ob.p fun x _ _ => x.divide n) 0
  let g := s1.actStream.bankGrade r.d
  .done (s1.onRing fun x =>
    { x with smpstat := smpWord reason false (checksOf x.smpstat) n, smpg := g })

/-- One turn of a run: group c of 16 samples, and its check (R183, R216, R217, R222). -/
def sampTurn (r : SampRun) (c : Nat) (s : State) : MRes :=
  match sampGroup r c s with
  | .error e => e.res s
  | .ok s1 =>
      let n := 16 * (c + 1)
      let s2 := s1.onRing fun x => { x with smpstat := smpWord 0 true (checksOf x.smpstat) n,
                                            smpg := s1.actStream.bankGrade r.d }
      if n < r.smin then .more s2
      else
        let z := sampCheck r n s2
        if z.1 = 0 then .more z.2 else sampEnd r z.1 n z.2

/-- The counts of mC break R221. -/
def countsBad (w : Nat) : Bool :=
  let a := bitsOf w 20 0
  let b := bitsOf w 52 32
  bitsOf w 31 21 != 0 || bitsOf w 63 53 != 0 || a % 16 != 0 || b % 16 != 0
    || decide (a < 16 ∨ b < a ∨ 2 ^ 20 < b)

/-- mxsamp: a turn of the run; the tile is zeroed with the first (R216-R222). -/
def sampOp (f : Fields) (st : Stream) (s : State) : MRes :=
  let ring := s.actRing
  let au := (s.core (s.ring ring).core).au
  let m := shapeM f.shape
  let n := shapeN f.shape
  let imm := f.imm.toNat
  let counts := st.reg f.c
  let seed := st.reg (f.c + 1)
  if !st.smp then .stop mxTicket s
  else
    match useHdr s ring st f.a with
    | .error e => e.res s
    | .ok ha =>
        match useHdr s ring st f.b with
        | .error e => e.res (s.keepAt e [ha])
        | .ok hb =>
            let s := s.keepFmts [ha, hb]
            if au.k = 0 || countsBad counts.v.toNat || ha.h.spar != 0 || hb.h.spar != 0
                || !pairOk ha.h hb.h || 1 < cellClass ha.h ha.fmt || 1 < cellClass hb.h hb.fmt
                || !originOk imm m n then
              .stop mxBadarg s
            else
              let d := f.d.toNat
              let r : SampRun :=
                { d := d, row := originRow imm, col := originCol imm,
                  oa := { h := ha.h, fmt := ha.fmt, p := m, k := au.k },
                  ob := { h := hb.h, fmt := hb.fmt, p := n, k := au.k },
                  smin := bitsOf counts.v.toNat 20 0, smax := bitsOf counts.v.toNat 52 32,
                  seed := seed.v.toNat % 2 ^ 32, thr := fmtF32.decode (seed.v.toNat / 2 ^ 32),
                  g := maxOf [(st.reg f.a).g, (st.reg f.b).g, counts.g, seed.g, ha.g, hb.g] }
              let c0 := st.row.toNat % 2 ^ 16
              let s1 :=
                if c0 = 0 then
                  let s0 := s.onStream fun st => st.putBank d
                    ((st.bank d).onTile r.row r.col m n fun _ _ _ => ({}, 0)) (max r.g au.g)
                  s0.onRing fun x => { x with smpstat := smpWord 0 true 0 0,
                                              svar := BitVec.ofNat 64 (au.s.toNat * 2 ^ 32),
                                              smpg := s0.actStream.bankGrade d }
                else s
              if au.zero then
                .done (s1.onRing fun x =>
                  { x with smpstat := smpWord 3 false 0 0, smpg := s1.actStream.bankGrade d })
              else opDone (sampTurn r c0 s1)

/-- mxsamp (R216). -/
def execMxsamp (f : Fields) (s : State) : Out := streamInstr (.mxsamp f) f s (sampOp f)

end Sys2Proof.Machine
end

