-- ==== Sys2Proof/Machine/Clause.lean ====
section
/-! DEFINITION. Clause headers, nop and done (spec/02_encoding.md R28, R37, R38, spec/01_machine.md R21). -/

namespace Sys2Proof.Machine

/-- The units of a clause in the stream of code: the address of the first that is a clause header, and
the address after the last (R28 step 2). -/
def State.scanUnits (s : State) (asid core : Nat) : Nat → Word → Option Word × Word
  | 0, a => (none, a)
  | n + 1, a =>
      let u := s.fetch asid core a.toNat
      let r := s.scanUnits asid core n (a + BitVec.ofNat 64 u.len)
      if u.isHeader then (some a, r.2) else r

/-- A flag that SETA or SETB names. -/
def flagOf (x : BitVec 4) : Option Nat := if x = 15 then none else some x.toNat

/-- Apply a clause header in a troupe (R28, R38). -/
def headerRun (h : Header) (t : Troupe) (s : State) : State :=
  if t.left != 0 || !h.ok then s.scalarFault t { cause := .illop }
  else if h.wait &&& t.wflags != 0 then s.blockScalar t.id (.flags h.wait)
  else
    match (if h.z = 1 then t.scalarHolds [128] else []) with
    | r :: rs => s.blockScalar t.id (.hold (r :: rs))
    | [] =>
        if h.z = 1 && t.readsBad [128] then s.scalarFault t { cause := .regerr, grade := t.gradeOf [128] }
        else
          let mile := h.mile == 1
          let asid := s.asidOf t.id.ring
          let core := (s.ring t.id.ring).core
          let scan := s.scanUnits asid core (h.len.toNat + 1) (t.pc + 4)
          if h.z = 1 && t.k0 == 0 then
            (s.setTroupe { t with clause := t.pc, left := 1, mile := mile }).endInstr t.id scan.2
          else
            match scan.1 with
            | some inner =>
                let t1 := { t with clause := t.pc, pc := inner, left := 1, mile := mile }
                (s.setTroupe t1).scalarFault t1 { cause := .illop }
            | none =>
                (s.setTroupe { t with clause := t.pc, pc := t.pc + 4, left := h.len.toNat + 1,
                                      code := s.codeLines asid core t.pc.toNat scan.2.toNat,
                                      seta := flagOf h.seta, setb := flagOf h.setb, named := 0,
                                      mile := mile, wait := none }).settle t.id

/-- Apply a clause header in a matrix stream (R28, R179). -/
def streamHeader (h : Header) (ring : Nat) (st : Stream) (s : State) : State :=
  if st.left != 0 || !h.okStream then s.stopStream ring mxIllop 0
  else
    let asid := s.asidOf ring
    let core := (s.ring ring).core
    let scan := s.scanUnits asid core (h.len.toNat + 1) (st.pc + 4)
    match scan.1 with
    | some inner =>
        (s.modStream ring fun st => { st with pc := inner, left := 1 }).stopStream ring mxIllop 0
    | none =>
        s.modStream ring fun st =>
          { st with pc := st.pc + 4, left := h.len.toNat + 1,
                    code := s.codeLines asid core st.pc.toNat scan.2.toNat, mile := h.mile == 1, state := 2,
                    wait := none }

/-- A clause header (R38, R179). -/
def execClauseHeader (h : Header) (s : State) : Out :=
  match s.cur with
  | .scalar id =>
      match s.troupe? id with
      | some t => .next (headerRun h t s)
      | none => .fault .noAgent
  | .stream ring =>
      match s.stream? ring with
      | some st => .next (streamHeader h ring st s)
      | none => .fault .noAgent
  | _ => .fault .noAgent

/-- nop, in a troupe and in a stream (R45, R95). -/
def execNop (f : Fields) (s : State) : Out :=
  match s.cur with
  | .stream _ => streamInstr (.nop f) f s fun _ s => .done s
  | _ => scalarInstr (.nop f) s fun _ s => .done s

/-- A request to every slice, at the port of the requester's die (R289, R300). -/
def State.toSlices (s : State) (die : Nat) (r : TReq) : State :=
  { s with slices := s.slices.map fun c => { c with ports := upd c.ports die fun l => l ++ [r] } }

/-- A troupe ends: its parked tuple requests are cancelled, it counts as arrived where n = 0 counts,
and its retirement is awaited (R21, R173).  The cancellation has a number of its own among the troupe's
instructions at the slices' ports (R289). -/
def State.beginEnd (s : State) (t : Troupe) : State :=
  let s1 := (s.setTroupe { t with ending := true }).modRing t.id.ring fun r =>
    { r with nbs := r.nbs.map fun b => b.leave t.id.idx, bts := r.bts.map fun b => b.leave t.id.idx }
  let s2 := s1.treeCheck (s1.ring t.id.ring).nb
  s2.toSlices (s2.dieOf t.id.ring)
    { kind := .cancel, t := t.id, op := t.nextOp, asid := s2.asidOf t.id.ring, lanes := allLanes }

/-- done (R21). -/
def execDone (f : Fields) (s : State) : Out :=
  scalarInstr (.done f) s fun t s =>
    if t.vq.isEmpty then .done (s.beginEnd t) else .wait .drain s

end Sys2Proof.Machine
end

