-- ==== Sys2Proof/Machine/Image.lean ====
section
/-! DEFINITION. The save record of a neighbourhood, byte by byte (spec/16_faults_and_preemption.md
R363-R369, spec/04_registers.md R93, spec/08_matrix_engine.md R207, spec/09_sampled_products.md R222,
spec/14_solver_sequencer.md R316, spec/15_issue_and_launch.md R338) and its seal
(spec/17_grades_and_keys.md R383). -/

namespace Sys2Proof.Machine

/-! ### Pieces -/

/-- Bytes padded with zeros to a multiple of 64. -/
def pad64 (l : List Byte) : List Byte := l ++ zeroBytes ((64 - l.length % 64) % 64)

/-- A value of 8 bytes. -/
def dword (w : Word) : List Byte := leBytes w.toNat 8

/-- The internal word of an instruction, bits [95:88] first; zero for none (R39, R207). -/
def internalWord (i : Instr) : List Byte :=
  match i.row, i.fields with
  | some r, some f => beBytes 12 (r.op * 2 ^ 88 + f.toNat)
  | _, _ => zeroBytes 12

/-- Place parts one after another from an offset, each at a multiple of 64: the offset of each, 0 for
one that is absent, and the bytes. -/
def placeParts : Nat → List (List Byte) → List Nat × List Byte
  | _, [] => ([], [])
  | at_, p :: ps =>
      if p.isEmpty then
        let r := placeParts at_ ps
        (0 :: r.1, r.2)
      else
        let b := pad64 p
        let r := placeParts (at_ + b.length) ps
        (at_ :: r.1, b ++ r.2)

/-! ### A troupe (R93, R366-R368) -/

/-- A vector register in the image: 4, 8 or 256 bytes (R93). -/
def shapeBytes : Shape → List Byte
  | .uniform u => leBytes u.toNat 4
  | .affine b st => leBytes b.toNat 4 ++ leBytes st.toNat 4
  | .general l => (List.range 64).flatMap fun i => leBytes (nth l i 0).toNat 4

/-- The grades of a list of values, one byte each. -/
def gradeBytes (l : List GW) : List Byte := l.flatMap fun x => leBytes x.g 1

/-- The values of a list, 8 bytes each. -/
def valueBytes (l : List GW) : List Byte := l.flatMap fun x => dword x.v

/-- The register image (R93). -/
def registerImage (t : Troupe) (g : Nat) : List Byte :=
  valueBytes t.s ++ valueBytes t.k ++ gradeBytes t.s ++ gradeBytes t.k
    ++ t.v.flatMap (fun r => leBytes r.g 1) ++ t.w.flatMap (fun n => leBytes n 1) ++ zeroBytes 4
    ++ t.ac.flatMap (fun n => leBytes n 2) ++ dword t.utag.v ++ leBytes t.utag.g 1
    ++ leBytes t.down.length 1 ++ leBytes t.up.length 1 ++ leBytes g 1 ++ zeroBytes 4
    ++ padTo 128 (valueBytes t.down) ++ padTo 128 (valueBytes t.up)
    ++ padTo 16 (gradeBytes t.down) ++ padTo 16 (gradeBytes t.up)
    ++ t.v.flatMap (fun r => leBytes r.sh.code 1) ++ t.v.flatMap fun r => shapeBytes r.sh

/-- A lane record of the operand log (R367). -/
def laneImage (tuple : Bool) (l : LaneRec) : List Byte :=
  padTo 64 (if tuple then l.vals.flatMap fun x => leBytes x.toNat 4
    else dword l.addr ++ dword l.data ++ leBytes l.dold.toNat 4)

/-- STATE of a log entry: 1 in flight, 2 parked, 3 faulted, 4 re-issue at restore, 5 drop at restore
(R367). -/
def Op.logState (o : Op) : Nat :=
  if o.lanes.any fun l => l.st == .redo then 4
  else if o.lanes.any fun l => l.st == .dropped then 5
  else if o.lanes.any fun l => match l.st with | .faulted .. => true | _ => false then 3
  else if o.lanes.any fun l => l.st == .parked || l.st == .behind then 2
  else 1

/-- FSEQ of the pending record of an operation, 0 for none. -/
def Op.logFseq (o : Op) : Nat :=
  maxOf (o.lanes.map fun l => match l.st with | .faulted _ _ (some n) => n | _ => 0)

/-- An operand-log entry (R367). -/
def logImage (o : Op) : List Byte :=
  let tuple := match o.instr with | .tdep _ => true | .tread _ => true | .ttake _ => true | _ => false
  internalWord o.instr ++ leBytes o.logState 1 ++ leBytes o.grade 1 ++ zeroBytes 2
    ++ dword (maskOf ((o.lanes.filter fun l => l.st != .done).map (·.lane))) ++ dword o.cap.k0
    ++ dword o.cap.a.v ++ dword o.cap.b.v ++ dword o.cap.c.v ++ leBytes o.logFseq 4 ++ zeroBytes 4
    ++ (List.range 64).flatMap fun i =>
        match o.lanes.find? fun l => l.lane == i with
        | some l => laneImage tuple l
        | none => zeroBytes 64

/-- Entry n of the operand log; zeros when it is free. -/
def logSlot (t : Troupe) (n : Nat) : List Byte :=
  match t.ops.find? fun o => o.slot == some n with
  | some o => logImage o
  | none => zeroBytes 4160

/-- A dispatched instruction (R368). -/
def entryImage (e : VEntry) : List Byte :=
  internalWord e.instr ++ gradeBytes [e.cap.a, e.cap.b, e.cap.c] ++ zeroBytes 1
    ++ valueBytes [e.cap.a, e.cap.b, e.cap.c] ++ dword e.iaddr

/-- A troupe image (R366). -/
def troupeImage (t : Troupe) (g : Nat) : List Byte :=
  dword (if t.left = 0 then t.pc else t.clause) ++ dword t.pc ++ leBytes t.id.idx 1
    ++ leBytes (t.named + if t.stopped.isEmpty then 0 else 4) 1 ++ leBytes t.sticky.toNat 1
    ++ leBytes t.vq.length 1
    ++ leBytes ((List.range 8).foldl (fun m n =>
        if t.ops.any fun o => o.slot == some n then m + 2 ^ n else m) 0) 1
    ++ zeroBytes 3 ++ dword t.defl ++ leBytes t.miles 4 ++ zeroBytes 28
    ++ (List.range 8).flatMap (logSlot t)
    ++ padTo 768 (t.vq.flatMap entryImage) ++ pad64 (registerImage t g)

/-! ### A ring (R365) -/

/-- A numbered barrier, or a tree barrier's part (R365). -/
def nbImage (b : NB) : List Byte :=
  leBytes (b.phase % 2 ^ 16 + b.count * 2 ^ 16 + b.fixed.toNat * 2 ^ 22 + b.arrived * 2 ^ 24
    + (maskOf b.mask).toNat % 2 ^ 32 * 2 ^ 32) 8

/-- A run of a bank (R207). -/
def runImage (r : Run) : List Byte :=
  let els := (List.range 16).map fun j => nth r.els j {}
  let code := fun (c : ElCls) => match c with | .fin => 0 | .pinf => 1 | .ninf => 2 | .nan => 3
  els.flatMap (fun e => leBytes (e.m % 2 ^ 40).toNat 5)
    ++ leBytes ((List.range 16).foldl (fun w j => w + code (nth els j {}).cls * 4 ^ j) 0) 4
    ++ leBytes ((List.range 16).foldl (fun w j => w + (nth els j {}).z.toNat * 2 ^ j) 0) 2
    ++ leBytes r.x 1 ++ zeroBytes 9

/-- A bank image (R207). -/
def bankImage (b : Bank) : List Byte := (List.range 1024).flatMap fun i => runImage (nth b i {})

/-- A stream holds its banks: with its contexts, or as an image to be loaded with them again (R206). -/
def Stream.holdsBanks (st : Stream) : Bool := st.state != 0 && st.state != 4 && (st.ctx || st.loaded)

/-- The stream image (R207). `word` is the internal word of the stopped operation. -/
def streamImage (st : Stream) (word : List Byte) : List Byte :=
  dword st.start ++ dword st.pc ++ valueBytes st.m ++ st.t.flatMap dword
    ++ padTo 32 (st.loops.flatMap fun n => leBytes n 8) ++ leBytes st.loops.length 1
    ++ leBytes (st.state + st.two.toNat * 8 + st.smp.toNat * 16 + (st.implicit != 0).toNat * 32) 1
    ++ leBytes st.flags.toNat 1 ++ zeroBytes 1 ++ leBytes st.row.toNat 4 ++ gradeBytes st.m
    ++ leBytes st.ga 1 ++ leBytes st.gb 1 ++ zeroBytes 14 ++ word ++ zeroBytes 36
    ++ (if st.holdsBanks then bankImage st.za ++ (if st.two then bankImage st.zb else []) else [])

/-- The sampling image (R222). -/
def samplingImage (r : Ring) (au : Option AliasUnit) : List Byte :=
  let u := au.getD {}
  leBytes u.k 4 ++ leBytes u.s.toNat 4 ++ dword r.smpstat ++ dword r.svar ++ leBytes u.g 1 ++ zeroBytes 7
    ++ u.ents.flatMap fun e => leBytes e.pr 2 ++ leBytes e.al 2 ++ leBytes e.rho.toNat 4

/-- The solver image (R316). -/
def solverImage (v : Solver) : List Byte :=
  dword v.daddr ++ leBytes v.state 1 ++ leBytes v.err 1 ++ leBytes v.flags.toNat 1 ++ leBytes v.grade 1
    ++ leBytes v.tab.isSome.toNat 1 ++ zeroBytes 3 ++ leBytes (if v.claimed then leNat (v.desc.take 4) else 0) 4 ++ zeroBytes 12
    ++ padTo 128 v.desc ++ padTo 384 (v.tab.getD [])
    ++ padTo 192 (v.queue.flatMap fun o => internalWord o.instr) ++ leBytes v.queue.length 1 ++ zeroBytes 31

/-- The spawn image: 8 entries in bin order (R338). -/
def spawnImage (bins : List (Option (Word × List SRec × Nat))) : List Byte :=
  bins.flatMap fun b =>
    match b with
    | some (entry, recs, left) =>
        dword entry ++ leBytes recs.length 1 ++ zeroBytes 3 ++ leBytes left 4
          ++ recs.flatMap fun r => (List.range 4).flatMap (fun i => leBytes (nth r.p i 0).toNat 4)
              ++ leBytes r.g 1 ++ zeroBytes 7
    | none => zeroBytes 16

/-- An entry of the copy image (R365). -/
def copyImage (c : Nat × CopyEnt) : List Byte :=
  let e := c.2
  internalWord e.instr ++ leBytes (c.1 % 2 + (e.started || e.again).toNat * 2) 1 ++ leBytes e.troupe 1 ++ zeroBytes 2
    ++ leBytes e.landed 4 ++ zeroBytes 4 ++ valueBytes [e.cap.a, e.cap.b, e.cap.c]
    ++ padTo 28 ((e.cap.more.take 7).flatMap fun x => leBytes x.v.toNat 4) ++ zeroBytes 4

/-- The copy image (R365). -/
def copiesImage (l : List (Nat × CopyEnt)) : List Byte :=
  leBytes l.length 4 ++ zeroBytes 12 ++ l.flatMap copyImage

/-- The bytes of a ring's scratchpad allocation. -/
def SavedRing.spadBytes (r : SavedRing) : List Byte := cellReadN r.spad 0 r.ring.spLen

/-- The grade bytes of a ring's scratchpad lines (R365). -/
def SavedRing.gradeImage (r : SavedRing) : List Byte :=
  (List.range (r.ring.spLen / 128)).flatMap fun i =>
    leBytes (match r.spgr.find? fun e => e.1 == i with | some e => e.2 | none => 0) 1

/-- The sub-images of a ring record in the order of the offset table, the troupes after them. -/
def SavedRing.parts (r : SavedRing) : List (List Byte) :=
  let v := r.ring.solver
  [r.spadBytes, r.gradeImage,
   (match r.ring.stream with | some st => streamImage st r.word | none => []),
   samplingImage r.ring r.au,
   (if v.state = 0 && v.tab.isNone && v.queue.isEmpty then [] else solverImage v),
   (if r.bins.all (·.isNone) then [] else spawnImage r.bins),
   (if r.copies.isEmpty then [] else copiesImage r.copies)]
    ++ (List.range 32).map fun i =>
        match r.troupes.find? fun t => t.id.idx == i with
        | some t => troupeImage t r.ring.vgen
        | none => []

/-- The header of a ring record, with the offsets of its parts (R365). -/
def ringHeader (r : SavedRing) (at_ : List Nat) : List Byte :=
  let x := r.ring
  let offs := fun (l : List Nat) => l.flatMap fun n => leBytes n 4
  leBytes x.ridx 1 ++ leBytes r.troupes.length 1
    ++ leBytes (x.stream.isSome.toNat + r.au.isSome.toNat * 2 + x.solver.claimed.toNat * 4) 1
    ++ leBytes (x.grants.foldl (fun m c => m ||| 2 ^ c) 0) 1 ++ leBytes x.spLen 4 ++ leBytes x.miles 4
    ++ leBytes x.binN 4 ++ dword x.tagmap ++ dword x.tagerr ++ x.tagcnt.flatMap (fun n => leBytes n 1)
    ++ x.nbs.flatMap nbImage ++ x.bts.flatMap nbImage ++ offs (at_.take 7) ++ zeroBytes 4
    ++ offs (at_.drop 7) ++ zeroBytes 96

/-- A ring record (R365); its offsets count from its own first byte (log entry 50). -/
def ringImage (r : SavedRing) : List Byte :=
  let p := placeParts 0x200 r.parts
  ringHeader r p.1 ++ p.2

/-! ### The mailbox and the record (R364, R369) -/

/-- A mailbox entry (R369). -/
def mailImage (m : Mail) : List Byte :=
  leBytes m.kind 1 ++ leBytes m.ridx 1 ++ leBytes m.tidx 1 ++ leBytes m.lane 1 ++ leBytes m.info 4
    ++ dword m.info2 ++ padTo 64 (m.words.flatMap fun w => leBytes w.toNat 4) ++ leBytes m.g 1 ++ zeroBytes 15

/-- The record of a saved neighbourhood, its TAG zero and nothing encrypted (R364). -/
def State.plainRecord (s : State) (v : Saved) : List Byte :=
  let l := s.launch v.nb.launch
  let lr := l.lr
  let c := v.nb.n
  let rings := (List.range 24).map fun i =>
    match v.rings.find? fun r => r.ring.ridx == i with
    | some r => ringImage r
    | none => []
  let p := placeParts 0x200 rings
  let mailAt := 0x200 + p.2.length
  let total := mailAt + 96 * v.mail.length
  leBytes lr.seq 4 ++ leBytes l.queue 2 ++ leBytes lr.w 1 ++ leBytes lr.h 1 ++ leBytes (c % lr.gx) 4
    ++ leBytes (c / lr.gx % lr.gy) 4 ++ leBytes (c / lr.gx / lr.gy) 4 ++ leBytes (c % 2 ^ 32) 4
    ++ leBytes v.ctr 8 ++ leBytes total 8 ++ leBytes v.nb.die 1 ++ zeroBytes 7 ++ zeroBytes 16
    ++ p.1.flatMap (fun n => leBytes n 4) ++ leBytes mailAt 4 ++ leBytes v.mail.length 4 ++ zeroBytes 88
    ++ padTo 256 (lr.raw.take 256) ++ p.2 ++ v.mail.flatMap mailImage

/-- The IV of a record's seal: SAVECTR, then n (R383). -/
def sealIv (ctr n : Nat) : List Byte := beBytes 8 ctr ++ beBytes 4 n

/-- The associated data of a record's seal: its first 64 bytes with TAG zero (R383). -/
def sealAad (b : List Byte) : List Byte := b.take 0x30 ++ zeroBytes 16

/-- The seal of a protected context's record: the bytes from 0x40 encrypted under AES-256-GCM and TAG set
(R383). -/
def sealRecord (key : List Byte) (ctr n : Nat) (b : List Byte) : List Byte :=
  let body := gcmCrypt key (sealIv ctr n) (b.drop 0x40)
  b.take 0x30 ++ gcmTag key (sealIv ctr n) (sealAad b) body ++ body

/-- The save key of a context, 32 bytes; all zero once it is destroyed. -/
def Ctx.saveKey (c : Ctx) : List Byte :=
  match c.key with
  | some n => padTo 32 ((Config.saveKey n).take 32)
  | none => zeroBytes 32

/-- The record of a saved neighbourhood as it lies in memory (R364, R383). -/
def State.saveRecord (s : State) (v : Saved) : List Byte :=
  let c := s.ctx (s.launch v.nb.launch).asid
  let b := s.plainRecord v
  if c.prot then sealRecord c.saveKey v.ctr v.nb.n b else b

/-- Write the record of a saved neighbourhood to its place. -/
def State.putRecord (s : State) (v : Saved) : State :=
  let b := s.saveRecord v
  { s with mem := cellWriteN s.mem v.addr b,
           saved := updWhere s.saved (fun x => x.nb.id == v.nb.id) fun x => { x with len := b.length } }

end Sys2Proof.Machine
end

