-- ==== Sys2Proof/Machine/Reload.lean ====
section
/-! DEFINITION. Reading a save record back: its checks and the values it gives the rings and troupes of a saved
neighbourhood (spec/16_faults_and_preemption.md R364-R370, spec/04_registers.md R93, spec/08_matrix_engine.md
R207, spec/09_sampled_products.md R222, spec/14_solver_sequencer.md R316, spec/15_issue_and_launch.md R338,
spec/17_grades_and_keys.md R384; log entry 133). -/

namespace Sys2Proof.Machine

/-! ### Fields -/

/-- The doubleword at an offset. -/
def wordAt (b : List Byte) (o : Nat) : Word := BitVec.ofNat 64 (fieldAt b o 8)

/-- The k fields of n bytes each from an offset. -/
def fieldsAt (b : List Byte) (o n k : Nat) : List Nat := (pieces n ((b.drop o).take (n * k))).map leNat

/-- The k words of 4 bytes from an offset. -/
def lanesAt (b : List Byte) (o k : Nat) : List Lane := (fieldsAt b o 4 k).map (BitVec.ofNat 32)

/-- k doublewords from an offset with the grades, one byte each, from another. -/
def gwsAt (b : List Byte) (o g k : Nat) : List GW :=
  ((fieldsAt b o 8 k).zip (fieldsAt b g 1 k)).map fun x => { v := BitVec.ofNat 64 x.1, g := x.2 % 8 }

/-- The numbers below n whose bits are set. -/
def setBits (w n : Nat) : List Nat := (List.range n).filter fun i => w.testBit i

/-- Bytes that the layout calls zero. -/
def zerosAt (b : List Byte) (o n : Nat) : Bool := ((b.drop o).take n).all (· == 0)

/-- Bytes of which only the values below m are used, the bits above being zero. -/
def belowAt (b : List Byte) (o n m : Nat) : Bool := (fieldsAt b o 1 n).all (· < m)

/-- The instruction that an internal word stands for (R39). -/
def instrOf (b : List Byte) : Option Instr :=
  match decodeF (beNat (b.take 12)) with
  | .ok i _ => some i
  | .bad .. => none

/-- The instruction of an image: the one at hand where the word is still its own, else the one that the word
stands for. -/
def instrAt (b : List Byte) (old : Option Instr) : Option Instr :=
  match old with
  | some i => if b.take 12 = internalWord i then some i else instrOf b
  | none => instrOf b

/-! ### A troupe (R93, R366-R368) -/

/-- Vector registers, from their shape codes and grades and the bytes of their lanes (R93). -/
def loadShapes : List (Nat × Nat) → List Byte → List VReg
  | [], _ => []
  | (c, g) :: rest, b =>
      if c = 2 then { sh := .general (lanesAt b 0 64), g := g } :: loadShapes rest (b.drop 256)
      else if c = 1 then
        { sh := .affine (BitVec.ofNat 32 (fieldAt b 0 4)) (BitVec.ofNat 32 (fieldAt b 4 4)), g := g }
          :: loadShapes rest (b.drop 8)
      else { sh := .uniform (BitVec.ofNat 32 (fieldAt b 0 4)), g := g } :: loadShapes rest (b.drop 4)

/-- A troupe with the registers of a register image (R93). -/
def Troupe.loadRegisters (b : List Byte) (t : Troupe) : Troupe :=
  { t with
    s := gwsAt b 0 0x700 128, k := gwsAt b 0x400 0x780 96,
    v := loadShapes ((fieldsAt b 0x980 1 64).zip ((fieldsAt b 0x7E0 1 64).map (· % 8))) (b.drop 0x9C0),
    w := (fieldsAt b 0x820 1 12).map (· % 64), ac := (fieldsAt b 0x830 2 16).map (· % 4096),
    utag := { v := wordAt b 0x850, g := fieldAt b 0x858 1 % 8 },
    down := (gwsAt b 0x860 0x960 16).take (fieldAt b 0x859 1),
    up := (gwsAt b 0x8E0 0x970 16).take (fieldAt b 0x85A 1) }

/-- A register image breaks no condition of R93, under the budget g of its ring. -/
def registersOk (b : List Byte) (g : Nat) : Bool :=
  belowAt b 0x700 224 8 && belowAt b 0x7E0 64 8 && belowAt b 0x820 12 64 && zerosAt b 0x82C 4
    && (fieldsAt b 0x830 2 16).all (· < 4096) && belowAt b 0x858 1 8 && zerosAt b 0x85C 4 && belowAt b 0x980 64 3
    && ((fieldsAt b 0x980 1 64).filter (· == 2)).length ≤ g

/-- Captured operands with the values of an image. -/
def Cap.loaded (c : Cap) (b : List Byte) (o : Nat) : Cap :=
  { c with a := { c.a with v := wordAt b o }, b := { c.b with v := wordAt b (o + 8) },
           c := { c.c with v := wordAt b (o + 16) } }

/-- The lanes of an instruction's log entry hold tags and values (R367). -/
def tupleEntry : Instr → Bool
  | .tdep _ => true
  | .tread _ => true
  | .ttake _ => true
  | _ => false

/-- Where an outstanding lane stands, by STATE and FSEQ of its entry (R367). -/
def laneStateOf (state fseq : Nat) : LaneSt :=
  if state = 2 then .parked
  else if state = 3 then .faulted .page 0 (if fseq = 0 then none else some fseq)
  else if state = 4 then .redo
  else if state = 5 then .dropped
  else .waiting

/-- A lane with the values of its record (R367). -/
def LaneRec.loaded (tuple : Bool) (x : List Byte) (l : LaneRec) : LaneRec :=
  if tuple then { l with vals := lanesAt x 0 (if l.vals.isEmpty then 15 else l.vals.length) }
  else { l with addr := wordAt x 0, data := wordAt x 8, dold := BitVec.ofNat 32 (fieldAt x 16 4) }

/-- The lanes of a log entry (R367): with STATE and FSEQ as they were, a lane stands where it stood, and
otherwise where they say. -/
def Op.loadLanes (b : List Byte) (o : Op) : List LaneRec :=
  let state := fieldAt b 0x0C 1
  let fseq := fieldAt b 0x38 4
  let same := state == o.logState && fseq == o.logFseq
  (List.range 64).filterMap fun i =>
    let old := o.lanes.find? fun l => l.lane == i
    let x := b.drop (0x40 + 64 * i)
    let put := fun (l : LaneRec) => l.loaded (tupleEntry o.instr) x
    if (fieldAt b 0x10 8).testBit i then
      match old with
      | some l => some (put { l with st := if same && l.st != .done then l.st else laneStateOf state fseq })
      | none => some (put { lane := i, addr := wordAt b 0x20, st := laneStateOf state fseq })
    else old.map fun l => put { l with st := .done }

/-- The operation of entry n of an operand log (R367); none when the entry is free, or when its word stands for no
instruction (log entry 133). -/
def Op.loaded (b : List Byte) (n id : Nat) (old : Option Op) : Option Op :=
  if fieldAt b 0x0C 1 = 0 then none
  else
    (instrAt b (old.map (·.instr))).map fun i =>
      let o : Op := { (old.getD { id := id, instr := i, slot := some n, held := false }) with instr := i }
      { o with
        grade := fieldAt b 0x0D 1 % 8, cap := { o.cap.loaded b 0x20 with k0 := wordAt b 0x18 },
        lanes := o.loadLanes b }

/-- A log entry holds no reserved byte that is not zero (R367). -/
def logOk (b : List Byte) : Bool :=
  belowAt b 0x0D 1 8 && zerosAt b 0x0E 2 && zerosAt b 0x3C 4
    && (fieldAt b 0x0C 1 == 0
        || match instrOf b with
           | none => true
           | some i =>
               (List.range 64).all fun l =>
                 if tupleEntry i then zerosAt b (0x40 + 64 * l + 60) 4 else zerosAt b (0x40 + 64 * l + 20) 44)

/-- The entries of an operand log in use: bit per entry (R366). -/
def loadLog (b : List Byte) (t : Troupe) : List Op :=
  let used := fieldAt b 0x14 1
  let entry := fun (n : Nat) => (b.drop (0x40 + 4160 * n)).take 4160
  let kept := t.ops.filterMap fun o =>
    match o.slot with
    | some n => if used.testBit n then Op.loaded (entry n) n o.id (some o) else none
    | none => some o
  kept ++ ((List.range 8).filter fun n => used.testBit n && !t.ops.any fun o => o.slot == some n).filterMap fun n =>
    Op.loaded (entry n) n (t.nextOp + n) none

/-- A dispatched instruction with the values of its image (R368). -/
def VEntry.loaded (b : List Byte) (old : Option VEntry) : Option VEntry :=
  (instrAt b (old.map (·.instr))).map fun i =>
    let e : VEntry := { (old.getD { instr := i }) with instr := i }
    let c := e.cap.loaded b 16
    let g := fun (o : Nat) => fieldAt b o 1 % 8
    { e with iaddr := wordAt b 40,
             cap := { c with a := { c.a with g := g 12 }, b := { c.b with g := g 13 }, c := { c.c with g := g 14 } } }

/-- The dispatched instructions of a troupe image (R366, R368). -/
def loadDispatched (b : List Byte) (old : List VEntry) : List VEntry :=
  (((pieces 48 ((b.drop 0x8240).take 768)).take (fieldAt b 0x13 1)).zipIdx).filterMap fun x =>
    VEntry.loaded x.1 old[x.2]?

/-- The records on which a loaded troupe is stopped (R366): those it was stopped on, or one that no handler can
name where the image alone says STOPPED (log entry 133). -/
def loadStopped (b : List Byte) (old : List Nat) : List Nat :=
  if (fieldAt b 0x11 1).testBit 2 then (if old.isEmpty then [0] else old) else []

/-- A troupe image breaks no condition of R93 and holds no reserved byte that is not zero (R366-R368). -/
def troupeOk (b : List Byte) (g : Nat) : Bool :=
  belowAt b 0x11 1 8 && belowAt b 0x12 1 16 && zerosAt b 0x15 3 && zerosAt b 0x24 28
    && ((List.range 8).all fun n => logOk ((b.drop (0x40 + 4160 * n)).take 4160))
    && ((List.range 16).all fun n => zerosAt b (0x8240 + 48 * n + 15) 1)
    && registersOk (b.drop 0x8540) g

/-- How many instructions of a clause are left at an address, from n at another. -/
def State.unitsTo (s : State) (asid core : Nat) (next : Word) : Nat → Word → Option Nat
  | 0, _ => none
  | n + 1, a =>
      if a = next then some (n + 1)
      else s.unitsTo asid core next n (a + BitVec.ofNat 64 (s.fetch asid core a.toNat).len)

/-- A troupe at the place in the code that an image gives: CLAUSE and NEXT (R366). -/
def State.loadPlace (s : State) (asid core : Nat) (clause next : Word) (t : Troupe) : Troupe :=
  if next = t.pc && clause = (if t.left = 0 then t.pc else t.clause) then t
  else
    let moved : Troupe := { t with clause := clause, pc := next, left := 0, wait := none }
    match s.fetch asid core clause.toNat with
    | .unit_ (.ok (.clauseHeader h) _) =>
        match s.unitsTo asid core next (h.len.toNat + 1) (clause + 4) with
        | some n =>
            { moved with left := n, seta := flagOf h.seta, setb := flagOf h.setb, mile := h.mile == 1 }
        | none => moved
    | _ => moved

/-- A troupe with the values of its image (R366). -/
def State.loadTroupe (s : State) (asid core : Nat) (b : List Byte) (t : Troupe) : Troupe :=
  let t1 := (s.loadPlace asid core (wordAt b 0) (wordAt b 8) t).loadRegisters (b.drop 0x8540)
  { t1 with
    named := fieldAt b 0x11 1 % 4, sticky := BitVec.ofNat 4 (fieldAt b 0x12 1), defl := wordAt b 0x18,
    miles := fieldAt b 0x20 4, stopped := loadStopped b t.stopped,
    ops := loadLog b t, nextOp := maxOf (t.nextOp :: (loadLog b t).map fun o => o.id + 1), vq := loadDispatched b t.vq }

/-- The troupes of a ring record: those whose images it holds (R365). -/
def State.loadTroupes (s : State) (asid : Nat) (x : Ring) (b : List Byte) (old : List Troupe) : List Troupe :=
  (List.range 32).filterMap fun i =>
    let o := fieldAt b (0x120 + 4 * i) 4
    if o = 0 then none
    else
      let t := (old.find? fun t => t.id.idx == i).getD { id := ⟨x.id, i⟩ }
      some (s.loadTroupe asid x.core (b.drop o) t)

/-! ### The parts of a ring (R207, R222, R316, R338, R365) -/

/-- A numbered barrier with the values of its image (R365). -/
def NB.loaded (b : NB) (w : Nat) : NB :=
  { b with
    phase := b.phase - b.phase % 2 ^ 16 + w % 2 ^ 16, count := w / 2 ^ 16 % 2 ^ 6, fixed := w.testBit 22,
    arrived := w / 2 ^ 24 % 2 ^ 6, mask := setBits (w / 2 ^ 32) 32 }

/-- The bits of a barrier's image that are zero (R365). -/
def nbOk (w : Nat) : Bool := !w.testBit 23 && bitsOf w 31 30 == 0

/-- A run of a bank (R207). -/
def loadRun (b : List Byte) : Run :=
  let cls := fieldAt b 80 4
  let z := fieldAt b 84 2
  { x := fieldAt b 86 1,
    els := (fieldsAt b 0 5 16).zipIdx.map fun y =>
      { m := if y.1 < 2 ^ 39 then (y.1 : Int) else (y.1 : Int) - 2 ^ 40,
        cls := nth [ElCls.fin, .pinf, .ninf, .nan] (cls / 4 ^ y.2 % 4) .fin, z := z.testBit y.2 } }

/-- A bank (R207). -/
def loadBank (b : List Byte) : Bank := (pieces 96 (b.take 98304)).map loadRun

/-- The banks that a stream's image holds: za, then zb (R207). -/
def Stream.imageBanks (st : Stream) : Nat := if st.holdsBanks then 1 + st.two.toNat else 0

/-- A stream with the values of its image (R207).  Its banks are those that it was saved with. -/
def Stream.imageLoaded (st : Stream) (b : List Byte) : Stream :=
  let w := fieldAt b 0xB1 1
  let two := w.testBit 3
  let smp := w.testBit 4
  { st with
    start := wordAt b 0, pc := wordAt b 8, m := gwsAt b 0x10 0xB8 8,
    t := (fieldsAt b 0x50 8 8).map (BitVec.ofNat 64),
    loops := ((fieldsAt b 0x90 8 4).map (· % 2 ^ 21)).take (fieldAt b 0xB0 1),
    state := w % 8, two := two, smp := smp,
    implicit := if !w.testBit 5 then 0 else if st.implicit = 0 then streamClass two smp else st.implicit,
    flags := BitVec.ofNat 4 (fieldAt b 0xB2 1), row := BitVec.ofNat 32 (fieldAt b 0xB4 4),
    ga := fieldAt b 0xC0 1 % 8, gb := fieldAt b 0xC1 1 % 8,
    za := if 1 ≤ st.imageBanks then loadBank (b.drop 0x100) else st.za,
    zb := if 2 ≤ st.imageBanks then loadBank (b.drop 98560) else st.zb }

/-- A stream image holds no reserved byte that is not zero (R207); an m of five bytes is always in its range. -/
def streamOk (b : List Byte) (banks : Nat) : Bool :=
  (fieldsAt b 0x90 8 4).all (· < 2 ^ 21) && belowAt b 0xB1 1 64 && belowAt b 0xB2 1 16 && zerosAt b 0xB3 1
    && belowAt b 0xB8 8 8 && zerosAt b 0xC2 14 && zerosAt b 0xDC 36
    && (pieces 96 ((b.drop 0x100).take (98304 * banks))).all fun r => zerosAt r 87 9

/-- The alias unit of a sampling image, for the ring that held one (R222). -/
def AliasUnit.loaded (u : AliasUnit) (b : List Byte) : AliasUnit :=
  let k := fieldAt b 0 4
  let s : Lane := BitVec.ofNat 32 (fieldAt b 4 4)
  { u with
    k := k, s := s, g := fieldAt b 0x18 1 % 8, zero := s == 0,
    ents := (pieces 8 ((b.drop 0x20).take (8 * k))).map fun e =>
      { pr := fieldAt e 0 2, al := fieldAt e 2 2, rho := BitVec.ofNat 32 (fieldAt e 4 4) } }

/-- A sampling image breaks no condition of R222. -/
def samplingOk (b : List Byte) (held : Bool) : Bool :=
  let k := fieldAt b 0 4
  belowAt b 0x18 1 8 && zerosAt b 0x19 7 && k ≤ 65536
    && (!held || (pieces 8 ((b.drop 0x20).take (8 * k))).all fun e => fieldAt e 2 2 < k)

/-- The queue of a solver image; a word that stands for no instruction is left out (R316; log entry 133). -/
def loadSolvQueue (ring : Nat) (b : List Byte) (old : List SolvOp) : List SolvOp :=
  (((pieces 12 ((b.drop 0x220).take 192)).take (fieldAt b 0x2E0 1)).zipIdx).filterMap fun x =>
    let o := old[x.2]?
    (instrAt x.1 (o.map (·.instr))).map fun i =>
      { (o.getD { instr := i, by_ := ⟨ring, 0⟩ }) with instr := i }

/-- Solver state with the values of its image (R316).  The samples themselves are read again from their records. -/
def Solver.loaded (ring : Nat) (held : Bool) (v : Solver) (b : List Byte) : Solver :=
  let n := fieldAt b 0x10 4
  let n0 := if v.claimed then leNat (v.desc.take 4) else 0
  let blank : Sample := {}
  { v with
    daddr := wordAt b 0, state := fieldAt b 8 1, err := fieldAt b 9 1, flags := BitVec.ofNat 4 (fieldAt b 0xA 1),
    grade := fieldAt b 0xB 1 % 8, desc := if v.desc.isEmpty && !held then [] else (b.drop 0x20).take 128,
    tab := if fieldAt b 0xC 1 = 0 then none else some ((b.drop 0xA0).take 384),
    claimed := held,
    samples := if n = n0 then v.samples
      else (v.samples ++ List.replicate (min 4096 n - v.samples.length) blank).take n,
    queue := loadSolvQueue ring b v.queue }

/-- A solver image breaks no condition of R316. -/
def solverOk (b : List Byte) : Bool :=
  fieldAt b 8 1 ≤ 3 && belowAt b 0xA 1 16 && belowAt b 0xB 1 8 && zerosAt b 0xD 3 && zerosAt b 0x14 12
    && zerosAt b 0x2E1 31

/-- A record of a spawn image (R338). -/
def loadSpawn (b : List Byte) : SRec := { p := lanesAt b 0 4, g := fieldAt b 16 1 % 8 }

/-- The bins of a spawn image (R338). -/
def loadBins : Nat → List Byte → List (Option (Word × List SRec × Nat))
  | 0, _ => []
  | n + 1, b =>
      let k := min 64 (fieldAt b 8 1)
      let e := if k = 0 then none
        else some (wordAt b 0, (pieces 24 ((b.drop 16).take (24 * k))).map loadSpawn, fieldAt b 12 4)
      e :: loadBins n (b.drop (16 + 24 * k))

/-- The entries of a spawn image hold no reserved byte that is not zero (R338). -/
def spawnOk : Nat → List Byte → Bool
  | 0, _ => true
  | n + 1, b =>
      let k := min 64 (fieldAt b 8 1)
      zerosAt b 9 3 && ((pieces 24 ((b.drop 16).take (24 * k))).all fun r => belowAt r 16 1 8 && zerosAt r 17 7)
        && spawnOk n (b.drop (16 + 24 * k))

/-- A copy of a copy image (R365): which queue, whether it had started, its progress, its operands. -/
def CopyEnt.imageLoaded (ring : Nat) (b : List Byte) (old : Option CopyEnt) : Option (Nat × CopyEnt) :=
  (instrAt b (old.map (·.instr))).map fun i =>
    let e : CopyEnt := { (old.getD { id := 0, instr := i, ring := ring, troupe := 0 }) with instr := i }
    let c := e.cap.loaded b 0x18
    let w := fieldAt b 0x0C 1
    let started := w.testBit 1
    let coords := fieldsAt b 0x30 4 7
    (w % 2,
     { e with
       troupe := fieldAt b 0x0D 1, landed := fieldAt b 0x10 4,
       started := started && (e.started || !e.again), again := started && e.again,
       cap := { c with more :=
         if c.more.isEmpty then (if coords.all (· == 0) then [] else coords.map fun x => { v := BitVec.ofNat 64 x })
         else (c.more.zip coords).map fun x =>
           if x.1.v.toNat % 2 ^ 32 = x.2 then x.1 else { x.1 with v := BitVec.ofNat 64 x.2 } } })

/-- The copies of a copy image, at most 32 (R365). -/
def loadCopies (ring : Nat) (b : List Byte) (old : List (Nat × CopyEnt)) : List (Nat × CopyEnt) :=
  ((pieces 80 ((b.drop 16).take (80 * min 32 (fieldAt b 0 4)))).zipIdx).filterMap fun x =>
    CopyEnt.imageLoaded ring x.1 (old[x.2]?.map (·.2))

/-- A copy carries coordinates: xgat and xsct (R365). -/
def hasCoords (b : List Byte) : Bool :=
  match instrOf b with
  | some (.xgat _) => true
  | some (.xsct _) => true
  | _ => false

/-- A copy image holds no reserved byte that is not zero (R365). -/
def copiesOk (b : List Byte) : Bool :=
  zerosAt b 4 12
    && (pieces 80 ((b.drop 16).take (80 * min 32 (fieldAt b 0 4)))).all fun e =>
        belowAt e 0x0C 1 4 && zerosAt e 0x0E 2 && zerosAt e 0x14 4 && zerosAt e 0x4C 4
          && (hasCoords e || zerosAt e 0x30 28)

/-- Offsets of the parts of a ring record: the seven images, then the troupes (R365). -/
def partOffsets (b : List Byte) : List Nat := fieldsAt b 0x100 4 7 ++ fieldsAt b 0x120 4 32

/-- A part of a ring record; none of its bytes where its offset is 0. -/
def partAt (b : List Byte) (i : Nat) : List Byte :=
  let o := nth (partOffsets b) i 0
  if o = 0 then [] else b.drop o

/-- A saved ring with the values of its record (R365). -/
def State.loadRing (s : State) (asid : Nat) (b : List Byte) (r : SavedRing) : SavedRing :=
  let has := fun (i : Nat) => nth (partOffsets b) i 0 != 0
  let flag := fun (i : Nat) => (fieldAt b 2 1).testBit i
  let x := r.ring
  let bits := (setBits (fieldAt b 3 1) 6).filter (1 ≤ ·)
  let st := x.stream.getD {}
  { r with
    ring := { x with
      miles := fieldAt b 8 4, binN := fieldAt b 12 4, tagmap := wordAt b 0x10, tagerr := wordAt b 0x18,
      tagcnt := fieldsAt b 0x20 1 64,
      nbs := (x.nbs.zip (fieldsAt b 0x60 8 16)).map fun y => y.1.loaded y.2,
      bts := (x.bts.zip (fieldsAt b 0xE0 8 4)).map fun y => y.1.loaded y.2,
      grants := x.grants.filter bits.contains ++ bits.filter fun c => !x.grants.contains c,
      stream := if flag 0 && has 2 then some (st.imageLoaded (partAt b 2)) else none,
      smpstat := if has 3 then wordAt (partAt b 3) 8 else x.smpstat,
      svar := if has 3 then wordAt (partAt b 3) 0x10 else x.svar,
      solver := if has 4 then x.solver.loaded x.id (flag 2) (partAt b 4)
        else { x.solver with claimed := false, state := 0, tab := none, queue := [] } },
    spad := cellWriteN [] 0 ((partAt b 0).take x.spLen),
    spgr := (((partAt b 1).take (x.spLen / 128)).zipIdx.map fun y => (y.2, y.1.toNat % 8)).filter fun y => y.2 != 0,
    au := if flag 1 && has 3 then some ((r.au.getD {}).loaded (partAt b 3)) else none,
    bins := if has 5 then loadBins 8 (partAt b 5) else List.replicate 8 none,
    copies := if has 6 then loadCopies x.id (partAt b 6) r.copies else [],
    word := if has 2 then ((partAt b 2).drop 0xD0).take 12 else [],
    troupes := s.loadTroupes asid x b r.troupes }

/-- A ring record holds no reserved byte that is not zero and breaks no condition of R93, R207, R222 or R316
(R365, R370). -/
def SavedRing.recordOk (r : SavedRing) (b : List Byte) : Bool :=
  let has := fun (i : Nat) => nth (partOffsets b) i 0 != 0
  belowAt b 2 1 8 && belowAt b 3 1 64 && !(fieldAt b 3 1).testBit 0
    && (fieldsAt b 0x60 8 20).all nbOk && zerosAt b 0x11C 4 && zerosAt b 0x1A0 96
    && belowAt (partAt b 1) 0 (r.ring.spLen / 128) 8
    && (!has 2 || streamOk (partAt b 2) ((r.ring.stream.map Stream.imageBanks).getD 0))
    && (!has 3 || samplingOk (partAt b 3) ((fieldAt b 2 1).testBit 1))
    && (!has 4 || solverOk (partAt b 4)) && (!has 5 || spawnOk 8 (partAt b 5)) && (!has 6 || copiesOk (partAt b 6))
    && (List.range 32).all fun i => !has (7 + i) || troupeOk (partAt b (7 + i)) r.ring.vgen

/-! ### The record (R364, R369, R384) -/

/-- A mailbox entry (R369). -/
def loadMail (b : List Byte) : Mail :=
  { kind := fieldAt b 0 1, ridx := fieldAt b 1 1, tidx := fieldAt b 2 1, lane := fieldAt b 3 1,
    info := fieldAt b 4 4, info2 := wordAt b 8,
    words := if fieldAt b 0 1 = 1 then (fieldsAt b 0x10 4 15).map (BitVec.ofNat 64) else [],
    g := fieldAt b 0x50 1 % 8 }

/-- The mailbox of a record, entry by entry. -/
def mailEntries (b : List Byte) : List (List Byte) :=
  let n := min 8192 (fieldAt b 0xA4 4)
  pieces 96 ((b.drop (fieldAt b 0xA0 4)).take (96 * n))

/-- A mailbox entry holds no reserved byte that is not zero: its last bytes, and what its kind does not use
(R369). -/
def mailOk (b : List Byte) : Bool :=
  let k := fieldAt b 0 1
  let info := fieldAt b 4 4
  let info2 := fieldAt b 8 8
  belowAt b 0x50 1 8 && zerosAt b 0x51 15 && (k == 1 || zerosAt b 0x10 64)
    && (if k = 1 then info < 2 ^ 16 && info2 == 0 && zerosAt b 0x4C 4
        else if k = 2 then info < 2 ^ 16 && info2 < 2 ^ 36
        else if k = 3 || k = 4 then info &&& 0x3F0F == info
        else info2 == 0)

/-- The reserved bytes of a record's header are zero, and TAG is for an unprotected context (R364). -/
def headerOk (prot : Bool) (b : List Byte) : Bool :=
  belowAt b 0x28 1 4 && zerosAt b 0x29 7 && zerosAt b 0xA8 88 && (prot || zerosAt b 0x30 16)

/-- Where a ring's record lies; none for a ring index that the header gives no offset. -/
def ringRecordAt (b : List Byte) (ridx : Nat) : Option (List Byte) :=
  let o := fieldAt b (0x40 + 4 * ridx) 4
  if o = 0 then none else some (b.drop o)

/-- The context, sequence number and neighbourhood that a record's header names: queue, SEQ, n (R364, R384). -/
def headerKey (head : List Byte) : Nat × Nat × Nat := (fieldAt head 4 2, fieldAt head 0 4, fieldAt head 0x14 4)

/-- The record of a saved neighbourhood, decrypted when its context is protected; none when its TAG does not
verify (R384). -/
def State.openRecord (s : State) (v : Saved) : Option (List Byte) :=
  let c := s.ctx (s.launch v.nb.launch).asid
  let b := cellReadN s.mem v.addr v.len
  if c.prot then
    let iv := sealIv (leNat ((b.drop 0x18).take 8)) (leNat ((b.drop 0x14).take 4))
    let body := b.drop 0x40
    if gcmTag c.saveKey iv (sealAad b) body == (b.drop 0x30).take 16 then
      some (b.take 0x30 ++ zeroBytes 16 ++ gcmCrypt c.saveKey iv body)
    else none
  else some b

/-- The header of a saved neighbourhood's record as it lies in memory. -/
def State.savedHeader (s : State) (v : Saved) : List Byte := cellReadN s.mem v.addr 0x40

/-- A saved neighbourhood with the values of its record, or the status of the first check that the record
fails: STALEIMG, BADSEAL, BADIMAGE (R370 step 1, R384).  A ring without a record stands as it was saved (log entry
133). -/
def State.loadSaved (s : State) (v : Saved) : Except Nat Saved :=
  let c := s.ctx (s.launch v.nb.launch).asid
  let head := s.savedHeader v
  if (c.kept.find? fun k => k.1 == headerKey head).map (·.2) != some (fieldAt head 0x18 8) then .error 19
  else
    match s.openRecord v with
    | none => .error 20
    | some b =>
        let ok := fun (r : SavedRing) =>
          match ringRecordAt b r.ring.ridx with | some x => r.recordOk x | none => true
        if headerOk c.prot b && v.rings.all ok && (mailEntries b).all mailOk then
          .ok { v with
            nb := { v.nb with n := fieldAt b 0x14 4 },
            rings := v.rings.map fun r =>
              match ringRecordAt b r.ring.ridx with | some x => s.loadRing c.asid x r | none => r,
            mail := (mailEntries b).map loadMail }
        else .error 15

/-- Change a saved neighbourhood, and its record with it: a mailbox entry (R369), an action on a
record of a saved troupe (R353).  A record that fails its checks stays as it stands. -/
def State.modSaved (s : State) (nb : Nat) (f : Saved → Saved) : State :=
  match s.saved.find? fun v => v.nb.id == nb with
  | none => s
  | some v =>
      let put := fun (v : Saved) => { s with saved := updWhere s.saved (fun x => x.nb.id == nb) fun _ => v }
      match s.loadSaved v with
      | .ok v1 => (put (f v1)).putRecord (f v1)
      | .error _ => put (f v)

end Sys2Proof.Machine
end

