-- ==== Sys2Proof/Machine/Tuples.lean ====
section
/-! DEFINITION. Tuple space: the tuple instructions, the memory slices that serve them, and their
replies (spec/13_tuple_space.md R283-R302). -/

namespace Sys2Proof.Machine

/-! ### Homes and patterns (R286-R288) -/

/-- The home slice of a tag, 4 × die + slice (R287). -/
def tupleHome (asid rid : Nat) (tag : Lane) : Nat :=
  matrixMix (tag.toNat ^^^ matrixMix (asid * 2 ^ 16 ||| rid)) / 2 ^ 28

/-- The mode of field j in a pattern word (R288). -/
def patMode (p : Word) (j : Nat) : Nat := bitsOf p.toNat (2 * j + 1) (2 * j)

/-- ARITY of a pattern word (R288). -/
def patArity (p : Word) : Nat := bitsOf p.toNat 31 28

/-- An invalid pattern (R288). -/
def patBad (p : Word) : Bool :=
  2 ^ 32 ≤ p.toNat || patArity p == 15
    || (List.range 14).any fun j =>
        patMode p j == 3 || (patArity p != 0 && patArity p ≤ j && patMode p j != 0)

/-- A tuple matches a request (R288). -/
def TReq.matches (r : TReq) (t : Tup) : Bool :=
  r.tag == some t.tag && (patArity r.pat == 0 || patArity r.pat == t.arity)
    && (List.range 14).all fun j =>
        let f := nth t.f j 0
        let v := nth r.vals j 0
        let m := patMode r.pat j
        m == 0 || (if m == 1 then f == v else f &&& r.mask == v &&& r.mask)

/-- The header word of a tuple, which is also the status word of a match (R286, R298). -/
def Tup.header (t : Tup) : Word :=
  BitVec.ofNat 64 (t.arity % 16 * 2 ^ 28 + t.grade % 8 * 2 ^ 24 + t.seq % 2 ^ 24)

/-- NOMATCH (R298). -/
def stNoMatch : Word := 1
/-- PARKED. -/
def stParked : Word := 2
/-- BUSY. -/
def stBusy : Word := 3
/-- CANCELLED. -/
def stCancelled : Word := 4

/-! ### A slice's stores (R286, R290-R293) -/

/-- A region's tuples at a slice. -/
def Slice.region (c : Slice) (asid rid : Nat) : RegSt :=
  (c.regs.find? fun r => r.asid == asid && r.rid == rid).getD { asid := asid, rid := rid }

/-- Replace a region's tuples at a slice. -/
def Slice.putRegion (c : Slice) (r : RegSt) : Slice :=
  { c with regs := (c.regs.filter fun x => !(x.asid == r.asid && x.rid == r.rid)) ++ [r] }

/-- All tuples of a region at a slice, oldest first: spilled ones are not always the older. -/
def RegSt.all (r : RegSt) : List Tup := sortBy (fun a b => decide (a.seq ≤ b.seq)) (r.spill ++ r.store)

/-- LIVE at a slice (R293). -/
def RegSt.live (r : RegSt) : Nat := r.store.length + r.spill.length

/-- Without the tuple with a sequence number. -/
def RegSt.without (r : RegSt) (seq : Nat) : RegSt :=
  { r with store := r.store.filter fun t => t.seq != seq,
           spill := r.spill.filter fun t => t.seq != seq }

/-- Store a tuple; while the store holds more than the quota its oldest moves to the spill area
(R293). -/
def RegSt.keep (r : RegSt) (quota : Nat) (t : Tup) : RegSt :=
  let st := r.store ++ [t]
  let n := st.length - quota
  { r with store := st.drop n, spill := r.spill ++ st.take n }

/-- The region of a context with a number. -/
def State.region? (s : State) (asid rid : Nat) : Option Region :=
  (s.ctx asid).regions.find? fun r => r.rid == rid

/-- The bytes of a region descriptor (R284). -/
def Region.descriptor (r : Region) : List Byte :=
  leBytes r.rid 2 ++ leBytes 0 2 ++ leBytes 1 4 ++ leBytes r.quota 4 ++ leBytes r.scap 4
    ++ leBytes (r.base.toNat + 2 ^ 18) 8 ++ leBytes 0 40

/-- A number below 2^32 that the spec leaves undefined (log entry 8). -/
def undefinedWord (k : Nat) : Nat := leNat ((List.range 4).map fun i => Config.undefinedByte (4 * k + i))

/-- A region as the engines find it once the driver has reused the frame of its descriptor: QUOTA and SCAP are
anything that stays within what the region has; its tuples stay its own (R283; log entry 102). -/
def State.regionUndefined (s : State) (r : Region) : Region :=
  { r with quota := 1 + undefinedWord (4 * s.choice + 1) % r.quota,
           scap := undefinedWord (4 * s.choice + 2) % (r.scap + 1) }

/-- The region that the engines find at a base.  Its descriptor is read from the frame recorded for the
base page; what they find there once the driver has reused the frame is undefined (R283, R284). -/
def State.regionAt (s : State) (asid : Nat) (base : Word) : Option Region :=
  match (s.ctx asid).regions.find? fun r => r.base == base with
  | none => none
  | some r =>
      match r.frames with
      | [] => none
      | fr :: _ =>
          if cellReadN s.mem fr 64 == r.descriptor then some r
          else if undefinedWord (4 * s.choice) % 2 = 0 then some (s.regionUndefined r)
          else none

/-! ### The checks of a tuple instruction (R296) -/

/-- KINDS of a parked tuple instruction (R253). -/
def tupleKind : Instr → BitVec 8
  | .tdep _ => kStore
  | .ttake _ => kStore
  | _ => kLoad

/-- What a tuple instruction wants of the base page: steps 3 of R296. -/
def tupleWant (i : Instr) : Want :=
  { n := 1, rd := match i with | .tdep _ => false | _ => true,
    wr := match i with | .tdep _ => true | .ttake _ => true | _ => false,
    align := 2 ^ 18, tuple := true, gradeChk := false }

/-- Run the rest of a tuple instruction with its region and the grade of its base page (R296 steps 3
and 4): a replayable translation fault parks the whole instruction. -/
def withRegion (e : VEntry) (t : Troupe) (s : State) (bad : Bool)
    (k : Region → Nat → State → VRes) : VRes :=
  let base := e.cap.a.v
  let p := s.ringParty t.id.ring
  match t.vwait with
  | some .parked => .wait .parked s
  | _ =>
      match s.access p base.toNat (tupleWant e.instr) with
      | .final c r => .fault { cause := c, reason := r, aux := base }
      | .replay c level =>
          .wait .parked (s.park t.id.ring (.instr t.id) base c level (tupleKind e.instr))
      | .ok site =>
          match s.regionAt p.asid base with
          | none => .fault { cause := .badarg, aux := base }
          | some r =>
              if bad then .fault { cause := .badarg, aux := base }
              else k r site.g (s.touch p base.toNat site)

/-! ### Sending (R289) -/

/-- A request joins the port of the requester's die at a slice (R289). -/
def State.toSlice (s : State) (die slice : Nat) (r : TReq) : State :=
  s.modSlice slice fun c => { c with ports := upd c.ports die fun l => l ++ [r] }

/-- The request of one lane of a logged tuple operation, from what its log keeps (R297, R298). -/
def laneRequest (s : State) (id : TroupeId) (o : Op) (r : Region) (l : LaneRec) : Option TReq :=
  let asid := s.asidOf id.ring
  let base : TReq :=
    { kind := .dep, t := id, op := o.id, lane := l.lane, asid := asid, rid := r.rid,
      tag := l.vals.head?, vals := l.vals.tail, quota := r.quota, scap := r.scap }
  match o.instr with
  | .tdep f => some { base with arity := f.imm.toNat, g := o.dgrade, trap := f.sub == 1 }
  | .tread f =>
      some { base with kind := .read, pat := o.cap.b.v, g := o.rgrade,
                       mask := (match o.cap.more with | m :: _ => m.v.setWidth 32 | [] => 0),
                       park := if f.sub == 1 then some f.sel.toNat else none }
  | .ttake f =>
      some { base with kind := .take, pat := o.cap.b.v, g := o.rgrade,
                       mask := (match o.cap.more with | m :: _ => m.v.setWidth 32 | [] => 0),
                       park := if f.sub == 1 then some f.sel.toNat else none }
  | _ => none

/-- Send one lane of a logged tuple operation to the home of its tag (R287, R297, R298). -/
def sendLane (id : TroupeId) (o : Op) (r : Region) (s : State) (l : LaneRec) : State :=
  match laneRequest s id o r l with
  | none => s
  | some q =>
      (s.toSlice (s.dieOf id.ring) (tupleHome q.asid q.rid (l.vals.headD 0)) q).modTroupe id
        fun t => t.setLane o.id l.lane .sent

/-- A deposit above the grade of the base page is a lane fault; any other lane is sent (R294, R296
step 5). -/
def startLane (id : TroupeId) (o : Op) (r : Region) (pg : Nat) (s : State) (l : LaneRec) : State :=
  match o.instr with
  | .tdep _ => if pg < o.dgrade then s.faultLane id o.id l.lane .grade 0 else sendLane id o r s l
  | _ => sendLane id o r s l

/-- Start every lane of a logged tuple operation that is to be performed, in increasing lane order
(R289, R354).  For a re-issue the region is found again at the logged address. -/
def performTuple (id : TroupeId) (op : Nat) (s : State) : State :=
  match s.troupe? id with
  | none => s
  | some t =>
      match t.op? op with
      | none => s
      | some o =>
          let asid := s.asidOf id.ring
          match (s.ctx asid).regions.find? fun r => r.base == o.cap.a.v with
          | none => s
          | some r =>
              let pg := match s.leafFor asid (some (s.ring id.ring).core) r.base.toNat with
                | .leaf l => l.grade
                | .fault .. => 0
              (o.lanes.filter fun l => l.st == .redo).foldl (startLane id o r pg) s

/-- The tag and value words of lane i in a block of registers (R288, R297). -/
def blockLane (t : Troupe) (c n i : Nat) : List Lane :=
  (List.range n).map fun j => (t.vreg (c + j)).sh.lane i

/-- The highest grade of a block of registers. -/
def blockGrade (t : Troupe) (c n : Nat) : Nat := maxOf ((List.range n).map fun j => (t.vreg (c + j)).g)

/-- The lanes of a tuple operation at issue. -/
def tupleLanes (e : VEntry) (t : Troupe) (c n : Nat) : List LaneRec :=
  (lanesOf e.cap.k0).map fun i =>
    { lane := i, addr := e.cap.a.v, vals := blockLane t c n i, st := .redo }

/-! ### tdep, tread, ttake (R297-R299) -/

/-- Issue tdep. -/
def depIssue (f : Fields) (e : VEntry) (t : Troupe) (s : State) : VRes :=
  if e.cap.k0 = 0 then .done s
  else
    withRegion e t s false fun r pg s =>
      if t.freeSlot.isNone then .wait .issue s
      else
        let n := 1 + f.imm.toNat
        let g := blockGrade t f.c.toNat n
        let o : Op :=
          { id := 0, instr := e.instr, slot := t.freeSlot, sdest := sNum f.d, grade := max e.cap.a.g g,
            dgrade := g, lanes := tupleLanes e t f.c.toNat n, sres := [{ d := f.d, v := {} }] }
        let s1 := s.setTroupe (t.startOp e o)
        .done (((tupleLanes e t f.c.toNat n).foldl
          (startLane t.id { o with id := t.nextOp, cap := e.cap } r pg) s1))

/-- The registers of a result block (R295). -/
def resultBlock (f : Fields) : List Nat := vDests f.d (1 + f.imm.toNat)

/-- Issue tread or ttake. -/
def matchIssue (f : Fields) (e : VEntry) (t : Troupe) (s : State) : VRes :=
  let block := resultBlock f
  let pat := e.cap.b.v
  let n := 1 + patM pat
  let bad := patBad pat || (patMasked pat && 127 ≤ f.b.toNat) || 64 < f.c.toNat + n
  if t.overBudget (s.ring t.id.ring).vgen (block.map (BitVec.ofNat 8)) then
    .fault { cause := .regbudget }
  else if e.cap.k0 = 0 then .done (s.setTroupe (t.lowerFlag e.flag))
  else
    withRegion e t s bad fun r pg s =>
      if t.freeSlot.isNone then .wait .issue s
      else
        let mg := if patMasked pat then maxOf (e.cap.more.map (·.g)) else 0
        let g := maxOf [e.cap.a.g, e.cap.b.g, mg, maxOf ((patFields pat).map fun j => (t.vreg (f.c.toNat + 1 + j)).g),
          (t.vreg f.c.toNat).g, pg]
        let o : Op :=
          { id := 0, instr := e.instr, slot := t.freeSlot, vdest := block, general := true,
            ac := if f.sub == 1 then some f.sel.toNat else none, grade := g, rgrade := g,
            lanes := tupleLanes e t f.c.toNat n }
        let s1 := s.setTroupe (t.startOp e o)
        .done ((tupleLanes e t f.c.toNat n).foldl
          (startLane t.id { o with id := t.nextOp, cap := e.cap } r pg) s1)

/-- tdep: deposits the tuple of each active lane (R297). -/
def execTdep (f : Fields) (s : State) : Out := vectorInstr (.tdep f) s (depIssue f)

/-- tread: a copy-match, parked or not (R298, R299). -/
def execTread (f : Fields) (s : State) : Out := vectorInstr (.tread f) s (matchIssue f)

/-- ttake: a take-match, parked or not (R298, R299). -/
def execTtake (f : Fields) (s : State) : Out := vectorInstr (.ttake f) s (matchIssue f)

/-- tcan: cancels the parked requests of the active lanes counted on acJ (R300).  It has a number of its own
among the troupe's instructions at the slices' ports (R289). -/
def execTcan (f : Fields) (s : State) : Out :=
  vectorInstr (.tcan f) s fun e t s =>
    if e.cap.k0 = 0 then .done s
    else
      .done ((s.setTroupe { t with nextOp := t.nextOp + 1 }).toSlices (s.dieOf t.id.ring)
        { kind := .cancel, t := t.id, op := t.nextOp, asid := s.asidOf t.id.ring, lanes := e.cap.k0,
          park := some f.sel.toNat })

/-- tstat: the counts of a region, or of one tag at its home (R301). -/
def execTstat (f : Fields) (s : State) : Out :=
  vectorInstr (.tstat f) s fun e t s =>
    withRegion e t s false fun r pg s =>
      let asid := s.asidOf t.id.ring
      let tag : Lane := e.cap.b.v.setWidth 32
      let homes := if f.sub == 1 then [tupleHome asid r.rid tag] else List.range 16
      let g := maxOf [e.cap.a.g, if f.sub == 1 then e.cap.b.g else 0, pg]
      let o : Op :=
        { id := 0, instr := e.instr, sdest := sNum f.d, grade := g, rgrade := g,
          lanes := homes.map fun n => { lane := n, addr := e.cap.a.v, st := .sent } }
      .done <| homes.foldl
        (fun s n => s.toSlice (s.dieOf t.id.ring) n
          { kind := .stat, t := t.id, op := t.nextOp, lane := n, asid := asid, rid := r.rid,
            tag := if f.sub == 1 then some tag else none })
        (s.setTroupe (t.startOp e o))

/-! ### Service order (R289) -/

/-- The head of a port belongs to the operation that the port is delivering. -/
def sameInstr (x : Option (TroupeId × Nat)) (l : List TReq) : Bool :=
  match x, l with
  | some (t, o), r :: _ => r.t == t && r.op == o && r.kind != .cancel
  | _, _ => false

/-- The steps of a cycle at which a slice may serve a request: ports count from the rotation pointer;
the port in service goes on with the lanes of one instruction. -/
def Slice.steps (c : Slice) : List Nat :=
  (List.range 4).filter fun k =>
    let l := nth c.ports ((c.rot + k) % 4) []
    !l.isEmpty && (c.turn < k || (c.turn == k && (c.now_.isNone || sameInstr c.now_ l)))

/-- Begin the next cycle of a slice: after a cycle in which a request was served the pointer advances. -/
def Slice.nextCycle (c : Slice) : Slice :=
  if c.now_.isSome then { c with rot := (c.rot + 1) % 4, turn := 0, now_ := none } else c

/-- The slice with its cycle begun anew when no step of the current one is left. -/
def Slice.ready (c : Slice) : Slice := if c.steps.isEmpty then c.nextCycle else c

/-- The next request of a slice in service order. -/
def Slice.next? (c : Slice) : Option TReq :=
  match c.ready.steps with
  | k :: _ => (nth c.ports ((c.ready.rot + k) % 4) []).head?
  | [] => none

/-- The slice without its next request, which is being served. -/
def Slice.pop (c : Slice) : Slice :=
  let c := c.ready
  match c.steps with
  | [] => c
  | k :: _ =>
      let p := (c.rot + k) % 4
      match nth c.ports p [] with
      | [] => c
      | r :: rest =>
          let c := { c with ports := upd c.ports p fun _ => rest, turn := k, now_ := some (r.t, r.op) }
          if c.ports.all List.isEmpty then c.nextCycle else c

/-! ### Serving (R290-R293, R300, R301) -/

/-- The reply of a match. -/
def TReq.matched (r : TReq) (t : Tup) (later : Bool) : TReply :=
  { t := r.t, op := r.op, lane := r.lane, status := t.header, f := t.f, g := max r.g t.grade,
    later := later, bad := t.bad }

/-- A reply with a status only. -/
def TReq.answer (r : TReq) (st : Word) (later : Bool) : TReply :=
  { t := r.t, op := r.op, lane := r.lane, status := st, g := r.g, later := later }

/-- Send a reply. -/
def Slice.reply (c : Slice) (r : TReply) : Slice := { c with replies := c.replies ++ [r] }

/-- Free parked entries of a slice. -/
def Slice.free (c : Slice) (p : TReq → Bool) : Slice :=
  { c with parked := c.parked.filter fun x => !p x.2 }

/-- Two requests are of the same lane of the same operation. -/
def TReq.same (a b : TReq) : Bool := a.t == b.t && a.op == b.op && a.lane == b.lane

/-- Serve a deposit (R292, R293). -/
def serveDeposit (quota scap : Nat) (q : TReq) (c : Slice) : Slice :=
  let r := c.region q.asid q.rid
  let tup : Tup :=
    { tag := q.tag.getD 0, arity := q.arity, grade := q.g, seq := r.count,
      f := (List.range 14).map fun j => if j < q.arity then nth q.vals j 0 else 0 }
  let hits := (c.parked.map (·.2)).filter fun x => x.asid == q.asid && x.rid == q.rid && x.matches tup
  let reads := hits.filter fun x => x.kind == .read
  let c1 := reads.foldl
    (fun c x => (c.free (TReq.same x)).reply (x.matched tup true)) c
  let done_ : TReply := { t := q.t, op := q.op, lane := q.lane, status := 0 }
  match hits.filter fun x => x.kind == .take with
  | x :: _ =>
      (((c1.free (TReq.same x)).reply (x.matched tup true)).putRegion
        { r with count := r.count + 1 }).reply done_
  | [] =>
      if r.live < quota + scap then
        (c1.putRegion { r.keep quota tup with count := r.count + 1 }).reply done_
      else c1.reply { done_ with full := true }

/-- Serve a copy-match or take-match; `room` says that its arrival counter may rise (R290, R291).
The second result says that the request has parked. -/
def serveMatch (q : TReq) (room : Bool) (c : Slice) : Slice × Bool :=
  let r := c.region q.asid q.rid
  match r.all.find? q.matches with
  | some t =>
      ((if q.kind == .take then c.putRegion (r.without t.seq) else c).reply (q.matched t false), false)
  | none =>
      match q.park with
      | none => (c.reply (q.answer stNoMatch false), false)
      | some _ =>
          match (List.range 256).find? fun n => !(c.parked.any fun p => p.1 == n) with
          | some n =>
              if room then
                ({ c with parked := c.parked ++ [(n, q)] }.reply (q.answer stParked false), true)
              else (c.reply (q.answer stBusy false), false)
          | none => (c.reply (q.answer stBusy false), false)

/-- The word a slice answers tstat with (R301). -/
def serveStat (q : TReq) (c : Slice) : Slice :=
  let r := c.region q.asid q.rid
  let mine := fun (t : Tup) => q.tag.isNone || q.tag == some t.tag
  let live := (r.all.filter mine).length
  let parked := (c.parked.filter fun p =>
    p.2.asid == q.asid && p.2.rid == q.rid && (q.tag.isNone || q.tag == p.2.tag)).length
  let spilled := r.spill.any mine
  c.reply (q.answer (BitVec.ofNat 64 (live + parked * 2 ^ 32 + spilled.toNat * 2 ^ 45)) false)

/-- Cancel the parked requests that a tcan or done names, in park order (R21, R300). -/
def serveCancel (q : TReq) (c : Slice) : Slice :=
  let hit := fun (x : TReq) =>
    x.t == q.t && q.lanes.getLsbD x.lane && (q.park.isNone || x.park == q.park)
  ((c.parked.filter fun p => hit p.2).foldl (fun c p => c.reply (p.2.answer stCancelled true)) c).free hit

/-! ### The spill area (R283, R284, R286, R293) -/

/-- The 64 bytes of a tuple (R286). -/
def Tup.bytes (t : Tup) : List Byte :=
  leBytes t.tag.toNat 4 ++ leBytes t.header.toNat 4
    ++ (List.range 14).flatMap fun j => leBytes (nth t.f j 0).toNat 4

/-- The tuple that 64 bytes hold; the slice keeps its full sequence number. -/
def Tup.ofBytes (b : List Byte) (seq : Nat) : Tup :=
  let h := fieldAt b 4 4
  { tag := BitVec.ofNat 32 (fieldAt b 0 4), arity := h / 2 ^ 28, grade := h / 2 ^ 24 % 8, seq := seq,
    f := lanesAt b 8 14 }

/-- The physical address of an entry of a slice's part of a region's spill area, in the frames recorded for
the region (R283, R284). -/
def Region.spillEntry (r : Region) (slice entry : Nat) : Nat :=
  let o := 2 ^ 18 + slice * r.scap * 64 + entry * 64
  nth r.frames (o / 2 ^ 18) 0 + o % 2 ^ 18

/-- A spilled tuple as the engine finds it: what it wrote, in error where its line of memory is (R389), or
something undefined once the driver has reused the frame (R283). -/
def State.spilledAs (s : State) (n : Nat) (x : Region) (r : RegSt) (t : Tup) : Tup :=
  match r.places.find? fun p => p.1 == t.seq with
  | none => t
  | some p =>
      if s.lineError (x.spillEntry n p.2) then { t with bad := true }
      else if cellReadN s.mem (x.spillEntry n p.2) 64 == t.bytes then t
      else Tup.ofBytes ((List.range 64).map fun i => Config.undefinedByte (64 * (s.choice + t.seq) + i)) t.seq

/-- A slice with a region's spilled tuples as the engine finds them. -/
def State.loadSpill (s : State) (n asid rid : Nat) : State :=
  let r := (s.slice n).region asid rid
  match s.region? asid rid with
  | some x =>
      if r.spill.isEmpty then s
      else s.modSlice n fun c => c.putRegion { r with spill := r.spill.map (s.spilledAs n x r) }
  | none => s

/-- The spill area of a slice once a request is served: each tuple newly in it is written to the lowest free
entry. -/
def State.storeSpill (s : State) (n asid rid : Nat) : State :=
  let r := (s.slice n).region asid rid
  match s.region? asid rid with
  | some x =>
      if r.spill.isEmpty && r.places.isEmpty then s
      else
        let kept := r.places.filter fun p => r.spill.any fun t => t.seq == p.1
        let fresh := r.spill.filter fun t => !kept.any fun p => p.1 == t.seq
        let z := fresh.foldl (fun (a : List Host.Cell × List (Nat × Nat)) t =>
          match (List.range (a.2.length + 1)).find? fun k => !a.2.any fun p => p.2 == k with
          | some k => (cellWriteN a.1 (x.spillEntry n k) t.bytes, a.2 ++ [(t.seq, k)])
          | none => a) (s.mem, kept)
        { s with mem := z.1 }.modSlice n fun c => c.putRegion { r with places := z.2 }
  | none => s

/-- TUPLE_DEPOSIT_SERVE: the slice serves its next request when that is a deposit (R292). -/
def execTupleDepositServe (s : State) : Out :=
  let n := s.ev.unit_
  match (s.slice n).next? with
  | some q =>
      if q.kind == .dep then
        match s.region? q.asid q.rid with
        | some _ =>
            .next (((s.loadSpill n q.asid q.rid).modSlice n fun c =>
              serveDeposit q.quota q.scap q c.pop).storeSpill n q.asid q.rid)
        | none => .next (s.modSlice n Slice.pop)
      else .next s
  | none => .next s

/-- The arrival counter of a request stays within 4095 when one more is counted (R291, R299). -/
def counterRoom (s : State) (q : TReq) : Bool :=
  match s.troupe? q.t, q.park with
  | some t, some j => nth t.ac j 0 < 4095
  | _, _ => false

/-- Serve a match, counting a lane that parks on its arrival counter (R290, R299). -/
def State.matchServe (s : State) (n : Nat) (q : TReq) : State :=
  let r := serveMatch q (counterRoom s q) (s.slice n).pop
  let s1 := s.modSlice n fun _ => r.1
  if r.2 then
    s1.modTroupe q.t fun t =>
      match q.park with
      | some j => { t with ac := upd t.ac j (· + 1) }
      | none => t
  else s1

/-- TUPLE_MATCH_SERVE: the slice serves its next request when that is a tread, a ttake or a tstat
(R290, R301). -/
def execTupleMatchServe (s : State) : Out :=
  let n := s.ev.unit_
  match (s.slice n).next? with
  | some q =>
      let s1 := s.loadSpill n q.asid q.rid
      .next (match q.kind with
        | .read => (s1.matchServe n q).storeSpill n q.asid q.rid
        | .take => (s1.matchServe n q).storeSpill n q.asid q.rid
        | .stat => s1.modSlice n fun c => serveStat q c.pop
        | .dep => s
        | .cancel => s)
  | none => .next s

/-- TUPLE_CANCEL_SERVE: the slice serves its next request when that is a cancellation (R300). -/
def execTupleCancelServe (s : State) : Out :=
  let n := s.ev.unit_
  match (s.slice n).next? with
  | some q =>
      .next (if q.kind == .cancel then s.modSlice n fun c => serveCancel q c.pop else s)
  | none => .next s

/-- A region has spilled tuples and room in its store at a slice (R293). -/
def canRefill (s : State) (n asid rid : Nat) : Bool :=
  let r := (s.slice n).region asid rid
  match s.region? asid rid with
  | some x => decide (r.store.length < x.quota) && !r.spill.isEmpty
  | none => false

/-- Move the oldest spilled tuple back to the store. -/
def RegSt.refill (r : RegSt) : RegSt :=
  match sortBy (fun a b => decide (a.seq ≤ b.seq)) r.spill with
  | t :: rest => { r with spill := rest, store := sortBy (fun a b => decide (a.seq ≤ b.seq)) (r.store ++ [t]) }
  | [] => r

/-- TUPLE_REFILL: the engine moves the oldest spilled tuple of a region back (R293). -/
def execTupleRefill (s : State) : Out :=
  let n := s.ev.unit_
  .next (if canRefill s n s.ev.asid s.ev.num then
    ((s.loadSpill n s.ev.asid s.ev.num).modSlice n fun c =>
      c.putRegion (c.region s.ev.asid s.ev.num).refill).storeSpill n s.ev.asid s.ev.num else s)

/-! ### Replies (R298, R299, R301) -/

/-- What a lane of a match has received: status, grade, fields. -/
def replyWords (r : TReply) : List Word :=
  r.status :: BitVec.ofNat 64 r.g :: r.f.map (·.setWidth 64)

/-- A status word is that of a match (R298). -/
def isMatch (st : Word) : Bool := bitsOf st.toNat 31 28 != 0

/-- Write some lanes of a result block: the status of each, and the fields of those that match
(R298).  The whole block is lane-producing (R295). -/
def writeBlock (f : Fields) (got : List (Nat × List Word)) (t : Troupe) : Troupe :=
  let w := fun (i j : Nat) => match got.find? fun x => x.1 == i with | some x => nth x.2 j 0 | none => 0
  let g := fun (l : List (Nat × List Word)) => maxOf (l.map fun x => (nth x.2 1 0).toNat)
  let hits := got.filter fun x => isMatch (nth x.2 0 0)
  if f.d.toNat < 64 then
    let t1 := t.writeV { d := f.d, mask := maskOf (got.map (·.1)), g := g got,
                         sh := generalOf fun i => (w i 0).setWidth 32 }
    let t2 := (List.range f.imm.toNat).foldl
      (fun t j => t.writeV { d := f.d + BitVec.ofNat 8 (1 + j), mask := maskOf (hits.map (·.1)), g := g hits,
                             sh := generalOf fun i => (w i (2 + j)).setWidth 32 }) t1
    (resultBlock f).foldl (fun t n => t.makeGeneral (BitVec.ofNat 8 n)) t2
  else t

/-- A parked entry or a delivery of a lane exists at some slice. -/
def State.parkedLane (s : State) (id : TroupeId) (op lane : Nat) : Bool :=
  s.slices.any fun c =>
    (c.parked.any fun p => p.2.t == id && p.2.op == op && p.2.lane == lane)
      || c.replies.any fun r => r.later && r.t == id && r.op == op && r.lane == lane

/-- All first replies of a match have come: they are written together, the wait flag falls, and the
lanes that parked wait for their deliveries without a hold (R88, R298, R299). -/
def finishMatch (id : TroupeId) (o : Op) (f : Fields) (s : State) : State :=
  let got := o.lanes.filterMap fun l => match l.st with | .got w => some (l.lane, w) | _ => none
  let lanes := o.lanes.map fun l =>
    match l.st with
    | .got w => { l with st := if w.headD 0 == stParked && s.parkedLane id o.id l.lane then .waiting else .done }
    | _ => l
  (s.modTroupe id fun t =>
    ((writeBlock f got t).modOp o.id fun o =>
      { o with lanes := lanes, flag := none, held := false, general := false }).lowerFlag o.flag).tidyOp id o.id

/-- The sum of the words of tstat's slices (R301). -/
def statSum (o : Op) : Word :=
  let ws := o.lanes.map fun l => match l.st with | .got w => (w.headD 0).toNat | _ => 0
  let sum := fun (hi lo : Nat) => (ws.map fun x => bitsOf x hi lo).foldl (· + ·) 0
  BitVec.ofNat 64 (sum 31 0 % 2 ^ 32 + sum 44 32 % 2 ^ 13 * 2 ^ 32
    + (if ws.any fun x => bitsOf x 45 45 == 1 then 2 ^ 45 else 0))

/-- End a tdep whose lanes are all served: its mask is written, unless a lane was refused under .t
(R297). -/
def State.tidyDep (s : State) (id : TroupeId) (op : Nat) : State :=
  match s.troupe? id with
  | none => s
  | some t =>
      match t.op? op with
      | none => s
      | some o => if o.allDone then s.setTroupe ((t.writeResults o).endOp o) else s

/-- A reply of a deposit (R297). -/
def depReply (o : Op) (r : TReply) (s : State) : State :=
  let trap := match o.instr with | .tdep f => f.sub == 1 | _ => false
  if r.full && trap then
    (s.modTroupe r.t fun t => t.modOp o.id fun o => { o with sres := [] }).faultLane r.t o.id r.lane .full 0
  else
    (s.modTroupe r.t fun t =>
      (t.setLane o.id r.lane .done).modOp o.id fun o =>
        { o with sres := if r.full then
            o.sres.map fun w => { w with v := { w.v with v := w.v.v ||| (1#64 <<< r.lane) } }
          else o.sres }).tidyDep r.t o.id

/-- A match whose tuple is in error: the lane that takes it has a lane fault with MEMERR (R389). -/
def badReply (o : Op) (f : Fields) (r : TReply) (s : State) : State :=
  let s1 := s.faultLane r.t o.id r.lane .memerr 0
  if r.later then s1.modTroupe r.t fun t => t.lowerCounter o.ac
  else
    match (s1.troupe? r.t).bind fun t => t.op? o.id with
    | some o1 => if o1.lanes.any fun l => l.st == .sent then s1 else finishMatch r.t o1 f s1
    | none => s1

/-- Apply a reply to the operation it is for. -/
def applyReply (r : TReply) (s : State) : State :=
  match s.troupe? r.t with
  | none => s
  | some t =>
      match t.op? r.op with
      | none => s
      | some o =>
          match o.instr with
          | .tdep _ => depReply o r s
          | .tstat f =>
              let t1 := t.setLane o.id r.lane (.got [r.status])
              match t1.op? o.id with
              | none => s
              | some o1 =>
                  if o1.lanes.any fun l => l.st == .sent then s.setTroupe t1
                  else s.setTroupe ((t1.writeS f.d { v := statSum o1, g := o1.rgrade }).endOp o1)
          | i =>
              match i.fields with
              | none => s
              | some f =>
                  if r.bad then badReply o f r s
                  else if r.later then
                    let t1 := (writeBlock f [(r.lane, replyWords r)] t).lowerCounter o.ac
                    (s.setTroupe (t1.setLane o.id r.lane .done)).tidyOp r.t o.id
                  else
                    let s1 := s.setTroupe (t.setLane o.id r.lane (.got (replyWords r)))
                    match (s1.troupe? r.t).bind fun t => t.op? o.id with
                    | some o1 =>
                        if o1.lanes.any fun l => l.st == .sent then s1 else finishMatch r.t o1 f s1
                    | none => s1

/-- The saved neighbourhood that holds a ring. -/
def State.savedOf (s : State) (ring : Nat) : Option Saved :=
  s.saved.find? fun v => v.rings.any fun r => r.ring.id == ring

/-- The outstanding operation of a saved troupe. -/
def Saved.op? (v : Saved) (t : TroupeId) (op : Nat) : Option (SavedRing × Op) :=
  match v.rings.find? fun r => r.ring.id == t.ring with
  | none => none
  | some r =>
      match r.troupes.find? fun x => x.id == t with
      | none => none
      | some x => (x.op? op).map fun o => (r, o)

/-- A delivery to a saved troupe as its mailbox holds it (R302, R369). -/
def mailOf (v : Saved) (r : TReply) : Option Mail :=
  match v.op? r.t r.op with
  | none => none
  | some (ring, o) =>
      let f := o.instr.fields.getD {}
      some { kind := 1, ridx := ring.ring.ridx, tidx := r.t.idx, lane := r.lane,
             info := f.d.toNat + f.imm.toNat % 16 * 2 ^ 8 + f.sel.toNat * 2 ^ 12,
             words := r.status :: r.f.map (·.setWidth 64), g := r.g }

/-- A reply may be applied now: a delivery waits for its lane's first reply to be written, and for
room in the mailbox of a saved troupe (R299, R369). -/
def replyReady (s : State) (r : TReply) : Bool :=
  match s.troupe? r.t with
  | some t =>
      !r.later || (match t.op? r.op with
        | some o => !(o.lanes.any fun l => l.lane == r.lane && l.st != .waiting)
        | none => true)
  | none =>
      match s.savedOf r.t.ring with
      | some v => v.mail.length < 8192
      | none => true

/-- Take the first reply of a slice that is for a lane. -/
def takeReply (t : TroupeId) (op lane : Nat) : List TReply → Option (TReply × List TReply)
  | [] => none
  | r :: rest =>
      if r.t == t && r.op == op && r.lane == lane then some (r, rest)
      else (takeReply t op lane rest).map fun x => (x.1, r :: x.2)

/-- TUPLE_REPLY: the oldest reply on its way from a slice to a lane arrives (R298, R299); a troupe that
is saved has it in its mailbox (R302). -/
def execTupleReply (s : State) : Out :=
  let id : TroupeId := ⟨s.ev.ring, s.ev.idx⟩
  match takeReply id s.ev.op s.ev.lane (s.slice s.ev.unit_).replies with
  | none => .next s
  | some (r, rest) =>
      if replyReady s r then
        let s1 := s.modSlice s.ev.unit_ fun c => { c with replies := rest }
        match s1.savedOf id.ring with
        | some v =>
            .next (s1.modSaved v.nb.id fun x => { x with mail := x.mail ++ (mailOf v r).toList })
        | none => .next ((applyReply r s1).settle id)
      else .next s

end Sys2Proof.Machine
end

