-- ==== Sys2Proof/Machine/Solver.lean ====
section
/-! DEFINITION. Calliope, the solver sequencer: batches, their queue, the step arithmetic
(spec/14_solver_sequencer.md R303-R316). -/

namespace Sys2Proof.Machine

/-! ### Parts -/

/-- The solver state of a ring. -/
def State.solver (s : State) (ring : Nat) : Solver := (s.ring ring).solver

/-- Change the solver state of a ring. -/
def State.modSolver (s : State) (ring : Nat) (f : Solver → Solver) : State :=
  s.modRing ring fun r => { r with solver := f r.solver }

/-- The queue holds a slvini, so that without a batch the ring is WAITING (R303). -/
def Solver.idleState (v : Solver) : Nat :=
  if v.queue.any fun o => match o.instr with | .slvini _ => true | _ => false then 1 else 0

/-- Who the sequencer reads and writes as: the ring, with no TLB of a core (R315). -/
def State.solverParty (s : State) (ring : Nat) : Party := { asid := s.asidOf ring, ring := some ring }

/-- A 4-byte field of some bytes. -/
def word4 (b : List Byte) (o : Nat) : Nat := leNat ((b.drop o).take 4)

/-- An 8-byte field of some bytes. -/
def word8 (b : List Byte) (o : Nat) : Nat := leNat ((b.drop o).take 8)

/-! ### f32 arithmetic (R310, R311) -/

/-- Decode(0, x). -/
def f32v (x : Nat) : FV := fmtF32.decode x

/-- An f32 encoding that is finite. -/
def f32Finite (x : Nat) : Bool := match f32v x with | .fin .. => true | _ => false

/-- An f32 encoding of a zero. -/
def f32Zero (x : Nat) : Bool := (f32v x).isZero

/-- A result so far: f32 bits and the flags raised on the way. -/
abbrev Cal := Nat × BitVec 4

/-- Encode(0, x) with its flags and those already raised. -/
def calEnc (x : FVF) (fl : BitVec 4) : Cal :=
  let z := fmtF32.encode x.1 .nearest false
  (z.1, fl ||| x.2 ||| z.2)

/-- Encode(0, a × b + c), fused. -/
def calFma (a b c : Nat) (fl : BitVec 4) : Cal := calEnc (FV.fma (f32v a) (f32v b) (f32v c)) fl

/-- Encode(0, a × b). -/
def calMul (a b : Nat) (fl : BitVec 4) : Cal := calEnc ((f32v a).mul (f32v b)) fl

/-- Encode(0, a + b). -/
def calAdd (a b : Nat) (fl : BitVec 4) : Cal := calEnc ((f32v a).add (f32v b)) fl

/-- Encode(0, a − b). -/
def calSub (a b : Nat) (fl : BitVec 4) : Cal := calEnc ((f32v a).add (f32v b).negate) fl

/-- a / b with its flags: 0/0 and ∞/∞ are invalid, a finite value over zero divides by zero. -/
def FV.div (a b : FV) : FVF :=
  match a, b with
  | .nan, _ => (.nan, 0)
  | _, .nan => (.nan, 0)
  | .inf _, .inf _ => (.nan, flInvalid)
  | .inf n, y => (.inf (n != y.neg), 0)
  | x, .inf n => (.fin (x.neg != n) 0 0, 0)
  | .fin n1 m1 e1, .fin n2 m2 e2 =>
      if m2 = 0 then if m1 = 0 then (.nan, flInvalid) else (.inf (n1 != n2), flDivZero)
      else (FV.quot (.fin n1 m1 e1) (.fin n2 m2 e2), 0)

/-- Encode(0, a / b). -/
def calDiv (a b : FV) (fl : BitVec 4) : Cal := calEnc (a.div b) fl

/-- The maximum of R311's sc, NaN when either operand is. -/
def maxNan (a b : FV) : FV := if a.isNan || b.isNan then .nan else if a.le b then b else a

/-! ### Tables, descriptors, records (R306-R309) -/

/-- σ of a table. -/
def tabSigma (b : List Byte) : Nat := leNat (b.take 1)
/-- q of a table. -/
def tabQ (b : List Byte) : Nat := leNat ((b.drop 1).take 1)
/-- H of a table. -/
def tabH (b : List Byte) : Nat := leNat ((b.drop 2).take 1)
/-- a_ij of a table. -/
def tabA (b : List Byte) (i j : Nat) : Nat := word4 b (8 + 32 * i + 4 * j)
/-- b_i of a table. -/
def tabB (b : List Byte) (i : Nat) : Nat := word4 b (0x108 + 4 * i)
/-- The embedded weight of stage i. -/
def tabBh (b : List Byte) (i : Nat) : Nat := word4 b (0x128 + 4 * i)
/-- c_i of a table. -/
def tabC (b : List Byte) (i : Nat) : Nat := word4 b (0x148 + 4 * i)
/-- β_m of a table, m from 1. -/
def tabBeta (b : List Byte) (m : Nat) : Nat := word4 b (0x164 + 4 * m)

/-- A method table is valid (R306). -/
def tabValid (b : List Byte) : Bool :=
  let r8 := List.range 8
  1 ≤ tabSigma b && tabSigma b ≤ 8 && 1 ≤ tabQ b && tabQ b ≤ 15 && tabH b ≤ 4
    && ((b.drop 3).take 5).all (· == 0) && ((b.drop 0x178).take 8).all (· == 0)
    && ((List.range 92).all fun n => f32Finite (word4 b (8 + 4 * n)))
    && (r8.all fun i => r8.all fun j => (j < i && i < tabSigma b) || f32Zero (tabA b i j))
    && (r8.all fun i => i < tabSigma b || (f32Zero (tabB b i) && f32Zero (tabBh b i) && f32Zero (tabC b i)))
    && ((List.range 4).all fun m => m < tabH b || f32Zero (tabBeta b (m + 1)))

/-- N of a descriptor. -/
def descN (b : List Byte) : Nat := word4 b 0
/-- L of a descriptor. -/
def descL (b : List Byte) : Nat := word4 b 4
/-- FMIN of a descriptor. -/
def descFmin (b : List Byte) : Nat := word4 b 8
/-- FMAX of a descriptor. -/
def descFmax (b : List Byte) : Nat := word4 b 0xC
/-- HMIN of a descriptor. -/
def descHmin (b : List Byte) : Nat := word4 b 0x10

/-- The address of sample n's record (R307). -/
def recAddr (d : List Byte) (n : Nat) : Nat := (word8 d 0x18 + 32 * n) % 2 ^ 64
/-- The address of y of sample n. -/
def yAddr (d : List Byte) (n : Nat) : Nat := (word8 d 0x20 + n * word4 d 0x40) % 2 ^ 64
/-- The address of z of sample n. -/
def zAddr (d : List Byte) (n : Nat) : Nat := (word8 d 0x28 + n * word4 d 0x44) % 2 ^ 64
/-- The address of k_i of sample n. -/
def kAddr (d : List Byte) (n i : Nat) : Nat :=
  (word8 d 0x30 + n * word4 d 0x48 + i * word4 d 0x4C) % 2 ^ 64
/-- The address of history slot m of sample n. -/
def hAddr (d : List Byte) (n m : Nat) : Nat :=
  (word8 d 0x38 + n * word4 d 0x50 + m * word4 d 0x54) % 2 ^ 64

/-- A run of bytes reaches a scratchpad window. -/
def runInWindow (a n : Nat) : Bool := a < winEnd && ringWin < a + n

/-- The rules for HBASE, HSSTR and HMSTR are broken, under a table with history H (R307). -/
def historyBad (d : List Byte) (h : Nat) : Bool :=
  word8 d 0x38 % 4 != 0 || word4 d 0x50 % 4 != 0 || word4 d 0x54 % 4 != 0
    || (List.range (descN d)).any fun n => (List.range h).any fun m => runInWindow (hAddr d n m) (4 * descL d)

/-- A stage buffer of a descriptor reaches a scratchpad window, under a table with sigma stages (R307; log
entry 111). -/
def stagesBad (d : List Byte) (sigma : Nat) : Bool :=
  (List.range (descN d)).any fun n => (List.range sigma).any fun i => runInWindow (kAddr d n i) (4 * descL d)

/-- What a table installed beside a descriptor must satisfy: its stages' buffers and, with H above 0, its
history (R307). -/
def tabBesideBad (d tab : List Byte) : Bool :=
  stagesBad d (tabSigma tab) || (tabH tab != 0 && historyBad d (tabH tab))

/-- A descriptor breaks R307, with the table installed at that moment; without one, only the first stage's
buffer is judged, and the rest when a table is installed (log entry 111). -/
def descBad (d : List Byte) (tab : Option (List Byte)) : Bool :=
  let one := f32v 0x3F800000
  let zero := f32v 0
  let len := 4 * descL d
  descN d == 0 || 4096 < descN d || descL d == 0 || 65536 < descL d
    || !f32Finite (descFmin d) || !zero.lt (f32v (descFmin d)) || !(f32v (descFmin d)).le one
    || !f32Finite (descFmax d) || !one.le (f32v (descFmax d))
    || !f32Finite (descHmin d) || !zero.le (f32v (descHmin d))
    || word4 d 0x14 != 0 || (d.drop 0x58).any (· != 0)
    || word8 d 0x18 % 32 != 0 || word8 d 0x20 % 4 != 0 || word8 d 0x28 % 4 != 0 || word8 d 0x30 % 4 != 0
    || word4 d 0x40 % 4 != 0 || word4 d 0x44 % 4 != 0 || word4 d 0x48 % 4 != 0 || word4 d 0x4C % 4 != 0
    || ((List.range (descN d)).any fun n =>
          runInWindow (recAddr d n) 32 || runInWindow (yAddr d n) len || runInWindow (zAddr d n) len)
    || (match tab with | some t => tabBesideBad d t | none => stagesBad d 1)

/-- A sample is live: DONE, NONFIN and SMALL clear (R309). -/
def Sample.live (x : Sample) : Bool := x.status &&& 0x1C == 0

/-- Live samples of a batch (R314). -/
def Solver.liveCount (v : Solver) : Nat := (v.samples.filter Sample.live).length

/-! ### Requests, failure, release (R304, R313) -/

/-- Why the operation at the head of a solver queue stops short. -/
inductive SStop where
  | park (va : Nat) (c : Cause) (level : Nat) (kind : BitVec 8)
  | fail (err : Nat)
  /-- no link is up to the package an access goes to: the operation is tried again (R380) -/
  | cut
  deriving DecidableEq, Repr

/-- BADARG of R313. -/
def slBadarg : Nat := 1
/-- MEMFAULT. -/
def slMemfault : Nat := 2
/-- NOBATCH. -/
def slNobatch : Nat := 3

/-- The operation at the head of a queue is over. -/
def State.solverPop (s : State) (ring : Nat) : State :=
  s.modSolver ring fun v => { v with queue := v.queue.tail, pos := 0, hold := false }

/-- An operation fails: ERR and a KIND 4 record, and a batch enters ERROR; without one nothing else
changes (R313). -/
def State.solverFail (s : State) (ring err : Nat) (o : SolvOp) : State :=
  let v := s.solver ring
  let s1 := s.postRecord (s.asidOf ring)
    { s.ringRecord ring 4 .solver with
      iaddr := o.iaddr, code := err, grade := max v.grade o.a.g, tidx := o.by_.idx }
  (s1.solverPop ring).modSolver ring fun v =>
    { v with err := err, state := if v.claimed then 3 else v.idleState }

/-- Release the batch: its grant, slot and samples (R304). -/
def State.releaseBatch (s : State) (ring : Nat) : State :=
  let v := s.solver ring
  let s1 := if v.implicit || (v.granted && (s.ring ring).returns.contains 4) then s.returnGrant ring 4 else s
  s1.modSolver ring fun v =>
    { v with state := v.idleState, samples := [], desc := [], claimed := false, granted := false,
             implicit := false, reload := 0 }

/-- The batch of a ring with no live troupe is released once its queued operations have completed (R22, R304). -/
def State.releaseIdle (s : State) (ring : Nat) : State :=
  let v := s.solver ring
  if (s.troupesOf ring).isEmpty && v.queue.isEmpty && (v.claimed || v.granted) then s.releaseBatch ring else s

/-- Park the head of a solver queue (R253). -/
def State.parkSolver (s : State) (ring va : Nat) (c : Cause) (level : Nat) (kind : BitVec 8) : State :=
  (s.park ring (.solver ring) (BitVec.ofNat 64 va) c level kind).modSolver ring fun v => { v with hold := true }

/-- End the head of a queue as its stop says. -/
def State.solverStop (s : State) (ring : Nat) (o : SolvOp) (st : SStop) : State :=
  match st with
  | .park va c level kind => s.parkSolver ring va c level kind
  | .fail err => s.solverFail ring err o
  | .cut => s

/-- A read's stop as the sequencer takes it: a final fault is MEMFAULT (R313). -/
def RStop.solver : RStop → SStop
  | .park va c l => .park va c l kLoad
  | .final .. => .fail slMemfault
  | .cut => .cut

/-- A run of accesses of the sequencer: from the machine and the batch's grade so far, a value and the machine
after it, or why it stopped, and the batch's grade then (R315). -/
abbrev Sq (α : Type) := State → Nat → Except SStop (α × State) × Nat

/-- No access. -/
def Sq.done {α : Type} (a : α) : Sq α := fun s g => (.ok (a, s), g)

/-- Go on with what a run gave. -/
def Sq.andThen {α β : Type} (x : Sq α) (f : α → Sq β) : Sq β := fun s g =>
  match x s g with
  | (.error e, h) => (.error e, h)
  | (.ok (a, s1), h) => f a s1 h

/-- Run for each of a list in order. -/
def Sq.each {α β : Type} (f : α → Sq β) : List α → Sq (List β)
  | [] => Sq.done []
  | x :: xs => (f x).andThen fun y => (Sq.each f xs).andThen fun ys => Sq.done (y :: ys)

/-- Read a 4-byte element; the batch's grade takes that of its line or page (R315). -/
def Sq.load (ring va : Nat) : Sq Nat := fun s g =>
  match s.fetchData (s.solverParty ring) (va % 2 ^ 64) 4 with
  | .error e => (.error e.solver, g)
  | .ok (b, h) => (.ok (leNat b, s.countFlits (s.solverParty ring) (va % 2 ^ 64) 4), max g h)

/-- Write a 4-byte element with the batch's grade (R315). -/
def Sq.store (ring va x : Nat) : Sq Unit := fun s g =>
  match s.access (s.solverParty ring) (va % 2 ^ 64) { n := 4, wr := true, g := g } with
  | .ok site =>
      if s.cutOff site then (.error .cut, g) else (.ok ((), (s.sendTo site).writeSite site (leBytes x 4) g), g)
  | .replay c l => (.error (.park (va % 2 ^ 64) c l kStore), g)
  | .final .. => (.error (.fail slMemfault), g)

/-- Read elements 0 to n − 1 from an address. -/
def Sq.loads (ring va n : Nat) : Sq (List Nat) := Sq.each (fun l => Sq.load ring (va + 4 * l)) (List.range n)

/-- Write words at their addresses, in order. -/
def Sq.stores (ring : Nat) (ws : List (Nat × Nat)) : Sq Unit :=
  (Sq.each (fun x => Sq.store ring x.1 x.2) ws).andThen fun _ => Sq.done ()

/-- Perform a run for the ring's batch.  One that stops leaves the machine as it was, but for the batch's
grade (R315; log entry 110). -/
def Sq.run {α : Type} (x : Sq α) (ring : Nat) (f : α → Solver → Solver) (s : State) : State × Option SStop :=
  match x s (s.solver ring).grade with
  | (.error e, g) => (s.modSolver ring fun v => { v with grade := g }, some e)
  | (.ok (a, s1), g) => (s1.modSolver ring fun v => f a { v with grade := g }, none)

/-- A batch that the ring holds takes a grade (R315). -/
def State.raiseBatch (s : State) (ring g : Nat) : State :=
  s.modSolver ring fun v => if v.claimed then { v with grade := max v.grade g } else v

/-! ### slvtab and slvini -/

/-- CQ of a table (R311). -/
def tabCq (b : List Byte) : Lane := BitVec.ofNat 32 (calDiv (f32v 0xBF800000) (.fin false (tabQ b + 1) 0) 0).1

/-- Install a method table (R306, R307, R313). -/
def doSlvtab (ring : Nat) (o : SolvOp) (s : State) : State :=
  let v := s.solver ring
  let va := o.a.v.toNat
  let s1 := s.raiseBatch ring o.a.g
  if va % 64 != 0 then s1.solverFail ring slBadarg o
  else
    match s.fetchData (s.solverParty ring) va 384 with
    | .error e => s1.solverStop ring o e.solver
    | .ok (b, g) =>
        let s2 := (s1.raiseBatch ring g).countFlits (s.solverParty ring) va 384
        if !tabValid b || (v.claimed && tabBesideBad v.desc b) then s2.solverFail ring slBadarg o
        else
          (s2.modSolver ring fun v => { v with tab := some b, cq := tabCq b, tgrade := max g o.a.g }).solverPop ring

/-- Ask for the Calliope grant, or rely on the one the ring holds (R304). -/
def State.askCalliope (s : State) (ring : Nat) : State :=
  let s1 := s.modSolver ring fun v => { v with hold := true }
  if (s.ring ring).grants.contains 4 then
    { (s1.modSolver ring fun v => { v with granted := true, order := s.fresh }) with fresh := s.fresh + 1 }
  else s1.modDie (s.dieOf ring) fun d => { d with grantq := d.grantq ++ [{ who := .solver ring, cls := 4 }] }

/-- A record that R308 and R313 do not allow. -/
def recordBad (t h te atol rtol : Nat) : Bool :=
  let zero := f32v 0
  !f32Finite h || !zero.lt (f32v h) || !f32Finite t || !f32Finite te || !f32Finite atol
    || !zero.lt (f32v atol) || !f32Finite rtol || !zero.le (f32v rtol)

/-- The clamp of a sample that is not DONE: h, LAST, SMALL (R311). -/
def clampStep (t h te hmin : Nat) (fl : BitVec 4) : Nat × Bool × Bool × BitVec 4 :=
  let rem := calSub te t fl
  let last := (f32v rem.1).le (f32v h)
  let h1 := if last then rem.1 else h
  (h1, last, (f32v h1).lt (f32v hmin), rem.2)

/-- A sample as slvini initialises it from its record, with the flags of the clamp; none when R308 or R313 does
not allow the record (R308, R309, R311). -/
def sampleOf (hmin : Nat) (w : List Nat) : Option (Sample × BitVec 4) :=
  let t := nth w 0 0
  let h := nth w 1 0
  let te := nth w 2 0
  let atol := nth w 3 0
  let rtol := nth w 4 0
  if recordBad t h te atol rtol then none
  else
    let past := (f32v te).le (f32v t)
    let c := clampStep t h te hmin 0
    let h1 := if past then h else c.1
    let st := if past then 4 else c.2.1.toNat * 32 + c.2.2.1.toNat * 16
    some ({ t := BitVec.ofNat 32 t, h := BitVec.ofNat 32 h1, tEnd := BitVec.ofNat 32 te,
            atol := BitVec.ofNat 32 atol, rtol := BitVec.ofNat 32 rtol, e := BitVec.ofNat 32 (nth w 5 0),
            ts := BitVec.ofNat 32 (nth w 6 0), status := BitVec.ofNat 32 st },
          if past then 0 else c.2.2.2)

/-- Read and initialise the record of the next sample (R308, R309, R311). -/
def initSample (ring : Nat) (s : State) : State × Option SStop :=
  let v := s.solver ring
  let ra := recAddr v.desc v.samples.length
  Sq.run ((Sq.loads ring ra 8).andThen fun w =>
      match sampleOf (descHmin v.desc) w with
      | none => fun _ g => (.error (.fail slBadarg), g)
      | some x =>
          (Sq.stores ring [(ra + 4, x.1.h.toNat), (ra + 0x1C, x.1.status.toNat)]).andThen fun _ => Sq.done x)
    ring (fun x v => { v with flags := v.flags ||| x.2, samples := v.samples ++ [x.1] }) s

/-- Repeat a step that may stop. -/
def repeatStep (f : State → State × Option SStop) : Nat → State → State × Option SStop
  | 0, s => (s, none)
  | n + 1, s =>
      match f s with
      | (s1, some e) => (s1, some e)
      | (s1, none) => repeatStep f n s1

/-- Read the records of a claimed batch that are still to be read (R304 step 4). -/
def readRecords (ring : Nat) (o : SolvOp) (s : State) : State :=
  let v := s.solver ring
  let r := repeatStep (initSample ring) (descN v.desc - v.samples.length) s
  match r.2 with
  | some e => r.1.solverStop ring o e
  | none => (r.1.modSolver ring fun v => { v with state := 2 }).solverPop ring

/-- slvini: the descriptor, the request, and, once claimed, the records (R304, R313). -/
def doSlvini (ring : Nat) (o : SolvOp) (s : State) : State :=
  let v := s.solver ring
  if v.claimed && v.state = 1 then readRecords ring o s
  else
    let s1 := s.modSolver ring fun v => { v with flags := 0, err := 0 }
    let va := o.a.v.toNat
    if v.claimed || va % 64 != 0 then (s1.raiseBatch ring o.a.g).solverFail ring slBadarg o
    else
      match s1.fetchData (s1.solverParty ring) va 128 with
      | .error e => s1.solverStop ring o e.solver
      | .ok (b, g) =>
          if descBad b v.tab then s1.solverFail ring slBadarg o
          else
            let launch := (s.launchOf ring).lr.grade
            ((s1.countFlits (s1.solverParty ring) va 128).modSolver ring fun v =>
              { v with state := 1, daddr := o.a.v, desc := b, samples := [],
                       grade := maxOf [launch, v.tgrade, o.a.g, g] }).askCalliope ring

/-! ### slvstg and slvend -/

/-- u of stage i at element l: Σ a_ij × k_j[l], terms with a zero coefficient skipped (R310). -/
def stageSum (ring : Nat) (tab d : List Byte) (n i l : Nat) : Sq Cal :=
  (List.range i).foldl
    (fun acc j => acc.andThen fun u =>
      if f32Zero (tabA tab i j) then Sq.done u
      else (Sq.load ring (kAddr d n j + 4 * l)).andThen fun k => Sq.done (calFma (tabA tab i j) k u.1 u.2))
    (Sq.done (0, 0))

/-- z[l] of stage i: it is written before element l + 1 is read (R310). -/
def stageElem (ring : Nat) (tab d : List Byte) (x : Sample) (n i l : Nat) : Sq (BitVec 4) :=
  (Sq.load ring (yAddr d n + 4 * l)).andThen fun y =>
    (if i = 0 then Sq.done (y, 0)
     else (stageSum ring tab d n i l).andThen fun u => Sq.done (calFma x.h.toNat u.1 y u.2)).andThen fun z =>
      (Sq.store ring (zAddr d n + 4 * l) z.1).andThen fun _ => Sq.done z.2

/-- slvstg on one sample: TS, every z[l] in order, and the record (R308, R310). -/
def stageSample (i : Nat) (v : Solver) (ring n : Nat) (x : Sample) : Sq (Sample × BitVec 4) :=
  let tab := v.tab.getD []
  let d := v.desc
  let ts := calFma (tabC tab i) x.h.toNat x.t.toNat 0
  (Sq.each (stageElem ring tab d x n i) (List.range (descL d))).andThen fun fl =>
    (Sq.store ring (recAddr d n + 0x18) ts.1).andThen fun _ =>
      Sq.done ({ x with ts := BitVec.ofNat 32 ts.1 }, ts.2 ||| flAll fl)

/-- HEAD of a status word (R309). -/
def stHead (st : Nat) : Nat := bitsOf st 13 12
/-- HCNT of a status word. -/
def stHcnt (st : Nat) : Nat := bitsOf st 10 8
/-- ACCN of a status word. -/
def stAccn (st : Nat) : Nat := bitsOf st 31 16
/-- LAST of a status word. -/
def stLast (st : Nat) : Bool := bitsOf st 5 5 == 1

/-- What slvend carries from element to element: acc, bad, y'. -/
structure EndAcc where
  /-- acc and the flags so far -/
  acc : Cal := (0, 0)
  /-- bad -/
  bad : Bool := false
  /-- yhi of the elements done -/
  yhi : List Nat := []
  deriving DecidableEq, Repr

/-- u and û over the stages (R311). -/
def endSums (ring : Nat) (tab d : List Byte) (n l : Nat) : Sq (Nat × Nat × BitVec 4) :=
  (List.range (tabSigma tab)).foldl
    (fun acc i => acc.andThen fun u =>
      if f32Zero (tabB tab i) && f32Zero (tabBh tab i) then Sq.done u
      else
        (Sq.load ring (kAddr d n i + 4 * l)).andThen fun k =>
          let a := if f32Zero (tabB tab i) then (u.1, u.2.2) else calFma (tabB tab i) k u.1 u.2.2
          let b := if f32Zero (tabBh tab i) then (u.2.1, a.2) else calFma (tabBh tab i) k u.2.1 a.2
          Sq.done (a.1, b.1, b.2))
    (Sq.done (0, 0, 0))

/-- The history terms (R311). -/
def histSum (ring : Nat) (tab d : List Byte) (st n l : Nat) (u : Cal) : Sq Cal :=
  (List.range (stHcnt st)).foldl
    (fun acc j => acc.andThen fun u =>
      let m := j + 1
      let h := tabH tab
      if f32Zero (tabBeta tab m) then Sq.done u
      else
        (Sq.load ring (hAddr d n ((stHead st + h * 8 - m) % h) + 4 * l)).andThen fun x =>
          Sq.done (calFma (tabBeta tab m) x u.1 u.2))
    (Sq.done u)

/-- One element of slvend (R311). -/
def endElem (ring : Nat) (tab d : List Byte) (x : Sample) (n : Nat) (a : EndAcc) (l : Nat) : Sq EndAcc :=
  (Sq.load ring (yAddr d n + 4 * l)).andThen fun y =>
    (endSums ring tab d n l).andThen fun us =>
      (histSum ring tab d x.status.toNat n l (us.1, us.2.2)).andThen fun u =>
        let hi := calFma x.h.toNat u.1 y (a.acc.2 ||| u.2)
        let lo := calFma x.h.toNat us.2.1 y hi.2
        let m := fmtF32.encode (maxNan (f32v y).abs (f32v hi.1).abs) .nearest false
        let sc := calFma x.rtol.toNat m.1 x.atol.toNat lo.2
        let df := calSub hi.1 lo.1 sc.2
        let rr := calDiv (f32v df.1) (f32v sc.1) df.2
        let acc := calFma rr.1 rr.1 a.acc.1 rr.2
        Sq.done { acc := acc, bad := a.bad || !f32Finite hi.1, yhi := a.yhi ++ [hi.1] }

/-- fac (R311); 0x3F666666 is 0.9. -/
def stepFactor (d : List Byte) (cq e : Nat) (fl : BitVec 4) : Cal :=
  if f32Zero e then (descFmax d, fl)
  else
    let lg := calEnc (f32v e).log2 fl
    let pr := calMul lg.1 cq lg.2
    let ex := calEnc (f32v pr.1).exp2 pr.2
    let y := calMul 0x3F666666 ex.1 ex.2
    let lo := if (f32v (descFmin d)).le (f32v y.1) then y.1 else descFmin d
    (if (f32v lo).le (f32v (descFmax d)) then lo else descFmax d, y.2)

/-- What the judgement of a step gives: whether y and the history are written, words of the record, flags, the
new sample. -/
structure StepOut where
  /-- the step is accepted -/
  acc : Bool := false
  /-- words of the record: address and word, in order -/
  ws : List (Nat × Nat) := []
  /-- flags -/
  fl : BitVec 4 := 0
  /-- the sample after it -/
  x : Sample
  deriving DecidableEq, Repr

/-- The judgement of a step: what the record and the sample become (R311). -/
def judgeStep (tab d : List Byte) (cq n : Nat) (x : Sample) (e : Nat) (a : EndAcc) (fl : BitVec 4) : StepOut :=
  let ra := recAddr d n
  let st := x.status.toNat
  let h := x.h.toNat
  if a.bad || (f32v e).isNan then
    { ws := [(ra + 0x14, e), (ra + 0x1C, st ||| 8)], fl := fl,
      x := { x with e := BitVec.ofNat 32 e, status := BitVec.ofNat 32 (st ||| 8) } }
  else
    let fac := stepFactor d cq e fl
    let hn := calMul h fac.1 fac.2
    let acc := (f32v e).le (f32v 0x3F800000)
    let hh := tabH tab
    let t' := calAdd x.t.toNat h hn.2
    let t := if acc then if stLast st then (x.tEnd.toNat, hn.2) else t' else (x.t.toNat, hn.2)
    let head := if acc && hh != 0 then (stHead st + 1) % hh else stHead st
    let hcnt := if acc then if hh = 0 then stHcnt st else min hh (stHcnt st + 1) else 0
    let accn := if acc then min 65535 (stAccn st + 1) else stAccn st
    let done_ := acc && stLast st
    let c := clampStep t.1 hn.1 x.tEnd.toNat (descHmin d) t.2
    let h1 := if done_ then hn.1 else c.1
    let last := !done_ && c.2.1
    let small := !done_ && c.2.2.1
    let st1 := accn * 2 ^ 16 + head * 2 ^ 12 + hcnt * 2 ^ 8 + last.toNat * 32 + small.toNat * 16
      + done_.toNat * 4 + (!acc).toNat * 2 + acc.toNat
    { acc := acc, ws := [(ra, t.1), (ra + 4, h1), (ra + 0x14, e), (ra + 0x1C, st1)],
      fl := if done_ then t.2 else c.2.2.2,
      x := { x with t := BitVec.ofNat 32 t.1, h := BitVec.ofNat 32 h1, e := BitVec.ofNat 32 e,
                    status := BitVec.ofNat 32 st1 } }

/-- Words at consecutive addresses. -/
def rowAt (va : Nat) (l : List Nat) : List (Nat × Nat) :=
  (List.range l.length).map fun j => (va + 4 * j, nth l j 0)

/-- An accepted step writes y, then hist[HEAD] := k_0 when the table has a history (R311). -/
def keepStep (ring : Nat) (tab d : List Byte) (st n : Nat) (yhi : List Nat) : Sq Unit :=
  (Sq.stores ring (rowAt (yAddr d n) yhi)).andThen fun _ =>
    if tabH tab = 0 then Sq.done ()
    else
      (Sq.loads ring (kAddr d n 0) (descL d)).andThen fun k0 =>
        Sq.stores ring (rowAt (hAddr d n (stHead st)) k0)

/-- slvend on one sample: every element, the judgement, and its writes (R311). -/
def endSample (v : Solver) (ring n : Nat) (x : Sample) : Sq (Sample × BitVec 4) :=
  let tab := v.tab.getD []
  let d := v.desc
  ((List.range (descL d)).foldl
    (fun (acc : Sq EndAcc) l => acc.andThen fun a => endElem ring tab d x n a l)
    (Sq.done {})).andThen fun a =>
      let q := calDiv (f32v a.acc.1) (.fin false (descL d) 0) a.acc.2
      let e := calEnc (f32v q.1).sqrt q.2
      let r := judgeStep tab d v.cq.toNat n x e.1 a e.2
      (if r.acc then keepStep ring tab d x.status.toNat n a.yhi else Sq.done ()).andThen fun _ =>
        (Sq.stores ring r.ws).andThen fun _ => Sq.done (r.x, r.fl)

/-- Apply an operation to the next sample of the batch; one that is not live is skipped (R309). -/
def nextSample (ring : Nat) (f : Solver → Nat → Nat → Sample → Sq (Sample × BitVec 4)) (s : State) :
    State × Option SStop :=
  let v := s.solver ring
  let n := v.pos
  let x := nth v.samples n { status := 4 }
  if !x.live then (s.modSolver ring fun v => { v with pos := n + 1 }, none)
  else
    (f v ring n x).run ring (fun y v =>
      { v with pos := n + 1, flags := v.flags ||| y.2, samples := upd v.samples n fun _ => y.1 }) s

/-- Apply an operation to every sample still to be processed, in increasing order (R310, R311). -/
def everySample (ring : Nat) (o : SolvOp) (f : Solver → Nat → Nat → Sample → Sq (Sample × BitVec 4)) (s : State) :
    State :=
  let v := s.solver ring
  if v.state != 2 || v.tab.isNone then s.solverFail ring slNobatch o
  else
    let r := repeatStep (nextSample ring f) (v.samples.length - v.pos) s
    match r.2 with
    | some e => r.1.solverStop ring o e
    | none => r.1.solverPop ring

/-! ### slvst -/

/-- The word of slvst (R314). -/
def slvWord (v : Solver) : Word :=
  BitVec.ofNat 64 (v.flags.toNat * 2 ^ 48 + v.err * 2 ^ 32
    + (if v.claimed then descN v.desc else 0) * 2 ^ 16 + (if v.claimed then v.liveCount else 0))

/-- slvst: the word, and with .rel the release (R313, R314). -/
def doSlvst (ring : Nat) (rel : Bool) (d : BitVec 8) (o : SolvOp) (s : State) : State :=
  let v := s.solver ring
  let s1 := s.modTroupe o.by_ fun t =>
    match t.op? o.op with
    | some op => (t.writeS d { v := slvWord v, g := v.grade }).endOp op
    | none => t
  let s2 := s1.solverPop ring
  (if rel && v.claimed then s2.releaseBatch ring else s2).settle o.by_

/-! ### The queue (R305) -/

/-- The operation at the head of a ring's queue; one that reaches a batch in ERROR does nothing but slvst
(R313). -/
def solverHead (ring : Nat) (s : State) : State :=
  let v := s.solver ring
  match v.queue with
  | [] => s
  | o :: _ =>
      match o.instr with
      | .slvst f => doSlvst ring (f.sub == 1) f.d o s
      | .slvstRel f => doSlvst ring true f.d o s
      | i =>
          if v.state = 3 then s.solverPop ring
          else
            match i with
            | .slvtab _ => doSlvtab ring o s
            | .slvini _ => doSlvini ring o s
            | .slvstg f =>
                if v.state = 2 && v.tab.isSome && tabSigma (v.tab.getD []) ≤ f.imm.toNat then
                  s.solverFail ring slBadarg o
                else everySample ring o (stageSample f.imm.toNat) s
            | .slvend _ => everySample ring o endSample s
            | _ => s.solverPop ring

/-- The words of a sample's record, as the sequencer holds it (R308). -/
def Sample.words (x : Sample) : List Nat :=
  [x.t, x.h, x.tEnd, x.atol, x.rtol, x.e, x.ts, x.status].map fun w => w.toNat

/-- Write the record of a sample that a ring's batch holds; one that cannot be written stays as it is. -/
def writeRecord (ring : Nat) (s : State) (n : Nat) : State :=
  let v := s.solver ring
  ((Sq.stores ring (rowAt (recAddr v.desc n) (nth v.samples n {}).words)).run ring (fun _ v => v) s).1

/-- A save writes every record of the batch that a ring holds (R316 step 1); one not yet reloaded stands in its
record only. -/
def State.writeRecords (s : State) (ring : Nat) : State :=
  let v := s.solver ring
  if v.claimed && v.state != 1 then (List.range (v.samples.length - v.reload)).foldl (writeRecord ring) s else s

/-- Read the next sample of a restored batch again from its record (R316). -/
def reloadSample (ring : Nat) (s : State) : State × Option SStop :=
  let v := s.solver ring
  let n := v.samples.length - v.reload
  (Sq.loads ring (recAddr v.desc n) 8).run ring (fun w v =>
    let f := fun (i : Nat) => (BitVec.ofNat 32 (nth w i 0) : Lane)
    { v with
      reload := v.reload - 1,
      samples := upd v.samples n fun _ =>
        { t := f 0, h := f 1, tEnd := f 2, atol := f 3, rtol := f 4, e := f 5, ts := f 6, status := f 7 } }) s

/-- A restored batch whose records cannot be read fails, with no operation of the ring (R313, R316; log entry
169). -/
def State.reloadFail (s : State) (ring err : Nat) : State :=
  (s.postRecord (s.asidOf ring)
    { s.ringRecord ring 4 .solver with code := err, grade := (s.solver ring).grade }).modSolver ring fun v =>
      { v with err := err, state := 3, reload := 0, hold := false }

/-- Reload the samples of a restored batch from their records; an access that parks is tried again (R253,
R316). -/
def reloadSamples (ring : Nat) (s : State) : State :=
  let r := repeatStep (reloadSample ring) (s.solver ring).reload s
  match r.2 with
  | some (.park va c level kind) => r.1.parkSolver ring va c level kind
  | some (.fail err) => r.1.reloadFail ring err
  | some .cut => r.1
  | none => r.1

/-- Perform the operation at the head of a ring's queue, once a restored batch has its samples again. -/
def performSolver (ring : Nat) (s : State) : State :=
  if (s.solver ring).reload = 0 then solverHead ring s
  else
    let s1 := reloadSamples ring s
    if (s1.solver ring).hold || (s1.solver ring).reload != 0 then s1 else solverHead ring s1

/-- Rings of a die whose solver queue can be served. -/
def State.solverRings (s : State) (die : Nat) : List Nat :=
  (s.rings.filter fun r => r.core / 64 == die && !r.solver.queue.isEmpty && !r.solver.hold).map (·.id)

/-- The ring whose turn it is: the next after the one served last (R305). -/
def State.solverTurn (s : State) (die : Nat) : Option Nat :=
  let l := sortBy (fun a b => decide (a ≤ b)) (s.solverRings die)
  match l.find? fun r => (s.die die).solvRR < r with
  | some r => some r
  | none => l.head?

/-- SOLVER_QUEUE_SERVE: the sequencer of a die performs the next operation in turn (R305); a batch that nothing
uses any more is released (R304). -/
def execSolverQueueServe (s : State) : Out :=
  let die := s.ev.die
  match s.solverTurn die with
  | some r => .next ((performSolver r (s.modDie die fun d => { d with solvRR := r })).releaseIdle r)
  | none => .next s

/-- Samples claimed on a die's sequencer, and batches. -/
def State.solverLoad (s : State) (die : Nat) : Nat × Nat :=
  let l := s.rings.filter fun r => r.core / 64 == die && r.solver.claimed
  (l.length, (l.map fun r => descN r.solver.desc).foldl (· + ·) 0)

/-- The request of a die that is served next: the earliest to obtain its grant (R304). -/
def State.calliopeHead (s : State) (die : Nat) : Option Nat :=
  let l := s.rings.filter fun r => r.core / 64 == die && r.solver.granted && !r.solver.claimed
  (sortBy (fun a b => decide (a.solver.order ≤ b.solver.order)) l).head?.map (·.id)

/-- That request's batch and samples are free. -/
def State.calliopeFits (s : State) (die ring : Nat) : Bool :=
  let n := s.solverLoad die
  n.1 < 8 && n.2 + descN (s.solver ring).desc ≤ 4096

/-- CALLIOPE_GRANT: the request at the head claims its slots; its records are read, or those of a restored
batch reloaded (R304, R316). -/
def execCalliopeGrant (s : State) : Out :=
  let die := s.ev.die
  match s.calliopeHead die with
  | some r =>
      .next (if s.calliopeFits die r then
        let s1 := s.modSolver r fun v => { v with claimed := true, hold := false }
        (if (s.solver r).state = 1 then performSolver r s1 else reloadSamples r s1).releaseIdle r
      else s)
  | none => .next s

/-! ### The instructions (R312) -/

/-- A solver instruction joins its ring's queue; a 17th waits at issue (R305, R312). -/
def solverIssue (e : VEntry) (t : Troupe) (s : State) (op : Nat) : Option State :=
  let ring := t.id.ring
  if 16 ≤ (s.solver ring).queue.length then none
  else
    some (s.modSolver ring fun v =>
      let v1 := { v with queue := v.queue ++ [{ instr := e.instr, a := e.cap.a, by_ := t.id, op := op, iaddr := e.iaddr }] }
      if v1.state = 0 then { v1 with state := v1.idleState } else v1)

/-- Issue an instruction that only joins the queue. -/
def solverJoin (e : VEntry) (t : Troupe) (s : State) : VRes :=
  match solverIssue e t s 0 with
  | some s1 => .done s1
  | none => .wait .issue s

/-- slvtab (R312, R313). -/
def execSlvtab (f : Fields) (s : State) : Out := vectorInstr (.slvtab f) s solverJoin

/-- slvini (R312, R313). -/
def execSlvini (f : Fields) (s : State) : Out := vectorInstr (.slvini f) s solverJoin

/-- slvstg (R310, R312). -/
def execSlvstg (f : Fields) (s : State) : Out := vectorInstr (.slvstg f) s solverJoin

/-- slvend (R311, R312). -/
def execSlvend (f : Fields) (s : State) : Out := vectorInstr (.slvend f) s solverJoin

/-- Issue slvst: it also waits in the queue, its destination held (R312). -/
def slvstIssue (f : Fields) (e : VEntry) (t : Troupe) (s : State) : VRes :=
  match solverIssue e t s t.nextOp with
  | some s1 => .done (s1.setTroupe (t.startOp e { id := 0, instr := e.instr, sdest := sNum f.d }))
  | none => .wait .issue s

/-- slvst (R313, R314). -/
def execSlvst (f : Fields) (s : State) : Out := vectorInstr (.slvst f) s (slvstIssue f)

/-- slvst.rel (R313, R314). -/
def execSlvstRel (f : Fields) (s : State) : Out := vectorInstr (.slvstRel f) s (slvstIssue f)

end Sys2Proof.Machine
end

