-- ==== Sys2Proof/Machine/Loader.lean ====
section
/-! DEFINITION. The Elsan loader: descriptors, packages, frames, the swap of a format slot and the
format-slot instructions (spec/06_format_slots.md R129-R146, spec/03_numbers.md R68-R72). -/

namespace Sys2Proof.Machine

/-! ### Descriptors (R68-R72) -/

/-- A signed number of w bits. -/
def signedOf (w n : Nat) : Int := if 2 ^ (w - 1) ≤ n then (n : Int) - 2 ^ w else n

/-- A parametric descriptor's format; none when it breaks R68 to R70. -/
def parseParametric (b : List Byte) : Option Fmt :=
  let at_ := fun (i : Nat) => (nth b i 0).toNat
  let width := at_ 1
  let flags := at_ 2
  let sp := bitsOf flags 3 2
  let log := bitsOf flags 1 1 == 1
  let signed := bitsOf flags 0 0 == 1
  let e := at_ 3
  let f := at_ 4
  let bias := signedOf 16 (at_ 6 + 256 * at_ 7)
  let emax : Int := if sp = 1 then 2 ^ e - 2 else 2 ^ e - 1
  let special := if sp = 1 then Special.ieee else if sp = 2 then .nanOnly else .none
  if width < 2 || 32 < width || bitsOf flags 7 4 != 0 || sp == 3 || at_ 5 != 0 || (b.drop 8).any (· != 0)
      || signed.toNat + e + f != width || 8 < e then none
  else if log then
    if e < 1 || 6 < f || sp == 1 || decide (127 < (2 ^ e - 1 : Int) - bias) || decide (141 < bias) then none
    else some (.log signed e f bias special)
  else if 23 < f || (sp == 1 && decide (e < 2)) || decide (127 < emax - bias) || decide (1 - bias - f < -149) then
    none
  else some (.float signed e f bias special)

/-- One table entry; none when it is invalid (R71, R72). -/
def parseEntry (w : Nat) : Option TabEntry :=
  let cls := bitsOf w 31 30
  let ex := signedOf 9 (bitsOf w 28 20)
  let sg := bitsOf w 19 11
  if bitsOf w 10 0 != 0 || cls == 3 then none
  else if cls = 0 then
    if decide (ex < -149) || !(FV.fin false sg ex).lt (.fin false 1 128) then none
    else some { cls := .fin, neg := bitsOf w 29 29 == 1, exp := ex, sig := sg }
  else if bitsOf w 28 11 != 0 then none
  else some { cls := if cls = 1 then .inf else .nan, neg := bitsOf w 29 29 == 1, exp := 0, sig := 0 }

/-- A table descriptor's format; none when it breaks R68 or R71. -/
def parseTable (b : List Byte) : Option Fmt :=
  let width := (nth b 1 0).toNat
  if width < 2 || 8 < width || ((b.take 32).drop 2).any (· != 0) then none
  else
    let es := (List.range (2 ^ width)).map fun i => parseEntry (leNat (bytesAt b (32 + 4 * i) 4))
    if es.any Option.isNone then none else some (.table width (es.filterMap id))

/-- The format a descriptor denotes; none is BADDESC (R72). -/
def parseDescriptor (b : List Byte) : Option Fmt :=
  if b.head? = some 1 then parseParametric b
  else if b.head? = some 2 then parseTable b
  else none

/-! ### Packages (R131-R133) -/

/-- The statuses of R133. -/
def stBadPkg : Nat := 1
/-- PKGFAULT. -/
def stPkgFault : Nat := 2
/-- BADHASH. -/
def stBadHash : Nat := 3
/-- BADDESC. -/
def stBadDesc : Nat := 4
/-- BADVENDOR. -/
def stBadVendor : Nat := 5
/-- NOKEY. -/
def stNoKey : Nat := 6
/-- BADOWNER. -/
def stBadOwner : Nat := 7
/-- NOFRAME. -/
def stNoFrame : Nat := 8
/-- NOTBOUND. -/
def stNotBound : Nat := 9

/-- A loader's read under a context's translation; none is PKGFAULT: a fault of any kind, or a page
above the request's grade (R133). -/
def State.pkgRead (s : State) (asid g va n : Nat) : Option (List Byte) :=
  match s.readBytes { asid := asid } va n with
  | .ok (b, h) => if g < h then none else some b
  | .error _ => none

/-- DLEN is a length a descriptor can have. -/
def dlenOk (n : Nat) : Bool := n == 32 || (List.range 7).any fun w => n == 32 + 4 * 2 ^ (w + 2)

/-- DLEN matches the descriptor's CLASS and WIDTH, judged where R133 judges it. -/
def dlenMatches (n : Nat) (d : List Byte) : Bool :=
  let c := (nth d 0 0).toNat
  let w := (nth d 1 0).toNat
  if c = 1 && 2 ≤ w && w ≤ 32 then n == 32
  else if c = 2 && 2 ≤ w && w ≤ 8 then n == 32 + 4 * 2 ^ w
  else true

/-- Stage 2's checks of the header. -/
def pkgHeaderBad (h : List Byte) : Bool :=
  let blen := leNat (bytesAt h 12 4)
  leNat (bytesAt h 0 4) != 0x464D4B58 || leNat (bytesAt h 4 2) != 1 || leNat (bytesAt h 6 2) != 0
    || (bytesAt h 0xBA8 88).any (· != 0) || blen % 64 != 0 || blen < 64 || 2 ^ 22 < blen
    || !dlenOk (leNat (bytesAt h 8 4))

/-- Stage 5's checks: BADHASH, BADDESC, BADVENDOR, NOKEY, BADOWNER; else IHASH and the format (R133). -/
def pkgJudge (owner : Option (List Byte)) (h d b : List Byte) : Except Nat (List Byte × Fmt) :=
  let dh := bytesAt h 0x10 32
  let bh := bytesAt h 0x30 32
  if sha256 d != dh || sha256 b != bh then .error stBadHash
  else
    match parseDescriptor d with
    | none => .error stBadDesc
    | some f =>
        if !lmsVerify Config.vendorKey (bytesAt h 0x50 1452) (dh ++ bh) then .error stBadVendor
        else
          match owner with
          | none => .error stNoKey
          | some key =>
              if lmsVerify key (bytesAt h 0x5FC 1452) (dh ++ bh) then .ok (sha256 (dh ++ bh), f)
              else .error stBadOwner

/-- Stages 1 to 5 of R133. -/
def State.checkPackage (s : State) (asid : Nat) (addr : Word) (g : Nat) : Except Nat (List Byte × Fmt) :=
  let a := addr.toNat
  if a % 64 != 0 then .error stBadPkg
  else
    match s.pkgRead asid g a 0xC00 with
    | none => .error stPkgFault
    | some h =>
        if pkgHeaderBad h then .error stBadPkg
        else
          let dlen := leNat (bytesAt h 8 4)
          let blen := leNat (bytesAt h 12 4)
          let full := (dlen + 63) / 64 * 64
          match s.pkgRead asid g (a + 0xC00) full with
          | none => .error stPkgFault
          | some d =>
              if (d.drop dlen).any (· != 0) || !dlenMatches dlen d then .error stBadPkg
              else
                match s.pkgRead asid g (a + 0xC00 + full) blen with
                | none => .error stPkgFault
                | some b =>
                    let owner := (s.fw.owners.find? fun o => o.1 == (s.ctx asid).fn).map (·.2)
                    pkgJudge owner h (d.take dlen) b

/-! ### Frames (R129, R136) -/

/-- Which step of R136 gave a frame. -/
inductive FrameStep where
  | shared
  | inPlace
  | free
  deriving DecidableEq, Repr

/-- Choose a frame on a core for an image, given the frame the slot maps to there (R136).  Of several frames that
hold the image, the lowest-numbered is shared (DESIGN CHOICE, log entry 182). -/
def CoreSt.chooseFrame (c : CoreSt) (hash : List Byte) (cur : Option Nat) : Option (Nat × FrameStep) :=
  let fr := fun (j : Nat) => nth c.frames j {}
  let loadable := (List.range 8).map (· + 8)
  match loadable.find? fun j =>
      (fr j).ihash == hash && ((fr j).state == 2 || (fr j).state == 3) && !(fr j).pend with
  | some j => some (j, .shared)
  | none =>
      match (match cur with | some j => if (fr j).users = 1 && !(fr j).pend then some j else none | none => none) with
      | some j => some (j, .inPlace)
      | none =>
          (loadable.find? fun j => (fr j).users == 0 && (fr j).state != 2 && !(fr j).pend).map fun j => (j, .free)

/-- Change a frame of a core. -/
def State.modFrame (s : State) (core j : Nat) (f : Frame → Frame) : State :=
  s.modCore core fun c => { c with frames := upd c.frames j f }

/-- Reserve a chosen frame (R136). -/
def State.takeFrame (hash : List Byte) (s : State) (x : Nat × Nat × FrameStep) : State :=
  s.modFrame x.1 x.2.1 fun fr =>
    match x.2.2 with
    | .shared => { fr with users := fr.users + 1 }
    | .inPlace => { fr with pend := true }
    | .free => { fr with state := 2, users := 1, ihash := hash }

/-- A user leaves a frame (R129). -/
def State.leaveFrame (s : State) (x : Nat × Nat) : State :=
  s.modFrame x.1 x.2 fun fr => { fr with users := fr.users - 1 }

/-- Change a loadable slot of a context. -/
def State.modSlot (s : State) (asid slot : Nat) (f : SlotEnt → SlotEnt) : State :=
  s.modCtx asid fun c => { c with slots := upd c.slots (slot - 8) f }

/-- The cores on which a request maps a slot: those holding a ring to which it is available, and the
requesting ring's, while it is there (R136, log entry 155). -/
def State.slotCores (s : State) (asid slot ring : Nat) : List Nat :=
  (((s.rings.filter fun r => !r.ended && s.asidOf r.id == asid && s.slotAvail r.id slot).map (·.core))
    ++ ((s.ring? ring).toList.map (·.core))).eraseDups

/-- A frame chosen on each core; none when some core has none (R136). -/
def State.chooseAll (s : State) (hash : List Byte) (e : SlotEnt) (cores : List Nat) :
    Option (List (Nat × Nat × FrameStep)) :=
  let l := cores.map fun c =>
    ((s.core c).chooseFrame hash ((e.map.find? fun m => m.1 == c).map (·.2))).map fun x => (c, x.1, x.2)
  if l.any Option.isNone then none else some (l.filterMap id)

/-! ### The end of a request (R137) -/

/-- Write the status of a finished fmreq to its destination, with the grade of its A (R137, R142). -/
def State.endRequest (s : State) (r : FmReq) (status : Nat) : State :=
  match r.by_ with
  | none => s
  | some (id, op) =>
      (s.modTroupe id fun t =>
        match t.op? op with
        | some o =>
            match o.instr.fields with
            | some f => (t.writeS f.d { v := BitVec.ofNat 64 status, g := r.grade }).endOp o
            | none => t
        | none => t).settle id

/-- The slot becomes available to the launch of the troupe that bound it (R134). -/
def State.makeAvail (s : State) (ring slot : Nat) : State :=
  match s.ring? ring with
  | none => s
  | some _ => s.modLaunch (s.launchOf ring).id fun l =>
      { l with avail := if l.avail.contains slot then l.avail else l.avail ++ [slot] }

/-- Remove a request from the format manager. -/
def State.dropRequest (s : State) (r : FmReq) : State :=
  s.modFw fun w => { w with fm := w.fm.filter fun x => x != r }

/-- Begin a request that has passed R133: frames, then the mark, or BOUND at once for the bound image
(R135-R137). -/
def State.beginRequest (s : State) (r : FmReq) (hash : List Byte) (f : Fmt) : State :=
  let e := s.slotEnt r.asid r.slot
  let same := e.state == 3 && e.ihash == hash
  let cores := (s.slotCores r.asid r.slot r.ring).filter fun c => !(same && e.map.any fun m => m.1 == c)
  match s.chooseAll hash e cores with
  | none => (s.dropRequest r).endRequest r stNoFrame
  | some l =>
      let s1 := l.foldl (State.takeFrame hash) s
      let new := l.map fun x => (x.1, x.2.1)
      if same then
        let s2 := new.foldl (fun s x => s.modFrame x.1 x.2 fun fr => { fr with state := 3 }) s1
        (((s2.modSlot r.asid r.slot fun e => { e with map := e.map ++ new }).makeAvail r.ring r.slot).dropRequest
          r).endRequest r 0
      else
        (s1.modSlot r.asid r.slot fun e => { e with state := 1, next := some (hash, f, new) }).modFw
          fun w => { w with fm := w.fm.map fun x => if x = r then { x with going := true } else x }

/-- The fmreq that begins next: the first request not yet begun, once its slot is not draining; a launch's
binding in front of it comes first (R137, R141). -/
def State.nextRequest (s : State) : Option FmReq :=
  match s.fw.fm.find? fun r => !r.going with
  | some r =>
      let st := (s.slotEnt r.asid r.slot).state
      if r.launch.isSome ∨ st = 1 ∨ st = 2 then none else some r
  | none => none

/-- FORMAT_CHECK_COMPLETE: the checks of the next request end; it begins, or fails with its status
(R133). -/
def execFormatCheckComplete (s : State) : Out :=
  match s.nextRequest with
  | none => .next s
  | some r =>
      match s.checkPackage r.asid r.addr r.grade with
      | .error st => .next ((s.dropRequest r).endRequest r st)
      | .ok (hash, f) => .next (s.beginRequest r hash f)

/-- The frames a slot's swap has chosen. -/
def SlotEnt.chosen (e : SlotEnt) : List (Nat × Nat) := match e.next with | some (_, _, l) => l | none => []

/-- A stream holds an operation on a slot, issued before a mark and not completed (R138). -/
def Ring.streamUses (r : Ring) (slot : Nat) : Bool :=
  match r.stream with
  | some st => st.fmts.any fun x => x.1 == slot
  | none => false

/-- An operation naming a slot is outstanding in a context, saved streams included (R138). -/
def State.slotBusy (s : State) (asid slot : Nat) : Bool :=
  (s.troupes.any fun t => s.asidOf t.id.ring == asid && t.ops.any fun o => o.instr.slots.contains slot)
    || (s.rings.any fun r => s.asidOf r.id == asid && r.streamUses slot)
    || (s.cores.any fun c => (c.cq0 ++ c.cq1).any fun e =>
          s.asidOf e.ring == asid && (match e.fmt with | some x => x.1 == slot | none => false))
    || s.saved.any fun v => (s.launch v.nb.launch).asid == asid && v.rings.any fun r =>
          r.ring.streamUses slot
            || r.copies.any fun c => match c.2.fmt with | some x => x.1 == slot | none => false

/-- SLOT_DRAIN_COMPLETE: the last operation issued before the mark has completed, and frames chosen in
place are reconfigured (R135, R137). -/
def execSlotDrainComplete (s : State) : Out :=
  let asid := s.ev.asid
  let slot := s.ev.num
  let e := s.slotEnt asid slot
  if e.state = 1 ∧ s.slotBusy asid slot = false then
    let s1 := s.modSlot asid slot fun e => { e with state := 2 }
    match e.next with
    | some (hash, _, l) =>
        .next (l.foldl (fun s x =>
          s.modFrame x.1 x.2 fun fr =>
            if fr.pend then { fr with state := 2, ihash := hash, pend := false } else fr) s1)
    | none => .next s1
  else .next s

/-- Every frame that a slot's swap has chosen is ready (R137). -/
def State.framesReady (s : State) (asid slot : Nat) : Bool :=
  (s.slotEnt asid slot).chosen.all fun x =>
    let f := nth (s.core x.1).frames x.2 {}
    f.state == 3 && !f.pend

/-- A copy that stalled in its queue for a slot takes the format of the new binding, if the slot is
available to its ring (R138). -/
def State.giveFormat (s : State) (asid slot : Nat) (f : Fmt) : State :=
  let give := fun (e : CopyEnt) =>
    if e.nslot.map (· % 16) == some slot && e.fmt.isNone && !e.started && s.asidOf e.ring == asid && s.slotAvail e.ring slot then
      { e with fmt := some (slot, f) }
    else e
  { s with cores := s.cores.map fun c => { c with cq0 := c.cq0.map give, cq1 := c.cq1.map give } }

/-- The end of LOADING: the slot becomes BOUND, or UNBOUND when a release is pending, and the request
receives its result (R135, R137, R146). -/
def State.bindSlot (s : State) (asid slot : Nat) : State :=
  let e := s.slotEnt asid slot
  let new := e.chosen
  let old := if e.rel then e.map ++ new.filter fun x => !e.map.contains x
    else e.map.filter fun x => !new.contains x
  let s1 := old.foldl State.leaveFrame s
  let s2 := s1.modSlot asid slot fun e =>
    if e.rel then {}
    else
      match e.next with
      | some (hash, f, l) => { state := 3, ihash := hash, fmt := some f, map := l }
      | none => { e with state := 3 }
  match s2.fw.fm.find? fun r => r.going && r.asid == asid && r.slot == slot with
  | some r =>
      let s3 := if e.rel then s2 else s2.makeAvail r.ring slot
      ((match e.next with
        | some (_, f, _) => if e.rel then s3 else s3.giveFormat asid slot f
        | none => s3).dropRequest r).endRequest r 0
  | none => s2

/-- FRAME_READY: the reconfiguration of one frame of a core ends (`on`), or a slot all of whose chosen
frames are ready leaves LOADING (R129, R135, R137). -/
def execFrameReady (s : State) : Out :=
  if s.ev.on then
    .next (s.modFrame s.ev.core s.ev.num fun fr => if fr.state = 2 then { fr with state := 3 } else fr)
  else
    .next (if (s.slotEnt s.ev.asid s.ev.num).state = 2 && s.framesReady s.ev.asid s.ev.num then
      s.bindSlot s.ev.asid s.ev.num else s)

/-! ### The instructions (R142-R146) -/

/-- fmreq: a request to the format manager; its result comes when it ends (R143). -/
def execFmreq (f : Fields) (s : State) : Out :=
  scalarInstr (.fmreq f) s fun t s =>
    match t.nameFlag (.fmreq f) with
    | .named j t1 =>
        let a := readS s t f.a
        let r : FmReq :=
          { asid := s.asidOf t.id.ring, slot := f.ty.toNat, addr := a.v, grade := a.g,
            by_ := some (t.id, t.nextOp), ring := t.id.ring }
        .done ((s.setTroupe (t1.startOp (t.scalarEntry (.fmreq f) (some j))
          { id := 0, instr := .fmreq f, sdest := sNum f.d, grade := a.g })).modFw
            fun w => { w with fm := w.fm ++ [r] })
    | .full => .wait .issue s
    | _ => .fault { cause := .illop }

/-- The slot that a queued copy names or will name (R138, R156). -/
def CopyEnt.names (e : CopyEnt) (s : State) (slot : Nat) : Bool :=
  match e.instr with
  | .xldNt _ =>
      (match e.fmt with
       | some x => x.1
       | none => match e.nslot with
         | some n => n % 16
         | none => (s.ntSlot e.ring e.cap.c.v.toNat).getD 0 % 16) == slot
  | _ => false

/-- The operations that an fmfence waits for: the troupe's own, tracking copies among them, and with SUB 1
the ring's copies and the stream operation issued before it (R138, R144). -/
def fenceWaits (ring_ : Bool) (slot upto : Nat) (op : Option Nat) (t : Troupe) (s : State) : Bool :=
  let r := s.ring t.id.ring
  let c := s.core r.core
  (t.ops.any fun o => o.instr.slots.contains slot)
    || ((c.cq0 ++ c.cq1).any fun e =>
          e.ring == t.id.ring && (ring_ || e.uid == t.uid) && e.id < upto && e.names s slot)
    || (ring_ && r.streamUses slot && op == r.stream.map Stream.nth_)

/-- The instruction that a stream stands at has issued: it keeps formats, waits on a translation fault beyond its
argument block, or has stopped (R138, R144). -/
def Stream.issued (st : Stream) : Bool :=
  !st.fmts.isEmpty || st.state == 5 || (st.loaded && (st.wait == some .parked || st.wait == some .retry))

/-- fmfence: the vector side goes on once every operation naming the slot that was issued before has
completed (R144). -/
def execFmfence (f : Fields) (s : State) : Out :=
  vectorInstr (.fmfence f) s fun _ t s =>
    let mark := match t.vwait with
      | some (.fmfence n op) => (n, op)
      | _ => (s.fresh, (s.ring t.id.ring).stream.bind fun st => if st.issued then some st.nth_ else none)
    if fenceWaits (f.sub == 1) f.ty.toNat mark.1 mark.2 t s then .wait (.fmfence mark.1 mark.2) s else .done s

/-- The state word of fmq (R145). -/
def fmqWord (s : State) (ring slot : Nat) : Word :=
  let core := (s.ring ring).core
  if slot < 8 then
    BitVec.ofNat 64 (2 ^ 17 + (nth (s.core core).frames slot {}).users * 2 ^ 8 + slot * 2 ^ 4 + 4)
  else
    let e := s.slotEnt (s.asidOf ring) slot
    let fr := (e.map.find? fun m => m.1 == core).map (·.2)
    BitVec.ofNat 64 ((s.slotAvail ring slot).toNat * 2 ^ 17 + e.rel.toNat * 2 ^ 16
      + (match fr with | some j => (nth (s.core core).frames j {}).users % 256 | none => 0) * 2 ^ 8
      + fr.getD 15 * 2 ^ 4 + e.state)

/-- A part of IHASH, 0 for a slot that is UNBOUND or resident (R145). -/
def fmqHashWord (s : State) (ring slot part : Nat) : Word :=
  if slot < 8 then 0
  else BitVec.ofNat 64 (leNat (bytesAt (s.slotEnt (s.asidOf ring) slot).ihash (8 * part) 8))

/-- A long-latency scalar-side query whose value is the one at issue (R142, R145). -/
def scalarQuery (i : Instr) (f : Fields) (v : Word) (t : Troupe) (s : State) : SRes :=
  match t.nameFlag i with
  | .named j t1 =>
      .done (s.setTroupe (t1.startOp (t.scalarEntry i (some j))
        { id := 0, instr := i, sdest := sNum f.d, sres := [{ d := f.d, v := { v := v } }] }))
  | .full => .wait .issue s
  | _ => .fault { cause := .illop }

/-- The word that fmq and fmq.hash answer (R145). -/
def fmqAnswer (f : Fields) (t : Troupe) (s : State) : Word :=
  if f.sub == 1 then fmqHashWord s t.id.ring f.ty.toNat (f.imm.toNat % 4) else fmqWord s t.id.ring f.ty.toNat

/-- fmq (R145). -/
def execFmq (f : Fields) (s : State) : Out :=
  scalarInstr (.fmq f) s fun t s => scalarQuery (.fmq f) f (fmqAnswer f t s) t s

/-- fmq.hash (R145). -/
def execFmqHash (f : Fields) (s : State) : Out :=
  scalarInstr (.fmqHash f) s fun t s => scalarQuery (.fmqHash f) f (fmqAnswer f t s) t s

/-- A request for a slot of a context is in flight: queued, in its checks, or under way (R146). -/
def State.slotAsked (s : State) (asid slot : Nat) : Bool :=
  s.fw.fm.any fun r => r.asid == asid && r.slot == slot

/-- fmrel: NOTBOUND, or the release begins or becomes pending; of an UNBOUND slot whose request is still in
its checks it answers 0 and does nothing more (R146, log entry 153). -/
def execFmrel (f : Fields) (s : State) : Out :=
  scalarInstr (.fmrel f) s fun t s =>
    let asid := s.asidOf t.id.ring
    let slot := f.ty.toNat
    let e := s.slotEnt asid slot
    let out := fun (n : Nat) (s : State) =>
      SRes.done (s.modTroupe t.id fun t => t.writeS f.d { v := BitVec.ofNat 64 n })
    if e.rel || (e.state == 0 && !s.slotAsked asid slot) then out stNotBound s
    else if e.state = 0 then out 0 s
    else
      out 0 (s.modSlot asid slot fun e => { e with rel := true, state := if e.state = 3 then 1 else e.state })

end Sys2Proof.Machine
end

