-- ==== Sys2Proof/Machine/Grades.lean ====
section
/-! DEFINITION. The grade instructions (spec/17_grades_and_keys.md R378, R379). -/

namespace Sys2Proof.Machine

/-- The grade of the scratchpad line or page at an address, after the checks grd.m makes: PAGE, SPRANGE
and the translation causes (R379). -/
def State.gradeAt (s : State) (p : Party) (va : Nat) : Acc :=
  if 2 ^ 57 ≤ va then .final .page rHighBits
  else if inWindows va then
    match s.scratchAt p.ring va 1 with
    | none => .final .sprange 0
    | some (c, o, _) => .ok { locs := [], g := s.lineGrade c o, scratch := true }
  else
    match s.leafFor p.asid p.core va with
    | .fault reason level => s.xlatFault p.asid { n := 1 } .page reason level
    | .leaf l =>
        if l.kind == 3 && leafBadPA s.fw.wins l va then s.xlatFault p.asid { n := 1 } .page rBadPa 2
        else if s.extentAbsent (leafLoc s l va) then s.xlatFault p.asid { n := 1 } .extent 0 0
        else .ok { locs := [], g := l.grade, leaf := l }

/-- grd.m (R379): a replayable fault parks it, a final one is KIND 0. -/
def gradeOfMemory (f : Fields) (e : VEntry) (t : Troupe) (s : State) : VRes :=
  let va := e.cap.a.v + f.imm.signExtend 64
  match t.vwait with
  | some .parked => .wait .parked s
  | _ =>
      match s.gradeAt (s.ringParty t.id.ring) va.toNat with
      | .final c r => .fault { cause := c, reason := r }
      | .replay c level => .wait .parked (s.park t.id.ring (.instr t.id) va c level kLoad)
      | .ok site =>
          .done ((s.touch (s.ringParty t.id.ring) va.toNat site).modTroupe t.id fun t =>
            t.writeS f.d { v := BitVec.ofNat 64 site.g })

/-- grd: the grade of a register, of a vector register, or of memory, with grade 0 (R378, R379). -/
def execGrd (f : Fields) (s : State) : Out :=
  if f.sub == 1 then
    vectorInstr (.grd f) s fun e t s =>
      .done (s.setTroupe (t.writeS f.d { v := BitVec.ofNat 64 (readV t f.a e.cap.a).g }))
  else if f.sub == 2 then vectorInstr (.grd f) s (gradeOfMemory f)
  else
    scalarInstr (.grd f) s fun t s =>
      .done (s.setTroupe (t.writeS f.d { v := BitVec.ofNat 64 (readS s t f.a).g }))

/-- A move of a vector register with a new grade, of the move shape class (R84, R379). -/
def regrade (g : Nat → Nat) (f : Fields) (e : VEntry) (t : Troupe) (_ : State) : VOut :=
  let a := readV t f.a e.cap.a
  { vs := [{ d := f.d, mask := e.cap.k0, sh := resultShape .move [a.sh] a.sh.lane, g := g a.g }] }

/-- grraise: the value of A, its grade raised to g (R379). -/
def execGrraise (f : Fields) (s : State) : Out :=
  let g := fun (x : Nat) => max x (f.imm.toNat % 8)
  if f.sub == 1 then vectorInstr (.grraise f) s fun e => computeIssue (regrade g f e) e
  else
    scalarInstr (.grraise f) s fun t s =>
      let a := readS s t f.a
      .done (s.setTroupe (t.writeS f.d { v := a.v, g := g a.g }))

/-- grdecl.v after REGBUDGET: PRIV outside context 0 (R379). -/
def declassify (g : Nat → Nat) (f : Fields) (e : VEntry) (t : Troupe) (s : State) : VRes :=
  if t.overBudget (s.ring t.id.ring).vgen (regrade g f e t s).generals then .fault { cause := .regbudget }
  else if s.asidOf t.id.ring != 0 then .fault { cause := .priv }
  else computeIssue (regrade g f e) e t s

/-- grdecl: the value of A with grade g, in context 0 only (R379). -/
def execGrdecl (f : Fields) (s : State) : Out :=
  let g := fun (_ : Nat) => f.imm.toNat % 8
  if f.sub == 1 then vectorInstr (.grdecl f) s (declassify g f)
  else
    scalarInstr (.grdecl f) s fun t s =>
      if s.asidOf t.id.ring != 0 then .fault { cause := .priv }
      else .done (s.setTroupe (t.writeS f.d { v := (readS s t f.a).v, g := f.imm.toNat % 8 }))

end Sys2Proof.Machine
end

