-- ==== Sys2Proof/Machine/Bins.lean ====
section
/-! DEFINITION. Making troupes, spawn bins, tickets and intervals (spec/15_issue_and_launch.md R327-R343,
spec/01_machine.md R18, R19). -/

namespace Sys2Proof.Machine

/-! ### Making a troupe (R18, R19, R327) -/

/-- The issue slot of a core that holds the fewest troupes, the lowest on a tie (R327). -/
def State.freeIssueSlot (s : State) (core : Nat) : Nat :=
  let n := fun (k : Nat) => (s.troupes.filter fun t =>
    (s.ring t.id.ring).core == core && t.slot == k && t.live).length
  (List.range 4).foldl (fun b k => if n k < n b then k else b) 0

/-- The grid coordinate of a neighbourhood number (R322). -/
def launchCoord (l : LRec) (n : Nat) : Nat × Nat × Nat := (n % l.gx, n / l.gx % l.gy, n / l.gx / l.gy)

/-- A troupe as R18 gives it, at an entry address. -/
def State.newTroupe (s : State) (ring idx : Nat) (entry : Word) : Troupe :=
  let r := s.ring ring
  let l := (s.launchOf ring).lr
  let g := l.grade
  let c := launchCoord l (s.nbhd r.nb).n
  let first : List Word :=
    [BitVec.ofNat 64 c.1, BitVec.ofNat 64 c.2.1, BitVec.ofNat 64 c.2.2, l.args]
  { id := ⟨ring, idx⟩, pc := entry, clause := entry,
    s := (List.range 128).map fun i => { v := nth first i 0, g := g },
    k := (List.range 96).map fun i => { v := if i = 0 then allLanes else 0, g := g },
    v := List.replicate 64 { g := g }, utag := { g := g }, slot := s.freeIssueSlot r.core, age := s.tickOf ring, uid := s.fresh }

/-- Add a troupe. -/
def State.addTroupe (s : State) (t : Troupe) : State :=
  { s with troupes := s.troupes ++ [t], fresh := s.fresh + 1 }

/-- The lowest troupe index that no live troupe of a ring holds (R19). -/
def State.freeIndex (s : State) (ring : Nat) : Nat :=
  ((List.range 32).find? fun i => (s.troupe? ⟨ring, i⟩).isNone).getD 0

/-- The troupe that a bin's records make: payload in v0-v3, k0 naming the lanes (R19, R335). -/
def binTroupe (t : Troupe) (recs : List SRec) : Troupe :=
  let g := maxOf (recs.map (·.g))
  let reg := fun (j : Nat) =>
    ({ sh := generalOf fun i => match recs[i]? with | some r => nth r.p j 0 | none => 0, g := g } : VReg)
  { t with
    v := (List.range 4).map reg ++ t.v.drop 4,
    k := upd t.k 0 fun x => { x with v := maskOf (List.range recs.length) } }

/-- Create a troupe from a bin's records; below 4 general registers it raises REGBUDGET before its first
clause (R19, R86). -/
def State.spawnTroupe (s : State) (ring : Nat) (entry : Word) (recs : List SRec) : State :=
  let t := binTroupe (s.newTroupe ring (s.freeIndex ring) entry) recs
  let s1 := s.addTroupe t
  if (s.ring ring).vgen < 4 then
    let u := s.fetch (s.asidOf ring) (s.ring ring).core entry.toNat
    { { s1 with len := u.len }.takeFault t.id false entry t.k0 { cause := .regbudget } with len := s.len }
  else s1

/-! ### Bins (R333-R336) -/

/-- Change a bin of a core. -/
def State.modBin (s : State) (core j : Nat) (f : Bin → Bin) : State :=
  s.modCore core fun c => { c with bins := upd c.bins j f }

/-- The ready bins of a ring, in the order in which they became ready, lower number first (R335). -/
def State.readyBins (s : State) (ring : Nat) : List (Nat × Nat) :=
  let c := s.core (s.ring ring).core
  let l := (List.range 8).filterMap fun j =>
    let b := nth c.bins j {}
    match b.key, b.ready with
    | some k, some o => if k.1 = ring then some (o, j) else none
    | _, _ => none
  sortBy (fun a b => decide (a.1 < b.1) || (a.1 == b.1 && decide (a.2 ≤ b.2))) l

/-- The ring is below its troupe limit. -/
def State.belowLimit (s : State) (ring : Nat) : Bool :=
  (s.troupesOf ring).length < (s.ring ring).limit

/-- Launch the first ready bin of a ring when the ring is below its limit (R335). -/
def State.launchBin (s : State) (ring : Nat) : State :=
  match s.readyBins ring with
  | (_, j) :: _ =>
      if s.belowLimit ring then
        let core := (s.ring ring).core
        let b := nth (s.core core).bins j {}
        match b.key with
        | some (_, entry) => (s.modBin core j fun _ => {}).spawnTroupe ring entry b.recs
        | none => s
      else s
  | [] => s

/-- A bin becomes ready, and launches at once when the ring is below its limit (R335). -/
def State.readyBin (s : State) (core j : Nat) : State :=
  let b := nth (s.core core).bins j {}
  match b.key with
  | some (ring, _) =>
      if b.ready.isSome || b.recs.isEmpty then s
      else
        ({ (s.modBin core j fun b => { b with ready := some s.fresh }) with fresh := s.fresh + 1 }).launchBin ring
  | none => s

/-- The bin for a record under steps 1 and 2 of R334. -/
def State.binFor (s : State) (core : Nat) (key : Nat × Word) : Option Nat :=
  let c := s.core core
  match (List.range 8).find? fun j =>
      (nth c.bins j {}).key == some key && (nth c.bins j {}).recs.length < 64 with
  | some j => some j
  | none => (List.range 8).find? fun j => (nth c.bins j {}).key == none

/-- The filling bins of a core in the order in which their countdowns end, the lower bin first (R335). -/
def State.filling (s : State) (core : Nat) : List (Nat × Nat) :=
  sortBy (fun a b => decide (a.1 < b.1) || (a.1 == b.1 && decide (a.2 ≤ b.2)))
    ((List.range 8).filterMap fun j =>
      let b := nth (s.core core).bins j {}
      if b.recs.isEmpty || b.ready.isSome then none else some (b.deadline, j))

/-- The bins of a core whose countdowns have reached 0 become ready, in the order in which they did (R335). -/
def State.expireBins (s : State) (core : Nat) : State :=
  ((s.filling core).filter fun x => x.1 ≤ (s.die (core / 64)).tick).foldl (fun s x => s.readyBin core x.2) s

/-- Put a record into a bin; the first starts the countdown, the 64th makes it ready (R333, R335). -/
def State.binPut (s : State) (core j : Nat) (key : Nat × Word) (r : SRec) : State :=
  let s1 := s.modBin core j fun b =>
    { b with key := some key, recs := b.recs ++ [r],
             deadline := if b.recs.isEmpty then s.tickOf key.1 + 16 * (s.ring key.1).binN else b.deadline }
  if 64 ≤ (nth (s1.core core).bins j {}).recs.length then s1.readyBin core j else s1

/-! ### The overflow area (R334, R337) -/

/-- The byte address of slot j of an overflow area. -/
def overSlot (l : LRec) (j : Nat) : Nat := l.sova.toNat + 64 + 64 * j

/-- What placing or spilling a record gives; with no link up to the package of the overflow area it waits
(R380). -/
inductive Placed where
  | ok (s : State)
  | final (c : Cause) (reason : Nat)
  | park (va : Nat) (c : Cause) (level : Nat)
  | cut
  deriving DecidableEq, Repr

/-- A stopped device access as a spilling lane takes it. -/
def Placed.ofAcc (a : Acc × Nat) : Placed :=
  match a.1 with
  | .final c r => .final c r
  | .replay c l => .park a.2 c l
  | .ok _ => .cut

/-- The first of the slots from j whose VALID bit is clear. -/
def State.freeOverflow (s : State) (asid : Nat) (l : LRec) : Nat → Nat → Except (Acc × Nat) (Option Nat)
  | 0, _ => .ok none
  | n + 1, j =>
      match s.readBytes { asid := asid } (overSlot l j + 0x29) 1 with
      | .error e => .error e
      | .ok (b, _) => if (nth b 0 0).getLsbD 7 then s.freeOverflow asid l n (j + 1) else .ok (some j)

/-- The 64 bytes of a spilled record (R337). -/
def overBytes (entry : Word) (p : List Lane) (order n ridx : Nat) : List Byte :=
  leBytes entry.toNat 8 ++ (List.range 4).flatMap (fun j => leBytes (nth p j 0).toNat 4)
    ++ leBytes order 4 ++ leBytes 0 4 ++ leBytes (n % 2 ^ 60) 8 ++ leBytes (ridx % 32) 1 ++ leBytes 0x80 1
    ++ List.replicate 22 0

/-- Spill a record to its launch's overflow area (R334 step 3, R337). -/
def State.spill (s : State) (ring : Nat) (entry : Word) (r : SRec) : Placed :=
  let l := (s.launchOf ring).lr
  let asid := s.asidOf ring
  let p : Party := { asid := asid }
  if l.sova = 0 then .final .spawnfull 0
  else
    match s.readBytes p l.sova.toNat 8 with
    | .error e => Placed.ofAcc e
    | .ok (h, _) =>
        let live := leNat (h.take 4)
        let order := leNat (h.drop 4)
        if l.sovcap ≤ live then .final .spawnfull 0
        else
          match s.freeOverflow asid l l.sovcap 0 with
          | .error e => Placed.ofAcc e
          | .ok none => .final .spawnfull 0
          | .ok (some j) =>
              let hdr := leBytes (live + 1) 4 ++ leBytes (order + 1) 4
              match s.writeBytes p l.sova.toNat hdr { n := 8, wr := true, gradeChk := false } with
              | .error e => Placed.ofAcc e
              | .ok s1 =>
                  let x := s.ring ring
                  match s1.writeBytes p (overSlot l j) (overBytes entry r.p order (s.nbhd x.nb).n x.ridx)
                      { n := 64, wr := true, g := r.g } with
                  | .error e => Placed.ofAcc e
                  | .ok s2 => .ok (s2.countFlits p l.sova.toNat 64)

/-- Place a record: a bin, or the overflow area (R334). -/
def State.placeRecord (s : State) (ring : Nat) (entry : Word) (r : SRec) : Placed :=
  let core := (s.ring ring).core
  let s := s.expireBins core
  match s.binFor core (ring, entry) with
  | some j => .ok (s.binPut core j (ring, entry) r)
  | none => s.spill ring entry r

/-- A record in the overflow area: slot, entry, payload, spill order, grade. -/
structure OverRec where
  /-- slot -/
  slot : Nat
  /-- entry address -/
  entry : Word
  /-- payload -/
  p : List Lane
  /-- spill order -/
  order : Nat
  /-- grade of its page -/
  g : Nat
  deriving DecidableEq, Repr

/-- The record of slot j when it is VALID and the ring's own; an access of the drain that stops otherwise. -/
def State.overRec (s : State) (ring j : Nat) : Except (Acc × Nat) (Option OverRec) :=
  let l := (s.launchOf ring).lr
  let x := s.ring ring
  match s.readBytes { asid := s.asidOf ring } (overSlot l j) 64 with
  | .error e => .error e
  | .ok (b, g) =>
      let f := fun (o n : Nat) => leNat ((b.drop o).take n)
      .ok (if (nth b 0x29 0).getLsbD 7 && bitsOf (f 0x20 8) 59 0 == (s.nbhd x.nb).n % 2 ^ 60
          && bitsOf (f 0x28 1) 4 0 == x.ridx then
        some { slot := j, entry := BitVec.ofNat 64 (f 0 8), order := f 0x18 4, g := g,
               p := (List.range 4).map fun i => BitVec.ofNat 32 (f (8 + 4 * i) 4) }
      else none)

/-- Why a drain cannot read the overflow area now: the address, cause and level of a replayable fault (R253); none
where no link is up to its package (R380). -/
def overStop : Acc × Nat → Option (Option (Nat × Cause × Nat))
  | (.replay c n, va) => some (some (va, c, n))
  | (.ok _, _) => some none
  | (.final .., _) => none

/-- What a drain of a ring finds in the overflow area: the ring's records in spill order, or why one of its reads
stops (R253, R336, R337).  A read with a final fault finds no record (log entry 119). -/
def State.overflow (s : State) (ring : Nat) : Except (Option (Nat × Cause × Nat)) (List OverRec) :=
  let l := (s.launchOf ring).lr
  if l.sova = 0 then .ok []
  else
    match s.readBytes { asid := s.asidOf ring } l.sova.toNat 4 with
    | .error e => match overStop e with | some x => .error x | none => .ok []
    | .ok (h, _) =>
        if leNat h = 0 then .ok []
        else
          let rs := (List.range l.sovcap).map (s.overRec ring)
          match rs.findSome? fun r => match r with | .error e => overStop e | .ok _ => none with
          | some e => .error e
          | none =>
              .ok (sortBy (fun a b => decide (a.order ≤ b.order))
                (rs.filterMap fun r => match r with | .ok x => x | .error _ => none))

/-- Clear the VALID bit of a drained slot and lower the live count (R337). -/
def State.unspill (s : State) (ring j : Nat) : Except (Acc × Nat) State :=
  let l := (s.launchOf ring).lr
  let p : Party := { asid := s.asidOf ring }
  match s.readBytes p l.sova.toNat 4 with
  | .error e => .error e
  | .ok (h, _) =>
      match s.writeBytes p (overSlot l j + 0x29) [0] { n := 1, wr := true, gradeChk := false } with
      | .error e => .error e
      | .ok s1 =>
          s1.writeBytes p l.sova.toNat (leBytes (leNat h - 1) 4) { n := 4, wr := true, gradeChk := false }

/-- One step of a ring's drain: its oldest record enters a bin, which becomes ready when it is full or
no further record has its key; without a record the drain is over (R336).  A replayable fault parks the drain
(R253). -/
def State.drainStep (s : State) (ring : Nat) : State :=
  let l := (s.launchOf ring).lr
  match s.overflow ring with
  | .error (some (va, c, n)) => s.park ring (.drain ring) (BitVec.ofNat 64 va) c n kLoad
  | .error none => s
  | .ok [] => s.modRing ring fun r => { r with draining := false }
  | .ok (r :: rest) =>
      let core := (s.ring ring).core
      let s := (s.expireBins core).countFlits { asid := s.asidOf ring } l.sova.toNat (64 + 64 * l.sovcap)
      match s.binFor core (ring, r.entry) with
      | none => s
      | some j =>
          match s.unspill ring r.slot with
          | .error (.replay c n, va) => s.park ring (.drain ring) (BitVec.ofNat 64 va) c n kStore
          | .error _ => s
          | .ok s1 =>
              let s2 := s1.binPut core j (ring, r.entry) { p := r.p, g := r.g }
              if rest.any fun x => x.entry == r.entry then s2 else s2.readyBin core j

/-- A ring's drain is parked (R253). -/
def State.drainParked (s : State) (ring : Nat) : Bool :=
  (s.die (s.dieOf ring)).parked.any fun p => p.who == .drain ring

/-- A drain of a ring can go on: a read or write of it parks, it has nothing left, or there is a bin for its
oldest record (R336). -/
def State.canDrain (s : State) (ring : Nat) : Bool :=
  (s.ring ring).draining && !s.drainParked ring && (match s.overflow ring with
    | .error e => e.isSome
    | .ok [] => true
    | .ok (r :: _) =>
        (s.binFor (s.ring ring).core (ring, r.entry)).isSome
          && (match s.unspill ring r.slot with
              | .error (.replay .., _) => true
              | .error _ => false
              | .ok _ => true))

/-- Make every bin of a ring ready, after those whose countdowns have reached 0 already, and start the drain of its
records (R335, R336). -/
def State.flushBins (s : State) (ring : Nat) : State :=
  let core := (s.ring ring).core
  ((List.range 8).foldl (fun s j =>
      match (nth (s.core core).bins j {}).key with
      | some k => if k.1 = ring then s.readyBin core j else s
      | none => s) (s.expireBins core)).modRing ring fun r => { r with draining := true }

/-! ### spawn, binflush, bincfg (R339, R342, R343) -/

/-- Place the record of one lane of a spawn (R342). -/
def spawnLane (id : TroupeId) (o : Op) (s : State) (l : LaneRec) : State :=
  match s.placeRecord id.ring l.addr { p := l.vals, g := o.dgrade } with
  | .ok s1 => s1.modTroupe id fun t => t.setLane o.id l.lane .done
  | .final c r => s.faultLane id o.id l.lane c r
  | .park va c level => s.parkLane id o.id l.lane (BitVec.ofNat 64 va) c level kStore
  | .cut => s.modTroupe id fun t => t.setLane o.id l.lane .behind

/-- Place the records of every lane that is to be placed, in increasing lane order (R342). -/
def performSpawn (id : TroupeId) (op : Nat) (s : State) : State :=
  match s.troupe? id with
  | none => s
  | some t =>
      match t.op? op with
      | none => s
      | some o => ((o.lanes.filter fun l => l.st == .redo).foldl (spawnLane id o) s).tidyOp id op

/-- Issue spawn (R342): every write before it happens before the new troupes, window reductions included. -/
def spawnIssue (f : Fields) (e : VEntry) (t : Troupe) (s : State) : VRes :=
  if e.cap.k0 = 0 then .done s
  else if t.freeSlot.isNone || s.windowOwes t.uid (fun _ => true) then .wait .issue s
  else
    let off := f.sub == 1
    let c := readV t f.c e.cap.c
    let g := maxOf [e.cap.a.g, blockGrade t f.b.toNat 4, if off then c.g else 0]
    let o : Op :=
      { id := 0, instr := e.instr, slot := t.freeSlot, grade := g, dgrade := g,
        lanes := (lanesOf e.cap.k0).map fun i =>
          { lane := i, addr := e.cap.a.v + (if off then (c.sh.lane i).setWidth 64 else 0),
            vals := blockLane t f.b.toNat 4 i, st := .redo } }
    .done (performSpawn t.id t.nextOp (s.setTroupe (t.startOp e o)))

/-- spawn: one record per active lane (R342). -/
def execSpawn (f : Fields) (s : State) : Out := vectorInstr (.spawn f) s (spawnIssue f)

/-- binflush: every bin of the ring is ready, and its drain starts (R336, R343). -/
def execBinflush (f : Fields) (s : State) : Out :=
  vectorInstr (.binflush f) s fun _ t s => .done (s.flushBins t.id.ring)

/-- bincfg: the ring's n (R343). -/
def execBincfg (f : Fields) (s : State) : Out :=
  vectorInstr (.bincfg f) s fun e t s =>
    let n := if f.sub == 0 then f.imm.toNat else e.cap.a.v.toNat
    if n = 0 || 65536 < n then .fault { cause := .badarg }
    else .done (s.modRing t.id.ring fun r => { r with binN := n })

/-- BIN_TIMER_EXPIRY: the next countdown of a core's bins reaches 0 (R335). -/
def execBinTimerExpiry (s : State) : Out :=
  let core := s.ev.core
  .next <| match s.filling core with
    | (at_, j) :: _ =>
        if s.ev.op = j then
          (s.modDie (core / 64) fun d => { d with tick := max d.tick at_ }).readyBin core j
        else s
    | [] => s

/-- BIN_LAUNCH: the first ready bin of a ring below its limit becomes a troupe (R335). -/
def execBinLaunch (s : State) : Out := .next (s.launchBin s.ev.ring)

/-- SPAWN_DRAIN: one overflow record of a ring enters a bin (R336). -/
def execSpawnDrain (s : State) : Out :=
  .next (if s.canDrain s.ev.ring then s.drainStep s.ev.ring else s)

/-! ### Admission (R330, R331, R340) -/

/-- The cost of a class in A (R330). -/
def classCost (c : Nat) : Nat := nth [0, 28, 15, 20, 40, 6] c 0

/-- Rings of a launch's neighbourhood. -/
def LRec.rings (l : LRec) : Nat := l.w * l.h

/-- The costs held on a die: its rings' grants, and those of heads that wait for a place (R324, R330). -/
def State.heldCost (s : State) (die : Nat) : Nat :=
  ((s.rings.filter fun r => r.core / 64 == die).map fun r =>
      (r.grants.map classCost).foldl (· + ·) 0).foldl (· + ·) 0
    + ((s.launches.filter fun l => l.granted.contains die).map fun l =>
        l.lr.rings * classCost l.lr.tclass).foldl (· + ·) 0

/-- The grant budget of a die: what BASE leaves of its current budget (R330). -/
def Die.budget (d : Die) : Nat := d.total - d.base

/-- What a request adds to the costs held: nothing when its ring holds the class already. -/
def State.requestCost (s : State) (r : GReq) : Nat :=
  match r.who with
  | .ticket t _ => if (s.ring t.ring).grants.contains r.cls then 0 else classCost r.cls
  | .stream ring => if (suitableGrant (s.ring ring) r.cls).isSome then 0 else classCost r.cls
  | .solver ring => if (s.ring ring).grants.contains r.cls then 0 else classCost r.cls
  | .place _ n => n * classCost r.cls
  | .ring ring => if (s.ring ring).grants.contains r.cls then 0 else classCost r.cls

/-- The head of a die's queue fits the budget (R331). -/
def State.admissible (s : State) (die : Nat) : Bool :=
  match (s.die die).grantq with
  | r :: _ => s.heldCost die + s.requestCost r ≤ (s.die die).budget || s.requestCost r == 0
  | [] => false

/-- A ring takes a grant. -/
def State.takeGrant (s : State) (ring cls : Nat) : State :=
  s.modRing ring fun r => { r with grants := r.grants ++ [cls] }

/-- End a ticket's wait with a status (R340). -/
def State.endTicket (s : State) (t : TroupeId) (status : Nat) : State :=
  s.modTroupe t fun t => match t.wait with | some (.ticket _) => { t with wait := some (.ticketed status) } | _ => t

/-- Grant a request (R331, R340, R184, R304, R324). -/
def State.grantRequest (s : State) (die : Nat) (r : GReq) : State :=
  match r.who with
  | .ticket t _ =>
      if (s.ring t.ring).grants.contains r.cls then s.endTicket t 2
      else (s.takeGrant t.ring r.cls).endTicket t 0
  | .stream ring =>
      (match suitableGrant (s.ring ring) r.cls with
       | some c => s.modStream ring fun st => { st with relies := c }
       | none => (s.takeGrant ring r.cls).modStream ring fun st =>
          { st with implicit := r.cls, relies := r.cls }).askContexts ring
  | .solver ring =>
      let own := (s.ring ring).grants.contains r.cls
      let s1 := if own then s else s.takeGrant ring r.cls
      { (s1.modSolver ring fun v => { v with granted := true, implicit := !own, order := s.fresh }) with
        fresh := s.fresh + 1 }
  | .place l _ => s.modLaunch l fun l => { l with granted := l.granted ++ [die] }
  | .ring ring => if (s.ring ring).grants.contains r.cls then s else s.takeGrant ring r.cls

/-- ADMISSION_GRANT: the head of a die's queue is granted once its cost fits (R331). -/
def execAdmissionGrant (s : State) : Out :=
  let die := s.ev.die
  match (s.die die).grantq with
  | r :: _ =>
      .next (if s.admissible die then
        (s.modDie die fun d => { d with grantq := d.grantq.tail }).grantRequest die r
      else s)
  | [] => .next s

/-- The current budget of a C-die, 1500 A, which the firmware may lower (R2, R330). -/
def dieBudget : Nat := 1500

/-- GRANT_BUDGET_CHANGE: the firmware changes BASE and the current budget of a die, never above 1500 A;
grants held stay (R2, R330). -/
def execGrantBudgetChange (s : State) : Out :=
  let total := min dieBudget (nth s.ev.args 1 0)
  .next (s.modDie s.ev.die fun d => { d with base := min total (nth s.ev.args 0 0), total := total })

/-- Withdraw the ticket request of a troupe. -/
def State.dropTicket (s : State) (t : TroupeId) : State :=
  { s with dies := s.dies.map fun d =>
      { d with grantq := d.grantq.filter fun r => match r.who with | .ticket u _ => u != t | _ => true } }

/-- The deadline of a troupe's queued ticket. -/
def State.ticketDeadline (s : State) (t : TroupeId) : Option Nat :=
  match (s.die (s.dieOf t.ring)).grantq.find? fun r =>
      match r.who with | .ticket u _ => u == t | _ => false with
  | some r => match r.who with | .ticket _ d => d | _ => none
  | none => none

/-- TICKET_TIMEOUT: the request is withdrawn and D takes 1 (R340). -/
def execTicketTimeout (s : State) : Out :=
  let t : TroupeId := ⟨s.ev.ring, s.ev.idx⟩
  match s.ticketDeadline t with
  | some d =>
      .next (((s.modDie (s.dieOf t.ring) fun x => { x with tick := max x.tick d }).dropTicket t).endTicket t 1)
  | none => .next s

/-- ticket: 2 when the ring holds the class, else a place in the die's queue; A = 0 tries once (R340). -/
def execTicket (f : Fields) (s : State) : Out :=
  scalarInstr (.ticket f) s fun t s =>
    let ring := t.id.ring
    let c := f.imm.toNat % 8
    let a := (readS s t f.a).v
    let out := fun (n : Nat) (s : State) =>
      SRes.done (s.modTroupe t.id fun t => t.writeS f.d { v := BitVec.ofNat 64 n })
    match t.wait with
    | some (.ticketed n) => out n s
    | some (.ticket c) => .wait (.ticket c) s
    | _ =>
        if (s.ring ring).grants.contains c then out 2 s
        else
          let die := s.dieOf ring
          let d := s.die die
          if a = 0 then
            if d.grantq.isEmpty && decide (s.heldCost die + classCost c ≤ d.budget) then
              out 0 (s.takeGrant ring c)
            else out 1 s
          else
            let deadline := if a = BitVec.allOnes 64 then none else some (d.tick + a.toNat)
            .wait (.ticket c) (s.modDie die fun d =>
              { d with grantq := d.grantq ++ [{ who := .ticket t.id deadline, cls := c }] })

/-- The ring's stream or batch relies on its grant of a class (R184, R304). -/
def Ring.reliesOn (r : Ring) (c : Nat) : Bool :=
  (match r.stream with
   | some st => st.relies == c && st.state != 0 && st.state != 4
   | none => false)
    || (c == 4 && r.solver.granted)

/-- tkret: returns the ring's grant of a class, later when it is relied on (R340). -/
def execTkret (f : Fields) (s : State) : Out :=
  scalarInstr (.tkret f) s fun t s =>
    let ring := t.id.ring
    let c := f.imm.toNat % 8
    let r := s.ring ring
    if !r.grants.contains c then .done s
    else if r.reliesOn c then
      .done (s.modRing ring fun r => { r with returns := if r.returns.contains c then r.returns else r.returns ++ [c] })
    else .done (s.returnGrant ring c)

/-- phint: declares or ends the ring's compute-bound interval (R341). -/
def execPhint (f : Fields) (s : State) : Out :=
  scalarInstr (.phint f) s fun t s =>
    let ring := t.id.ring
    let a := (readS s t f.a).v.toNat
    let put := fun (x : Option Nat) => SRes.done (s.modRing ring fun r => { r with phint := x })
    let end_ := fun (n : Nat) => some (s.tickOf ring + 1024 * n)
    if f.sub == 2 then put none
    else if f.sub == 1 then
      if a % 4096 = 0 || 4096 ≤ a then .fault { cause := .badarg } else put (end_ a)
    else put (end_ f.imm.toNat)

/-- COMPUTE_BOUND_INTERVAL_EXPIRY: a ring's interval runs out (R341). -/
def execComputeBoundIntervalExpiry (s : State) : Out :=
  let ring := s.ev.ring
  match (s.ring ring).phint with
  | some d =>
      .next ((s.modDie (s.dieOf ring) fun x => { x with tick := max x.tick d }).modRing ring
        fun r => { r with phint := none })
  | none => .next s

end Sys2Proof.Machine
end

