-- ==== Sys2Proof/Machine/Handlers.lean ====
section
/-! DEFINITION. Fault handlers: the actions on records, the fault instructions, the host's actions, and
nflg (spec/16_faults_and_preemption.md R352-R357). -/

namespace Sys2Proof.Machine

/-! ### Actions on records (R353-R355) -/

/-- An action on a record (R353). -/
inductive FAct where
  | res
  | resM (mask : Word)
  | resRet (vals : List GW)
  | drop
  | dropEnd
  deriving DecidableEq, Repr

/-- Statuses of fres and fdrop (R352). -/
def stNoRec : Nat := 1
/-- KIND. -/
def stKind : Nat := 2

/-- A record of a context stops being pending. -/
def State.resolveRecord (s : State) (asid fseq : Nat) : State :=
  s.modCtx asid fun c => { c with recs := c.recs.filter fun r => r.fseq != fseq }

/-- Change a troupe that is live or saved (R353). -/
def State.modEither (s : State) (id : TroupeId) (f : Troupe → Troupe) : State :=
  match s.savedOf id.ring with
  | some v =>
      s.modSaved v.nb.id fun x =>
        { x with rings := x.rings.map fun r => { r with troupes := updWhere r.troupes (fun t => t.id == id) f } }
  | none => s.modTroupe id f

/-- The troupe is not stopped on a record any more. -/
def Troupe.unstop (t : Troupe) (fseq : Nat) : Troupe :=
  { t with stopped := t.stopped.filter (· != fseq) }

/-- Skip the faulting unit of a troupe: the first dispatched instruction leaves without effect, or the
scalar side goes on after the unit (R346, R353). -/
def Troupe.skipUnit (t : Troupe) (r : FRec) : Troupe :=
  if r.vside then
    match t.vq with
    | e :: rest => { (t.lowerFlag e.flag) with vq := rest, vwait := none }
    | [] => t
  else
    let t1 := { t with pc := t.pc + BitVec.ofNat 64 r.ulen, wait := none }
    if t.left = 0 then t1
    else if t.left = 1 then
      { t1 with cno := t.cno + 1, left := 0, code := [], seta := none, setb := none, named := 0, mile := false,
                miles := if t.mile then (t.miles + 1) % 2 ^ 32 else t.miles }
    else { t1 with left := t.left - 1 }

/-- Change a ring that is placed or saved. -/
def State.modRingEither (s : State) (ring : Nat) (f : Ring → Ring) : State :=
  match s.savedOf ring with
  | some v =>
      s.modSaved v.nb.id fun x =>
        { x with rings := x.rings.map fun r => if r.ring.id = ring then { r with ring := f r.ring } else r }
  | none => s.modRing ring f

/-- A troupe that is live or saved. -/
def State.either? (s : State) (id : TroupeId) : Option Troupe :=
  match s.savedOf id.ring with
  | some v => (v.rings.flatMap (·.troupes)).find? fun t => t.id == id
  | none => s.troupe? id

/-- A scalar-side skip that retires a milestone clause counts for the ring (R361). -/
def State.skipMile (s : State) (id : TroupeId) (r : FRec) : State :=
  match s.either? id with
  | some t =>
      if !r.vside && t.left == 1 && t.mile then
        s.modRingEither id.ring fun x => { x with miles := min (2 ^ 32 - 1) (x.miles + 1) }
      else s
  | none => s

/-- A lane that stands faulted in a record. -/
def LaneRec.recordedIn (l : LaneRec) (fseq : Nat) : Bool :=
  match l.st with
  | .faulted _ _ (some n) => n == fseq
  | _ => false

/-- Mark the faulted lanes of a record that a mask names for re-issue (R354). -/
def Troupe.markRedo (t : Troupe) (op fseq : Nat) (mask : Word) : Troupe :=
  t.modOp op fun o =>
    { o with
      lanes := o.lanes.map fun l =>
        if l.recordedIn fseq && mask.getLsbD l.lane then { l with st := .redo } else l }

/-- Drop lanes of an operation: they are complete, their arrival counts fall, and k0 loses them (R355).  A
scalar access has lane 0 only. -/
def Troupe.dropWhere (t : Troupe) (op : Nat) (p : LaneRec → Bool) : Troupe :=
  match t.op? op with
  | none => t
  | some o =>
      let gone := (o.lanes.filter p).map (·.lane)
      let t1 := t.modOp op fun o =>
        { o with lanes := o.lanes.filter fun l => !p l }
      let t2 := if isLoad o.instr then gone.foldl (fun t _ => t.lowerCounter o.ac) t1 else t1
      { t2 with k := upd t2.k 0 fun x => { x with v := x.v &&& ~~~(maskOf gone) } }

/-- Drop the faulted lanes of a record (R353, R355). -/
def Troupe.dropLanes (t : Troupe) (op fseq : Nat) : Troupe := t.dropWhere op fun l => l.recordedIn fseq

/-- Mark the faulted lanes of a record of a saved troupe: its restore drops them (R353, R367). -/
def Troupe.markDropped (t : Troupe) (op fseq : Nat) : Troupe :=
  t.modOp op fun o =>
    { o with lanes := o.lanes.map fun l => if l.recordedIn fseq then { l with st := .dropped } else l }

/-- Perform again the lanes of an operation that are marked (R354). -/
def State.reissue (s : State) (id : TroupeId) (op : Nat) : State :=
  match (s.troupe? id).bind fun t => t.op? op with
  | none => s
  | some o =>
      match o.instr with
      | .tdep _ => performTuple id op s
      | .tread _ => performTuple id op s
      | .ttake _ => performTuple id op s
      | .spawn _ => performSpawn id op s
      | _ => performOp id op s

/-- End an operation whose lanes are all complete, tdep with its mask (R297, R355). -/
def State.tidyAny (s : State) (id : TroupeId) (op : Nat) : State :=
  match (s.troupe? id).bind fun t => t.op? op with
  | none => s
  | some o => match o.instr with | .tdep _ => s.tidyDep id op | _ => s.tidyOp id op

/-- Perform an operation of a troupe that waits for earlier ones, or end a fence, once nothing that it
waits for is left (R235, R242, R269, R270). -/
def catchOp (id : TroupeId) (s : State) (op : Nat) : State :=
  match s.troupe? id with
  | none => s
  | some t =>
      match t.op? op with
      | none => s
      | some o =>
          let f := o.fields
          let col := fun (c : Nat) => if o.isFence then f.imm.getLsbD c else c == f.col.toNat
          if !o.waits || t.behind s o || s.windowWaits t.uid f.ord.toNat f.scp.toNat col then s
          else if o.isFence then (s.setTroupe (t.endOp o)).settle id
          else (((s.setTroupe (t.setLanes op .behind .redo)).reissue id op).tidyAny id op).settle id

/-- Perform what waited for earlier accesses of its troupe and waits no longer, in program order. -/
def State.catchUp (s : State) : State :=
  s.troupes.foldl (fun s t =>
    if t.ops.any Op.waits then (t.ops.map (·.id)).foldl (catchOp t.id) s else s) s

/-- A troupe ended by a handler: what it had dispatched is withdrawn (R353). -/
def Troupe.abandon (t : Troupe) : Troupe :=
  { t.vq.foldl (fun t e => t.lowerFlag e.flag) t with
    vq := [], wait := none, vwait := none, left := 0, reports := [] }

/-- Lanes of a troupe's operations that nothing will resolve any more are complete. -/
def Troupe.dropUnreported (t : Troupe) : Troupe :=
  t.reports.foldl (fun t op =>
    match t.op? op with
    | none => t
    | some o =>
        let gone := o.unreported
        let t1 := t.modOp op fun o =>
          { o with
            lanes := o.lanes.map fun l =>
              match l.st with | .faulted _ _ none => { l with st := .done } | _ => l }
        if isLoad o.instr then gone.foldl (fun t _ => t.lowerCounter o.ac) t1 else t1) t

/-- End a troupe as done, for its handler; its launch is marked ENDFAULT (R21, R353).  A saved troupe ends at
its restore. -/
def State.endFault (s : State) (id : TroupeId) : State :=
  let l := (s.launchOf id.ring).id
  let s1 := s.modLaunch l fun l => { l with code := if l.code = 0 then 14 else l.code }
  match s1.savedOf id.ring with
  | some _ => s1.modEither id fun t => { t with killed := true }
  | none =>
      match s1.troupe? id with
      | none => s1
      | some t =>
          let ops := t.reports
          let t1 := { t.dropUnreported.abandon with killed := false }
          let s2 := ((s1.unpark fun w => w == .instr id).dropTicket id).setTroupe t1
          ops.foldl (fun s op => s.tidyAny id op) (s2.beginEnd t1)

/-- An action on a KIND 0 record (R353). -/
def State.act0 (s : State) (asid : Nat) (r : FRec) (id : TroupeId) (act : FAct) : State × Nat :=
  let done := fun (f : Troupe → Troupe) =>
    ((((s.resolveRecord asid r.fseq).modEither id fun t => (f t).unstop r.fseq)).settle id, 0)
  let after := r.cause = .trap || r.cause = .sysc
  match act with
  | .res => done fun t => t
  | .drop =>
      if after then done fun t => t
      else
        (((((s.skipMile id r).resolveRecord asid r.fseq).modEither id fun t =>
          (t.skipUnit r).unstop r.fseq)).settle id, 0)
  | .dropEnd =>
      (((s.resolveRecord asid r.fseq).modEither id fun t => t.unstop r.fseq).endFault id, 0)
  | .resRet vals =>
      if r.cause = .sysc then
        done fun t => (List.range 4).foldl (fun t j =>
          t.writeS (BitVec.ofNat 8 (4 + j)) (nth vals j {})) t
      else (s, stKind)
  | .resM _ => (s, stKind)

/-- Faulted lanes of a record that still wait for a handler. -/
def State.lanesPending (s : State) (r : FRec) (id : TroupeId) : Word :=
  match (s.either? id).bind fun t => t.op? r.op with
  | some o => maskOf ((o.lanes.filter fun l => l.recordedIn r.fseq).map (·.lane))
  | none => 0

/-- An action on a KIND 1 record (R353-R355). -/
def State.act1 (s : State) (asid : Nat) (r : FRec) (id : TroupeId) (act : FAct) : State × Nat :=
  let left := s.lanesPending r id
  let over_ := fun (s : State) =>
    (s.resolveRecord asid r.fseq).modEither id fun t => t.unstop r.fseq
  let drop := fun (t : Troupe) =>
    if (s.savedOf id.ring).isSome then t.markDropped r.op r.fseq else t.dropLanes r.op r.fseq
  match act with
  | .res =>
      let s1 := over_ (s.modEither id fun t => t.markRedo r.op r.fseq left)
      (((s1.reissue id r.op).tidyAny id r.op).settle id, 0)
  | .resM mask =>
      if mask &&& left = 0 then (s, 0)
      else
        let s1 := s.modEither id fun t => t.markRedo r.op r.fseq mask
        let s2 := if left &&& ~~~mask = 0 then over_ s1 else s1
        (((s2.reissue id r.op).tidyAny id r.op).settle id, 0)
  | .drop =>
      let s1 := over_ (s.modEither id drop)
      ((s1.tidyAny id r.op).settle id, 0)
  | .dropEnd =>
      let s1 := over_ (s.modEither id drop)
      ((s1.tidyAny id r.op).endFault id, 0)
  | .resRet _ => (s, stKind)

/-- Resume a stopped stream (R204, R353): at the stopped instruction, or at its argument block when that
was never read, once it holds its contexts. -/
def State.resumeStream (s : State) (ring : Nat) : State :=
  match s.stream? ring with
  | none => s
  | some st =>
      if st.loaded then s.modStream ring fun st => { st with state := 2, fseq := none }
      else
        let s1 := s.modStream ring fun st => { st with state := 1, fseq := none }
        if st.ctx then startStream ring s1 else s1

/-- An action on a KIND 3 record (R353). -/
def State.act3 (s : State) (asid : Nat) (r : FRec) (act : FAct) : State × Nat :=
  let s1 := s.resolveRecord asid r.fseq
  match act with
  | .res =>
      match s.savedOf r.ring with
      | some _ => (s1.modRingEither r.ring fun x =>
          { x with stream := x.stream.map fun st => { st with state := 2, fseq := none } }, 0)
      | none => (s1.resumeStream r.ring, 0)
  | .dropEnd =>
      match s.savedOf r.ring with
      | some _ => (s1.modRingEither r.ring fun x =>
          { abortSample x with stream := x.stream.map fun st =>
              { st with state := 4, fseq := none, wait := none, left := 0, fmts := [], row := 0, implicit := 0,
                        nth_ := st.nth_ + 1 } }, 0)
      | none => ((s1.modStream r.ring fun st => { st with fseq := none }).endStream r.ring, 0)
  | _ => (s, stKind)

/-- Apply an action to the pending record of a context with an FSEQ: the state and the status (R352,
R353). -/
def State.resolve (s : State) (asid : Nat) (fseq : Word) (act : FAct) : State × Nat :=
  match (s.ctx asid).recs.find? fun r => r.fseq == fseq.toNat with
  | none => (s, stNoRec)
  | some r =>
      match r.kind, r.troupe with
      | 0, some id => s.act0 asid r id act
      | 1, some id => s.act1 asid r id act
      | 3, _ => s.act3 asid r act
      | _, _ => (s, stKind)

/-! ### The fault instructions (R352) -/

/-- The value frec writes: a word of the record's header, or of a lane's entry (R352). -/
def frecValue (r : Option FRec) (sub w : Nat) : GW :=
  let none_ : GW := { v := BitVec.allOnes 64 }
  match r with
  | none => none_
  | some r =>
      if sub = 0 then { v := BitVec.ofNat 64 (leNat ((r.header.drop (8 * w)).take 8)), g := r.grade }
      else
        match r.ents[w]? with
        | some e => { v := if sub = 1 then e.1 else e.2, g := r.grade }
        | none => none_

/-- frec: reads a pending record of the issuing troupe's context (R352). -/
def execFrec (f : Fields) (s : State) : Out :=
  vectorInstr (.frec f) s fun e t s =>
    let c := s.ctx (s.asidOf t.id.ring)
    let r := c.recs.find? fun r => r.fseq == e.cap.a.v.toNat
    let w := f.imm.toNat % (if f.sub == 0 then 8 else 64)
    .done (scalarResult e t s f.d (frecValue r f.sub.toNat w))

/-- Issue a fault instruction that acts on a record: its status goes to D with grade 0 (R352). -/
def actIssue (f : Fields) (act : Cap → FAct) (e : VEntry) (t : Troupe) (s : State) : VRes :=
  let r := s.resolve (s.asidOf t.id.ring) e.cap.a.v (act e.cap)
  .done (r.1.modTroupe t.id fun t => t.writeS f.d { v := BitVec.ofNat 64 r.2 })

/-- fres (R353). -/
def execFres (f : Fields) (s : State) : Out := vectorInstr (.fres f) s (actIssue f fun _ => .res)

/-- fres.m: the faulting lanes that B names (R353). -/
def execFresM (f : Fields) (s : State) : Out :=
  vectorInstr (.fresM f) s (actIssue f fun c => .resM c.b.v)

/-- fres.ret: the handler's s(B) to s(B + 3) become the troupe's s4 to s7 (R353). -/
def execFresRet (f : Fields) (s : State) : Out :=
  vectorInstr (.fresRet f) s (actIssue f fun c => .resRet c.more)

/-- fdrop (R353, R355). -/
def execFdrop (f : Fields) (s : State) : Out := vectorInstr (.fdrop f) s (actIssue f fun _ => .drop)

/-- fdrop.end (R353). -/
def execFdropEnd (f : Fields) (s : State) : Out :=
  vectorInstr (.fdropEnd f) s (actIssue f fun _ => .dropEnd)

/-! ### The host's actions (R353, R393) -/

/-- A code of STATUS in the command block (R393). -/
def cmdOk : Nat := 0
/-- BADCMD. -/
def cmdBad : Nat := 1
/-- DENIED. -/
def cmdDenied : Nat := 2
/-- BUSY. -/
def cmdBusy : Nat := 3
/-- NOSPACE. -/
def cmdNoSpace : Nat := 4
/-- NOCTX. -/
def cmdNoCtx : Nat := 5

/-- The command block of a function. -/
def State.block (s : State) (fn : Nat) : CmdBlock :=
  (s.fw.blocks.find? fun b => b.fn == fn).getD { fn := fn }

/-- Change the command block of a function. -/
def State.modBlock (s : State) (fn : Nat) (f : CmdBlock → CmdBlock) : State :=
  s.modFw fun w => { w with blocks := (w.blocks.filter fun b => b.fn != fn) ++ [f (s.block fn)] }

/-- Argument n of the acting function's command, the word at 0x08 + 8n of its block (R393). -/
def State.arg (s : State) (n : Nat) : Nat := (nth (s.block s.ev.fn).words n 0).toNat

/-- The bytes of the acting function's command from argument n on (R393). -/
def State.argBytes (s : State) (n : Nat) : List Byte := ((s.block s.ev.fn).words.drop n).flatMap fun w => leBytes w.toNat 8

/-- A command that the table of R393 has; FAULT_ACT with one of its five actions. -/
def CmdBlock.known (b : CmdBlock) : Bool :=
  1 ≤ b.opc && b.opc ≤ 9 && (b.opc != 6 || decide ((nth b.words 2 0).toNat < 5))

/-- The first command that waits ends: its result word, if it has one, then STATUS with DONE (R393). -/
def State.popCommand (s : State) (code : Nat) (result : Option Word) : State :=
  match s.fw.cmdq with
  | [] => s
  | fn :: rest =>
      (s.modBlock fn fun b =>
        { b with status := BitVec.ofNat 32 (2 ^ 31 + code),
                 words := match result with | some r => upd b.words 0 fun _ => r | none => b.words }).modFw fun w =>
        { w with cmdq := rest }

/-- Commands at the head of the queue that the table does not have end with BADCMD (R393; log entry 193). -/
def State.endUnknown (s : State) : State :=
  s.fw.cmdq.foldl (fun s _ =>
    match s.fw.cmdq with
    | [] => s
    | fn :: _ => if (s.block fn).known then s else s.popCommand cmdBad none) s

/-- The command being performed ends, and with it those behind it that the table does not have (R393). -/
def State.endCommand (s : State) (code : Nat) (result : Option Word) : State := (s.popCommand code result).endUnknown

/-- Cuchehild performs the first command that waits, when it has this OPC, for the function that wrote it
(R393). -/
def State.command (opc : Nat) (f : State → State) (s : State) : State :=
  match s.fw.cmdq with
  | [] => s
  | fn :: _ => if (s.block fn).opc = opc then f { s with ev := { s.ev with fn := fn } } else s

/-- A live context of a function: what a command may name (R392, R393). -/
def State.ctxOf? (s : State) (asid fn : Nat) : Option Ctx :=
  match s.ctx? asid with
  | some c => if c.fn = fn && asid != 0 then some c else none
  | none => none

/-- FAULT_ACT with one of its actions, numbered as R393 numbers them: its result is the status of R352. -/
def faultAct (n : Nat) (act : State → FAct) : State → State :=
  State.command 6 fun s =>
    if s.arg 2 != n then (if s.arg 2 < 5 then s else s.endCommand cmdBad none)
    else
      match s.ctxOf? (s.arg 0) s.ev.fn with
      | none => s.endCommand cmdNoCtx none
      | some _ =>
          let r := s.resolve (s.arg 0) (BitVec.ofNat 64 (s.arg 1)) (act s)
          r.1.endCommand cmdOk (some (BitVec.ofNat 64 r.2))

/-- FAULT_ACT with fres. -/
def execFaultActFres (s : State) : Out := .next (faultAct 0 (fun _ => .res) s)

/-- FAULT_ACT with fres.m: the mask is at 0x20. -/
def execFaultActFresM (s : State) : Out := .next (faultAct 1 (fun s => .resM (BitVec.ofNat 64 (s.arg 3))) s)

/-- FAULT_ACT with fres.ret: the four values from 0x20 on, each with grade 0. -/
def execFaultActFresRet (s : State) : Out :=
  .next (faultAct 2 (fun s => .resRet ((List.range 4).map fun j => { v := BitVec.ofNat 64 (s.arg (3 + j)) })) s)

/-- FAULT_ACT with fdrop. -/
def execFaultActFdrop (s : State) : Out := .next (faultAct 3 (fun _ => .drop) s)

/-- FAULT_ACT with fdrop.end. -/
def execFaultActFdropEnd (s : State) : Out := .next (faultAct 4 (fun _ => .dropEnd) s)

/-! ### Numeric flags (R357) -/

/-- Every earlier instruction of the troupe has recorded its flags (R357): no operation that can raise
some is outstanding. -/
def Troupe.flagsRecorded (t : Troupe) : Bool :=
  t.ops.all fun o => o.fl == 0 && !isAtomic o.instr

/-- A tracking copy of a troupe has still to report its norm flags (R211, R357). -/
def State.normsOwed (s : State) (t : Troupe) : Bool :=
  let c := s.core (s.ring t.id.ring).core
  (c.cq0 ++ c.cq1).any fun e => e.uid == t.uid && (match e.instr with | .xldNt _ => true | _ => false)

/-- Issue a form of nflg: what it writes to D and what it leaves of the flags. -/
def nflgIssue (f : Fields) (keep : BitVec 4 → BitVec 4) (value : Troupe → Word) (t : Troupe) (s : State) :
    VRes :=
  if t.flagsRecorded && !s.normsOwed t then
    .done (s.setTroupe
      { (t.writeS f.d { v := value t }) with sticky := keep t.sticky })
  else .wait .issue s

/-- nflg: D takes the sticky flags. -/
def execNflg (f : Fields) (s : State) : Out :=
  vectorInstr (.nflg f) s fun _ t s => nflgIssue f (fun x => x) (fun t => t.sticky.setWidth 64) t s

/-- nflg.clr: D takes the sticky flags, then those of m clear. -/
def execNflgClr (f : Fields) (s : State) : Out :=
  vectorInstr (.nflgClr f) s fun _ t s =>
    nflgIssue f (fun x => x &&& ~~~(f.imm.setWidth 4)) (fun t => t.sticky.setWidth 64) t s

/-- nflg.set: the flags of m are set; nothing is written to a register. -/
def execNflgSet (f : Fields) (s : State) : Out :=
  vectorInstr (.nflgSet f) s fun _ t s =>
    if t.flagsRecorded && !s.normsOwed t then
      .done (s.setTroupe { t with sticky := t.sticky ||| f.imm.setWidth 4 })
    else .wait .issue s

/-- nflg.def: D takes the deferred-flag word merged at the latest restore. -/
def execNflgDef (f : Fields) (s : State) : Out :=
  vectorInstr (.nflgDef f) s fun _ t s => nflgIssue f (fun x => x) (fun t => t.defl) t s

end Sys2Proof.Machine
end

