-- ==== Sys2Proof/Machine/Place.lean ====
section
/-! DEFINITION. Launch queues, launches, placement, the end of troupes, rings and neighbourhoods, and
completion records (spec/15_issue_and_launch.md R317-R327, spec/01_machine.md R13-R23,
spec/06_format_slots.md R134-R141, spec/18_host_fabric_firmware.md R394). -/

namespace Sys2Proof.Machine

/-! ### Launch queues (R317) -/

/-- The configuration with which a queue may start (R317). -/
def State.queueCfgOk (s : State) (q : LQueue) : Bool :=
  1 ≤ q.log && q.log ≤ 16
    && (match s.ctx? q.asid with | some c => c.fn == q.fn | none => false)

/-- A write of the dword with QEN and QPRIO (R317). -/
def State.writeQen (s : State) (n : Nat) (en : Bool) (prio : Nat) : State :=
  let ok := s.queueCfgOk (s.queue n)
  s.modQueue n fun q =>
    let q := { q with prio := prio }
    if en && !q.en then
      let q := if q.state = 2 then { q with head := q.tail } else q
      if ok then { q with en := true, state := 1, err := 0 } else { q with en := true, state := 2, err := 3 }
    else if !en && q.en then { q with en := false, state := if q.state = 1 then 0 else q.state }
    else q

/-- QUEUE_TAIL_WRITE: a function writes TAIL of one of its queues; of any other queue the write is
ignored, and nothing comes from the host while its link is down (R317, R392, R403). -/
def execQueueTailWrite (s : State) : Out :=
  .next (if s.fw.hostUp && (s.queue s.ev.queue).fn == s.ev.fn then
      s.modQueue s.ev.queue fun q => { q with tail := s.ev.val.setWidth 32 }
    else s)

/-- QEN_WRITE: a function writes the dword at 0x10 of one of its queues: QEN and QPRIO (R317); nothing comes from
the host while its link is down (R403). -/
def execQenWrite (s : State) : Out :=
  .next (if s.fw.hostUp && (s.queue s.ev.queue).fn == s.ev.fn then
      s.writeQen s.ev.queue (s.ev.val.getLsbD 5) (s.ev.val.toNat % 16)
    else s)

/-! ### Launch records (R318-R320) -/

/-- The record of 256 bytes (R319). -/
def LRec.ofBytes (b : List Byte) : LRec :=
  let f := fun (o n : Nat) => leNat ((b.drop o).take n)
  let w := fun (o : Nat) => (BitVec.ofNat 64 (f o 8) : Word)
  { seq := f 0 4, idem := bitsOf (f 6 2) 0 0 == 1, serial := bitsOf (f 6 2) 1 1 == 1, entry := w 8,
    args := w 0x10, gx := f 0x18 4, gy := f 0x1C 4, gz := f 0x20 4, w := f 0x24 1, h := f 0x25 1,
    n := f 0x26 1, l := f 0x27 1, s := f 0x28 1, g := f 0x29 1, tags := f 0x2A 1, grade := f 0x2B 1 % 8,
    scratch := f 0x2C 4, tclass := f 0x30 1, domain := f 0x32 2, mest := f 0x34 4, crec := w 0x38,
    sova := w 0x40, sovcap := f 0x48 4, slotpkg := (List.range 8).map fun j => w (0x50 + 8 * j), raw := b }

/-- BADREC (R320, R374). -/
def badRec (c : Ctx) (b : List Byte) (l : LRec) : Bool :=
  let f := fun (o n : Nat) => leNat ((b.drop o).take n)
  let high := fun (w : Word) => decide (2 ^ 57 ≤ w.toNat)
  f 4 2 != 1 || 4 ≤ f 6 2 || 8 ≤ f 0x2B 1 || f 0x31 1 != 0 || f 0x4C 4 != 0
    || ((b.drop 0x90).take 112).any (· != 0) || l.crec.toNat % 64 != 0 || l.sova.toNat % 64 != 0
    || high l.crec || high l.sova || high l.entry || 5 < l.tclass || 524288 < l.scratch || 64 < l.g
    || 64 < l.tags || l.domain != (if c.prot then c.domain else 0)

/-- BADSHAPE (R13). -/
def badShape (l : LRec) : Bool :=
  let grid := fun (n : Nat) => decide (n < 1 ∨ 2 ^ 20 < n)
  let side := fun (n : Nat) => decide (n < 1 ∨ 8 < n)
  grid l.gx || grid l.gy || grid l.gz || side l.w || side l.h || decide (24 < l.w * l.h)
    || decide (l.n < 1 ∨ 32 < l.n ∨ l.l < l.n ∨ 32 < l.l) || side l.s || l.w * l.h % l.s != 0

/-- Vector storage of a ring's troupe slots (R17). -/
def LRec.storage (l : LRec) : Nat := l.l * (248 * l.g + 512)

/-- Scratchpad of a ring in whole granules (R17, R147). -/
def LRec.spad (l : LRec) : Nat := (l.scratch + 4095) / 4096 * 4096

/-- NORES (R320). -/
def State.noRes (s : State) (l : LRec) : Bool :=
  decide (524288 < l.storage) || s.dies.any fun d => decide (d.budget < classCost l.tclass * l.rings)

/-- The status of the first check that an accepted record fails; 0 for none (R320). -/
def State.recStatus (s : State) (c : Ctx) (b : List Byte) (l : LRec) : Nat :=
  if badRec c b l then 12 else if badShape l then 11 else if s.noRes l then 13 else 0

/-- A queue has a record to read (R318); those of a function in reset are refused (R388). -/
def State.queueReady (s : State) (q : LQueue) : Bool :=
  q.en && q.state != 2 && q.head != q.tail && !(s.fw.vfReset.any fun v => v.1 == q.fn)

/-- The queue read next: the highest priority, round robin among equals (R318). -/
def State.nextQueue (s : State) : Option Nat :=
  let l := s.queues.zipIdx.filter fun x => s.queueReady x.1
  let top := maxOf (l.map fun x => x.1.prio)
  let c := (l.filter fun x => x.1.prio == top).map (·.2)
  match c.find? fun i => nth s.fw.qrr top 0 < i with
  | some i => some i
  | none => c.head?

/-- Slots a launch lists. -/
def LRec.listed (l : LRec) : List Nat :=
  (List.range 8).filterMap fun j => if nth l.slotpkg j 0 = 0 then none else some (8 + j)

/-- What a launch asks of the format manager, one request for each slot it lists (R137, R141). -/
def Launch.requests (a : Launch) : List FmReq :=
  if a.stage = .binding then
    a.lr.listed.map fun n =>
      { asid := a.asid, slot := n, addr := nth a.lr.slotpkg (n - 8) 0, grade := a.lr.grade, by_ := none,
        ring := 0, launch := some a.id }
  else []

/-- Accept a record: HEAD and ACCSEQ advance, the launch is checked, and its slots are to be bound (R318,
R320, R141). -/
def State.acceptRecord (s : State) (n : Nat) (b : List Byte) : State :=
  let q := s.queue n
  let l := LRec.ofBytes b
  let c := s.ctx q.asid
  let code := s.recStatus c b l
  let a : Launch :=
    { id := s.fresh, queue := n, fn := q.fn, asid := q.asid, prio := q.prio, lr := l, code := code,
      stage := if code = 0 then .binding else .ended, tick0 := (s.die 0).tick }
  { (s.modQueue n fun q => { q with head := q.head + 1, accseq := BitVec.ofNat 32 l.seq }) with
    launches := s.launches ++ [a], fresh := s.fresh + 1,
    fw := { s.fw with fm := s.fw.fm ++ a.requests } }

/-- LAUNCH_RECORD_ACCEPT: the front end reads the next record of a queue (R318). -/
def execLaunchRecordAccept (s : State) : Out :=
  match s.nextQueue with
  | none => .next s
  | some n =>
      let q := s.queue n
      let s1 := s.modFw fun w => { w with qrr := upd w.qrr q.prio fun _ => n }
      let stop := fun (e : Nat) => s1.modQueue n fun q => { q with state := 2, err := e }
      .next <| if (s.ctx? q.asid).isNone then stop 2 else
        match s.readBytes { asid := q.asid } (q.base.toNat + 256 * (q.head.toNat % 2 ^ q.log)) 256 with
        | .error _ => stop 2
        | .ok (b, _) =>
            if leNat (b.take 4) != (q.accseq + 1).toNat then stop 1 else s1.acceptRecord n b

/-! ### Binding at launch (R141) -/

/-- The requests of a launch leave the format manager. -/
def State.dropLaunchReqs (s : State) (l : Nat) : State :=
  s.modFw fun w => { w with fm := w.fm.filter fun r => r.launch != some l }

/-- End a launch before any ring is placed. -/
def State.failLaunch (s : State) (l code : Nat) : State :=
  (s.dropLaunchReqs l).modLaunch l fun l => { l with stage := .ended, code := code }

/-- Serve a launch's request for a slot (R141). -/
def State.bindRequest (s : State) (l : Launch) (r : FmReq) : State :=
  let e := s.slotEnt l.asid r.slot
  if e.state = 1 ∨ e.state = 2 then s.failLaunch l.id 10
  else
    match s.checkPackage l.asid r.addr r.grade with
    | .error st => s.failLaunch l.id st
    | .ok (hash, f) =>
        if e.state = 3 && e.ihash != hash then s.failLaunch l.id 10
        else
          let s1 := if e.state = 3 then s
            else s.modSlot l.asid r.slot fun _ => { state := 3, ihash := hash, fmt := some f }
          (s1.dropRequest r).modLaunch l.id fun l => { l with bound := l.bound ++ [r.slot] }

/-- The next request of a launch is the next that the format manager begins (R137). -/
def State.bindTurn (s : State) (l : Launch) : Option FmReq :=
  match s.fw.fm.find? fun r => !r.going with
  | some r => if r.launch = some l.id then some r else none
  | none => none

/-- Bind the next listed slot of a launch in its turn; with none left the launch may start (R137, R141). -/
def State.bindNext (s : State) (l : Launch) : State :=
  if l.lr.listed.all fun n => l.bound.contains n then s.modLaunch l.id fun l => { l with stage := .ready }
  else
    match s.bindTurn l with
    | some r => s.bindRequest l r
    | none => s

/-- LAUNCH_SLOT_BIND: one step of the binding of a launch (R141). -/
def execLaunchSlotBind (s : State) : Out :=
  match s.launch? s.ev.obj with
  | some l => .next (if l.stage = .binding then s.bindNext l else s)
  | none => .next s

/-! ### Resources of a core (R17) -/

/-- Amounts of a core's resources. -/
structure Amounts where
  /-- ring slots -/
  slots : Nat := 0
  /-- troupe slots -/
  troupes : Nat := 0
  /-- vector storage, bytes -/
  storage : Nat := 0
  /-- scratchpad, bytes -/
  spad : Nat := 0
  /-- copy tags -/
  tags : Nat := 0
  /-- loadable frames -/
  frames : Nat := 0
  deriving DecidableEq, Repr

/-- What a ring of a launch takes of a core; frames of its listed slots (R17, R325). -/
def LRec.amounts (l : LRec) : Amounts :=
  { slots := 1, troupes := l.l, storage := l.storage, spad := l.spad, tags := l.tags,
    frames := l.listed.length }

/-- The sum of numbers. -/
def sumOf (l : List Nat) : Nat := l.foldl (· + ·) 0

/-- A free loadable frame: a ready frame with no users counts (R136). -/
def Frame.isFree (f : Frame) : Bool := f.users == 0 && f.state != 2 && !f.pend

/-- What a core has free.  An ended ring keeps its scratchpad only (R22). -/
def State.coreFree (s : State) (core : Nat) : Amounts :=
  let all := s.rings.filter fun r => r.core == core
  let on := all.filter fun r => !r.ended
  { slots := 16 - on.length, troupes := 48 - sumOf (on.map (·.limit)),
    storage := 524288 - sumOf (on.map fun r => r.limit * (248 * r.vgen + 512)),
    spad := 524288 - sumOf (all.map (·.spLen)), tags := 64 - sumOf (on.map (·.tags)),
    frames := (((s.core core).frames.drop 8).filter Frame.isFree).length }

/-- A free range of a core's scratchpad (R147): of several that fit, the lowest, since the spec says only that it is
contiguous and 4 KiB aligned (DESIGN CHOICE, log entry 187); 0 for none wanted. -/
def State.freeRange (s : State) (core n : Nat) : Option Nat :=
  let all := (s.rings.filter fun r => r.core == core && r.spLen != 0).map fun r => (r.spBase, r.spLen)
  (List.range 128).findSome? fun j =>
    let b := 4096 * j
    if b + n ≤ 524288 && all.all (fun r => b + n ≤ r.1 || r.1 + r.2 ≤ b) then some b else none

/-- Slots that a ring of a launch needs mapped on its core: those available to it that are not
UNBOUND (R134, R141). -/
def State.neededSlots (s : State) (l : Launch) : List Nat :=
  ((l.lr.listed ++ l.avail).eraseDups).filter fun n => (s.slotEnt l.asid n).state != 0

/-- A frame for every slot a ring needs on a core: slot, frame and step for those not mapped there yet;
none when some slot has none, or is draining and the core is not among those of its swap (R136, R141). -/
def State.framesFor (s : State) (l : Launch) (core : Nat) :
    List Nat → State → Option (List (Nat × Nat × FrameStep))
  | [], _ => some []
  | n :: rest, c =>
      let e := s.slotEnt l.asid n
      if e.state != 3 then
        if e.chosen.any fun x => x.1 == core then s.framesFor l core rest c else none
      else if e.map.any fun m => m.1 == core then s.framesFor l core rest c
      else
        match (c.core core).chooseFrame e.ihash none with
        | none => none
        | some (j, st) =>
            (s.framesFor l core rest (State.takeFrame e.ihash c (core, j, st))).map
              fun r => (n, j, st) :: r

/-- Every slot a ring needs on a core has its frame there, ready (R141). -/
def State.framesStand (s : State) (l : Launch) (core : Nat) : Bool :=
  (s.neededSlots l).all fun n =>
    let e := s.slotEnt l.asid n
    ((if e.state = 3 then e.map else e.chosen).filter fun m => m.1 == core).any fun m =>
      let f := nth (s.core core).frames m.2 {}
      f.state == 3 && !f.pend

/-- A core has what one more ring of a launch takes, after amounts reserved against it (R17, R324). -/
def State.coreFits (s : State) (l : Launch) (core : Nat) (kept : Amounts) : Bool :=
  let f := s.coreFree core
  let a := l.lr.amounts
  a.slots + kept.slots ≤ f.slots && a.troupes + kept.troupes ≤ f.troupes
    && a.storage + kept.storage ≤ f.storage && a.spad + kept.spad ≤ f.spad
    && a.tags + kept.tags ≤ f.tags && (s.freeRange core a.spad).isSome
    && (match s.framesFor l core (s.neededSlots l) s with
        | some x => kept.frames + (x.filter fun y => y.2.2 == .free).length ≤ f.frames
        | none => false)

/-! ### Start (R321, R322) -/

/-- Every earlier launch of a queue has started, or ended without; with SERIAL every earlier one has
completed (R321). -/
def State.mayStart (s : State) (l : Launch) : Bool :=
  l.stage == .ready
    && s.launches.all fun x =>
        x.queue != l.queue || l.id ≤ x.id || (!l.lr.serial && x.stage != .binding && x.stage != .ready)

/-- The bounds of the four ranges (R322). -/
def splitBounds (f : List Nat) (t : Nat) : List (Nat × Nat) :=
  let f := if f.all (· == 0) then List.replicate 4 1 else f
  let total := sumOf f
  let b := fun (d : Nat) => if d = 4 then t else t * sumOf (f.take d) / total
  (List.range 4).map fun d => (b d, b (d + 1))

/-- The number of neighbourhoods of a launch. -/
def LRec.total (l : LRec) : Nat := l.gx * l.gy * l.gz

/-- Cores of a die on which one more ring of a launch fits (R322). -/
def State.fitCount (s : State) (l : Launch) (d : Nat) : Nat :=
  ((List.range 64).filter fun c => s.coreFits l (64 * d + c) {}).length

/-- LAUNCH_START: the Ringmaster hands out the ranges of a launch (R321, R322). -/
def execLaunchStart (s : State) : Out :=
  match s.launch? s.ev.obj with
  | none => .next s
  | some l =>
      .next (if s.mayStart l then
        let r := splitBounds ((List.range 4).map (s.fitCount l)) l.lr.total
        -- code changed before the submission is seen: no line cached earlier is used (R36)
        { (s.modLaunch l.id fun x =>
            { x with stage := .running, range := r, tick0 := (s.die 0).tick, started := s.fresh }) with
          fresh := s.fresh + 1,
          cores := s.cores.map fun c => { c with icache := c.icache.filter fun e => e.1 != l.asid } }
      else s)

/-! ### Placement (R323-R325) -/

/-- What a launch has for a die next: a saved neighbourhood, one that was flushed, or the next of its
range (R323, R362, R370).  A suspended context has nothing placed (R387). -/
inductive Head where
  | saved (v : Saved)
  | fresh (n : Nat)
  deriving DecidableEq, Repr

/-- The saved neighbourhoods of a launch on a die, in increasing n (R323, R370). -/
def State.savedOn (s : State) (l : Launch) (d : Nat) : List Saved :=
  sortBy (fun a b => decide (a.nb.n ≤ b.nb.n)) (s.saved.filter fun v => v.nb.launch == l.id && v.nb.die == d)

/-- The head of a launch on a die: its saved neighbourhoods first, in increasing n. -/
def State.headOf (s : State) (l : Launch) (d : Nat) : Option Head :=
  if l.stage != .running || (s.ctx l.asid).suspended then none
  else
    match s.savedOn l d with
    | v :: _ => some (.saved v)
    | [] =>
        match nth l.todo d [] with
        | n :: _ => some (.fresh n)
        | [] =>
            let r := nth l.range d (0, 0)
            if r.1 < r.2 then some (.fresh r.1) else none

/-- The waiting launches of a die in order of priority, then of start (R323). -/
def State.waiting (s : State) (d : Nat) : List Launch :=
  sortBy (fun a b => decide (b.prio < a.prio) || (a.prio == b.prio && decide (a.started ≤ b.started)))
    (s.launches.filter fun l => (s.headOf l d).isSome)

/-- The cores of a rectangle in ring-index order (R14). -/
def rectCores (d row0 col0 w h : Nat) : List Nat :=
  (List.range h).flatMap fun y => (List.range w).map fun x => 64 * d + 8 * (row0 + y) + col0 + x

/-- The corners for a shape, in the order of R324. -/
def corners (w h : Nat) : List (Nat × Nat) :=
  (List.range (9 - h)).flatMap fun r => (List.range (9 - w)).map fun c => (r, c)

/-- The reservation of a die that counts against a launch: one of strictly higher priority (R325). -/
def State.resvAgainst (s : State) (l : Launch) (d : Nat) : Option (Resv × LRec) :=
  match (s.die d).resv with
  | some r =>
      match s.launch? r.launch with
      | some x => if l.prio < x.prio then some (r, x.lr) else none
      | none => none
  | none => none

/-- Amounts reserved on a core against a launch. -/
def State.keptOn (s : State) (l : Launch) (d core : Nat) : Amounts :=
  match s.resvAgainst l d with
  | some (r, x) => if (rectCores d r.row0 r.col0 x.w x.h).contains core then x.amounts else {}
  | none => {}

/-- A neighbourhood of the launch drains on a core: none of its launch is placed there (R362). -/
def State.drainedCore (s : State) (l : Launch) (core : Nat) : Bool :=
  s.rings.any fun r =>
    r.core == core && (s.nbhd r.nb).launch == l.id
      && (match (s.nbhd r.nb).pre with | .drain .. => true | _ => false)

/-- A free route tag of a die against a launch; none wanted for a 1 × 1 neighbourhood (R174, R324). -/
def State.routeTag (s : State) (l : Launch) (d : Nat) : Option (Option Nat) :=
  if l.lr.rings ≤ 1 then some none
  else
    let free := (List.range 8).filter fun k => !(s.die d).tags.contains k
    let kept := match s.resvAgainst l d with | some (_, x) => if 1 < x.rings then 1 else 0 | none => 0
    if kept < free.length then free.head?.map some else none

/-- The corners to try for a launch's head on a die: one already chosen, at which frames are reconfigured,
before the others (R141, R324). -/
def Launch.cornersFirst (l : Launch) (d : Nat) : List (Nat × Nat) :=
  ((l.chosen.filter fun x => x.1 == d).map fun x => x.2) ++ corners l.lr.w l.lr.h

/-- Every frame that a head needs at a corner of a die is ready (R141). -/
def State.cornerStands (s : State) (l : Launch) (d row col : Nat) : Bool :=
  (rectCores d row col l.lr.w l.lr.h).all (s.framesStand l)

/-- Every slot that a head needs at a corner has a frame mapped for it (R141). -/
def State.cornerMapped (s : State) (l : Launch) (d row col : Nat) : Bool :=
  (rectCores d row col l.lr.w l.lr.h).all fun c =>
    match s.framesFor l c (s.neededSlots l) s with
    | some x => x.isEmpty
    | none => false

/-- The first corner at which a neighbourhood of a launch fits on a die (R324). -/
def State.corner (s : State) (l : Launch) (d : Nat) : Option (Nat × Nat) :=
  if (s.routeTag l d).isNone then none
  else
    (l.cornersFirst d).find? fun p =>
      (rectCores d p.1 p.2 l.lr.w l.lr.h).all fun c =>
        s.coreFits l c (s.keptOn l d c) && !s.drainedCore l c

/-- The target of a new reservation: the first rectangle with the fewest cores lacking a resource
(R325). -/
def State.target (s : State) (l : Launch) (d : Nat) : Nat × Nat :=
  let lack := fun (p : Nat × Nat) =>
    ((rectCores d p.1 p.2 l.lr.w l.lr.h).filter fun c => !s.coreFits l c {}).length
  match corners l.lr.w l.lr.h with
  | [] => (0, 0)
  | p :: ps => ps.foldl (fun b q => if lack q < lack b then q else b) p

/-- What a dispatcher does at a placement attempt. -/
inductive PlaceAct where
  /-- request the grants of a head -/
  | ask (l : Launch)
  /-- give the reservation to the highest waiting launch -/
  | reserve (l : Launch) (row col : Nat)
  /-- reserve frames for a head at a corner, some of them to be reconfigured (R141) -/
  | frames (l : Launch) (row col : Nat)
  /-- place a new head at a corner -/
  | place (l : Launch) (row col : Nat)
  /-- restore a saved head at a corner, or end it with the status of a check that its record fails -/
  | restore (l : Launch) (v : Saved) (status row col : Nat)
  deriving DecidableEq, Repr

/-- The grants of a launch's head on a die are held, or none is needed (R324). -/
def Launch.hasGrants (l : Launch) (d : Nat) : Bool := l.lr.tclass == 0 || l.granted.contains d

/-- The reservation goes to a launch: none stands, or one of lower priority or of equal priority and
later start (R325). -/
def State.takesResv (s : State) (l : Launch) (d : Nat) : Bool :=
  match (s.die d).resv with
  | none => true
  | some r =>
      match s.launch? r.launch with
      | none => true
      | some x => x.id != l.id && (x.prio < l.prio || (x.prio == l.prio && l.started < x.started))

/-- The ring slot that a new ring of a core takes: of those no ring holds, the lowest (R17, log entry
154). -/
def State.freeRingSlot (s : State) (core : Nat) : Nat :=
  ((List.range 16).find? fun n => !(s.rings.any fun r => r.core == core && !r.ended && r.rslot == n)).getD 0

/-- Reserve a frame on a core for each slot that a ring of a launch needs there; one that is reconfigured is
loading (R136, R141). -/
def State.mapSlots (s : State) (l : Launch) (core : Nat) : State :=
  match s.framesFor l core (s.neededSlots l) s with
  | none => s
  | some x => x.foldl (fun s y =>
      let e := s.slotEnt l.asid y.1
      (State.takeFrame e.ihash s (core, y.2.1, y.2.2)).modSlot l.asid y.1 fun e => { e with map := e.map ++ [(core, y.2.1)] }) s

/-- Zero a range of a core's scratchpad, its line grades and the errors in it (R147, R389). -/
def State.wipeSpad (s : State) (core base n : Nat) : State :=
  s.modCore core fun c =>
    { c with spad := cellWipe c.spad base n,
             spBad := c.spBad.filter fun a => a < base || base + n ≤ a,
             spgr := c.spgr.filter fun e => e.1 * 128 < base || base + n ≤ e.1 * 128 }

/-- A new ring of a neighbourhood on a core (R14, R16, R17, R147, R164, R330). -/
def State.newRing (s : State) (l : LRec) (nb core ridx : Nat) : Ring :=
  { id := s.fresh, nb := nb, ridx := ridx, core := core, rslot := s.freeRingSlot core, x := ridx % l.w,
    y := ridx / l.w, spBase := (s.freeRange core l.spad).getD 0, spLen := l.spad, stage := ridx % l.s,
    limit := l.l, vgen := l.g, tags := l.tags, grants := if l.tclass = 0 then [] else [l.tclass] }

/-- Add the ring of a core to a neighbourhood being placed, its scratchpad zero. -/
def State.addRing (l : Launch) (nb : Nat) (s : State) (x : Nat × Nat) : State :=
  let r := s.newRing l.lr nb x.2 x.1
  let s1 := s.wipeSpad x.2 r.spBase r.spLen
  { s1 with rings := s1.rings ++ [r], fresh := s1.fresh + 1 }

/-- Create the initial troupes of a ring (R18). -/
def State.initTroupes (n : Nat) (s : State) (ring : Nat) : State :=
  (List.range n).foldl (fun s i => s.addTroupe (s.newTroupe ring i (s.launchOf ring).lr.entry)) s

/-- A head leaves its launch's waiting work on a die. -/
def Launch.takeHead (l : Launch) (d : Nat) : Launch :=
  let l := { l with granted := l.granted.filter (· != d), asked := l.asked.filter (· != d),
                      chosen := l.chosen.filter fun x => x.1 != d }
  match nth l.todo d [] with
  | _ :: rest => { l with todo := upd l.todo d fun _ => rest }
  | [] => { l with range := upd l.range d fun r => (r.1 + 1, r.2) }

/-- A launch's reservation on a die is dropped (R325). -/
def State.dropResv (s : State) (d l : Nat) : State :=
  s.modDie d fun x => { x with resv := match x.resv with | some r => if r.launch = l then none else some r | none => none }

/-- Place neighbourhood n of a launch at a corner of a die (R324). -/
def State.placeNew (s : State) (l : Launch) (d n row col : Nat) : State :=
  let nb := s.fresh
  let tag := ((s.routeTag l d).getD none)
  let x : Nbhd :=
    { id := nb, launch := l.id, n := n, die := d, row0 := row, col0 := col, tag := tag, placed := nb }
  let s1 := ({ s with nbhds := s.nbhds ++ [x], fresh := nb + 1 }.modDie d fun y =>
    { y with tags := y.tags ++ tag.toList }).modLaunch l.id fun l => l.takeHead d
  let cores := rectCores d row col l.lr.w l.lr.h
  let s2 := ((List.range cores.length).zip cores).foldl (State.addRing l nb) s1
  ((s2.ringsOf nb).map (·.id)).foldl (State.initTroupes l.lr.n) (s2.dropResv d l.id)

/-! ### Pre-emption for a reservation (R326) -/

/-- The target of a reservation fits once some neighbourhoods are gone. -/
def State.targetFits (s : State) (l : Launch) (r : Resv) (d : Nat) (gone : List Nat) : Bool :=
  let s1 := { s with rings := s.rings.filter fun x => !gone.contains x.nb }
  let freed := gone.filterMap fun g => (s.nbhd g).tag
  let s2 := s1.modDie d fun x => { x with tags := x.tags.filter fun k => !freed.contains k }
  (s2.routeTag l d).isSome
    && (rectCores d r.row0 r.col0 l.lr.w l.lr.h).all fun c => s2.coreFits l c {}

/-- Neighbourhoods of strictly lower priority that hold resources on a target, the lowest priority first,
then the latest placed (R326). -/
def State.victims (s : State) (l : Launch) (r : Resv) (d : Nat) : List Nbhd :=
  let cores := rectCores d r.row0 r.col0 l.lr.w l.lr.h
  let prio := fun (n : Nbhd) => (s.launch n.launch).prio
  sortBy (fun a b => decide (prio a < prio b) || (prio a == prio b && decide (b.placed ≤ a.placed)))
    (s.nbhds.filter fun n =>
      n.die == d && !n.past && prio n < l.prio && (s.ringsOf n.id).any fun x => cores.contains x.core)

/-- The first victims whose release makes the target fit; all of them when none do. -/
def State.victimsNeeded (s : State) (l : Launch) (r : Resv) (d : Nat) : List Nbhd → List Nbhd → List Nbhd
  | got, [] => got
  | got, n :: rest =>
      if s.targetFits l r d (got.map (·.id)) then got else s.victimsNeeded l r d (got ++ [n]) rest

/-- PREEMPTION_WAIT_EXPIRY: a die's reservation has stood for its wait; the neighbourhoods it needs are
asked to give way, in every mode, without a notice (R326, R360).  A step that says so is the firmware's
setting of the wait. -/
def execPreemptionWaitExpiry (s : State) : Out :=
  let d := s.ev.die
  if s.ev.on then .next (s.modDie d fun x => { x with preWait := s.ev.num })
  else match (s.die d).resv with
  | none => .next s
  | some r =>
      match s.launch? r.launch with
      | none => .next s
      | some l =>
          let at_ := r.since + (s.die d).preWait
          let who := (s.victimsNeeded l r d [] (s.victims l r d)).map (·.id)
          .next ((who.foldl (fun s n => s.modNbhd n fun x =>
              if x.pre = .none then { x with pre := .asked 7 0 } else x) s).modDie d fun x =>
            { x with tick := max x.tick at_, resv := some { r with since := max x.tick at_ } })

/-! ### The end of troupes, rings and neighbourhoods (R21-R23) -/

/-- A slice holds something of a troupe. -/
def Slice.holds (c : Slice) (id : TroupeId) : Bool :=
  (c.ports.any fun p => p.any fun r => r.t == id) || (c.replies.any fun r => r.t == id)
    || c.parked.any fun p => p.2.t == id

/-- Only accesses that are still to be performed are left of an operation; `done` does not wait for
them (R21). -/
def Op.left (o : Op) : Bool :=
  o.isFence
    || ((isLoad o.instr || hasData o.instr)
        && o.lanes.all fun l => l.st == .done || l.st == .parked || l.st == .behind)

/-- A troupe that has executed done may retire, or what a retired one has left is over (R21). -/
def State.canRetire (s : State) (t : Troupe) : Bool :=
  t.ending && t.settled && t.vq.isEmpty && t.stopped.isEmpty && t.reports.isEmpty
    && (if t.live then (t.ops.all Op.left) && !(s.slices.any fun c => c.holds t.id) else t.ops.isEmpty)

/-- The index under which the operations of a retired troupe go on. -/
def Troupe.pastId (t : Troupe) : TroupeId := ⟨t.id.ring, 32 * (t.uid + 1) + t.id.idx⟩

/-- A parked access of an operation goes on under another troupe's name. -/
def ParkWho.rename (a b : TroupeId) (w : ParkWho) : ParkWho :=
  match w with
  | .lane t o l => .lane (if t = a then b else t) o l
  | w => w

/-- What a retired troupe still owes goes on under its own name: its index, issue slot and registers are
free (R21). -/
def State.leaveBehind (s : State) (t : Troupe) : State :=
  let id := t.pastId
  let u : Troupe :=
    { id := id, s := [], k := [], v := [], ending := true, ops := t.ops, nextOp := t.nextOp, uid := t.uid,
      pc := t.pc, clause := t.clause, cno := t.cno }
  let rest := if t.ops.isEmpty then [] else [u]
  { s with
    troupes := s.troupes.filter (fun x => x.id != t.id) ++ rest,
    dies := s.dies.map fun d =>
      { d with parked := d.parked.map fun p => { p with who := p.who.rename t.id id } } }

/-- An ended neighbourhood in which nothing is left behind is forgotten. -/
def State.forgetNbhd (s : State) (nb : Nat) : State :=
  if (s.nbhd nb).past && !(s.troupes.any fun t => (s.ring t.id.ring).nb == nb) then
    { s with rings := s.rings.filter fun r => r.nb != nb, nbhds := s.nbhds.filter fun n => n.id != nb }
  else s

/-- TROUPE_RETIRE: the index, troupe slot and vector storage are free (R21); a batch of its ring that nothing uses any
more is released (R22, R304). -/
def execTroupeRetire (s : State) : Out :=
  let id : TroupeId := ⟨s.ev.ring, s.ev.idx⟩
  match s.troupe? id with
  | some t =>
      .next <|
        if !s.canRetire t then s
        else if t.live then (s.leaveBehind t).releaseIdle id.ring
        else { s with troupes := s.troupes.filter fun u => u.id != id }.forgetNbhd (s.ring id.ring).nb
  | none => .next s

/-- A bin of a ring holds records. -/
def State.hasBins (s : State) (r : Ring) : Bool :=
  (s.core r.core).bins.any fun b => match b.key with | some k => k.1 == r.id | none => false

/-- A copy of a ring is in a queue of its core. -/
def State.hasCopies (s : State) (r : Ring) : Bool :=
  ((s.core r.core).cq0 ++ (s.core r.core).cq1).any fun e => e.ring == r.id

/-- The stream of a ring is over: never started, or ended. -/
def Ring.streamOver (r : Ring) : Bool :=
  match r.stream with
  | some st => st.state == 0 || st.state == 4
  | none => true

/-- Records of a ring still wait to become troupes (R22); an overflow area that cannot be read yet may hold
some. -/
def State.hasRecords (s : State) (r : Ring) : Bool :=
  s.hasBins r || (match s.overflow r.id with | .ok l => !l.isEmpty | .error _ => true)

/-- A neighbourhood has been flushed and waits for its started copies (R362). -/
def Nbhd.flushed (n : Nbhd) : Bool := match n.pre with | .flush _ => true | _ => false

/-- A ring without a live troupe can make a step towards its end (R22): launch its records, or end.  A flushed
one does not end: it is placed again (R362). -/
def State.canEnd (s : State) (r : Ring) : Bool :=
  !(s.nbhd r.nb).flushed && !r.ended && (s.troupesOf r.id).isEmpty && !r.draining
    && (if s.hasRecords r then (s.readyBins r.id).isEmpty
        else !s.hasCopies r && r.streamOver && r.solver.queue.isEmpty)

/-- A neighbourhood ends: its rings, scratchpads and route tag are free, and its launch counts it; with
the last one the launch ends (R22). -/
def State.endNbhd (s : State) (nb : Nat) : State :=
  let x := s.nbhd nb
  let total := (s.launch x.launch).lr.total
  ((({ s with
       rings := updWhere s.rings (fun r => r.nb == nb) fun r => { r with spLen := 0 },
       nbhds := updWhere s.nbhds (fun n => n.id == nb) fun n =>
         { n with tag := none, release := [], pre := .none, past := true } }.forgetNbhd nb).modDie x.die fun d =>
      { d with tags := d.tags.filter fun k => some k != x.tag }).modLaunch x.launch fun l =>
    { l with doneN := l.doneN + 1, stage := if total ≤ l.doneN + 1 && l.stage == LStage.running then .ended else l.stage })

/-- The notice of a pre-emption: 64 bytes (R363).  Address 0 stands for none; a notice that cannot be
written is dropped. -/
def State.notice (s : State) (nb : Nbhd) (at_ status : Nat) (rec_ ctr : Nat) : State :=
  if at_ = 0 then s
  else
    let l := s.launch nb.launch
    let b := leBytes status 4 ++ leBytes l.lr.seq 4 ++ leBytes l.queue 2 ++ zeroBytes 2
      ++ leBytes (nb.n % 2 ^ 32) 4 ++ leBytes rec_ 8 ++ leBytes ctr 8 ++ zeroBytes 32
    match s.writeBytes { asid := l.asid } at_ b { n := 1, wr := true, gradeChk := false } with
    | .ok s1 => s1
    | .error _ => s

/-- Withdraw what a ring has queued for admission (R331). -/
def State.dropRingRequests (s : State) (ring : Nat) : State :=
  { s with dies := s.dies.map fun d =>
      { d with grantq := d.grantq.filter fun g =>
          match g.who with
          | .ring r => r != ring
          | .stream r => r != ring
          | .solver r => r != ring
          | _ => true } }

/-- End a ring (R22): its grants return, its tags and ring slot are free; with the last ring its
neighbourhood ends. -/
def State.endRing (s : State) (ring : Nat) : State :=
  let r := s.ring ring
  let s1 := if r.solver.claimed || r.solver.granted then s.releaseBatch ring else s
  let s2 := (s1.dropRingRequests ring).modRing ring fun r =>
    { r with grants := [], returns := [], ended := true, phint := none }
  if (s2.ringsOf r.nb).all (·.ended) then
    let x := s2.nbhd r.nb
    let s3 := s2.endNbhd r.nb
    match x.pre with
    | .drain _ at_ => s3.notice x at_ 17 0 0
    | _ => s3
  else s2.treeCheck r.nb

/-- RING_END: records still present become troupes first; then the ring ends (R22). -/
def execRingEnd (s : State) : Out :=
  match s.ring? s.ev.ring with
  | some r =>
      .next (if s.canEnd r then (if s.hasRecords r then s.flushBins r.id else s.endRing r.id) else s)
  | none => .next s

/-! ### Completion records (R279, R321, R394) -/

/-- The 64 bytes of a completion record, or of a `post` (R394). -/
def completion (status seq queue done tick0 tick : Nat) (user : Word) : List Byte :=
  leBytes status 4 ++ leBytes seq 4 ++ leBytes queue 2 ++ zeroBytes 2 ++ leBytes done 4
    ++ leBytes (tick0 % 2 ^ 64) 8 ++ leBytes (tick % 2 ^ 64) 8 ++ dword user ++ zeroBytes 24

/-- A completed SEQ joins the queue's run (R321). -/
def LQueue.complete (q : LQueue) (seq : Nat) : LQueue :=
  let l := q.doneSet ++ [seq]
  (List.range l.length).foldl (fun q _ =>
      if q.doneSet.contains (q.doneseq + 1).toNat then
        { q with doneseq := q.doneseq + 1, doneSet := q.doneSet.filter (· != (q.doneseq + 1).toNat) }
      else q) { q with doneSet := l }

/-- A write of an ended launch is still to be performed: a retired troupe left it behind, or it is a
contribution on its way (R279). -/
def State.launchWrites (s : State) (l : Launch) : Bool :=
  (s.fw.contribs.any fun c => c.who.any fun w => w.launch == l.id)
    || s.troupes.any fun t => !t.live && (s.launchOf t.id.ring).id == l.id

/-- Write the record of a launch that is over, advance DONESEQ and raise the queue's interrupt; a record
that cannot be written is dropped (R321, R391, R394).  That of a torn launch goes to the bytes its context translated
to, as far as their extents are present now (R259, R387). -/
def State.finishLaunch (s : State) (l : Launch) : State :=
  let b := completion (2 ^ 31 + l.code) l.lr.seq l.queue (l.doneN % 2 ^ 32) l.tick0 (s.die 0).tick 0
  let s1 :=
    if l.stage = .torn then
      s.writePhys l.crecKey (l.crecAt.zip b)
    else
      match s.writeBytes { asid := l.asid } l.lr.crec.toNat b { n := 1, wr := true, gradeChk := false } with
      | .ok s1 => s1
      | .error _ => s
  let s2 := (s1.modQueue l.queue fun q => q.complete l.lr.seq).irq (s.queue l.queue).fn (s.queue l.queue).vec
  let s3 := (List.range 4).foldl (fun s d => s.dropResv d l.id) s2
  { s3 with launches := s3.launches.filter fun x => x.id != l.id }

/-- The record of a launch lies in another package, and no link to it is up (R380). -/
def State.crecCut (s : State) (l : Launch) : Bool :=
  match s.writeBytes { asid := l.asid } l.lr.crec.toNat (zeroBytes 64) { n := 1, wr := true, gradeChk := false } with
  | .error (.ok _, _) => true
  | _ => false

/-- LAUNCH_COMPLETION_RECORD: of a launch that has ended, once its writes are performed (R279). -/
def execLaunchCompletionRecord (s : State) : Out :=
  match s.launch? s.ev.obj with
  | some l =>
      .next (if l.stage = .ended && !s.launchWrites l && !s.crecCut l then s.finishLaunch l else s)
  | none => .next s

end Sys2Proof.Machine
end

