-- ==== Sys2Proof/Machine/Commands.lean ====
section
/-! DEFINITION. Management registers, MMU commands, refresh, pooled extents, and the commands of the command
block (spec/11_pages_and_tiers.md R245-R261, spec/18_host_fabric_firmware.md R391-R401,
spec/06_format_slots.md R132, spec/13_tuple_space.md R283-R285). -/

namespace Sys2Proof.Machine

/-! ### Discarding -/

/-- A parked access belongs to one of some rings. -/
def ParkWho.ofRings (w : ParkWho) (s : State) (rs : List Nat) : Bool :=
  match w with
  | .lane t _ _ => rs.contains t.ring
  | .instr t => rs.contains t.ring
  | .copy core q id => match s.copy? core q id with | some e => rs.contains e.ring | none => false
  | .stream r => rs.contains r
  | .solver r => rs.contains r
  | .drain r => rs.contains r

/-- A grant request belongs to one of some rings. -/
def GReq.ofRings (g : GReq) (rs : List Nat) : Bool :=
  match g.who with
  | .ticket t _ => rs.contains t.ring
  | .stream r => rs.contains r
  | .solver r => rs.contains r
  | .ring r => rs.contains r
  | .place .. => false

/-- Discard what some rings have under way: their troupes, parked accesses, tuple requests, grant requests,
copies, bins, contexts, alias units, streams and pending records; the rings themselves, and writes already
performed, stay (R302, R362).  A request to the format manager goes on without a result (log entry 155). -/
def State.discardRings (s : State) (rs : List Nat) : State :=
  let mine := fun (t : TroupeId) => rs.contains t.ring
  let s1 := s.unpark fun w => w.ofRings s rs
  { s1 with
    troupes := s1.troupes.filter fun t => !mine t.id,
    dies := s1.dies.map fun d => { d with grantq := d.grantq.filter fun g => !g.ofRings rs },
    slices := s1.slices.map fun c =>
      { c with ports := c.ports.map fun p => p.filter fun r => !mine r.t,
               parked := c.parked.filter fun p => !mine p.2.t,
               replies := c.replies.filter fun r => !mine r.t },
    cores := s1.cores.map fun c =>
      { c with cq0 := c.cq0.filter fun e => !rs.contains e.ring,
               cq1 := c.cq1.filter fun e => !rs.contains e.ring,
               bins := c.bins.map fun b => match b.key with | some k => if rs.contains k.1 then {} else b | none => b,
               mxq := c.mxq.filter fun r => !rs.contains r,
               au := if (c.au.holder.map rs.contains).getD false then {} else c.au },
    ctxs := s1.ctxs.map fun c =>
      { c with recs := c.recs.filter fun r => !(rs.contains r.ring && (r.kind ≤ 1 || r.kind == 3)) },
    fw := { s1.fw with fm := s1.fw.fm.map fun r =>
      match r.by_ with | some (t, _) => if mine t then { r with by_ := none } else r | none => r } }

/-- Remove a neighbourhood that has been discarded: its rings and its route tag. -/
def State.removeNbhd (s : State) (nb : Nat) : State :=
  let x := s.nbhd nb
  { s with rings := s.rings.filter fun r => r.nb != nb,
           nbhds := s.nbhds.filter fun n => n.id != nb }.modDie x.die fun d =>
    { d with tags := d.tags.filter fun k => some k != x.tag }

/-- Discard a neighbourhood at once. -/
def State.dropNbhd (s : State) (nb : Nat) : State :=
  (s.discardRings ((s.ringsOf nb).map (·.id))).removeNbhd nb

/-! ### Wiping (R387) -/

/-- Zero a physical range; no error is left in it. -/
def State.wipePhys (s : State) (r : Nat × Nat) : State :=
  { s with mem := cellWipe s.mem r.1 r.2,
           poison := s.poison.filter fun l => l * 128 + 128 ≤ r.1 || r.1 + r.2 ≤ l * 128,
           symErr := s.symErr.filter fun e => e.1 * 128 + 128 ≤ r.1 || r.1 + r.2 ≤ e.1 * 128,
           pkeys := s.pkeys.filter fun e => e.1 * 128 + 128 ≤ r.1 || r.1 + r.2 ≤ e.1 * 128 }

/-- Zero a physical range of a page; of a pooled one, what lies in extents that are present (R259; log entry
172). -/
def State.wipePage (s : State) (r : Nat × Nat) : State :=
  if r.1 < poolBase then s.wipePhys r
  else
    let n := min r.2 (2 ^ 28)
    (List.range (r.2 / n)).foldl (fun s i =>
      if s.extentAbsent (.phys (r.1 + i * n)) then s else s.wipePhys (r.1 + i * n, n)) s

/-- The indices of a table node's entries that are not zero. -/
def nodeIndices (m : List Host.Cell) (node : Nat) : List Nat :=
  ((m.filter fun c => node ≤ c.1 && c.1 < node + 65536).map fun c => (c.1 - node) / 8).eraseDups

/-- The leaves below a node, over the levels still to go (R247-R250). -/
def leavesFrom (m : List Host.Cell) : List Nat → Nat → List Leaf
  | [], _ => []
  | lvl :: rest, node =>
      (nodeIndices m node).flatMap fun i =>
        let e := leNat (cellReadN m (node + 8 * i) 8)
        if bitsOf e 0 0 = 0 then []
        else if bitsOf e 1 1 = 1 then (if lvl = 0 || leafBad e lvl then [] else [leafFields e lvl])
        else if lvl = 2 || lpEnd ≤ bitsOf e 51 16 * 2 ^ 16 then []
        else leavesFrom m rest (bitsOf e 51 16 * 2 ^ 16)

/-- The ranges of package and pooled memory that a leaf names. -/
def leafRanges (l : Leaf) : List (Nat × Nat) :=
  if l.kind = 2 then [(l.hfn * 2 ^ 17, 2 ^ 17), (hbmEnd + l.lfn * 2 ^ 17, 2 ^ 17)]
  else if l.kind = 3 || (lpEnd ≤ l.frame && !(Loc.phys l.frame).pooled) then []
  else [(l.frame, if l.big then 2 ^ 31 else 2 ^ 18)]

/-- The pages of a context in package and pooled memory, and the frames of its regions (R283, R387; log entry
172). -/
def State.contextRanges (s : State) (asid : Nat) : List (Nat × Nat) :=
  let c := s.ctx asid
  (leavesFrom s.mem [0, 1, 2] c.root).flatMap leafRanges
    ++ c.regions.flatMap fun r => r.frames.map fun f => (f, 2 ^ 18)

/-! ### The end of a context (R387) -/

/-- Apply a contribution to its word at the home, under the key of the access that sent it (R242, R381). -/
def State.applyContrib (s : State) (c : Contrib) : State :=
  let f := c.instr.fields.getD {}
  let n := accessBytes c.instr f
  let old := leNat ((List.range n).map fun i => s.seenByte c.key (.phys (c.addr + i)))
  let v := (atomicOp c.instr f old (c.c.toNat % 2 ^ (8 * n)) 0).1
  let s1 := s.writePhys c.key ((List.range n).map (c.addr + ·) |>.zip (leBytes v n))
  s1.modFw fun w => { w with contribs := w.contribs.filter fun x => x.id != c.id }

/-- The contributions of contexts that end are performed before their pages are wiped; while no link is up they
are discarded (R242, R387, R388; log entry 172). -/
def State.landContribs (s : State) (asids : List Nat) : State :=
  (s.fw.contribs.filter fun c => c.who.any fun w => asids.contains w.asid).foldl (fun s c =>
    if s.fabricPort.isNone then
      s.modFw fun w => { w with contribs := w.contribs.filter fun x => x.id != c.id }
    else s.applyContrib c) s

/-- The key under which pooled bytes of a launch's completion record are written (R381). -/
def State.crecKey (s : State) (l : Launch) : Option Nat :=
  match s.access { asid := l.asid } l.lr.crec.toNat { n := 1, wr := true, gradeChk := false } with
  | .ok site => site.key
  | _ => none

/-- The physical bytes of a launch's completion record, as its context translates them. -/
def State.crecLocs (s : State) (l : Launch) : List Nat :=
  (List.range 64).filterMap fun i =>
    match s.access { asid := l.asid } (l.lr.crec.toNat + i) { n := 1, wr := true, gradeChk := false } with
    | .ok site => match site.locs with | .phys a :: _ => some a | _ => none
    | _ => none

/-- Tear down the launches of a context: everything they have placed or saved goes, and their records
take status 21 (R387). -/
def State.tearLaunches (s : State) (asid : Nat) : State :=
  let ls := s.launches.filter fun l => l.asid == asid
  let ids := ls.map (·.id)
  let nbs := (s.nbhds.filter fun n => ids.contains n.launch).map (·.id)
  let s1 := nbs.foldl State.dropNbhd s
  { s1 with
    saved := s1.saved.filter fun v => !ids.contains v.nb.launch,
    launches := s1.launches.map fun l =>
      if ids.contains l.id then
        { l with stage := .torn, code := 21, crecAt := if l.stage == LStage.torn then l.crecAt else s.crecLocs l,
                 crecKey := if l.stage == LStage.torn then l.crecKey else s.crecKey l,
                 todo := [[], [], [], []], range := [(0, 0), (0, 0), (0, 0), (0, 0)], granted := [], asked := [] }
      else l,
    dies := s1.dies.map fun d =>
      { d with grantq := d.grantq.filter fun g => match g.who with | .place l _ => !ids.contains l | _ => true,
               resv := match d.resv with | some r => if ids.contains r.launch then none else some r | none => none } }

/-- A context ends: its launches are torn down, its regions and slots go, the TLBs and instruction caches
forget it, its save key is destroyed (R130, R246, R283, R387). -/
def State.dropContext (s : State) (asid : Nat) : State :=
  let s1 := s.tearLaunches asid
  let slots := (s1.ctx asid).slots
  -- a frame kept for a swap in place is free again; one that is loading goes on to its end
  let kept := slots.flatMap fun e => e.chosen.filter fun x => e.map.contains x
  let maps := slots.flatMap fun e => e.map ++ e.chosen.filter fun x => !e.map.contains x
  let s2 := maps.foldl State.leaveFrame (kept.foldl (fun s x => s.modFrame x.1 x.2 fun fr => { fr with pend := false }) s1)
  { s2 with
    ctxs := s2.ctxs.filter fun c => c.asid != asid,
    slices := s2.slices.map fun c =>
      { c with regs := c.regs.filter fun r => r.asid != asid,
               parked := c.parked.filter fun p => p.2.asid != asid },
    cores := s2.cores.map fun c =>
      { c with tlb := c.tlb.filter fun e => e.asid != asid,
               icache := c.icache.filter fun e => e.1 != asid },
    dies := s2.dies.map fun d =>
      { d with tlb := d.tlb.filter fun e => e.asid != asid,
               parked := d.parked.filter fun p => p.asid != asid,
               fbuf := d.fbuf.filter fun e => e.asid != asid },
    fw := { s2.fw with fm := s2.fw.fm.filter fun r => r.asid != asid } }

/-- Contexts end: their contributions land and what they hold goes. -/
def State.dropContexts (s : State) (asids : List Nat) : State := asids.foldl State.dropContext (s.landContribs asids)

/-- Wipe the pages that contexts had (R387). -/
def State.wipeRanges (s : State) (rs : List (Nat × Nat)) : State := rs.foldl State.wipePage s

/-- A context ends: its contributions land, it goes, and its pages are wiped (R387). -/
def State.endContext (s : State) (asid : Nat) : State :=
  (s.dropContexts [asid]).wipeRanges (s.contextRanges asid)

/-! ### MMU commands (R254) -/

/-- Remove TLB entries of a die and its cores. -/
def State.tlbDrop (s : State) (die : Nat) (p : TlbEnt → Bool) : State :=
  let s1 := s.modDie die fun d => { d with tlb := d.tlb.filter fun e => !p e }
  (List.range 64).foldl (fun s c => s.modCore (64 * die + c) fun k =>
    { k with tlb := k.tlb.filter fun e => !p e }) s1

/-- An invalidation: entries go and BUSY is set until MMU_INVALIDATION_DONE. -/
def State.invalidate (s : State) (die opc asid : Nat) (p : TlbEnt → Bool) : State :=
  (s.tlbDrop die p).modDie die fun d => { d with busy := true, mmuopc := opc, mmuasid := asid }

/-- Mark every access parked on a die, and clear the fault buffer. -/
def State.replayAll (s : State) (die asid : Nat) : State :=
  s.modDie die fun d =>
    { d with fbuf := [], dropped := false, mmuopc := 4, mmuasid := asid,
             parked := d.parked.map fun p => { p with marked := true } }

/-- The final fault of a cancelled access: its cause, and NOTPRESENT for PAGE. -/
def cancelReason (c : Cause) : Nat := if c = .page then rNotPresent else 0

/-- Turn a parked access into a final fault (R254). -/
def State.cancelParked (s : State) (p : Parked) : State :=
  let r := cancelReason p.cause
  match p.who with
  | .lane t op lane => s.faultLane t op lane p.cause r
  | .instr id =>
      match s.troupe? id with
      | none => s
      | some t =>
          match t.vq with
          | [] => s
          | e :: _ =>
              let aux := match e.instr with
                | .tdep _ => e.cap.a.v
                | .tread _ => e.cap.a.v
                | .ttake _ => e.cap.a.v
                | .tstat _ => e.cap.a.v
                | _ => 0
              s.vectorFaultOf e.instr t e { cause := p.cause, reason := r, aux := aux }
  | .copy core q id =>
      s.modCopy core q id fun e =>
        let va := match e.words with
          | w :: _ => w.va
          | [] =>
              match startOf s e (e.instr.fields.getD {}) with
              | .park va _ _ => BitVec.ofNat 64 va
              | _ => p.vpage
        { e with parked := false, started := true, words := [], fault := some (p.cause, r, va) }
  | .stream ring =>
      match s.stream? ring with
      | none => s
      | some st =>
          let g := match s.fetchStream ring st with
            | .unit_ (.ok i _) => (match i.fields with | some f => streamGrade i f st | none => 0)
            | _ => 0
          let s1 := match s.fetchStream ring st with
            | .unit_ (.ok (.mxalias _) _) => s.modCore (s.ring ring).core fun c => { c with au := c.au.cleared }
            | _ => s
          s1.stopStream ring mxMemfault (if st.loaded then g else st.g0)
  | .solver ring =>
      if (s.solver ring).reload != 0 then s.reloadFail ring slMemfault
      else match (s.solver ring).queue with
      | o :: _ => s.solverFail ring slMemfault o
      | [] => s
  | .drain ring => s.modRing ring fun r => { r with draining := false }

/-- The troupe of a parked access. -/
def ParkWho.troupe? : ParkWho → Option TroupeId
  | .lane t _ _ => some t
  | .instr t => some t
  | _ => none

/-- CANCEL_ASID on a die. -/
def State.cancelAsid (s : State) (die asid : Nat) : State :=
  let ps := (s.die die).parked.filter fun p => p.asid == asid
  let s1 := s.modDie die fun d =>
    { d with parked := d.parked.filter fun p => p.asid != asid,
             fbuf := d.fbuf.filter fun e => e.asid != asid, mmuopc := 5, mmuasid := asid }
  ((ps.filterMap fun p => p.who.troupe?).eraseDups).foldl State.settle (ps.foldl State.cancelParked s1)

/-- A write of MMUCMD: ignored while BUSY, and for other OPCs (R254). -/
def State.mmuCommand (s : State) (die opc asid : Nat) : State :=
  if (s.die die).busy then s
  else if opc = 1 then
    let va := (s.die die).mmuarg.toNat
    s.invalidate die 1 asid fun e => e.covers asid va
  else if opc = 2 then s.invalidate die 2 asid fun e => e.asid == asid
  else if opc = 3 then s.invalidate die 3 asid fun _ => true
  else if opc = 4 then s.replayAll die asid
  else if opc = 5 then s.cancelAsid die asid
  else s

/-- The MMU registers are PF0's (R392); nothing comes from the host while its link is down (R403). -/
def mmuWrite (opc : Nat) (s : State) : State :=
  if s.ev.fn = 0 && s.fw.hostUp then s.mmuCommand s.ev.die opc s.ev.asid else s

/-- INVAL_PAGE: MMUARG is the address. -/
def execInvalPage (s : State) : Out := .next (mmuWrite 1 s)

/-- INVAL_ASID. -/
def execInvalAsid (s : State) : Out := .next (mmuWrite 2 s)

/-- INVAL_ALL. -/
def execInvalAll (s : State) : Out := .next (mmuWrite 3 s)

/-- REPLAY_ALL. -/
def execReplayAll (s : State) : Out := .next (mmuWrite 4 s)

/-- CANCEL_ASID. -/
def execCancelAsid (s : State) : Out := .next (mmuWrite 5 s)

/-- A window reduction that used an entry which the command removed, or may have, is still to be applied
(R242, R254). -/
def State.invalWaits (s : State) (d : Nat) : Bool :=
  s.fw.contribs.any fun c => c.who.any fun w =>
    w.die == d && ((s.die d).mmuopc == 3 || w.asid == (s.die d).mmuasid)

/-- MMU_INVALIDATION_DONE: BUSY clears once every access that used a removed entry is performed; all but
window reductions are in the step that makes them (R254). -/
def execMmuInvalidationDone (s : State) : Out :=
  .next (if s.invalWaits s.ev.die then s else s.modDie s.ev.die fun d => { d with busy := false })

/-- Wake the owner of a parked access whose walk has ended. -/
def State.wake (s : State) (p : Parked) : State :=
  match p.who with
  | .lane t op lane => s.modTroupe t fun t => t.setLane op lane .redo
  | .instr t => s.modTroupe t fun t => { t with vwait := some .retry }
  | .copy core q id => s.modCopy core q id fun e => { e with parked := false }
  | .stream ring => s.modStream ring fun st => { st with wait := some .retry }
  | .solver ring => s.modSolver ring fun v => { v with hold := false }
  | .drain _ => s

/-- The operation that a parked lane belongs to. -/
def ParkWho.op? : ParkWho → Option (TroupeId × Nat)
  | .lane t op _ => some (t, op)
  | _ => none

/-- PAGE_WALK_COMPLETE: one walk answers every marked access to a page of a context: each is tried
again (R254, R256). -/
def execPageWalkComplete (s : State) : Out :=
  let asid := s.ev.asid
  let page := s.ev.addr
  let mine := fun (p : Parked) => p.marked && p.asid == asid && p.vpage == page
  let ps := (s.die s.ev.die).parked.filter mine
  let s1 := s.modDie s.ev.die fun d => { d with parked := d.parked.filter fun p => !mine p }
  let s2 := ps.foldl State.wake s1
  let ops := (ps.filterMap fun p => p.who.op?).eraseDups
  .next (ops.foldl (fun s x => ((s.reissue x.1 x.2).tidyAny x.1 x.2).settle x.1) s2)

/-! ### Management registers (R317, R392) -/

/-- A write of a queue block's dword (R317). -/
def State.queueWrite (s : State) (n o : Nat) (v : Word) : State :=
  let free := fun (f : LQueue → LQueue) => s.modQueue n fun q => if q.en then q else f q
  if o = 0 then free fun q => { q with base := (v >>> 8) <<< 8 }
  else if o = 8 then free fun q => { q with asid := bitsOf v.toNat 28 16, log := bitsOf v.toNat 4 0 }
  else if o = 0x10 then s.writeQen n (v.getLsbD 5) (v.toNat % 16)
  else if o = 0x18 then s.modQueue n fun q => { q with tail := v.setWidth 32 }
  else if o = 0x30 then free fun q => { q with vec := bitsOf v.toNat 10 0 }
  else s

/-- The 64 bytes of a queue block as its function's window shows them, by dword (R317). -/
def LQueue.dword (q : LQueue) (j : Nat) : Nat :=
  nth [q.base.toNat, q.asid * 2 ^ 16 + q.log, q.en.toNat * 2 ^ 5 + q.prio, q.tail.toNat,
    q.head.toNat + q.accseq.toNat * 2 ^ 32, q.doneseq.toNat + (q.err * 16 + q.state) * 2 ^ 32, q.vec, 0] j 0

/-- The 32 bytes of an entry of the fault buffer (R253). -/
def FBEnt.bytes (e : FBEnt) : List Byte :=
  dword e.vpage ++ leBytes e.asid 2 ++ leBytes e.cause 1 ++ leBytes e.level 1 ++ leBytes e.kinds.toNat 1
    ++ leBytes (e.core % 64) 1 ++ zeroBytes 2 ++ leBytes (min e.count (2 ^ 32 - 1)) 4 ++ leBytes (e.seq % 2 ^ 32) 4
    ++ zeroBytes 8

/-- The MMU registers and the fault buffer of a die, by offset (R253, R254, R392). -/
def Die.mmuDword (d : Die) (o : Nat) : Nat :=
  if o = 0 then d.dropped.toNat * 2 ^ 8 + d.fbuf.length
  else if o = 8 then d.mmuarg.toNat
  else if o = 0x10 then d.busy.toNat * 2 ^ 63 + d.mmuopc * 2 ^ 16 + d.mmuasid
  else if o = 0x18 then d.mmuvec
  else if 0x100 ≤ o && o < 0x200 then leNat (((d.fbuf.flatMap FBEnt.bytes).drop (o - 0x100)).take 8)
  else 0

/-- The dwords of a command block (R393). -/
def CmdBlock.dword (b : CmdBlock) (j : Nat) : Nat :=
  if j = 0 then b.opc + b.status.toNat * 2 ^ 32 else (nth b.words (j - 1) 0).toNat

/-- The 8 bytes at an offset of a function's management window; what the map does not name, and what
belongs to another function, reads as zero (R392). -/
def State.windowRead (s : State) (fn a : Nat) : Word :=
  BitVec.ofNat 64 <|
    if a < 0x10000 then
      if (s.queue (a / 64)).fn = fn then (s.queue (a / 64)).dword (a % 64 / 8) else 0
    else if a < 0x11000 then if fn = 0 then (s.die ((a - 0x10000) / 0x400)).mmuDword (a % 0x400) else 0
    else if 0x20000 ≤ a && a < 0x20100 then (s.block fn).dword ((a - 0x20000) / 8)
    else if 0x30000 ≤ a && a < 0x30080 then (s.slice ((a - 0x30000) / 8)).rfretry
    else if 0x30100 ≤ a && a < 0x30130 then nth s.fw.ecc ((a - 0x30100) / 8) 0
    else 0

/-- OPC is written: the command joins those that Cuchehild performs in the order of the writes; the write is ignored
while the function's previous command lacks DONE (R393; log entry 193). -/
def State.writeOpc (s : State) (fn opc : Nat) : State :=
  if s.fw.cmdq.contains fn then s
  else
    ((s.modBlock fn fun b => { b with opc := opc, status := 0 }).modFw fun w =>
      { w with cmdq := w.cmdq ++ [fn] }).endUnknown

/-- A function writes 8 bytes at an offset of its management window; other offsets, and registers of other
functions, ignore the write (R392). -/
def State.windowWrite (s : State) (fn a : Nat) (v : Word) : State :=
  if a < 0x10000 then if (s.queue (a / 64)).fn = fn then s.queueWrite (a / 64) (a % 64) v else s
  else if a < 0x11000 then
    let d := (a - 0x10000) / 0x400
    let o := a % 0x400
    if fn != 0 then s
    else if o = 8 then s.modDie d fun x => { x with mmuarg := v }
    else if o = 0x10 then s.mmuCommand d (bitsOf v.toNat 19 16) (bitsOf v.toNat 12 0)
    else if o = 0x18 then s.modDie d fun x => { x with mmuvec := bitsOf v.toNat 10 0 }
    else s
  else if a = 0x20000 then s.writeOpc fn (v.toNat % 2 ^ 32)
  else if 0x20008 ≤ a && a < 0x20100 then s.modBlock fn fun b => { b with words := upd b.words ((a - 0x20008) / 8) fun _ => v }
  else s

/-- PF0 gives the functions their MSI-X vectors, 2048 in all (R391; log entry 191). -/
def State.assignVectors (s : State) (l : List Nat) : State :=
  if sumOf l ≤ 2048 && l.length ≤ 64 then
    s.modFw fun w => { w with vectors := l ++ List.replicate (64 - l.length) 0 }
  else s

/-- PF0 resizes the aperture of BAR2, to a power of two from 1 GiB to 64 GiB (R391; log entry 191). -/
def State.resizeBar (s : State) (n : Nat) : State :=
  if (List.range 7).any fun k => n == 2 ^ (30 + k) then s.modFw fun w => { w with bar2 := n } else s

/-- The telemetry that PF0 reads: the temperature of each die, then the current of each rail, 8 bytes each (R403; log
entry 175). -/
def State.telemetry (s : State) : List Byte :=
  (s.dies.map fun d => d.temp).flatMap (leBytes · 8) ++ s.fw.rails.flatMap (leBytes · 8)

/-- The firmware maps a firewall window, in place of one with the same base (R377; log entry 191). -/
def State.mapWindow (s : State) (base len ceil domain bar2 : Nat) : State :=
  s.modFw fun w =>
    { w with fwins := (w.fwins.filter fun x => x.base != base)
               ++ if len = 0 then [] else [{ base := base, len := len, ceil := ceil % 8, domain := domain, bar2 := bar2 }] }

/-- REGISTER_WRITE: a function writes 8 bytes at an offset of its management window, or reads them (`on`); what the
map does not name reads as zero (R392, log entry 159).  With `num` not 0 it is PF0's own: 1 gives out the MSI-X
vectors, 2 resizes BAR2, 3 reads the telemetry (R391, R403); 4 is the firmware's mapping of a firewall window (R377;
log entry 191).  Nothing comes from the host while its link is down (R403). -/
def execRegisterWrite (s : State) : Out :=
  let a := s.ev.addr.toNat / 8 * 8
  let v := s.ev.val
  let fn := s.ev.fn
  let x := fun (n : Nat) => nth s.ev.args n 0
  .next <|
    if s.ev.num = 4 then s.mapWindow (x 0) (x 1) (x 2) (x 3) (x 4)
    else if !s.fw.hostUp then s
    else if s.ev.num = 0 then
      if s.ev.on then s.modFw fun w => { w with inbound := .done (dword (s.windowRead fn a)) } else s.windowWrite fn a v
    else if fn != 0 then s
    else if s.ev.num = 1 then s.assignVectors s.ev.args
    else if s.ev.num = 2 then s.resizeBar v.toNat
    else if s.ev.num = 3 then s.modFw fun w => { w with inbound := .done s.telemetry }
    else s

/-! ### Extents and refresh (R259, R261) -/

/-- EXTENT_ADD: the extent is present; it holds what the pool holds. -/
def execExtentAdd (s : State) : Out :=
  let n := s.ev.num
  .next (if n < 262144 && !s.extents.contains n then { s with extents := s.extents ++ [n] } else s)

/-- A window reduction that passed the present check of an extent is still to be applied (R259). -/
def State.extentOwes (s : State) (n : Nat) : Bool :=
  s.fw.contribs.any fun c => poolBase ≤ c.addr && (c.addr - poolBase) / 2 ^ 28 == n

/-- EXTENT_RELEASE: the present bit clears once every access that passed the present check is performed;
all but window reductions are in memory already (R259). -/
def execExtentRelease (s : State) : Out :=
  let n := s.ev.num
  .next (if s.extentOwes n then
      s.modFw fun w => { w with releasing := if w.releasing.contains n then w.releasing else w.releasing ++ [n] }
    else { s with extents := s.extents.filter (· != n) }.modFw fun w =>
      { w with releasing := w.releasing.filter (· != n) })

/-- A die is in a compute-bound interval (R341). -/
def State.computeBound (s : State) (die : Nat) : Bool :=
  s.rings.any fun r => r.core / 64 == die && r.phint.isSome

/-- REFRESH_INTERVAL: an interval of the controller of a die's stack comes due.  In a compute-bound
interval of the die it banks one, up to 8; after it, it skips one while its allowance lasts; else the
refresh runs, and when a request meets it the slice answers with a retry and counts it (R261).  The LPDDR6
controllers are the Midway die's: they are in no such interval, and a slice counts no retry of theirs (log
entry 160). -/
def execRefreshInterval (s : State) : Out :=
  let d := s.ev.die
  let j := s.ev.unit_
  let n := nth (s.die d).allow j 0
  let set := fun (k : Nat) => s.modDie d fun x => { x with allow := upd x.allow j fun _ => k }
  if 4 ≤ j then .next s
  else if s.computeBound d then .next (set (min 8 (n + 1)))
  else if 0 < n then .next (set (n - 1))
  else if s.ev.on then
    .next (s.modSlice (4 * d + j) fun c =>
      { c with rfretry := (c.rfretry + 1) % 2 ^ 64, retries := c.retries + 1 })
  else .next s

/-- REFRESH_RETRY_REISSUE: the request is made again; its value and order are those it always had. -/
def execRefreshRetryReissue (s : State) : Out :=
  .next (s.modSlice s.ev.unit_ fun c => { c with retries := c.retries - 1 })

/-! ### Instruction cache (R35, R36) -/

/-- ICACHE_FILL: a core's instruction cache takes the 128-byte line of a context's code as memory holds it
now; a line that cannot be fetched is not kept.  Of 1024 lines kept, the one filled longest ago leaves for a
new one (R2, log entry 93). -/
def execIcacheFill (s : State) : Out :=
  let core := s.ev.core
  let asid := s.ev.asid
  let line := s.ev.addr.toNat / 128 * 128
  let w : Word := BitVec.ofNat 64 line
  let p : Party := { asid := asid, core := some core }
  let keep := fun (c : CoreSt) => c.icache.filter fun e => !(e.1 == asid && e.2.1 == w)
  if 2 ^ 57 ≤ line || inWindows line then .next s
  else
    match s.access p line { n := 128, ex := true } with
    | .ok site => .next (s.modCore core fun c => { c with icache := ((asid, w, s.loadSite site) :: keep c).take 1024 })
    | _ => .next (s.modCore core fun c => { c with icache := keep c })

/-! ### Contexts (R245, R393) -/

/-- A range of a new context's virtual addresses is mapped writable under a root. -/
def State.mappedWritable (s : State) (root va n : Nat) : Bool :=
  (List.range ((va % 2 ^ 18 + n + 2 ^ 18 - 1) / 2 ^ 18)).all fun i =>
    let a := (va / 2 ^ 18 + i) * 2 ^ 18
    -- no translation reads the entries of the windows (R247)
    !inWindows a && match s.walk root a with
    | .leaf l => l.wr && l.kind != 1
    | .fault .. => false

/-- The bytes of a fault queue (R349, R350). -/
def fqSize (log : Nat) : Nat := 64 + 1088 * 2 ^ log

/-- A protected context's domain has a key from its first context on (R381; log entry 171). -/
def State.makeDomainKey (s : State) (prot : Bool) (domain : Nat) : State :=
  if prot && s.domainKey domain = 0 then
    s.modFw fun w => { w with domKeys := w.domKeys ++ [(domain, w.nextKey)], nextKey := w.nextKey + 1 }
  else s

/-- CTX_CREATE: arguments ROOT, RPLY, PROT, FQBASE, FQLOG, FQVEC, DOMAIN; returns the ASID (R393). -/
def ctxCreate (s : State) : State :=
  let root := s.arg 0 % 2 ^ 52 / 65536 * 65536
  let fqbase := s.arg 3
  let fqlog := s.arg 4
  match (List.range 8192).find? fun a => (s.ctx? a).isNone with
  | none => s.endCommand cmdNoSpace none
  | some asid =>
      let prot := s.arg 2 % 2 == 1
      let domain := s.arg 6 % 2 ^ 16
      -- a protected context has a domain, 1 to 65,535 (R374; log entry 173)
      if (prot && domain == 0) || fqbase % 4096 != 0 || fqlog < 4 || 12 < fqlog || 2 ^ 57 ≤ fqbase + fqSize fqlog
          || !s.mappedWritable root fqbase (fqSize fqlog) then s.endCommand cmdBad none
      else
        let st := Config.ideStream s.fresh
        let c : Ctx :=
          { asid := asid, fn := s.ev.fn, root := root, rply := s.arg 1 % 2 == 1, prot := prot,
            domain := domain, stream := (18 + st / 9 % 2, st % 9), fqbase := BitVec.ofNat 64 fqbase, fqlog := fqlog,
            fqvec := s.arg 5 % 2 ^ 11, key := if prot then some s.fresh else none }
        let s1 := (List.range 4).foldl (fun s d => s.tlbDrop d fun e => e.asid == asid) s
        let s2 := { s1 with ctxs := s1.ctxs ++ [c], fresh := s1.fresh + 1 }.makeDomainKey prot domain
        let hdr := zeroBytes 8 ++ leBytes fqlog 1 ++ zeroBytes 55
        let s3 := match s2.writeBytes { asid := asid } fqbase hdr fqWant with
          | .ok x => x
          | .error _ => s2
        s3.endCommand cmdOk (some (BitVec.ofNat 64 asid))

/-- The command CTX_CREATE of R393, once it is the first that waits. -/
def execCtxCreate (s : State) : Out := .next (s.command 1 ctxCreate)

/-- CTX_END: the context ends and its pages are wiped (R387, R393). -/
def ctxEnd (s : State) : State :=
  match s.ctxOf? (s.arg 0) s.ev.fn with
  | none => s.endCommand cmdNoCtx none
  | some _ => (s.endContext (s.arg 0)).endCommand cmdOk none

/-- The command CTX_END of R393, once it is the first that waits. -/
def execCtxEnd (s : State) : Out := .next (s.command 2 ctxEnd)

/-- OWNER_KEY: the function's owner key, refused while a loadable slot of one of its contexts is bound or
draining (R132, R393). -/
def ownerKey (s : State) : State :=
  let fn := s.ev.fn
  if s.ctxs.any fun c => c.fn == fn && c.slots.any fun e => e.state != 0 then
    s.endCommand cmdBusy none
  else
    (s.modFw fun w =>
      { w with owners := (w.owners.filter fun o => o.1 != fn) ++ [(fn, (s.argBytes 0).take 56)] }).endCommand cmdOk none

/-- The command OWNER_KEY of R393, once it is the first that waits. -/
def execOwnerKey (s : State) : Out := .next (s.command 3 ownerKey)

/-- The frame of each page of a region's virtual size; none when one has no valid KIND 1 leaf (R283). -/
def State.regionFrames (s : State) (root base scap : Nat) : Option (List Nat) :=
  let n := 1 + (16 * 64 * scap + 2 ^ 18 - 1) / 2 ^ 18
  let l := (List.range n).map fun i =>
    let va := base + i * 2 ^ 18
    if inWindows va || 2 ^ 57 ≤ va then none
    else match s.walk root va with
    | .leaf l => if l.kind = 1 then some (l.frame + if l.big then va % 2 ^ 31 else 0) else none
    | .fault .. => none
  if l.any Option.isNone then none else some (l.filterMap fun x => x)

/-- REGION_CREATE: arguments ASID, RID, base, QUOTA, SCAP (R283-R285, R393).  Values outside the ranges of
R284, and a RID the context has already, are refused with BADCMD (log entry 51). -/
def regionCreate (s : State) : State :=
  let rid := s.arg 1
  let base := s.arg 2
  let quota := s.arg 3
  let scap := s.arg 4
  match s.ctxOf? (s.arg 0) s.ev.fn with
  | none => s.endCommand cmdNoCtx none
  | some c =>
      let used := sumOf (s.ctxs.flatMap fun c => c.regions.map (·.quota))
      if 32768 < used + quota then s.endCommand cmdNoSpace none
      else if base % 2 ^ 18 != 0 || 2 ^ 57 ≤ base || 2 ^ 16 ≤ rid || quota = 0 || 2 ^ 24 < scap
          || c.regions.any (fun r => r.rid == rid) then s.endCommand cmdBad none
      else
        match s.regionFrames c.root base scap with
        | none => s.endCommand cmdBad none
        | some fs =>
            let r : Region := { rid := rid, base := BitVec.ofNat 64 base, quota := quota, scap := scap, frames := fs }
            let s1 := s.modCtx c.asid fun c => { c with regions := c.regions ++ [r] }
            { s1 with mem := cellWriteN s1.mem (fs.headD 0) r.descriptor }.endCommand cmdOk none

/-- The command REGION_CREATE of R393, once it is the first that waits. -/
def execRegionCreate (s : State) : Out := .next (s.command 4 regionCreate)

/-! ### Pre-emption requests (R360, R393) -/

/-- Ask for the pre-emption of placed neighbourhoods of a launch; none asks for all of them. -/
def State.askPreempt (s : State) (l : Nat) (n : Option Nat) (modes at_ : Nat) : State :=
  { s with nbhds := s.nbhds.map fun x =>
      if x.launch == l && !x.past && (match n with | some k => x.n == k | none => true) && x.pre == PreSt.none then
        { x with pre := .asked modes at_ }
      else x }

/-- PREEMPT: arguments queue, SEQ, n or all ones, mode mask, notice address (R360, R393).  An address that is
no multiple of 64 is refused (log entry 163). -/
def preemptCommand (s : State) : State :=
  let q := s.arg 0
  match s.launches.find? fun l => l.queue == q && l.lr.seq == s.arg 1 % 2 ^ 32 && (s.queue q).fn == s.ev.fn with
  | none => s.endCommand cmdNoCtx none
  | some l =>
      let n := if s.arg 2 = 2 ^ 64 - 1 then none else some (s.arg 2)
      if s.arg 4 % 64 != 0 then s.endCommand cmdBad none else
      (s.askPreempt l.id n (s.arg 3 % 8) (s.arg 4)).endCommand cmdOk none

/-- The command PREEMPT of R393, once it is the first that waits. -/
def execPreempt (s : State) : Out := .next (s.command 5 preemptCommand)

/-! ### Rosters, windows, queues (R317, R376, R393, R400, R401) -/

/-- ROSTER: arguments domain, COUNT, FIRST, then package IDs of 2 bytes (R393). -/
def rosterCommand (s : State) : State :=
  let dom := s.arg 0 % 2 ^ 16
  let count := s.arg 1
  let first := s.arg 2
  if s.ev.fn != 0 then s.endCommand cmdDenied none
  else
    let ids := ((pieces 2 (s.argBytes 3)).take (min 112 (count - first))).map leNat
    let bad := (s.modFw fun w => { w with staged := none }).endCommand cmdBad none
    let put := fun (l : List Nat) =>
      if l.length = count then
        (s.modFw fun w =>
          { w with staged := none, rosters := (w.rosters.filter fun r => r.1 != dom) ++ [(dom, l)] }).endCommand cmdOk none
      else (s.modFw fun w => { w with staged := some (dom, count, l) }).endCommand cmdOk none
    if 512 < count then bad
    else if first = 0 then put ids
    else
      match s.fw.staged with
      | some (d, c, l) => if d = dom && c = count && l.length = first then put (l ++ ids) else bad
      | none => bad

/-- The command ROSTER of R393, once it is the first that waits. -/
def execRoster (s : State) : Out := .next (s.command 7 rosterCommand)

/-- The header word of a window at its home (R401). -/
def State.windowHeader (s : State) (w : Win) : Nat :=
  leNat (cellReadN s.mem (s.homeAddr w.home w.base) 8)

/-- The key under which the firmware writes the header of a window in pooled memory: that of the line as it stands,
else the pool key (R381, R401; log entry 171). -/
def State.windowKey (s : State) (w : Win) : Option Nat :=
  if (Loc.phys (s.homeAddr w.home w.base)).pooled then
    some (match s.pkeys.find? fun e => e.1 == w.base / 128 with | some e => e.2 | none => s.fw.poolKey)
  else none

/-- Write the header word of a window at its home; nothing is written in a reserved range, or in an extent that is
not present (R257, R259). -/
def State.putWindowHeader (s : State) (w : Win) (v : Nat) : State :=
  s.writePhys (s.windowKey w) ((List.range 8).map (s.homeAddr w.home w.base + ·) |>.zip (leBytes v 8))

/-- WINDOW: arguments number, home package, base, pages, operations, MEMBERS; at its home the header takes
MEMBERS and WITHDRAWN clears (R400, R401). -/
def windowCommand (s : State) : State :=
  if s.ev.fn != 0 then s.endCommand cmdDenied none
  else
    let w : Win :=
      { num := s.arg 0 % 256, home := s.arg 1, base := s.arg 2, pages := s.arg 3, red := s.arg 4 % 2 == 1,
        acc := s.arg 4 / 2 % 2 == 1, members := s.arg 5 % 2 ^ 16 }
    let s1 := s.modFw fun x => { x with wins := (x.wins.filter fun y => y.num != w.num) ++ [w] }
    let s2 := if w.home = s.fw.pkg then
        s1.putWindowHeader w (s1.windowHeader w % 2 ^ 32 + w.members * 2 ^ 32)
      else s1
    s2.endCommand cmdOk none

/-- The command WINDOW of R393, once it is the first that waits. -/
def execWindow (s : State) : Out := .next (s.command 8 windowCommand)

/-- QUEUE_ASSIGN: arguments first queue, count, function (R317, R393). -/
def queueAssign (s : State) : State :=
  let first := s.arg 0
  let count := s.arg 1
  let fn := s.arg 2
  let mine := fun (i : Nat) => decide (first ≤ i ∧ i < first + count)
  if s.ev.fn != 0 then s.endCommand cmdDenied none
  else if (List.range 1024).any fun i => mine i && (s.queue i).en then s.endCommand cmdBusy none
  else if 1024 < first + count || 63 < fn then s.endCommand cmdBad none
  else
    let give := fun (i : Nat) (q : LQueue) => if mine i then { q with fn := fn } else q
    State.endCommand { s with queues := s.queues.mapIdx give } cmdOk none

/-- The command QUEUE_ASSIGN of R393, once it is the first that waits. -/
def execQueueAssign (s : State) : Out := .next (s.command 9 queueAssign)

/-! ### Reduction windows (R242, R401) -/

/-- Two reductions of the same operation and TY; saturating and plain sums are different operations (R242,
log entry 158). -/
def sameReduction (a b : Instr) : Bool :=
  let key := fun (i : Instr) => (i.row.map (·.op), i.fields.map fun f => (f.sub, f.ty, f.sat))
  key a == key b

/-- Another contribution that the switches may merge with one: the same operation, TY and address (R242). -/
def State.mergeWith (s : State) (c : Contrib) : Option Contrib :=
  s.fw.contribs.find? fun x => x.id != c.id && x.addr == c.addr && sameReduction x.instr c.instr

/-- The value of two merged contributions. -/
def mergeValue (i : Instr) (a b : Lane) : Lane :=
  BitVec.ofNat 32 (atomicOp i (i.fields.getD {}) a.toNat b.toNat 0).1

/-- WINDOW_REDUCTION_APPLY: a contribution reaches its home and is applied once, or a switch merges it
with another of the same operation, TY and address, which then stands for the reductions of both; which
happens is a free choice (R242). -/
def execWindowReductionApply (s : State) : Out :=
  match s.fw.contribs.find? fun c => c.id == s.ev.op with
  | none => .next s
  | some c =>
      -- it leaves through a fabric port, and waits for one that is up (R242, R380)
      if s.fabricPort.isNone then .next s
      else
      match s.mergeWith c with
      | none => .next (s.applyContrib c)
      | some x =>
          let merged := (s.fw.contribs.filter fun y => y.id != c.id).map fun y =>
            if y.id = x.id then { y with c := mergeValue c.instr x.c c.c, who := y.who ++ c.who } else y
          .next (if Config.mergeOrder s.choice % 2 = 1 then s.modFw fun w => { w with contribs := merged }
            else s.applyContrib c)

/-- MEMBER_WITHDRAWAL: at a window's home MEMBERS falls by 1 and WITHDRAWN is set, in one update (R401). -/
def execMemberWithdrawal (s : State) : Out :=
  match s.fw.wins.find? fun w => w.num == s.ev.num with
  | some w =>
      .next (if w.home = s.fw.pkg then
        let h := s.windowHeader w
        s.putWindowHeader w (h % 2 ^ 32 + (bitsOf h 47 32 - 1) * 2 ^ 32 + 2 ^ 48)
      else s)
  | none => .next s

end Sys2Proof.Machine
end

