-- ==== Sys2Proof/Machine/Scalar.lean ====
section
/-! DEFINITION. Scalar integer instructions, opcodes 0x10-0x2A (spec/04_registers.md R101-R106). -/

namespace Sys2Proof.Machine

/-- Operand A of a scalar instruction as its type, and its grade (R101). -/
def opA (s : State) (t : Troupe) (f : Fields) : Int × Nat :=
  let a := readS s t f.a
  (tyInt f.ty.toNat a.v.toNat, a.g)

/-- The shift amount of R104: the whole of register B, or the immediate extended to 64 bits. -/
def scalarShift (s : State) (t : Troupe) (f : Fields) : Nat :=
  if f.sub.getLsbD 3 then immShift 64 f.ty.toNat f.imm else (readS s t f.b).v.toNat

/-- The value a binary operation writes: the exact result, clamped when SAT is set, reduced and
extended, with the higher grade (R94, R101). -/
def binaryValue (op : Int → Int → Int) (s : State) (t : Troupe) (f : Fields) : GW :=
  let a := opA s t f
  let b := opB s t f
  { v := tyExtend 64 f.ty.toNat (tySat f.ty.toNat (f.sat == 1) (op a.1 b.1)), g := max a.2 b.2 }

/-- The value a unary operation writes (R101). -/
def unaryValue (op : Nat → Int → Int) (s : State) (t : Troupe) (f : Fields) : GW :=
  let a := opA s t f
  { v := tyExtend 64 f.ty.toNat (tySat f.ty.toNat (f.sat == 1) (op f.ty.toNat a.1)), g := a.2 }

/-- The value a shift writes; the operation takes w, the w bits of a, and the amount (R104). -/
def shiftValue (op : Nat → Nat → Nat → Int) (s : State) (t : Troupe) (f : Fields) : GW :=
  let w := tyWidth f.ty.toNat
  let a := readS s t f.a
  let g := if f.sub.getLsbD 3 then a.g else max a.g (readS s t f.b).g
  { v := tyExtend 64 f.ty.toNat (op w (a.v.toNat % 2 ^ w) (scalarShift s t f)), g := g }

/-- Write D with a value read from the state. -/
def setD (value : State → Troupe → Fields → GW) (f : Fields) (t : Troupe) (s : State) : SRes :=
  .done (s.setTroupe (t.writeS f.d (value s t f)))

/-! ### Results (R102-R106) -/

/-- The two's-complement bits of an operation on bit patterns. -/
def bitwise (w : Nat) (op : Nat → Nat → Nat) (a b : Int) : Int :=
  op (a % 2 ^ w).toNat (b % 2 ^ w).toNat

/-- a AND b. -/
def intAnd (a b : Int) : Int := bitwise 64 (· &&& ·) a b
/-- a OR b. -/
def intOr (a b : Int) : Int := bitwise 64 (· ||| ·) a b
/-- a XOR b. -/
def intXor (a b : Int) : Int := bitwise 64 (· ^^^ ·) a b
/-- a AND NOT b. -/
def intAndn (a b : Int) : Int := bitwise 64 (fun x y => x &&& (2 ^ 64 - 1 - y)) a b

/-- The high half of the product: ⌊a × b / 2^w⌋. -/
def mulHi (ty : Nat) (a b : Int) : Int := a * b / 2 ^ tyWidth ty

/-- q of sdiv: truncated toward zero; 0 when b is 0 (R103). -/
def divTrunc (a b : Int) : Int := if b = 0 then 0 else a.tdiv b

/-- srem: a − b × q; a when b is 0 (R103). -/
def remTrunc (a b : Int) : Int := if b = 0 then a else a.tmod b

/-- (a << n) mod 2^w for n < w, else 0. -/
def shl (w a n : Nat) : Int := if n < w then (a * 2 ^ n % 2 ^ w : Nat) else 0

/-- a shifted right with zeros entering; 0 for n ≥ w. -/
def shr (w a n : Nat) : Int := if n < w then (a / 2 ^ n : Nat) else 0

/-- a shifted right with copies of bit w − 1 entering. -/
def sra (w a n : Nat) : Int :=
  let top := 2 ^ (w - 1) ≤ a
  let x : Int := if top then (a : Int) - 2 ^ w else a
  if n < w then x / 2 ^ n else if top then -1 else 0

/-- a rotated left by n mod w. -/
def rol (w a n : Nat) : Int := (a * 2 ^ (n % w) % 2 ^ w + a / 2 ^ (w - n % w) : Nat)

/-- |a|; a itself for n types. -/
def absTy (_ : Nat) (a : Int) : Int := a.natAbs

/-- Leading zero bits of a in w bits. -/
def clzTy (ty : Nat) (a : Int) : Int :=
  let u := (a % 2 ^ tyWidth ty).toNat
  if u = 0 then tyWidth ty else (tyWidth ty - 1 - u.log2 : Nat)

/-- One bits of the low n bits of a number. -/
def popCount (n u : Nat) : Nat := ((List.range n).filter fun i => u.testBit i).length

/-- One bits of a in w bits. -/
def popTy (ty : Nat) (a : Int) : Int := popCount (tyWidth ty) (a % 2 ^ tyWidth ty).toNat

/-- The w bits of a reversed. -/
def brevTy (ty : Nat) (a : Int) : Int :=
  let w := tyWidth ty
  let u := (a % 2 ^ w).toNat
  ((List.range w).foldl (fun r i => if u.testBit i then r + 2 ^ (w - 1 - i) else r) 0 : Nat)

/-- The conditions of scmp and vcmp by SUB mod 8 (R106, R114). -/
def cmpHolds (c : Nat) (a b : Int) : Bool :=
  if c = 0 then a == b else if c = 1 then a != b else if c = 2 then a < b
  else if c = 3 then b ≤ a else if c = 4 then a ≤ b else b < a

/-- sadd: a + b (R102). -/
def execSadd (f : Fields) (s : State) : Out :=
  scalarInstr (.sadd f) s (setD (binaryValue (· + ·)) f)

/-- ssub: a − b (R102). -/
def execSsub (f : Fields) (s : State) : Out :=
  scalarInstr (.ssub f) s (setD (binaryValue (· - ·)) f)

/-- smul: a × b (R102). -/
def execSmul (f : Fields) (s : State) : Out :=
  scalarInstr (.smul f) s (setD (binaryValue (· * ·)) f)

/-- smulhi: the high half of a × b (R102). -/
def execSmulhi (f : Fields) (s : State) : Out :=
  scalarInstr (.smulhi f) s (setD (binaryValue (mulHi f.ty.toNat)) f)

/-- sdiv and srem: long-latency producers on the scalar side; b = 0 raises divide by zero (R89, R103). -/
def divide (i : Instr) (op : Int → Int → Int) (f : Fields) (t : Troupe) (s : State) : SRes :=
  match t.nameFlag i with
  | .named j t1 =>
      let b := opB s t f
      .done (s.setTroupe (t1.startOp (t.scalarEntry i (some j))
        { id := 0, instr := i, sdest := sNum f.d, grade := max (opA s t f).2 b.2,
          sres := [{ d := f.d, v := binaryValue op s t f }], fl := flIf (b.1 == 0) flDivZero }))
  | .full => .wait .issue s
  | _ => .fault { cause := .illop }

/-- sdiv: a / b truncated toward zero (R103). -/
def execSdiv (f : Fields) (s : State) : Out :=
  scalarInstr (.sdiv f) s (divide (.sdiv f) divTrunc f)

/-- srem: the remainder with the sign of a (R103). -/
def execSrem (f : Fields) (s : State) : Out :=
  scalarInstr (.srem f) s (divide (.srem f) remTrunc f)

/-- sand: a AND b (R102). -/
def execSand (f : Fields) (s : State) : Out :=
  scalarInstr (.sand f) s (setD (binaryValue intAnd) f)

/-- sor: a OR b (R102). -/
def execSor (f : Fields) (s : State) : Out :=
  scalarInstr (.sor f) s (setD (binaryValue intOr) f)

/-- sxor: a XOR b (R102). -/
def execSxor (f : Fields) (s : State) : Out :=
  scalarInstr (.sxor f) s (setD (binaryValue intXor) f)

/-- sandn: a AND NOT b (R102). -/
def execSandn (f : Fields) (s : State) : Out :=
  scalarInstr (.sandn f) s (setD (binaryValue intAndn) f)

/-- sshl: shift left (R104). -/
def execSshl (f : Fields) (s : State) : Out :=
  scalarInstr (.sshl f) s (setD (shiftValue shl) f)

/-- sshr: shift right with zeros (R104). -/
def execSshr (f : Fields) (s : State) : Out :=
  scalarInstr (.sshr f) s (setD (shiftValue shr) f)

/-- ssra: shift right with sign copies (R104). -/
def execSsra (f : Fields) (s : State) : Out :=
  scalarInstr (.ssra f) s (setD (shiftValue sra) f)

/-- srol: rotate left (R104). -/
def execSrol (f : Fields) (s : State) : Out :=
  scalarInstr (.srol f) s (setD (shiftValue rol) f)

/-- smin: min(a, b) (R102). -/
def execSmin (f : Fields) (s : State) : Out :=
  scalarInstr (.smin f) s (setD (binaryValue min) f)

/-- smax: max(a, b) (R102). -/
def execSmax (f : Fields) (s : State) : Out :=
  scalarInstr (.smax f) s (setD (binaryValue max) f)

/-- sabs: |a| (R102). -/
def execSabs (f : Fields) (s : State) : Out :=
  scalarInstr (.sabs f) s (setD (unaryValue absTy) f)

/-- sclz: leading zero bits (R102). -/
def execSclz (f : Fields) (s : State) : Out :=
  scalarInstr (.sclz f) s (setD (unaryValue clzTy) f)

/-- spop: one bits (R102). -/
def execSpop (f : Fields) (s : State) : Out :=
  scalarInstr (.spop f) s (setD (unaryValue popTy) f)

/-- sbrev: bits reversed (R102). -/
def execSbrev (f : Fields) (s : State) : Out :=
  scalarInstr (.sbrev f) s (setD (unaryValue brevTy) f)

/-- D with bits [pos + len − 1 : pos] replaced by the low bits of A (R105). -/
def insertValue (s : State) (t : Troupe) (f : Fields) : GW :=
  let pos := f.imm.toNat % 64
  let len := f.imm.toNat / 256
  let d := readS s t f.d
  let a := readS s t f.a
  let m : Word := (BitVec.ofNat 64 (2 ^ len - 1)) <<< pos
  { v := (d.v &&& ~~~m) ||| ((a.v <<< pos) &&& m), g := max d.g a.g }

/-- A[pos + len − 1 : pos], extended from bit len − 1 as the type (R105). -/
def extractValue (s : State) (t : Troupe) (f : Fields) : GW :=
  let pos := f.imm.toNat % 64
  let len := f.imm.toNat / 256
  let a := readS s t f.a
  let u := a.v.toNat / 2 ^ pos % 2 ^ len
  let x : Int := if tySigned f.ty.toNat && 2 ^ (len - 1) ≤ u then (u : Int) - 2 ^ len else u
  { v := BitVec.ofInt 64 x, g := a.g }

/-- A when C is not zero, else B (R106). -/
def selectValue (s : State) (t : Troupe) (f : Fields) : GW :=
  let a := readS s t f.a
  let b := readS s t f.b
  let c := readS s t f.c
  { v := if c.v != 0 then a.v else b.v, g := max a.g (max b.g c.g) }

/-- 1 when the comparison holds, else 0 (R106). -/
def compareValue (s : State) (t : Troupe) (f : Fields) : GW :=
  let a := opA s t f
  let b := opB s t f
  { v := if cmpHolds (f.sub.toNat % 8) a.1 b.1 then 1 else 0, g := max a.2 b.2 }

/-- A extended from its low w bits (R106). -/
def moveValue (s : State) (t : Troupe) (f : Fields) : GW :=
  let a := opA s t f
  { v := tyExtend 64 f.ty.toNat a.1, g := a.2 }

/-- The immediate as the type, extended to 64 bits (R106). -/
def immValue (_ : State) (_ : Troupe) (f : Fields) : GW :=
  { v := tyExtend 64 f.ty.toNat (immInt f.ty.toNat f.imm) }

/-- (IMM << 32) OR D[31:0], with D's grade (R106). -/
def immHighValue (s : State) (t : Troupe) (f : Fields) : GW :=
  let d := readS s t f.d
  { v := f.imm ++ d.v.setWidth 32, g := d.g }

/-- The address R43 forms, with the grade of A and of B when used (R106). -/
def addressValue (s : State) (t : Troupe) (f : Fields) : GW :=
  let a := readS s t f.a
  let b := readS s t f.b
  { v := memAddr a b f, g := if f.modx.getLsbD 3 then max a.g b.g else a.g }

/-- sins: insert a bit field (R105). -/
def execSins (f : Fields) (s : State) : Out :=
  scalarInstr (.sins f) s (setD insertValue f)

/-- sxtr: extract a bit field (R105). -/
def execSxtr (f : Fields) (s : State) : Out :=
  scalarInstr (.sxtr f) s (setD extractValue f)

/-- ssel: select (R106). -/
def execSsel (f : Fields) (s : State) : Out :=
  scalarInstr (.ssel f) s (setD selectValue f)

/-- scmp: compare (R106). -/
def execScmp (f : Fields) (s : State) : Out :=
  scalarInstr (.scmp f) s (setD compareValue f)

/-- smov: move (R106). -/
def execSmov (f : Fields) (s : State) : Out :=
  scalarInstr (.smov f) s (setD moveValue f)

/-- sli: load an immediate (R106). -/
def execSli (f : Fields) (s : State) : Out :=
  scalarInstr (.sli f) s (setD immValue f)

/-- sliHi: load the high half (R106). -/
def execSliHi (f : Fields) (s : State) : Out :=
  scalarInstr (.sliHi f) s (setD immHighValue f)

/-- sadr: form an address (R106). -/
def execSadr (f : Fields) (s : State) : Out :=
  scalarInstr (.sadr f) s (setD addressValue f)

end Sys2Proof.Machine
end

