-- ==== Sys2Proof/Machine/Masks.lean ====
section
/-! DEFINITION. Mask instructions, opcodes 0x30-0x3B (spec/04_registers.md R107). -/

namespace Sys2Proof.Machine

/-- A result from A and B with the higher grade. -/
def mask2 (op : Word → Word → Word) (s : State) (t : Troupe) (f : Fields) : GW :=
  let a := readS s t f.a
  let b := readS s t f.b
  { v := op a.v b.v, g := max a.g b.g }

/-- A result from A. -/
def mask1 (op : Word → Word) (s : State) (t : Troupe) (f : Fields) : GW :=
  let a := readS s t f.a
  { v := op a.v, g := a.g }

/-- Bits `first` to `first + n − 1` set. -/
def bitRun (first n : Nat) : Word := BitVec.ofNat 64 ((2 ^ n - 1) * 2 ^ first)

/-- kset: a run of bits from the immediate, or as long as A says (R107). -/
def ksetValue (s : State) (t : Troupe) (f : Fields) : GW :=
  let first := f.imm.toNat % 64
  if f.sub == 0 then { v := bitRun first (f.imm.toNat / 256 % 128) }
  else
    let a := readS s t f.a
    { v := bitRun first (min a.v.toNat (64 - first)), g := a.g }

/-- kget: bit i of A (R107). -/
def kgetValue (s : State) (t : Troupe) (f : Fields) : GW :=
  let a := readS s t f.a
  let b := readS s t f.b
  if f.sub.getLsbD 3 then { v := if a.v.getLsbD f.imm.toNat then 1 else 0, g := a.g }
  else { v := if a.v.getLsbD (b.v.toNat % 64) then 1 else 0, g := max a.g b.g }

/-- Index of the lowest set bit; 64 for none. -/
def lowestBit (x : Word) : Nat := ((List.range 64).find? fun i => x.getLsbD i).getD 64

/-- Index of the highest set bit; 64 for none. -/
def highestBit (x : Word) : Nat := if x = 0 then 64 else x.toNat.log2

/-- kand: A AND B (R107). -/
def execKand (f : Fields) (s : State) : Out :=
  scalarInstr (.kand f) s (setD (mask2 (· &&& ·)) f)

/-- kor: A OR B (R107). -/
def execKor (f : Fields) (s : State) : Out :=
  scalarInstr (.kor f) s (setD (mask2 (· ||| ·)) f)

/-- kxor: A XOR B (R107). -/
def execKxor (f : Fields) (s : State) : Out :=
  scalarInstr (.kxor f) s (setD (mask2 (· ^^^ ·)) f)

/-- kandn: A AND NOT B (R107). -/
def execKandn (f : Fields) (s : State) : Out :=
  scalarInstr (.kandn f) s (setD (mask2 fun a b => a &&& ~~~b) f)

/-- knot: NOT A (R107). -/
def execKnot (f : Fields) (s : State) : Out :=
  scalarInstr (.knot f) s (setD (mask1 fun a => ~~~a) f)

/-- kmov: A (R107). -/
def execKmov (f : Fields) (s : State) : Out :=
  scalarInstr (.kmov f) s (setD (mask1 id) f)

/-- kset: a run of set bits (R107). -/
def execKset (f : Fields) (s : State) : Out :=
  scalarInstr (.kset f) s (setD ksetValue f)

/-- kget: one bit of A (R107). -/
def execKget (f : Fields) (s : State) : Out :=
  scalarInstr (.kget f) s (setD kgetValue f)

/-- kpop: number of set bits of A (R107). -/
def execKpop (f : Fields) (s : State) : Out :=
  scalarInstr (.kpop f) s (setD (mask1 fun a => BitVec.ofNat 64 (popCount 64 a.toNat)) f)

/-- kffs: index of the lowest set bit of A (R107). -/
def execKffs (f : Fields) (s : State) : Out :=
  scalarInstr (.kffs f) s (setD (mask1 fun a => BitVec.ofNat 64 (lowestBit a)) f)

/-- klast: index of the highest set bit of A (R107). -/
def execKlast (f : Fields) (s : State) : Out :=
  scalarInstr (.klast f) s (setD (mask1 fun a => BitVec.ofNat 64 (highestBit a)) f)

/-- kbcast: all ones when A is not zero (R107). -/
def execKbcast (f : Fields) (s : State) : Out :=
  scalarInstr (.kbcast f) s (setD (mask1 fun a => if a = 0 then 0 else allLanes) f)

end Sys2Proof.Machine
end

