-- ==== Sys2Proof/Machine/Control.lean ====
section
/-! DEFINITION. Control and system instructions and the scalar queue instructions
(spec/04_registers.md R95-R100, R108). -/

namespace Sys2Proof.Machine

/-- The byte after the current unit. -/
def afterUnit (t : Troupe) (s : State) : Word := t.pc + BitVec.ofNat 64 s.len

/-- Branch by the signed byte offset from the unit's first byte, or go on (R96). -/
def branch (taken : Bool) (f : Fields) (t : Troupe) (s : State) : SRes :=
  if taken then .goto s (t.pc + f.imm.signExtend 64) else .goto s (afterUnit t s)

/-- The condition of brc: nz, z, lt, ge on A as the type (R96). -/
def brcTaken (f : Fields) (a : Int) : Bool :=
  if f.sub == 0 then a != 0 else if f.sub == 1 then a == 0 else if f.sub == 2 then a < 0
  else 0 ≤ a

/-- The mask bany and bnone test (R96). -/
def branchMask (f : Fields) (t : Troupe) (s : State) : Word :=
  let m := (readS s t f.a).v
  if f.sub == 1 then m &&& t.k0 else m

/-- bra (R96). -/
def execBra (f : Fields) (s : State) : Out := scalarInstr (.bra f) s (branch true f)

/-- brc (R96). -/
def execBrc (f : Fields) (s : State) : Out :=
  scalarInstr (.brc f) s fun t s => branch (brcTaken f (opA s t f).1) f t s

/-- bany (R96). -/
def execBany (f : Fields) (s : State) : Out :=
  scalarInstr (.bany f) s fun t s => branch (branchMask f t s != 0) f t s

/-- bnone (R96). -/
def execBnone (f : Fields) (s : State) : Out :=
  scalarInstr (.bnone f) s fun t s => branch (branchMask f t s == 0) f t s

/-- call: the target first, then s127 with grade 0 (R97). -/
def execCall (f : Fields) (s : State) : Out :=
  scalarInstr (.call f) s fun t s =>
    let base := if f.sub == 0 then t.pc else (readS s t f.a).v
    .goto (s.setTroupe (t.writeS 127 { v := afterUnit t s })) (base + f.imm.signExtend 64)

/-- ret (R97). -/
def execRet (f : Fields) (s : State) : Out :=
  scalarInstr (.ret f) s fun t s => .goto s (t.reg 127).v

/-- jmp (R97). -/
def execJmp (f : Fields) (s : State) : Out :=
  scalarInstr (.jmp f) s fun t s => .goto s ((readS s t f.a).v + f.imm.signExtend 64)

/-- trap: stops the troupe with a record of cause TRAP and the code (R98). -/
def execTrap (f : Fields) (s : State) : Out :=
  scalarInstr (.trap f) s fun _ _ => .trap { cause := .trap, code := f.imm.toNat % 2 ^ 16 }

/-- sysc: the same with cause SYSC, the service number, and s4-s11 (R98, R350). -/
def execSysc (f : Fields) (s : State) : Out :=
  scalarInstr (.sysc f) s fun t _ =>
    .trap { cause := .sysc, code := f.imm.toNat % 2 ^ 16,
            ents := (List.range 4).map fun l => ((t.reg (4 + 2 * l)).v, (t.reg (5 + 2 * l)).v) }

/-- Two bits of shape code per register from v `first` (R99). -/
def shapeWord (t : Troupe) (first : Nat) : Word :=
  BitVec.ofNat 64 ((List.range 32).foldl (fun w j => w + (t.vreg (first + j)).sh.code * 4 ^ j) 0)

/-- The value of a status register (R99). -/
def statusReg (s : State) (t : Troupe) (n : Nat) : GW :=
  if n = 0x000 then { v := t.clause }
  else if n = 0x001 then
    { v := BitVec.ofNat 64 (((List.range 64).filter fun j => (t.vreg j).sh.isGeneral).length * 256
        + (s.ring t.id.ring).vgen) }
  else if n = 0x002 then { v := shapeWord t 0 }
  else if n = 0x003 then { v := shapeWord t 32 }
  else if n = 0x004 then { v := t.wflags.setWidth 64 }
  else if n = 0x005 then { v := BitVec.ofNat 64 (t.up.length * 256 + t.down.length) }
  else if n = 0x006 then { v := BitVec.ofNat 64 (s.launchOf t.id.ring).lr.grade }
  else if n = 0x007 then { v := BitVec.ofNat 64 t.miles }
  else t.utag

/-- VGEN and the shape words reflect every earlier instruction (R81, R99). -/
def shapeReg (n : Nat) : Bool := 1 ≤ n && n ≤ 3

/-- rdsr (R99). -/
def execRdsr (f : Fields) (s : State) : Out :=
  scalarInstr (.rdsr f) s fun t s =>
    let n := f.imm.toNat
    let v := (t.pending).filter (256 ≤ ·)
    if shapeReg n && !t.vq.isEmpty then .wait .drain s
    else if shapeReg n && !v.isEmpty then .wait (.hold v) s
    else .done (s.setTroupe (t.writeS f.d (statusReg s t n)))

/-- wrsr: UTAG takes A's value and grade (R99). -/
def execWrsr (f : Fields) (s : State) : Out :=
  scalarInstr (.wrsr f) s fun t s => .done (s.setTroupe { t with utag := readS s t f.a })

/-- tick: the die's cycle counter, grade 0 (R100). -/
def execTick (f : Fields) (s : State) : Out :=
  scalarInstr (.tick f) s fun t s =>
    .done (s.setTroupe (t.writeS f.d { v := BitVec.ofNat 64 (s.tickOf t.id.ring) }))

/-- yield: the age stamp becomes the current cycle (R329). -/
def execYield (f : Fields) (s : State) : Out :=
  scalarInstr (.yield f) s fun t s => .done (s.setTroupe { t with age := s.tickOf t.id.ring })

/-- The cycles sleep waits for (R100). -/
def sleepCycles (f : Fields) (s : State) (t : Troupe) : Nat :=
  16 * max 1 (if f.sub == 0 then f.imm.toNat else (readS s t f.a).v.toNat % 2 ^ 20)

/-- sleep: blocks until the counter has advanced (R100). -/
def execSleep (f : Fields) (s : State) : Out :=
  scalarInstr (.sleep f) s fun t s =>
    match t.wait with
    | some (.sleep u) => if u ≤ s.tickOf t.id.ring then .done s else .wait (.sleep u) s
    | _ => .wait (.sleep (s.tickOf t.id.ring + sleepCycles f s t)) s

/-- The interval of a sleeping troupe elapses: the die's counter stands at its end, and the wait is
over (R100). -/
def execSleepExpiry (s : State) : Out :=
  let id : TroupeId := ⟨s.ev.ring, s.ev.idx⟩
  match s.troupe? id with
  | some t =>
      match t.wait with
      | some (.sleep u) =>
          .next ((s.modDie (s.dieOf id.ring) fun d => { d with tick := max d.tick u }).modTroupe id
            fun t => { t with wait := some (.sleep 0) })
      | _ => .next s
  | none => .next s

/-- sqput: pushes A with its grade onto the down queue, waiting while it is full (R91, R108). -/
def execSqput (f : Fields) (s : State) : Out :=
  scalarInstr (.sqput f) s fun t s =>
    if 16 ≤ t.down.length then .wait (.queue true) s
    else .done (s.setTroupe { t with down := t.down ++ [readS s t f.a] })

/-- sqget: pops the up queue into D with the entry's grade, waiting while it is empty (R91, R108). -/
def execSqget (f : Fields) (s : State) : Out :=
  scalarInstr (.sqget f) s fun t s =>
    match t.up with
    | [] => .wait (.queue false) s
    | x :: rest => .done (s.setTroupe (({ t with up := rest } : Troupe).writeS f.d x))

end Sys2Proof.Machine
end

