-- ==== Sys2Proof/Machine/Save.lean ====
section
/-! DEFINITION. Pre-emption: the choice of mode, drain, flush, save and restore
(spec/16_faults_and_preemption.md R349, R360-R370, spec/17_grades_and_keys.md R383, R384). -/

namespace Sys2Proof.Machine

/-! ### The mode (R361) -/

/-- A ring qualifies for drain. -/
def drainOk (mest : Nat) (r : Ring) : Bool := r.ended || (0 < mest && mest - mest / 10 ≤ r.miles)

/-- A ring qualifies for flush. -/
def flushOk (l : LRec) (r : Ring) : Bool := l.idem && 0 < l.mest && 4 * r.miles < l.mest

/-- The modes of R361. -/
inductive PreMode where
  | drain
  | flush
  | save
  deriving DecidableEq, Repr

/-- The mode of a pre-emption, given the modes allowed. -/
def preMode (l : LRec) (rs : List Ring) (modes : Nat) : PreMode :=
  if rs.all (drainOk l.mest) then (if modes.testBit 0 then .drain else .save)
  else if rs.all (flushOk l) then (if modes.testBit 1 then .flush else .save)
  else .save

/-! ### Flush (R362) -/

/-- A started copy that a flush lets complete. -/
def CopyEnt.flushKeeps (e : CopyEnt) (rs : List Nat) : Bool :=
  rs.contains e.ring && e.started && !e.parked

/-- Steps 1 to 5 of a flush, but that its started copies still complete.  A drain of the overflow area ends with the
bins (R336). -/
def State.flushStart (s : State) (nb at_ : Nat) : State :=
  let rs := (s.ringsOf nb).map (·.id)
  let keep := fun (l : List CopyEnt) => l.filter fun e => !rs.contains e.ring || e.flushKeeps rs
  let s1 := s.discardRings rs
  let back := fun (x : CoreSt × CoreSt) => { x.1 with cq0 := keep x.2.cq0, cq1 := keep x.2.cq1 }
  let s2 := { s1 with
    cores := (s1.cores.zip s.cores).map back,
    rings := updWhere s1.rings (fun r => r.nb == nb) fun r => { r with draining := false } }
  s2.modNbhd nb fun x => { x with pre := .flush at_ }

/-- A flushed neighbourhood has no copy left: it returns to the unplaced ones of its die. -/
def State.flushEnd (s : State) (nb at_ : Nat) : State :=
  let x := s.nbhd nb
  let s1 := (s.dropNbhd nb).modLaunch x.launch fun l =>
    { l with todo := upd l.todo x.die fun t => sortBy (fun a b => decide (a ≤ b)) (x.n :: t) }
  s1.notice x at_ 18 0 0

/-- A flushed neighbourhood's copies are complete. -/
def State.flushOver (s : State) (nb : Nat) : Bool := (s.ringsOf nb).all fun r => !s.hasCopies r

/-- A copy of some rings that has parked. -/
def CopyEnt.parkedOf (e : CopyEnt) (rs : List Nat) : Bool := e.parked && rs.contains e.ring

/-- A copy of a flushed neighbourhood has parked. -/
def State.flushParked (s : State) (nb : Nat) : Bool :=
  (s.ringsOf nb).any fun r =>
    ((s.core r.core).cq0 ++ (s.core r.core).cq1).any fun e => e.parkedOf [r.id]

/-- The parked copies of a flushed neighbourhood are cancelled without a record (R362 step 2). -/
def State.cancelFlushed (s : State) (nb : Nat) : State :=
  let rs := (s.ringsOf nb).map (·.id)
  let s1 := s.unpark fun w => w.ofRings s rs
  { s1 with cores := s1.cores.map fun c =>
      { c with cq0 := c.cq0.filter fun e => !e.parkedOf rs, cq1 := c.cq1.filter fun e => !e.parkedOf rs } }

/-- PREEMPTION_REQUEST: the mode of an asked neighbourhood is chosen and begins; a flush ends once its
copies are complete (R361, R362).  Where nothing is asked yet and the step says so, Cuchehild's scheduling
policy asks (R360). -/
def execPreemptionRequest (s : State) : Out :=
  match s.nbhd? s.ev.obj with
  | none => .next s
  | some x =>
      match x.pre with
      | .asked modes at_ =>
          let put := fun (p : PreSt) => s.modNbhd x.id fun y => { y with pre := p }
          .next <| match preMode (s.launch x.launch).lr (s.ringsOf x.id) modes with
            | .drain => put (.drain ((s.die x.die).tick + (s.die x.die).drainWait) at_)
            | .flush => s.flushStart x.id at_
            | .save => put (.save at_)
      | .flush at_ =>
          let s1 := s.cancelFlushed x.id
          .next (if s1.flushOver x.id then s1.flushEnd x.id at_ else s1)
      | .none =>
          .next (if s.ev.on && s.ev.addr.toNat % 64 == 0 then
            s.modNbhd x.id fun y => { y with pre := .asked (s.ev.num % 8) s.ev.addr.toNat } else s)
      | _ => .next s

/-- DRAIN_WAIT_EXPIRY: a draining neighbourhood that has not ended within the wait is saved (R362).  A step
that says so is the firmware's setting of a die's drain wait. -/
def execDrainWaitExpiry (s : State) : Out :=
  if s.ev.on then .next (s.modDie s.ev.die fun d => { d with drainWait := s.ev.num })
  else match s.nbhd? s.ev.obj with
  | none => .next s
  | some x =>
      match x.pre with
      | .drain d at_ =>
          .next ((s.modDie x.die fun y => { y with tick := max y.tick d }).modNbhd x.id fun y =>
            { y with pre := .save at_ })
      | _ => .next s

/-! ### Save (R363) -/

/-- A lane needs nothing more before a save: it is complete, parked, faulted and reported, or waits in a
slice. -/
def LaneSt.atRest : LaneSt → Bool
  | .done => true
  | .parked => true
  | .faulted _ _ (some _) => true
  | .waiting => true
  | _ => false

/-- A lane of an aaddf whose reply is under way: its flags may reach the troupe after its image is taken
(R358). -/
def Op.lateLane (o : Op) (l : LaneRec) : Bool :=
  l.st.isReply && (match o.instr with | .aaddf _ => true | _ => false)

/-- A lane of an operation that waits behind a parked one of its troupe is withdrawn with it (R363). -/
def Troupe.heldByParked (t : Troupe) (o : Op) : Bool :=
  t.ops.any fun a => decide (a.id < o.id) && a.lanes.any fun l => l.st == .parked

/-- An slvst that waits in its ring's queue, with which it is saved (R312, R316). -/
def Op.isSlvst (o : Op) : Bool := match o.instr with | .slvst _ => true | .slvstRel _ => true | _ => false

/-- The sequencer has completed the operation of a ring that it has begun (R316). -/
def Solver.atRest (v : Solver) : Bool := v.pos = 0 && !(v.claimed && v.state = 1)

/-- An operation of a troupe needs nothing more before a save. -/
def Troupe.opAtRest (t : Troupe) (o : Op) : Bool :=
  o.isFence || o.isSlvst
    || (!o.lanes.isEmpty
        && (o.lanes.all fun l => l.st.atRest || o.lateLane l || (l.st == .behind && t.heldByParked o))
        && o.lanes.any fun l => l.st != .done)

/-- The scalar side has stopped: at a clause boundary, where it blocks, on a record, or at its end. -/
def Troupe.scalarAtRest (t : Troupe) : Bool :=
  t.ending || !t.stopped.isEmpty
    || (match t.wait with
        | some (.ticketed _) => false
        | some .drain => t.vq.isEmpty == false
        | some _ => true
        | none => t.left == 0)

/-- A troupe may be imaged: both sides stand, and no lane is in flight (R363 steps 1 and 2). -/
def Troupe.atRest (t : Troupe) : Bool :=
  t.live && t.scalarAtRest && t.reports.isEmpty && (t.ops.all t.opAtRest)
    && (t.vq.isEmpty || t.vwait.isSome || !t.stopped.isEmpty)

/-- A stream may be imaged: no operation issued before a draining mark is still to complete, but one
stopped under R204 (R140, R206). -/
def State.streamAtRest (s : State) (r : Ring) : Bool :=
  match r.stream with
  | none => true
  | some st =>
      st.state == 5 || st.fmts.all fun x =>
        x.1 < 8 || (s.slotEnt (s.asidOf r.id) x.1).state == 0 || (s.slotEnt (s.asidOf r.id) x.1).state == 3

/-- A tracking copy entered its queue before a mark that drains its slot: a save waits for it (R138,
R140). -/
def State.copyBeforeMark (s : State) (e : CopyEnt) : Bool :=
  match e.fmt with
  | some (n, _) => 8 ≤ n && ((s.slotEnt (s.asidOf e.ring) n).state == 1 || (s.slotEnt (s.asidOf e.ring) n).state == 2)
  | none => false

/-- A copy of a ring being saved goes on to its completion: it has started and is not parked, or it or a
later one of the ring entered its queue before a mark that drains its slot (R140, R157, R363). -/
def State.copyGoesOn (s : State) (core : Nat) (e : CopyEnt) : Bool :=
  let c := s.core core
  (e.started && !e.parked)
    || (c.cq0 ++ c.cq1).any fun x => x.ring == e.ring && e.id ≤ x.id && s.copyBeforeMark x

/-- A copy whose bytes have all landed, with norm flags still to report: they may reach the troupe after its
image is taken (R211, R358). -/
def State.copyLate (s : State) (core : Nat) (e : CopyEnt) : Bool :=
  e.fl != 0 && e.over_ && s.copyFirst core e.id && !s.copyHeld e

/-- The copies of a ring may be imaged: none has still to complete, but for its flags. -/
def State.copiesAtRest (s : State) (r : Ring) : Bool :=
  ((s.core r.core).cq0 ++ (s.core r.core).cq1).all fun e =>
    e.ring != r.id || !s.copyGoesOn r.core e || s.copyLate r.core e

/-- The function of a launch is in reset (R388). -/
def State.fnResets (s : State) (l : Launch) : Bool := s.fw.vfReset.any fun v => v.1 == l.fn

/-- A neighbourhood chosen for save may be imaged (R363); not one whose function is in reset (R388). -/
def State.canSave (s : State) (nb : Nat) : Bool :=
  let rs := s.ringsOf nb
  (s.nbhd nb).release.isEmpty && !s.fnResets (s.launch (s.nbhd nb).launch)
    && (rs.all fun r => s.streamAtRest r && s.copiesAtRest r && r.solver.atRest)
    && (s.troupes.all fun t => (s.ring t.id.ring).nb != nb || t.atRest)
    && !(s.fw.contribs.any fun c => c.who.any fun w => (rs.map (·.id)).contains w.ring)

/-- An aaddf reply that arrives after the register image was taken: its flags join the deferred-flag word
(R358). -/
def State.deferReply (id : TroupeId) (op : Nat) (s : State) (lane : Nat) : State :=
  match s.troupe? id with
  | none => s
  | some t =>
      let s1 := atomicReply id op lane (s.setTroupe { t with sticky := 0 })
      s1.modTroupe id fun u =>
        { u with sticky := t.sticky,
                 defl := if u.sticky = 0 then t.defl
                   else deferReport t.defl (BitVec.ofNat 64 (2 ^ 8 + u.sticky.toNat)) }

/-- The replies of a troupe that arrive after its image was taken. -/
def State.deferReplies (s : State) (t : Troupe) : State :=
  let lanes := t.ops.flatMap fun o => (o.lanes.filter o.lateLane).map fun l => (o.id, l.lane)
  lanes.foldl (fun s x => s.deferReply t.id x.1 x.2) (s.modTroupe t.id fun t => { t with defl := 0 })

/-- Norm flags of a copy that reach the troupe after its image was taken (R358). -/
def State.deferCopy (core : Nat) (s : State) (e : CopyEnt) : State :=
  match s.troupe? ⟨e.ring, e.troupe⟩ with
  | some t =>
      if t.uid = e.uid then
        (s.finishCopy core { e with fl := 0 }).modTroupe t.id fun t =>
          { t with defl := deferReport t.defl (copyDefl e e.fl) }
      else s.finishCopy core e
  | none => s.finishCopy core e

/-- The reports of flags that reach the troupes of a ring after their images were taken (R358). -/
def State.deferFlags (s : State) (r : Ring) : State :=
  let s1 := (s.troupesOf r.id).foldl State.deferReplies s
  ((((s1.core r.core).cq0 ++ (s1.core r.core).cq1).filter fun e => e.ring == r.id && s1.copyLate r.core e)).foldl
    (State.deferCopy r.core) s1

/-- A troupe as its image has it: a ticket's request is withdrawn, a sleep is over, a parked instruction
is tried again (R363). -/
def Troupe.imaged (t : Troupe) : Troupe :=
  { t with
    wait := (match t.wait with
      | some (.ticket _) => none
      | some (.sleep _) => some (.sleep 0)
      | w => w),
    vwait := (match t.vwait with | some .parked => some .retry | w => w) }

/-- A copy as its image has it: a parked one is withdrawn with its progress. -/
def CopyEnt.imaged (e : CopyEnt) : CopyEnt := { e with parked := false }

/-- The internal word of the operation at which a stream stands, stopped by a fault, parked, or in the middle
of its groups; zero when there is none (R206, R207). -/
def State.stoppedWord (s : State) (ring : Nat) : List Byte :=
  match s.stream? ring with
  | some st =>
      if st.state == 5 || st.row != 0 || st.wait == some .parked then
        match s.fetchStream ring st with
        | .unit_ (.ok i _) => internalWord i
        | _ => zeroBytes 12
      else zeroBytes 12
  | none => zeroBytes 12

/-- A ring as saved (R365). -/
def State.saveRing (s : State) (r : Ring) : SavedRing :=
  let c := s.core r.core
  let tick := s.tickOf r.id
  let mine := fun (l : List CopyEnt) (q : Nat) => (show List (Nat × CopyEnt) from
    (l.filter fun e => e.ring == r.id).map fun e => (q, e.imaged))
  { ring := { r with phint := none },
    troupes := (s.troupesOf r.id).map Troupe.imaged,
    spad := (c.spad.filter fun x => r.spBase ≤ x.1 && x.1 < r.spBase + r.spLen).map fun x => (x.1 - r.spBase, x.2),
    spgr := (c.spgr.filter fun x => r.spBase ≤ x.1 * 128 && x.1 * 128 < r.spBase + r.spLen).map
      fun x => (x.1 - r.spBase / 128, x.2),
    copies := mine c.cq0 0 ++ mine c.cq1 1,
    bins := c.bins.map fun b =>
      match b.key with
      | some k => if k.1 = r.id then some (k.2, b.recs, b.deadline - tick) else none
      | none => none,
    au := if c.au.holder = some r.id then some c.au else r.stream.bind fun st => st.unit_,
    word := s.stoppedWord r.id }

/-- Image a neighbourhood and take it off its cores: its batches' records, its own record and then its notice are
written (R316, R363, R364, R383).  Its pending records and the tuple entries parked for it stay. -/
def State.saveNbhd (s : State) (nb at_ : Nat) : State :=
  let s := ((s.ringsOf nb).map (·.id)).foldl State.writeRecords ((s.ringsOf nb).foldl State.deferFlags s)
  let x := s.nbhd nb
  let l := s.launch x.launch
  let c := s.ctx l.asid
  let ctr := c.savectr + 1
  let rs := s.ringsOf nb
  let v : Saved :=
    { nb := { x with pre := .none, tag := none }, rings := rs.map s.saveRing,
      addr := 64 * Config.saveAddr s.fw.pool, ctr := ctr, len := 0 }
  let s1 := s.discardRings (rs.map (·.id))
  let s2 := { s1 with ctxs := s.ctxs, slices := s.slices }.removeNbhd nb
  let key := (l.queue, l.lr.seq, x.n)
  let s3 := (s2.modCtx l.asid fun c =>
    { c with savectr := ctr, kept := (c.kept.filter fun k => k.1 != key) ++ [(key, ctr)] }).modFw
      fun w => { w with pool := w.pool + 1 }
  ({ s3 with saved := s3.saved ++ [v] }.putRecord v).notice x at_ 16 v.addr ctr

/-- NEIGHBOURHOOD_SAVE: a neighbourhood chosen for save is imaged once it stands (R363). -/
def execNeighbourhoodSave (s : State) : Out :=
  match s.nbhd? s.ev.obj with
  | none => .next s
  | some x =>
      match x.pre with
      | .save at_ => .next (if s.canSave x.id then s.saveNbhd x.id at_ else s)
      | _ => .next s

/-! ### Restore (R370, R384) -/

/-- Discard a saved neighbourhood: it counts as ended, and its launch completes with a status. -/
def State.dropSaved (s : State) (v : Saved) (code : Nat) : State :=
  let total := (s.launch v.nb.launch).lr.total
  let ids := v.rings.map fun r => r.ring.id
  let s1 := s.modLaunch v.nb.launch fun l =>
    { l with code := code, doneN := l.doneN + 1,
             stage := if total ≤ l.doneN + 1 && l.stage == LStage.running then .ended else l.stage }
  { s1 with
    saved := s1.saved.filter fun x => x.nb.id != v.nb.id,
    ctxs := s1.ctxs.map fun c => { c with recs := c.recs.filter fun r => !ids.contains r.ring },
    slices := s1.slices.map fun c =>
      { c with parked := c.parked.filter fun p => !ids.contains p.2.t.ring,
               replies := c.replies.filter fun r => !ids.contains r.t.ring } }

/-- Bins and copy-queue entries of the new core have room for a saved ring (R338, R157). -/
def State.engineRoom (s : State) (core : Nat) (r : SavedRing) : Bool :=
  let c := s.core core
  (r.bins.filter Option.isSome).length ≤ (c.bins.filter fun b => b.key.isNone).length
    && c.cq0.length + (r.copies.filter fun x => x.1 == 0).length ≤ 32
    && c.cq1.length + (r.copies.filter fun x => x.1 == 1).length ≤ 32

/-- The first corner at which a saved neighbourhood fits (R370). -/
def State.restoreCorner (s : State) (l : Launch) (v : Saved) : Option (Nat × Nat) :=
  let d := v.nb.die
  if (s.routeTag l d).isNone then none
  else
    (l.cornersFirst d).find? fun p =>
      let cores := rectCores d p.1 p.2 l.lr.w l.lr.h
      (cores.all fun c => s.coreFits l c (s.keptOn l d c) && !s.drainedCore l c)
        && v.rings.all fun r => s.engineRoom (nth cores r.ring.ridx 0) r

/-- A lane of a restored operation: one that was parked is performed again (R367, R370 step 7). -/
def LaneRec.restored (l : LaneRec) : LaneRec := if l.st = .parked then { l with st := .redo } else l

/-- The lines of code of what is left of a clause, as they are fetched again for it (R36, R370). -/
def State.restLines (s : State) (asid core left : Nat) (pc : Word) : List (Word × List Byte) :=
  if left = 0 then [] else s.codeLines asid core pc.toNat (s.scanUnits asid core left pc).2.toNat

/-- A troupe as restored: its age is the cycle of the restore, later for a higher index, its deferred-flag word
is merged, and what is left of its clause is fetched again, once (R36, R327, R357, R370). -/
def Troupe.restored (s : State) (asid core : Nat) (t : Troupe) : Troupe :=
  { t with
    slot := s.freeIssueSlot core, age := (s.die (core / 64)).tick + t.id.idx, starve := 0,
    sticky := t.sticky ||| (t.defl.setWidth 4),
    code := s.restLines asid core t.left t.pc,
    ops := t.ops.map fun o => { o with lanes := o.lanes.map LaneRec.restored } }

/-- A copy as restored: one that had started goes on from its progress, its source read again (R370). -/
def CopyEnt.restored (e : CopyEnt) : CopyEnt :=
  if e.started then { e with started := false, again := true, words := [] } else e

/-- A stream as restored: without contexts or grant, and with what the alias unit held; a parked one tries
again (R206, R222). -/
def Stream.restored (s : State) (asid core : Nat) (st : Stream) (au : Option AliasUnit) : Stream :=
  { st with ctx := false, implicit := 0, relies := 0, unit_ := au, code := s.restLines asid core st.left st.pc,
            wait := if st.wait = some .parked then some .retry else st.wait }

/-- A stream that holds or awaits contexts when it is saved. -/
def Stream.wantsContexts (st : Stream) : Bool := st.state != 0 && st.state != 4

/-- Put the bins of a saved ring into free bins of its core in image order; a full one is ready (R335,
R338). -/
def State.refillBins (s : State) (core ring : Nat) (bins : List (Option (Word × List SRec × Nat))) : State :=
  let tick := (s.die (core / 64)).tick
  (bins.filterMap id).foldl (fun s b =>
    match (List.range 8).find? fun j => (nth (s.core core).bins j {}).key == none with
    | some j =>
        { (s.modBin core j fun _ =>
            { key := some (ring, b.1), recs := b.2.1, deadline := tick + b.2.2,
              ready := if 64 ≤ b.2.1.length then some s.fresh else none }) with fresh := s.fresh + 1 }
    | none => s) s

/-- Grants, contexts and batch are requested again (R316, R331, R370 step 3). -/
def State.requestAgain (s : State) (tclass : Nat) (r : SavedRing) : State :=
  let x := r.ring
  let die := s.dieOf x.id
  let implicit := match x.stream with | some st => st.implicit | none => 0
  let cls := x.grants.filter fun c => c != tclass && c != implicit && !(c == 4 && x.solver.implicit)
  let s1 := cls.foldl (fun s c => s.modDie die fun d =>
    { d with grantq := d.grantq ++ [{ who := .ring x.id, cls := c }] }) s
  let s2 := match x.stream with
    | some st => if st.wantsContexts then s1.askGrant x.id st.two st.smp else s1
    | none => s1
  if x.solver.claimed || (x.solver.state = 1 && !x.solver.desc.isEmpty) then s2.askCalliope x.id else s2

/-- Solver state as restored: the batch is to be granted and claimed again and its samples reloaded; CQ is that
of the installed table (R311, R316). -/
def Solver.restored (v : Solver) : Solver :=
  { v with
    claimed := false, granted := false, implicit := false, hold := false,
    cq := (match v.tab with | some b => tabCq b | none => v.cq),
    reload := if v.claimed && v.state != 1 then v.samples.length else 0 }

/-- Restore one ring at a core (R370 steps 2 to 5). -/
def State.restoreRing (l : Launch) (s : State) (y : Nat × SavedRing) : State :=
  let core := y.1
  let r := y.2
  let base := (s.freeRange core l.lr.spad).getD 0
  let x : Ring :=
    { r.ring with
      core := core, rslot := s.freeRingSlot core, spBase := base,
      grants := if l.lr.tclass = 0 then [] else [l.lr.tclass], returns := [],
      stream := r.ring.stream.map fun st => st.restored s l.asid core r.au,
      solver := r.ring.solver.restored }
  let s1 := s.wipeSpad core base x.spLen
  let s2 := { s1 with rings := s1.rings ++ [x] }
  let s3 := r.spad.foldl (fun s c => s.modCore core fun k =>
    { k with spad := cellWriteN k.spad (base + c.1) [c.2] }) s2
  let s4 := s3.modCore core fun k =>
    { k with
      spgr := (k.spgr.filter fun e => e.1 * 128 < base) ++ (r.spgr.map fun e => (base / 128 + e.1, e.2))
        ++ k.spgr.filter fun e => base + x.spLen ≤ e.1 * 128,
      cq0 := k.cq0 ++ (r.copies.filter fun c => c.1 == 0).map (·.2.restored),
      cq1 := k.cq1 ++ (r.copies.filter fun c => c.1 == 1).map (·.2.restored) }
  let s5 := (s4.refillBins core x.id r.bins).requestAgain l.lr.tclass r
  (sortBy (fun a b => decide (a.id.idx ≤ b.id.idx)) r.troupes).foldl
    (fun s t => { s with troupes := s.troupes ++ [t.restored s l.asid core] }) s5

/-- The operation that a mailbox delivery is for: the lane waits, with this destination and counter
(R369). -/
def mailOp (t : Troupe) (m : Mail) : Option Op :=
  t.ops.find? fun o =>
    o.ac == some (m.info / 2 ^ 12 % 16)
      && (match o.instr.fields with
          | some f => f.d.toNat == m.info % 256 && f.imm.toNat % 16 == m.info / 2 ^ 8 % 16
          | none => false)
      && o.lanes.any fun l => l.lane == m.lane && l.st == .waiting

/-- A barrier-object update of a mailbox: arrivals, and bytes that PENDB moves by; where PENDB would leave its range
the object is FAULTED with a BADARG record instead (R167, R369; log entry 162). -/
def State.mailObject (s : State) (ring : Nat) (m : Mail) : State :=
  match s.boundObj ring (m.info % 2 ^ 16 * 16) with
  | none => s
  | some p =>
      let o := s.barrierObj p
      let w := m.info2.toNat
      let b := ((BitVec.ofNat 24 (w / 2 ^ 12)).toInt)
      let o1 : BObj := { o with penda := o.penda - w % 2 ^ 12 }
      if !o.valid then s
      else if o.faulted then s.putBarrier p o1 m.g
      else if o.pendb + b < -(2 ^ 23) || 2 ^ 23 ≤ o.pendb + b then
        let asid := s.asidOf ring
        let fs := s.nextFseq asid
        let r : FRec :=
          { s.ringRecord ring 2 .badarg with
            aux := BitVec.ofNat 64 (ringWin + m.info % 2 ^ 16 * 16), code := 2 ^ 15 + m.info % 2 ^ 16, grade := m.g,
            tidx := m.tidx }
        (s.postRecord asid r).putBarrier p { o1 with faulted := true, frec := fs } m.g
      else s.putBarrier p ({ o1 with pendb := o.pendb + b } : BObj).advance m.g

/-- The arrivals of a mailbox at a numbered barrier, or at a tree barrier (R173, R174, R369). -/
def State.mailArrivals (s : State) (ring : Nat) (m : Mail) : State :=
  (setBits m.info2.toNat 32).foldl (fun s i =>
    match s.nbArrive ring (m.kind == 4) (m.info % 16) (m.info / 2 ^ 8 % 64) (some i) with
    | some (_, s1) => s1
    | none => s) s

/-- The tuple delivery of a mailbox (R299, R369). -/
def State.mailDelivery (s : State) (ring : Nat) (m : Mail) : State :=
  let id : TroupeId := ⟨ring, m.tidx⟩
  match (s.troupe? id).bind fun t => mailOp t m with
  | none => s
  | some o =>
      applyReply
        { t := id, op := o.id, lane := m.lane, status := nth m.words 0 0,
          f := (m.words.drop 1).map fun w => w.setWidth 32, g := m.g, later := true } s

/-- Apply a mailbox entry (R369, R370 step 6). -/
def State.applyMail (v : Saved) (s : State) (m : Mail) : State :=
  match v.rings.find? fun r => r.ring.ridx == m.ridx with
  | none => s
  | some r =>
      if m.kind = 1 then s.mailDelivery r.ring.id m
      else if m.kind = 2 then s.mailObject r.ring.id m
      else if m.kind = 3 || m.kind = 4 then s.mailArrivals r.ring.id m
      else s

/-- A fence of every colour behind what a restored troupe still owes: its accesses after the restore come
after those before the save (R282). -/
def Troupe.fenced (t : Troupe) : Troupe :=
  if t.ops.any Op.owes then
    { t with nextOp := t.nextOp + 1,
             ops := t.ops ++ [{ id := t.nextOp, instr := .fence restoreFence, held := false }] }
  else t

/-- Drop the lanes of an operation that a handler dropped while its troupe was saved (R355, R370 step 7). -/
def State.dropRestored (id : TroupeId) (s : State) (op : Nat) : State :=
  ((s.modTroupe id fun t => t.dropWhere op fun l => l.st == .dropped).tidyAny id op).settle id

/-- What a handler did to a troupe while it was saved takes effect: lanes are dropped, lanes are performed
again, the troupe ends (R353-R355, R370 step 7). -/
def State.redoTroupe (s : State) (id : TroupeId) : State :=
  match s.troupe? id with
  | none => s
  | some t =>
      let with_ := fun (st : LaneSt) => (t.ops.filter fun o => o.lanes.any fun l => l.st == st).map (·.id)
      let s1 := (with_ .dropped).foldl (State.dropRestored id) s
      let s2 := (with_ .redo).foldl (fun s op => ((s.reissue id op).tidyAny id op).settle id) s1
      (if t.killed then s2.endFault id else s2).modTroupe id Troupe.fenced

/-- Restore a saved neighbourhood at a corner; the counter kept for what its header names goes (R370, R384). -/
def State.restoreAt (s : State) (l : Launch) (v : Saved) (row col : Nat) : State :=
  let d := v.nb.die
  let tag := (s.routeTag l d).getD none
  let cores := rectCores d row col l.lr.w l.lr.h
  let x : Nbhd := { v.nb with row0 := row, col0 := col, tag := tag, placed := s.fresh, pre := .none }
  let key := headerKey (s.savedHeader v)
  let s1 := (({ s with
      nbhds := s.nbhds ++ [x], fresh := s.fresh + 1,
      saved := s.saved.filter fun y => y.nb.id != v.nb.id }.modDie d fun y =>
        { y with tags := y.tags ++ tag.toList }).modLaunch l.id fun l =>
    { l with granted := l.granted.filter (· != d), asked := l.asked.filter (· != d),
             chosen := l.chosen.filter fun y => y.1 != d }).modCtx l.asid fun c =>
      { c with kept := c.kept.filter fun k => k.1 != key }
  let s2 := (v.rings.map fun r => (nth cores r.ring.ridx 0, r)).foldl (State.restoreRing l) (s1.dropResv d l.id)
  let s3 := v.mail.foldl (State.applyMail v) s2
  (v.rings.flatMap fun r => r.troupes.map (·.id)).foldl State.redoTroupe s3

/-! ### The dispatcher's next act (R323-R325, R370) -/

/-- Where the head of a launch can go on a die: the status of a check that a saved record fails, or 0 and a
corner (R324, R370, R384); nowhere while its function is in reset (R388). -/
def State.headFit (s : State) (l : Launch) (d : Nat) : Option (Nat × Nat × Nat) :=
  if s.fnResets l then none
  else match s.headOf l d with
  | some (.saved v) =>
      match s.loadSaved v with
      | .error st => some (st, 0, 0)
      | .ok v => (s.restoreCorner l v).map fun p => (0, p.1, p.2)
  | some (.fresh _) => (s.corner l d).map fun p => (0, p.1, p.2)
  | none => none

/-- What a dispatcher can do for the head of a launch whose grants are held: reserve its frames at the
corner where it fits, place or restore it once they are ready, or end a record that fails (R141, R324,
R370). -/
def State.headAct (s : State) (d : Nat) (l : Launch) : Option PlaceAct :=
  if !l.hasGrants d then none
  else
    match s.headFit l d with
    | none => none
    | some (st, row, col) =>
        if st = 0 && !s.cornerMapped l d row col then some (.frames l row col)
        else if st = 0 && !s.cornerStands l d row col then none
        else
          match s.headOf l d with
          | some (.saved v) =>
              some (.restore l (match s.loadSaved v with | .ok v1 => v1 | .error _ => v) st row col)
          | some (.fresh _) => some (.place l row col)
          | none => none

/-- The next act of a die's dispatcher (R323-R325): requests first, then the reservation for the highest
waiting launch, then the first head for which something can be done. -/
def State.placeAct (s : State) (d : Nat) : Option PlaceAct :=
  let ls := s.waiting d
  match ls.find? fun l => l.lr.tclass != 0 && !l.asked.contains d with
  | some l => some (.ask l)
  | none =>
      let reserve := match ls with
        | l :: _ =>
            if l.hasGrants d && (s.headFit l d).isNone && s.takesResv l d then
              let p := s.target l d
              some (PlaceAct.reserve l p.1 p.2)
            else none
        | [] => none
      match reserve with
      | some a => some a
      | none => ls.findSome? (s.headAct d)

/-- NEIGHBOURHOOD_PLACE: the next act of a die's dispatcher (R323-R325).  A saved head is placed by its
restore. -/
def execNeighbourhoodPlace (s : State) : Out :=
  let d := s.ev.die
  .next <| match s.placeAct d with
    | some (.ask l) =>
        (s.modDie d fun x =>
          { x with grantq := x.grantq ++ [{ who := .place l.id l.lr.rings, cls := l.lr.tclass }] }).modLaunch l.id
          fun l => { l with asked := l.asked ++ [d] }
    | some (.reserve l r c) =>
        s.modDie d fun x => { x with resv := some { launch := l.id, row0 := r, col0 := c, since := x.tick } }
    | some (.frames l r c) =>
        ((rectCores d r c l.lr.w l.lr.h).foldl (fun s core => s.mapSlots l core) s).modLaunch l.id fun l =>
          { l with chosen := (l.chosen.filter fun x => x.1 != d) ++ [(d, r, c)] }
    | some (.restore ..) => s
    | some (.place l r c) =>
        (match s.headOf l d with
         | some (.fresh n) => s.placeNew l d n r c
         | _ => s)
    | none => s

/-- What the restore that a die's dispatcher comes to does: fail with a status, or a corner. -/
def State.restorable (s : State) (d : Nat) : Option (Launch × Saved × Nat × Nat × Nat) :=
  match s.placeAct d with
  | some (.restore l v st r c) => some (l, v, st, r, c)
  | _ => none

/-- NEIGHBOURHOOD_RESTORE: a saved neighbourhood at the head of its launch is checked and placed again on
its die (R370, R384). -/
def execNeighbourhoodRestore (s : State) : Out :=
  match s.restorable s.ev.die with
  | none => .next s
  | some (l, v, st, r, c) =>
      .next (if st != 0 then
          let s1 := s.dropSaved v st
          s1.modLaunch l.id fun l =>
            { l with granted := l.granted.filter (· != s.ev.die), asked := l.asked.filter (· != s.ev.die) }
        else s.restoreAt l v r c)

/-- FAULT_QUEUE_HEAD_POLL: the device rereads HEAD of a context's fault queue and posts the records it
holds, as far as there is room (R349). -/
def execFaultQueueHeadPoll (s : State) : Out := .next (s.fqRetry s.ev.asid)

end Sys2Proof.Machine
end

