-- ==== Sys2Proof/Machine/Device.lean ====
section
/-! DEFINITION. post and qring, resets and link events, the firewall, integrity, attestation, and power
(spec/18_host_fabric_firmware.md R396-R403, spec/17_grades_and_keys.md R374-R389). -/

namespace Sys2Proof.Machine

/-! ### post and qring (R396-R398) -/

/-- Issue post (R397). -/
def postIssue (f : Fields) (e : VEntry) (t : Troupe) (s : State) : VRes :=
  let p := s.ringParty t.id.ring
  let a := e.cap.a
  let g := max a.g e.cap.b.g
  match t.vwait with
  | some .parked => .wait .parked s
  | _ =>
      match s.access p a.v.toNat { n := 64, wr := true, align := 64, g := g } with
      | .final c r => .fault { cause := c, reason := r }
      | .replay c level => .wait .parked (s.park t.id.ring (.instr t.id) a.v c level kStore)
      | .ok site =>
          if s.windowOwes t.uid (fun _ => true) || s.cutOff site then .wait .issue s
          else
            let l := s.launchOf t.id.ring
            let q := s.queue l.queue
            let b := completion (2 ^ 31 + 2 ^ 30 + f.imm.toNat % 2 ^ 16) l.lr.seq l.queue (l.doneN % 2 ^ 32)
              l.tick0 (s.die 0).tick e.cap.b.v
            let s1 := ((s.touch p a.v.toNat site).sendTo site).writeSite site b g
            .done (if f.modx.getLsbD 0 then s1.irq q.fn q.vec else s1)

/-- post: writes a completion record of the launch, and with .irq raises its queue's interrupt (R397). -/
def execPost (f : Fields) (s : State) : Out := vectorInstr (.post f) s (postIssue f)

/-- What qring refuses with BADARG (R398). -/
def qringBad (s : State) (ring : Nat) (a b : Word) : Bool :=
  let q := s.queue (a.toNat % 1024)
  a >>> 10 != 0 || b >>> 32 != 0 || q.fn != (s.ctx (s.asidOf ring)).fn || !q.en
    || 2 ^ q.log < (b.setWidth 32 - q.head).toNat

/-- qring: TAIL of queue A takes B, once every earlier write of the troupe is performed (R398). -/
def execQring (f : Fields) (s : State) : Out :=
  vectorInstr (.qring f) s fun e t s =>
    let a := e.cap.a.v
    let b := e.cap.b.v
    if qringBad s t.id.ring a b then .fault { cause := .badarg }
    else if s.windowOwes t.uid (fun _ => true) then .wait .issue s
    else .done (s.modQueue (a.toNat % 1024) fun q => { q with tail := b.setWidth 32 })

/-! ### Cold reset and life cycle (R386, R387, R403) -/

/-- A boot extension of a measurement register (R386). -/
def extendMeas (l : List (List Byte)) (i : Nat) : List (List Byte) :=
  upd l i fun m => sha256 (m ++ Config.bootDigest i)

/-- The registers in the order in which the steps of R403 extend them (R386). -/
def bootOrder : List Nat := [0, 4, 5, 7, 1, 2, 6, 3]

/-- Physical memory outside the package: pooled, host and peer memory, which no reset here wipes. -/
def outerCells (m : List Host.Cell) : List Host.Cell := m.filter fun c => poolBase ≤ c.1

/-- The package after a reset of all its state, with what is outside it, and the model's own fields, kept.
Every key is destroyed: a new pool key, no domain key (R387).  Used one-time keys stay used (RFC 8554; log entry
21). -/
def State.restart (s : State) : State :=
  { State.reset with
    mem := outerCells s.mem, poison := s.poison.filter fun l => poolBase ≤ l * 128, symErr := s.symErr,
    pkeys := s.pkeys, fw := { State.reset.fw with poolKey := s.fw.nextKey, nextKey := s.fw.nextKey + 1, lms := s.fw.lms },
    cur := s.cur, agenda := s.agenda, ev := s.ev, choice := s.choice, fresh := s.fresh }

/-- COLD_RESET: everything is wiped and every key destroyed; bring-up measures the part, loads frames 0-7
and brings the link up (R386, R387, R403). -/
def execColdReset (s : State) : Out :=
  .next (s.restart.modFw fun w => { w with meas := bootOrder.foldl extendMeas w.meas, pkg := s.fw.pkg, hostUp := true })

/-- LIFE_CYCLE_CHANGE: contexts end, keys are destroyed, package memory and every SRAM array are wiped,
launches are gone; the measurements stand until a cold reset (R386, R387). -/
def execLifeCycleChange (s : State) : Out :=
  let again := fun (d : Die) => ({ tick := d.tick, temp := d.temp } : Die)
  let s1 := s.restart
  let s2 : State := { s1 with dies := s.dies.map again, extents := s.extents }
  .next (s2.modFw fun w =>
    { w with meas := s.fw.meas, pkg := s.fw.pkg, vectors := s.fw.vectors, bar2 := s.fw.bar2, rails := s.fw.rails,
             hostUp := s.fw.hostUp })

/-! ### Link events (R387) -/

/-- PCIE_HOT_RESET: every context is torn down, the firmware's own starting afresh, IDE and save keys are
destroyed, HBM4E and LPDDR6 are wiped; the records of torn launches wait for a new link (R387). -/
def execPcieHotReset (s : State) : Out :=
  let ids := s.ctxs.map (·.asid)
  let s1 := s.dropContexts ids
  .next ({ s1 with ctxs := State.reset.ctxs, mem := outerCells s1.mem,
                   poison := s1.poison.filter fun l => poolBase ≤ l * 128 }.modFw
    fun w => { w with ide := false, hostUp := false, spdm := {}, insecure := [], vfReset := [] })

/-- A suspended context goes on once the link is up and a new session, new link keys and fresh measurements
have succeeded (R387). -/
def State.tryResume (s : State) : State :=
  if s.fw.hostUp && s.fw.ide && s.fw.spdm.session == 2 && s.fw.spdm.measured then
    { s with ctxs := s.ctxs.map fun c => { c with suspended := false } }
  else s

/-- HOST_LINK_UP: records of torn launches are written (R387, R394). -/
def execHostLinkUp (s : State) : Out :=
  let s1 := s.modFw fun w => { w with hostUp := true }
  .next ((s1.launches.filter fun l => l.stage == .torn).foldl State.finishLaunch s1).tryResume

/-- Suspend contexts: their placed neighbourhoods are to be saved, and nothing of theirs is placed
(R380, R387). -/
def State.suspend (s : State) (p : Ctx → Bool) : State :=
  let ids := (s.ctxs.filter p).map (·.asid)
  { s with
    ctxs := s.ctxs.map fun c => if ids.contains c.asid then { c with suspended := true } else c,
    nbhds := s.nbhds.map fun n =>
      if ids.contains (s.launch n.launch).asid && !n.past then
        { n with pre := match n.pre with | .flush a => .flush a | .save a => .save a | .drain _ a => .save a | _ => .save 0 }
      else n }

/-- LINK_DOWN_WITHOUT_RESET: protected contexts are suspended, IDE keys destroyed, save keys kept;
unprotected launches run on (R387). -/
def execLinkDownWithoutReset (s : State) : Out :=
  .next ((s.suspend fun c => c.prot).modFw fun w =>
    { w with ide := false, hostUp := false, spdm := { w.spdm with session := 0, measured := false } })

/-! ### VF reset (R388) -/

/-- The drain of a VF reset: 100 µs at the maximum clock, in cycles (DESIGN CHOICE, log entry 190). -/
def vfDrain : Nat := 240000

/-- VF_RESET: new launch records of the VF are refused, and its drain begins (R388).  The host asks for it over its
link. -/
def execVfReset (s : State) : Out :=
  let fn := s.ev.fn
  .next (if fn = 0 || !s.fw.hostUp || s.fw.vfReset.any fun v => v.1 == fn then s
    else s.modFw fun w => { w with vfReset := w.vfReset ++ [(fn, (s.die 0).tick + vfDrain)] })

/-- Reduction windows that a context's tables name: the collectives it is a member of. -/
def State.windowsOf (s : State) (c : Ctx) : List Nat :=
  (((leavesFrom s.mem [0, 1, 2] c.root).filter fun l => l.kind == 3).map winNum).eraseDups

/-- A withdrawal from a window: MEMBERS falls by 1 and WITHDRAWN is set, in one update at the home (R388,
R401). -/
def State.withdraw (s : State) (n : Nat) : State :=
  match s.fw.wins.find? fun w => w.num == n with
  | some w =>
      let h := s.windowHeader w
      s.putWindowHeader w (h % 2 ^ 32 + (bitsOf h 47 32 - 1) * 2 ^ 32 + 2 ^ 48)
  | none => s

/-- VF_RESET_DRAIN_EXPIRY: the VF's contexts are torn down, its queues, frames, tags and tuple entries
reclaimed, then its collectives withdrawn from, then its keys destroyed and its pages wiped; its launches complete
TORNDOWN (R387, R388). -/
def execVfResetDrainExpiry (s : State) : Out :=
  let fn := s.ev.fn
  match s.fw.vfReset.find? fun v => v.1 == fn with
  | none => .next s
  | some (_, at_) =>
      let cs := s.ctxs.filter fun c => c.fn == fn && c.asid != 0
      let wins := (cs.flatMap s.windowsOf).eraseDups
      let s1 := (s.modDie 0 fun d => { d with tick := max d.tick at_ }).dropContexts (cs.map (·.asid))
      let s2 := (wins.foldl State.withdraw s1).wipeRanges (cs.flatMap fun c => s.contextRanges c.asid)
      let torn := s2.launches.filter fun l => l.stage == .torn && l.fn == fn
      let s3 := if s2.fw.hostUp then torn.foldl State.finishLaunch s2 else s2
      let give := fun (q : LQueue) => if q.fn = fn then ({} : LQueue) else q
      .next ({ s3 with queues := s3.queues.map give }.modFw fun w =>
        { w with owners := w.owners.filter fun o => o.1 != fn,
                 domKeys := w.domKeys.filter fun k => !(cs.any fun c => c.prot && c.domain == k.1),
                 blocks := w.blocks.filter fun b => b.fn != fn, cmdq := w.cmdq.filter (· != fn), vfReset := w.vfReset.filter fun v => v.1 != fn })

/-! ### The access firewall (R377) -/

/-- The leaves of every context that name a physical address. -/
def State.leavesAt (s : State) (a : Nat) : List (Ctx × Leaf) :=
  s.ctxs.flatMap fun c =>
    ((leavesFrom s.mem [0, 1, 2] c.root).filter fun l =>
      (leafRanges l).any fun r => r.1 ≤ a && a < r.1 + r.2).map fun l => (c, l)

/-- The window that the firmware has mapped over a physical address (R377). -/
def State.fwinAt (s : State) (a : Nat) : Option FwWin := s.fw.fwins.find? fun w => w.base ≤ a && a < w.base + w.len

/-- The firewall admits an inbound access to a byte: a window covers it, it lies in package memory or in a
present extent, and no page there is above the window's ceiling or of another domain; a write, which takes the
ceiling as its data grade, needs a page of that grade (R373, R377). -/
def State.admits (s : State) (write : Bool) (a : Nat) : Bool :=
  match s.fwinAt a with
  | none => false
  | some w =>
      let ls := s.leavesAt a
      let g := maxOf (ls.map fun x => x.2.grade)
      (a < lpEnd || ((Loc.phys a).pooled && !s.extentAbsent (.phys a)))
        && g ≤ w.ceil && (!write || w.ceil ≤ g)
        && ls.all fun x => !(x.1.prot && x.2.dom) || x.1.domain == w.domain

/-- The key under which an inbound access reads and writes a pooled line: that of its window's domain, or the
pool key (R377, R381). -/
def State.inboundKey (s : State) (a : Nat) : Nat :=
  match s.fwinAt a with
  | some w => if w.domain = 0 then s.fw.poolKey else s.domainKey w.domain
  | none => s.fw.poolKey

/-- The traffic of a port reaches the firewall: its link is up, and the IDE stream is not in Insecure (R380,
R389). -/
def State.portOpen (s : State) (port stream : Nat) : Bool :=
  (nth s.fw.links port {}).state == 0 && !s.fw.insecure.contains (port, stream) && (port != 18 || s.fw.hostUp)

/-- The physical address that an inbound access names: on PCIe an offset in the aperture of BAR2, where the firewall
windows stand; on the other ports a physical address (R377, R391). -/
def State.inboundAt (s : State) (port a : Nat) : Option Nat :=
  if port = 18 then
    (s.fw.fwins.find? fun w => w.bar2 ≤ a && a < w.bar2 + w.len && a < s.fw.bar2).map fun w => w.base + (a - w.bar2)
  else some a

/-- Write bytes that an inbound access brings, each under the key of its window (R377, R381). -/
def State.inboundWrite (s : State) (bs : List (Nat × Byte)) : State :=
  bs.foldl (fun s x => (s.takeKey (s.inboundKey x.1) [.phys x.1]).writeLoc (.phys x.1) x.2 0) s

/-- INBOUND_ACCESS: through a port, `unit_`, and its IDE stream, `op`, an agent outside reads `num` bytes at an
address, or with `on` writes bytes there.  One that the firewall does not admit reads or writes nothing
and is refused with Completer Abort, or a NAK flit on the fabric (R377, R380, R391). -/
def execInboundAccess (s : State) : Out :=
  let port := s.ev.unit_
  let n := if s.ev.on then s.ev.bytes.length else s.ev.num
  let at_ := (List.range n).map fun i => s.inboundAt port (s.ev.addr.toNat + i)
  let as := at_.filterMap id
  let lost := as.any fun a => s.lineLost (s.inboundKey a) (.phys a)
  let answer := fun (s : State) (x : Inbound) => s.modFw fun w => { w with inbound := x }
  .next (if !s.portOpen port s.ev.op then answer s .silent
    else
      let s := if port < 18 then s.modLink port fun k => k.carry ((n + 255) / 256) else s
      if at_.any Option.isNone || !(as.all (s.admits s.ev.on)) then
        answer s (if port < 18 then .nak else .completerAbort)
      else if lost || (!s.ev.on && as.any fun a => s.poisoned (.phys a)) then answer s .poisoned
      else if s.ev.on then
        let s1 := s.inboundWrite (as.zip s.ev.bytes)
        answer { s1 with poison := s1.poison.filter fun l => !(as.any fun a => a / 128 == l) } (.done [])
      else answer s (.done (as.map fun a => s.seenByte (some (s.inboundKey a)) (.phys a))))

/-! ### Ports and integrity (R380, R382, R389) -/

/-- Count in an ECC counter, in the order of the rows of R389. -/
def State.countEcc (s : State) (j : Nat) : State := s.modFw fun w => { w with ecc := upd w.ecc j (· + 1) }

/-- IDE_INTEGRITY_FAILURE on a PCIe or CXL stream: the packet is dropped, the stream enters Insecure, and the
protected contexts bound to it are suspended as for a link-down without reset (R380, R387). -/
def execIdeIntegrityFailure (s : State) : Out :=
  let st := (s.ev.num, s.ev.op)
  .next ((s.suspend fun c => c.prot && c.stream == st).modFw fun w =>
    { w with ide := false, insecure := if w.insecure.contains st then w.insecure else w.insecure ++ [st],
             spdm := { w.spdm with session := 0, measured := false } })

/-- 1 ms at the maximum clock, in cycles (DESIGN CHOICE, log entry 190). -/
def oneMs : Nat := 2400000

/-- FABRIC_FLIT_AUTH_FAILURE: the flit is dropped and the link retrains; a second failure within 1 ms takes
it down (R380). -/
def execFabricFlitAuthFailure (s : State) : Out :=
  let now := (s.die 0).tick
  .next (s.modLink s.ev.num fun k =>
    { k with state := (match k.failed with | some t => if now ≤ t + oneMs then 2 else 1 | none => 1),
             failed := some now })

/-- FABRIC_REKEY: at 2^48 flits, or on command, the link takes a new key and counts flits afresh (R380). -/
def execFabricRekey (s : State) : Out :=
  .next (s.modLink s.ev.num fun k => { k with key := k.key + 1, flits := 0 })

/-- FLIT_CRC_FAILURE: a link that link-level retry cannot save retrains (R389). -/
def execFlitCrcFailure (s : State) : Out :=
  .next ((s.modLink s.ev.num fun k => { k with state := 1 }).countEcc 4)

/-- LINK_RETRAIN_COMPLETE: the link carries traffic again (R380). -/
def execLinkRetrainComplete (s : State) : Out :=
  .next (s.modLink s.ev.num fun k => { k with state := 0, failed := if k.state = 2 then none else k.failed })

/-- An uncorrectable error in an SRAM array, `unit_`: 0 a register (`lane`: s n as n, k n as 128 + n, v n as 256 + n),
1 eight bytes of scratchpad, 2 a cached line of memory, 3 an entry of an L1 TLB, 4 of an L2 TLB, 5 a tuple of a slice's
store, 6 a bank of a stream, 7 an alias unit (R389; log entry 174). -/
def State.sramError (s : State) (e : Event) : State :=
  let a := e.addr.toNat
  let bad := fun (t : Tup) => if BitVec.ofNat 64 t.seq = e.val then { t with bad := true } else t
  match e.unit_ with
  | 0 => s.modTroupe ⟨e.ring, e.idx⟩ fun t =>
      { t with regErr := if t.regErr.contains e.lane then t.regErr else t.regErr ++ [e.lane] }
  | 1 => s.modCore e.core fun c =>
      { c with spBad := ((List.range 8).map fun i => a / 8 * 8 + i) ++ c.spBad.filter fun x => x / 8 != a / 8 }
  | 2 => { s with poison := a / 128 :: s.poison.filter (· != a / 128) }
  | 3 => s.modCore e.core fun c => { c with tlb := upd c.tlb e.op fun x => { x with bad := true } }
  | 4 => s.modDie e.die fun d => { d with tlb := upd d.tlb e.op fun x => { x with bad := true } }
  | 5 => s.modSlice e.queue fun c =>
      { c with regs := c.regs.map fun r =>
          if r.asid = e.asid && r.rid == e.obj then { r with store := r.store.map bad, spill := r.spill.map bad } else r }
  | 6 => s.modStream e.ring fun st => if e.lane = 0 then { st with badA := true } else { st with badB := true }
  | 7 => s.modCore e.core fun c => { c with au := { c.au with bad := true } }
  | _ => s

/-- A soft error in a store, `num` its row of R389: one that the check corrects is counted; another poisons the data,
or in the instruction cache has the line refetched; pooled memory counts `lane` symbol errors in the line (R382,
R389; log entry 174). -/
def State.softError (s : State) (e : Event) : State :=
  let line := e.addr.toNat / 128
  let poisoned : State := { s with poison := line :: s.poison.filter (· != line) }
  match e.num with
  | 0 => if e.bytes.isEmpty then s.sramError e else s.countEcc 0
  | 1 => (s.modCore e.core fun c =>
      { c with icache := c.icache.filter fun x => x.2.1.toNat / 128 != line }).countEcc 1
  | 2 => if e.bytes.isEmpty then poisoned else s.countEcc 2
  | 3 => if e.bytes.isEmpty then poisoned else s.countEcc 3
  | 5 => { s with symErr := (line, e.lane) :: s.symErr.filter fun x => x.1 != line }
  | _ => s

/-- SCRUB: the scrubber corrects up to 8 symbol errors of a pooled line and rewrites it; it needs no key
(R382).  A step that says so (`on`) is a soft error. -/
def execScrub (s : State) : Out :=
  let line := s.ev.addr.toNat / 128
  if s.ev.on then .next (s.softError s.ev)
  else
    match s.symErr.find? fun e => e.1 == line with
    | some e =>
        .next (if e.2 ≤ 8 then { s with symErr := s.symErr.filter fun x => x.1 != line }.countEcc 5 else s)
    | none => .next s

/-! ### Attestation (R385) -/

/-- ERROR with UnexpectedRequest (SPDM 1.3; log entry 21). -/
def spdmUnexpected : List Byte := [0x13, 0x7F, 0x04, 0x00]

/-- The measurement registers, MEAS[0] first (R386). -/
def Fw.measured (w : Fw) : List Byte := w.meas.flatMap id

/-- The public key of the device's LMS key (R385). -/
def deviceKey : List Byte := lmsPublic (padTo 16 (Config.lmsId.take 16)) fun q j => padTo 32 ((Config.lmsSecret q j).take 32)

/-- A signature with the device's LMS key over a transcript hash; each takes a one-time key of its own, and after the
last there is none (R385; log entry 21). -/
def Fw.sign (w : Fw) (transcript : List Byte) : List Byte :=
  if w.lms < 1024 then
    lmsSign (padTo 16 (Config.lmsId.take 16)) (fun q j => padTo 32 ((Config.lmsSecret q j).take 32)) w.lms
      (padTo 32 ((Config.lmsRandom w.lms).take 32)) transcript
  else []

/-- The answer to a request: the body, the measurements that GET_MEASUREMENTS asks for, and the
signature of the measurements or the challenge over the transcript so far (R385; log entry 21). -/
def Fw.spdmReply (w : Fw) (code : Nat) (req : List Byte) : List Byte :=
  let body := Config.spdmBody code w.spdm.transcript req ++ (if code = 0xE0 then w.measured else [])
  if code = 0xE0 || code = 0x83 then body ++ w.sign (sha256 (w.spdm.transcript ++ req ++ body)) else body

/-- Answer a request: in order, its response joins the transcript with it and `f` makes the new state; out
of order, the answer is an error and nothing changes (R385). -/
def spdmAnswer (code : Nat) (ok : Spdm → Bool) (f : Spdm → Spdm) (s : State) : State :=
  let v := s.fw.spdm
  if ok v then
    let b := s.fw.spdmReply code s.ev.bytes
    (s.modFw fun w =>
      { w with
        spdm := { f v with transcript := sha256 (v.transcript ++ s.ev.bytes ++ b), response := b },
        lms := if code = 0xE0 || code = 0x83 then w.lms + 1 else w.lms }).tryResume
  else s.modFw fun w => { w with spdm := { v with response := spdmUnexpected } }

/-- The IV of the next sealed message of a session: its number (log entry 21). -/
def Spdm.iv (v : Spdm) (n : Nat) : List Byte := leBytes (v.sealed + n) 12

/-- A message of a session: AES-256-GCM ciphertext and tag under the session key (R385). -/
def Spdm.seal (v : Spdm) (n : Nat) (text : List Byte) : List Byte :=
  let c := gcmCrypt v.key (v.iv n) text
  c ++ gcmTag v.key (v.iv n) [] c

/-- The text of a sealed message; none when its tag does not verify (R385). -/
def Spdm.unseal (v : Spdm) (b : List Byte) : Option (List Byte) :=
  let c := b.take (b.length - 16)
  if gcmTag v.key (v.iv 0) [] c == b.drop (b.length - 16) then some (gcmCrypt v.key (v.iv 0) c) else none

/-- Answer a request of a session, sealed both ways; one whose tag does not verify is dropped, and outside a
session every one is out of order (R385; log entry 21).  `f` makes the new state from the request. -/
def sessionAnswer (code : Nat) (f : List Byte → Fw → Fw) (s : State) : State :=
  let v := s.fw.spdm
  if v.session != 2 then s.modFw fun w => { w with spdm := { v with response := spdmUnexpected } }
  else
    match v.unseal s.ev.bytes with
    | none => s
    | some req =>
        let b := s.fw.spdmReply code req
        (s.modFw fun w =>
          f req { w with
            lms := if code = 0xE0 then w.lms + 1 else w.lms,
            spdm := { v with transcript := sha256 (v.transcript ++ req ++ b), response := v.seal 1 b,
                             sealed := v.sealed + 2 } }).tryResume

/-- A request at the DOE mailbox: PF0's alone, over the host link (R385, R391, R403). -/
def doe (f : State → State) (s : State) : Out := .next (if s.ev.fn = 0 && s.fw.hostUp then f s else s)

/-- GET_VERSION: starts afresh. -/
def execGetVersion (s : State) : Out :=
  doe (fun s => spdmAnswer 0x84 (fun _ => true) (fun _ => { stage := 1 })
    (s.modFw fun w => { w with spdm := { w.spdm with transcript := [] } })) s

/-- GET_CAPABILITIES: after the version. -/
def execGetCapabilities (s : State) : Out :=
  doe (spdmAnswer 0xE1 (fun v => v.stage == 1) (fun v => { v with stage := 2 })) s

/-- NEGOTIATE_ALGORITHMS: after the capabilities. -/
def execNegotiateAlgorithms (s : State) : Out :=
  doe (spdmAnswer 0xE3 (fun v => v.stage == 2) (fun v => { v with stage := 3 })) s

/-- GET_DIGESTS: once algorithms are agreed. -/
def execGetDigests (s : State) : Out := doe (spdmAnswer 0x81 (fun v => 3 ≤ v.stage) (fun v => v)) s

/-- GET_CERTIFICATE: once algorithms are agreed. -/
def execGetCertificate (s : State) : Out := doe (spdmAnswer 0x82 (fun v => 3 ≤ v.stage) (fun v => v)) s

/-- CHALLENGE: once algorithms are agreed; the responder has then been authenticated. -/
def execChallenge (s : State) : Out :=
  doe (spdmAnswer 0x83 (fun v => 3 ≤ v.stage) (fun v => { v with stage := 4 })) s

/-- GET_MEASUREMENTS: once algorithms are agreed; within a session it is sealed like every other request of it. -/
def execGetMeasurements (s : State) : Out :=
  doe (fun s =>
    if s.fw.spdm.session = 2 then
      sessionAnswer 0xE0 (fun _ w => { w with spdm := { w.spdm with measured := true } }) s
    else spdmAnswer 0xE0 (fun v => 3 ≤ v.stage) (fun v => { v with measured := true }) s) s

/-- ERROR with InvalidRequest (SPDM 1.3; log entry 21). -/
def spdmInvalid : List Byte := [0x13, 0x7F, 0x01, 0x00]

/-- The requester's point in a KEY_EXCHANGE (SPDM 1.3; log entry 21). -/
def dhePoint (req : List Byte) : Nat × Nat := (beNat (bytesAt req 40 48), beNat (bytesAt req 88 48))

/-- KEY_EXCHANGE: once algorithms are agreed and no session is open.  The shared secret is the x-coordinate of the
product of the responder's scalar and the requester's point, and the answer carries the responder's point; a point off
the curve is an invalid request (R385; log entry 21). -/
def keyExchange (s : State) : State :=
  let v := s.fw.spdm
  let p := dhePoint s.ev.bytes
  let d := 1 + Config.dheSecret s.choice % (ecN - 1)
  let answer := fun (b : List Byte) (x : Spdm) => s.modFw fun w => { w with spdm := { x with response := b } }
  if !(3 ≤ v.stage && v.session == 0) then answer spdmUnexpected v
  else if !ecOn p.1 p.2 then answer spdmInvalid v
  else
    let b := s.fw.spdmReply 0xE4 s.ev.bytes ++ ecBytes (ecMul d (some ecG) 384)
    let t := sha256 (v.transcript ++ s.ev.bytes ++ b)
    let z := (ecBytes (ecMul d (some p) 384)).take 48
    answer b { v with session := 1, transcript := t, key := padTo 32 ((Config.sessionKey z t).take 32), sealed := 0 }

/-- KEY_EXCHANGE. -/
def execKeyExchange (s : State) : Out := doe keyExchange s

/-- FINISH: after a key exchange; a message that does not verify ends the exchange. -/
def execFinish (s : State) : Out :=
  doe (spdmAnswer 0xE5 (fun v => v.session == 1)
    fun v => { v with session := if Config.spdmVerifies v.transcript s.ev.bytes then 2 else 0 }) s

/-- KEY_UPDATE: within a session, the next key takes the place of the session key. -/
def execKeyUpdate (s : State) : Out :=
  doe (sessionAnswer 0xE9 fun _ w =>
    { w with spdm := { w.spdm with key := padTo 32 ((Config.updatedKey w.spdm.key).take 32), sealed := 0 } }) s

/-- END_SESSION: within a session; its key is destroyed. -/
def execEndSession (s : State) : Out :=
  doe (sessionAnswer 0xEC fun _ w => { w with spdm := { w.spdm with session := 0, key := [], sealed := 0 } }) s

/-- IDE_KM: within a session, link keys are set, and Insecure streams are secure again (R380, R385). -/
def execIdeKm (s : State) : Out :=
  doe (sessionAnswer 0xFE fun _ w => { w with ide := true, insecure := [] }) s

/-! ### Firmware, clocks and power (R332, R402, R403) -/

/-- ROUSTABOUT_WATCHDOG: the roustabout is restarted; its queued work is kept and performed once, in
order (R402). -/
def execRoustaboutWatchdog (s : State) : Out := .next (s.modFw fun w => { w with restarts := w.restarts + 1 })

/-- CLOCK_STRETCH: a die's cycles lengthen; a stretched cycle counts as one (R332). -/
def execClockStretch (s : State) : Out := .next (s.modDie s.ev.die fun d => { d with stretched := true })

/-- SLEW_SUBSIDES: cycles have their normal length again (R332). -/
def execSlewSubsides (s : State) : Out := .next (s.modDie s.ev.die fun d => { d with stretched := false })

/-- What the sensors find: the temperature of each die, then the current of each rail (R403; log entry 175). -/
def State.sense (s : State) (l : List Nat) : State :=
  { s with dies := s.dies.zipIdx.map fun (d : Die × Nat) => { d.1 with temp := nth l d.2 d.1.temp } }.modFw fun w =>
    { w with rails := l.drop 4 }

/-- THERMAL_TRIP: at 105 °C clocks fall to base (R403).  A step that says so (`on`) is a report of the sensors that
stays below it. -/
def execThermalTrip (s : State) : Out :=
  if s.ev.on then .next (s.sense (s.ev.args.zipIdx.map fun x => if x.2 < 4 then min x.1 104 else x.1))
  else .next ((s.modDie s.ev.die fun d => { d with temp := max d.temp 105 }).modFw fun w => { w with tripped := true })

/-- THERMAL_POWER_OFF: at 115 °C the package powers off: nothing runs until a cold reset (R403). -/
def execThermalPowerOff (s : State) : Out :=
  .next ((s.modDie s.ev.die fun d => { d with temp := max d.temp 115 }).modFw fun w => { w with powered := false })

end Sys2Proof.Machine
end

