-- ==== Sys2Proof/Machine/Mem.lean ====
section
/-! DEFINITION. The instructions of opcodes 0x80-0x82 and 0xB2-0xD1: scratchpad lane accesses, loads
and stores, arrival counters, prefetch, line flush, fence, atomics and reductions
(spec/07_scratchpad.md R153, R154, spec/10_memory_access.md R224-R242). -/

namespace Sys2Proof.Machine

/-! ### Scratchpad lane accesses (R154) -/

/-- lds: lanes from scratchpad (R154). -/
def execLds (f : Fields) (s : State) : Out := vectorInstr (.lds f) s (memIssue f)

/-- sts: lanes to scratchpad (R154). -/
def execSts (f : Fields) (s : State) : Out := vectorInstr (.sts f) s (memIssue f)

/-- ldsb: one element to every active lane (R154). -/
def execLdsb (f : Fields) (s : State) : Out := vectorInstr (.ldsb f) s (memIssue f)

/-! ### Loads and stores (R229-R232) -/

/-- ld: a scalar load (R230). -/
def execLd (f : Fields) (s : State) : Out := vectorInstr (.ld f) s (memIssue f)

/-- ld.ac: a split-phase scalar load (R231). -/
def execLdAc (f : Fields) (s : State) : Out := vectorInstr (.ldAc f) s (memIssue f)

/-- st: a scalar store (R230). -/
def execSt (f : Fields) (s : State) : Out := vectorInstr (.st f) s (memIssue f)

/-- vld: a gather (R230). -/
def execVld (f : Fields) (s : State) : Out := vectorInstr (.vld f) s (memIssue f)

/-- vld.ac: a split-phase gather (R231). -/
def execVldAc (f : Fields) (s : State) : Out := vectorInstr (.vldAc f) s (memIssue f)

/-- vst: a scatter (R230). -/
def execVst (f : Fields) (s : State) : Out := vectorInstr (.vst f) s (memIssue f)

/-- vldw: a strided or blocked load, split-phase with SUB 1 (R229). -/
def execVldw (f : Fields) (s : State) : Out := vectorInstr (.vldw f) s (memIssue f)

/-- vstw: a strided or blocked store (R229). -/
def execVstw (f : Fields) (s : State) : Out := vectorInstr (.vstw f) s (memIssue f)

/-! ### Arrival counters (R233) -/

/-- acwait: blocks while the count exceeds n. -/
def execAcwait (f : Fields) (s : State) : Out :=
  vectorInstr (.acwait f) s fun _ t s =>
    if f.imm.toNat < nth t.ac f.sel.toNat 0 then .wait (.counter f.sel.toNat f.imm.toNat) s
    else .done s

/-- acget: the count, grade 0. -/
def execAcget (f : Fields) (s : State) : Out :=
  vectorInstr (.acget f) s fun _ t s =>
    .done (s.setTroupe (t.writeS f.d { v := BitVec.ofNat 64 (nth t.ac f.sel.toNat 0) }))

/-- The operations of a troupe counted on an arrival counter. -/
def Troupe.countedOn (t : Troupe) (j : Nat) : List Op := t.ops.filter fun o => o.ac == some j

/-- What discarding its replies leaves of an operation: of a split-phase load nothing, of a tuple
operation the lanes whose first reply is not yet written (R233, R299). -/
def Op.discarded (o : Op) : Op :=
  { o with lanes := o.lanes.filter fun l => !isLoad o.instr && l.st != .waiting && l.st != .done }

/-- Discard every outstanding reply of a counter: the count becomes 0, parked lanes are withdrawn,
lanes that faulted and are in no record raise none, and parked tuple requests are freed (R233, R299). -/
def State.discardCounter (s : State) (id : TroupeId) (j : Nat) : State :=
  match s.troupe? id with
  | none => s
  | some t =>
      let ids := (t.countedOn j).map (·.id)
      let mine := fun (u : TroupeId) (op : Nat) => u == id && ids.contains op
      let t1 :=
        { t with
          ac := upd t.ac j fun _ => 0,
          reports := t.reports.filter fun r => !ids.contains r,
          ops := (t.ops.map fun o => if o.ac == some j then o.discarded else o).filter fun o =>
            !(o.ac == some j && o.lanes.isEmpty) }
      let s1 := (s.setTroupe t1).unpark fun w => match w with | .lane u op _ => mine u op | _ => false
      { s1 with slices := s1.slices.map fun c =>
          { c with parked := c.parked.filter fun p => !mine p.2.t p.2.op,
                   replies := c.replies.filter fun r => !(r.later && mine r.t r.op) } }

/-- acclr: the count becomes 0 and every outstanding reply is discarded. -/
def execAcclr (f : Fields) (s : State) : Out :=
  vectorInstr (.acclr f) s fun _ t s => .done (s.discardCounter t.id f.sel.toNat)

/-! ### Prefetch, line flush and fence (R234, R235) -/

/-- pref: without effect but on an address of a window (R234). -/
def execPref (f : Fields) (s : State) : Out := vectorInstr (.pref f) s (memIssue f)

/-- cfl: writes lines back; every write of the model is at its home already (R234). -/
def execCfl (f : Fields) (s : State) : Out := vectorInstr (.cfl f) s (memIssue f)

/-- fence: it stands among the troupe's operations while accesses that it orders are to be performed; for
a reduction into a window a release at system scope waits (R235, R242). -/
def execFence (f : Fields) (s : State) : Out :=
  vectorInstr (.fence f) s fun e t s =>
    let o : Op := { id := t.nextOp, instr := .fence f, held := false }
    if s.windowWaits t.uid f.ord.toNat f.scp.toNat (fun c => f.imm.getLsbD c) then .wait .issue s
    else .done (if t.behind s o then s.setTroupe (t.startOp e o) else s)

/-! ### Atomics (R236-R240) -/

/-- aadd: add (R238). -/
def execAadd (f : Fields) (s : State) : Out := vectorInstr (.aadd f) s (memIssue f)

/-- amin: minimum (R238). -/
def execAmin (f : Fields) (s : State) : Out := vectorInstr (.amin f) s (memIssue f)

/-- amax: maximum (R238). -/
def execAmax (f : Fields) (s : State) : Out := vectorInstr (.amax f) s (memIssue f)

/-- aand: AND (R238). -/
def execAand (f : Fields) (s : State) : Out := vectorInstr (.aand f) s (memIssue f)

/-- aor: OR (R238). -/
def execAor (f : Fields) (s : State) : Out := vectorInstr (.aor f) s (memIssue f)

/-- axor: XOR (R238). -/
def execAxor (f : Fields) (s : State) : Out := vectorInstr (.axor f) s (memIssue f)

/-- axch: exchange (R238). -/
def execAxch (f : Fields) (s : State) : Out := vectorInstr (.axch f) s (memIssue f)

/-- acas: compare and swap with D (R238). -/
def execAcas (f : Fields) (s : State) : Out := vectorInstr (.acas f) s (memIssue f)

/-- ainb: increment while below the bound (R238). -/
def execAinb (f : Fields) (s : State) : Out := vectorInstr (.ainb f) s (memIssue f)

/-- ainw: wrapping increment (R238). -/
def execAinw (f : Fields) (s : State) : Out := vectorInstr (.ainw f) s (memIssue f)

/-- adecp: decrement while positive (R238). -/
def execAdecp (f : Fields) (s : State) : Out := vectorInstr (.adecp f) s (memIssue f)

/-- aflim: add under the limit in the upper word, with a failure mask (R238). -/
def execAflim (f : Fields) (s : State) : Out := vectorInstr (.aflim f) s (memIssue f)

/-- aaddf: float add in a resident slot (R238). -/
def execAaddf (f : Fields) (s : State) : Out := vectorInstr (.aaddf f) s (memIssue f)

/-! ### Reductions (R241-R244) -/

/-- redadd: add, without return (R241). -/
def execRedadd (f : Fields) (s : State) : Out := vectorInstr (.redadd f) s (memIssue f)

/-- redmin: minimum, without return (R241). -/
def execRedmin (f : Fields) (s : State) : Out := vectorInstr (.redmin f) s (memIssue f)

/-- redmax: maximum, without return (R241). -/
def execRedmax (f : Fields) (s : State) : Out := vectorInstr (.redmax f) s (memIssue f)

/-- redand: AND, without return (R241). -/
def execRedand (f : Fields) (s : State) : Out := vectorInstr (.redand f) s (memIssue f)

/-- redor: OR, without return (R241). -/
def execRedor (f : Fields) (s : State) : Out := vectorInstr (.redor f) s (memIssue f)

/-- redxor: XOR, without return (R241). -/
def execRedxor (f : Fields) (s : State) : Out := vectorInstr (.redxor f) s (memIssue f)

/-- redaddf: float add in a resident slot, without return (R241). -/
def execRedaddf (f : Fields) (s : State) : Out := vectorInstr (.redaddf f) s (memIssue f)

end Sys2Proof.Machine
end

