-- ==== Sys2Proof/Machine/VectorInt.lean ====
section
/-! DEFINITION. Vector integer instructions, opcodes 0x40-0x5A without vred and vscan, and the vector
queue instructions (spec/05_vector_arithmetic.md R111-R116, spec/04_registers.md R108). -/

namespace Sys2Proof.Machine

/-- Lane i of B as the type: the register, or the immediate (R111, R42). -/
def laneB (f : Fields) (o : VOps) (i : Nat) : Int :=
  if f.sub.getLsbD 3 then immInt f.ty.toNat f.imm else tyInt f.ty.toNat (o.b.sh.lane i).toNat

/-- Lane i of A as the type. -/
def laneA (f : Fields) (o : VOps) (i : Nat) : Int := tyInt f.ty.toNat (o.a.sh.lane i).toNat

/-- Lane i of C as the type. -/
def laneC (f : Fields) (o : VOps) (i : Nat) : Int := tyInt f.ty.toNat (o.c.sh.lane i).toNat

/-- The shift amount of lane i: the whole lane of B, or the immediate extended to 32 bits (R113). -/
def laneShift (f : Fields) (o : VOps) (i : Nat) : Nat :=
  if f.sub.getLsbD 3 then immShift 32 f.ty.toNat f.imm else (o.b.sh.lane i).toNat

/-- A result clamped when SAT is set, reduced and extended to 32 bits (R112). -/
def laneResult (f : Fields) (x : Int) : Lane :=
  tyExtend 32 f.ty.toNat (tySat f.ty.toNat (f.sat == 1) x)

/-- The class of a linear or scale instruction for its type and SAT (R113). -/
def wideClass (c : VClass) (f : Fields) : VClass :=
  if (f.ty == 2 || f.ty == 6) && f.sat == 0 then c else .other

/-- One vector write under k0. -/
def oneWrite (f : Fields) (e : VEntry) (sh : Shape) (g : Nat) : VOut :=
  { vs := [{ d := f.d, mask := e.cap.k0, sh := sh, g := g }] }

/-- The shapes of A and, without an immediate, B. -/
def shapesAB (f : Fields) (o : VOps) : List Shape :=
  if f.sub.getLsbD 3 then [o.a.sh] else [o.a.sh, o.b.sh]

/-- The grade of A and, without an immediate, B. -/
def gradeAB (f : Fields) (o : VOps) : Nat := if f.sub.getLsbD 3 then o.a.g else max o.a.g o.b.g

/-- A binary lane-wise instruction (R112). -/
def vBinary (c : VClass) (op : Int → Int → Int) (f : Fields) (e : VEntry) (t : Troupe) (_ : State) :
    VOut :=
  let o := readOps f e t
  let lane := fun i => laneResult f (op (laneA f o i) (laneB f o i))
  oneWrite f e (resultShape c (shapesAB f o) lane) (gradeAB f o)

/-- A shift: the operation takes w, the w bits of a, and the amount (R113). -/
def vShift (c : VClass) (op : Nat → Nat → Nat → Int) (f : Fields) (e : VEntry) (t : Troupe)
    (_ : State) : VOut :=
  let o := readOps f e t
  let w := tyWidth f.ty.toNat
  let lane := fun i => laneResult f (op w ((o.a.sh.lane i).toNat % 2 ^ w) (laneShift f o i))
  -- only an affine A shifted by a uniform amount stays affine
  let c := if !f.sub.getLsbD 3 && !o.b.sh.isUniform then .other else c
  oneWrite f e (resultShape c (shapesAB f o) lane) (gradeAB f o)

/-- A unary lane-wise instruction (R112). -/
def vUnary (c : VClass) (op : Nat → Int → Int) (f : Fields) (e : VEntry) (t : Troupe) (_ : State) :
    VOut :=
  let o := readOps f e t
  let lane := fun i => laneResult f (op f.ty.toNat (laneA f o i))
  oneWrite f e (resultShape c [o.a.sh] lane) o.a.g

/-- vmad: a × b + c (R113). -/
def vMad (f : Fields) (e : VEntry) (t : Troupe) (_ : State) : VOut :=
  let o := readOps f e t
  let lane := fun i => laneResult f (laneA f o i * laneB f o i + laneC f o i)
  oneWrite f e (resultShape .other [o.a.sh, o.b.sh, o.c.sh] lane) (max o.a.g (max o.b.g o.c.g))

/-- A mask of comparison results: active bits replaced, the grade of a partial write the higher
(R114). -/
def maskWrite (f : Fields) (e : VEntry) (t : Troupe) (g : Nat) (holds : Nat → Bool) : List SWrite :=
  if e.cap.k0 = 0 then []
  else
    let old := if f.d.toNat < 0xE0 then t.reg f.d.toNat else {}
    let bits := maskOf ((List.range 64).filter holds)
    [{ d := f.d, v := { v := (old.v &&& ~~~e.cap.k0) ||| (bits &&& e.cap.k0),
                        g := if e.cap.k0 = allLanes then g else max old.g g } }]

/-- vcmp (R114). -/
def vCompare (f : Fields) (e : VEntry) (t : Troupe) (_ : State) : VOut :=
  let o := readOps f e t
  { ss := maskWrite f e t (gradeAB f o) fun i =>
      cmpHolds (f.sub.toNat % 8) (laneA f o i) (laneB f o i) }

/-- The lane index b of R115: bits 5:0 of lane 0 of B, or IMM. -/
def laneIndex (f : Fields) (o : VOps) : Nat :=
  if f.sub.getLsbD 3 then f.imm.toNat else (o.b.sh.lane 0).toNat % 64

/-- vsel: A where C's bit is set, else B (R115). -/
def vSelect (f : Fields) (e : VEntry) (t : Troupe) (_ : State) : VOut :=
  let o := readOps f e t
  let lane := fun i => if e.cap.c.v.getLsbD i then o.a.sh.lane i else o.b.sh.lane i
  oneWrite f e (generalOf lane) (max (max o.a.g o.b.g) e.cap.c.g)

/-- vmov (R115). -/
def vMove (f : Fields) (e : VEntry) (t : Troupe) (_ : State) : VOut :=
  let o := readOps f e t
  oneWrite f e (resultShape .move [o.a.sh] o.a.sh.lane) o.a.g

/-- vbcast: lane b of A in every active lane (R115). -/
def vBroadcast (f : Fields) (e : VEntry) (t : Troupe) (_ : State) : VOut :=
  let o := readOps f e t
  oneWrite f e (.uniform (o.a.sh.lane (laneIndex f o))) (gradeAB f o)

/-- vlane: a scalar takes lane b of A, with A's grade; nothing without an active lane (R115). -/
def vLane (f : Fields) (e : VEntry) (t : Troupe) (_ : State) : VOut :=
  let o := readOps f e t
  let x := tyInt f.ty.toNat (o.a.sh.lane (laneIndex f o)).toNat
  if e.cap.k0 = 0 then {}
  else { ss := [{ d := f.d, v := { v := tyExtend 64 f.ty.toNat x, g := o.a.g } }] }

/-- vsplat: a + i × s (R115). -/
def vSplat (f : Fields) (e : VEntry) (t : Troupe) (_ : State) : VOut :=
  let o := readOps f e t
  let st := if f.sub.getLsbD 3 then f.imm else o.b.sh.lane 0
  oneWrite f e (Shape.affine (o.a.sh.lane 0) st) (gradeAB f o)

/-- vperm: lane j of A, by index, rotation or exchange (R116). -/
def vPermute (f : Fields) (e : VEntry) (t : Troupe) (_ : State) : VOut :=
  let o := readOps f e t
  let b := laneIndex f o
  let j := fun i =>
    if f.sub == 0 then (o.b.sh.lane i).toNat % 64
    else if f.sub.toNat % 8 = 1 then (i + b) % 64
    else i ^^^ b
  oneWrite f e (generalOf fun i => o.a.sh.lane (j i)) (gradeAB f o)

/-- vneg's exact result. -/
def negTy (_ : Nat) (a : Int) : Int := -a

/-- vadd (R113). -/
def execVadd (f : Fields) (s : State) : Out :=
  vectorInstr (.vadd f) s fun e => computeIssue (vBinary (wideClass .linear f) (· + ·) f e) e

/-- vsub (R113). -/
def execVsub (f : Fields) (s : State) : Out :=
  vectorInstr (.vsub f) s fun e => computeIssue (vBinary (wideClass .linear f) (· - ·) f e) e

/-- vmul (R113). -/
def execVmul (f : Fields) (s : State) : Out :=
  vectorInstr (.vmul f) s fun e => computeIssue (vBinary (wideClass .scale f) (· * ·) f e) e

/-- vmulhi (R113). -/
def execVmulhi (f : Fields) (s : State) : Out :=
  vectorInstr (.vmulhi f) s fun e => computeIssue (vBinary .other (mulHi f.ty.toNat) f e) e

/-- vmad (R113). -/
def execVmad (f : Fields) (s : State) : Out :=
  vectorInstr (.vmad f) s fun e => computeIssue (vMad f e) e

/-- vand (R113). -/
def execVand (f : Fields) (s : State) : Out :=
  vectorInstr (.vand f) s fun e => computeIssue (vBinary .other intAnd f e) e

/-- vor (R113). -/
def execVor (f : Fields) (s : State) : Out :=
  vectorInstr (.vor f) s fun e => computeIssue (vBinary .other intOr f e) e

/-- vxor (R113). -/
def execVxor (f : Fields) (s : State) : Out :=
  vectorInstr (.vxor f) s fun e => computeIssue (vBinary .other intXor f e) e

/-- vandn (R113). -/
def execVandn (f : Fields) (s : State) : Out :=
  vectorInstr (.vandn f) s fun e => computeIssue (vBinary .other intAndn f e) e

/-- vshl (R113). -/
def execVshl (f : Fields) (s : State) : Out :=
  vectorInstr (.vshl f) s fun e => computeIssue (vShift (wideClass .scale f) shl f e) e

/-- vshr (R113). -/
def execVshr (f : Fields) (s : State) : Out :=
  vectorInstr (.vshr f) s fun e => computeIssue (vShift .other shr f e) e

/-- vsra (R113). -/
def execVsra (f : Fields) (s : State) : Out :=
  vectorInstr (.vsra f) s fun e => computeIssue (vShift .other sra f e) e

/-- vmin (R113). -/
def execVmin (f : Fields) (s : State) : Out :=
  vectorInstr (.vmin f) s fun e => computeIssue (vBinary .other min f e) e

/-- vmax (R113). -/
def execVmax (f : Fields) (s : State) : Out :=
  vectorInstr (.vmax f) s fun e => computeIssue (vBinary .other max f e) e

/-- vabs (R113). -/
def execVabs (f : Fields) (s : State) : Out :=
  vectorInstr (.vabs f) s fun e => computeIssue (vUnary .other absTy f e) e

/-- vneg (R113). -/
def execVneg (f : Fields) (s : State) : Out :=
  vectorInstr (.vneg f) s fun e => computeIssue (vUnary (wideClass .linear f) negTy f e) e

/-- vclz (R113). -/
def execVclz (f : Fields) (s : State) : Out :=
  vectorInstr (.vclz f) s fun e => computeIssue (vUnary .other clzTy f e) e

/-- vpop (R113). -/
def execVpop (f : Fields) (s : State) : Out :=
  vectorInstr (.vpop f) s fun e => computeIssue (vUnary .other popTy f e) e

/-- vcmp (R114). -/
def execVcmp (f : Fields) (s : State) : Out :=
  vectorInstr (.vcmp f) s fun e => computeIssue (vCompare f e) e

/-- vsel (R115). -/
def execVsel (f : Fields) (s : State) : Out :=
  vectorInstr (.vsel f) s fun e => computeIssue (vSelect f e) e

/-- vmov (R115). -/
def execVmov (f : Fields) (s : State) : Out :=
  vectorInstr (.vmov f) s fun e => computeIssue (vMove f e) e

/-- vperm (R116). -/
def execVperm (f : Fields) (s : State) : Out :=
  vectorInstr (.vperm f) s fun e => computeIssue (vPermute f e) e

/-- vbcast (R115). -/
def execVbcast (f : Fields) (s : State) : Out :=
  vectorInstr (.vbcast f) s fun e => computeIssue (vBroadcast f e) e

/-- vlane (R115). -/
def execVlane (f : Fields) (s : State) : Out :=
  vectorInstr (.vlane f) s fun e => computeIssue (vLane f e) e

/-- vsplat (R115). -/
def execVsplat (f : Fields) (s : State) : Out :=
  vectorInstr (.vsplat f) s fun e => computeIssue (vSplat f e) e

/-! ### Queue instructions of the vector side (R91, R108) -/

/-- vqget: pops one entry, whatever k0 holds, and writes its low half to the active lanes; REGBUDGET
leaves the entry in place.  An empty queue is waited for first: the register budget is judged for the entry that is
to be popped (DESIGN CHOICE, log entry 180: the spec does not order the two). -/
def vqgetIssue (f : Fields) (e : VEntry) (t : Troupe) (s : State) : VRes :=
  match t.down with
  | [] => .wait (.queue false) s
  | x :: rest =>
      computeIssue (fun _ _ => oneWrite f e (.uniform (x.v.setWidth 32)) x.g) e
        { t with down := rest } s

/-- vqget (R108). -/
def execVqget (f : Fields) (s : State) : Out := vectorInstr (.vqget f) s (vqgetIssue f)

/-- vqput: pushes the lowest active lane of A, or 0, with A's grade (R108). -/
def vqputIssue (f : Fields) (e : VEntry) (t : Troupe) (s : State) : VRes :=
  if 16 ≤ t.up.length then .wait (.queue true) s
  else
    let a := readV t f.a e.cap.a
    let v : Word := if e.cap.k0 = 0 then 0 else (a.sh.lane (lowestBit e.cap.k0)).setWidth 64
    .done (s.setTroupe { t with up := t.up ++ [{ v := v, g := a.g }] })

/-- vqput (R108). -/
def execVqput (f : Fields) (s : State) : Out := vectorInstr (.vqput f) s (vqputIssue f)

end Sys2Proof.Machine
end

