-- ==== Sys2Proof/Machine/VectorFloat.lean ====
section
/-! DEFINITION. Reductions, scans and the vector float instructions, opcodes 0x57, 0x58 and 0x60-0x77
(spec/05_vector_arithmetic.md R117-R128). -/

namespace Sys2Proof.Machine

/-! ### Reductions and scans (R117) -/

/-- One integer step in w bits; with SAT, .add saturates at each step. -/
def redStepInt (f : Fields) (acc x : Int) : Int :=
  let ty := f.ty.toNat
  let y :=
    if f.sub == 0 then tySat ty (f.sat == 1) (acc + x)
    else if f.sub == 1 then min acc x
    else if f.sub == 2 then max acc x
    else if f.sub == 3 then intAnd acc x
    else if f.sub == 4 then intOr acc x
    else intXor acc x
  tyInt ty (y % 2 ^ tyWidth ty).toNat

/-- What an exclusive scan's first active lane sees. -/
def redIdentity (f : Fields) : Int :=
  let ty := f.ty.toNat
  if f.sub == 1 then tyGreatest ty
  else if f.sub == 2 then tyLeast ty
  else if f.sub == 3 then tyInt ty (2 ^ tyWidth ty - 1)
  else 0

/-- The rounding mode of float steps: MODX[2]. -/
def redMode (f : Fields) : RMode := if f.modx.getLsbD 2 then .zero else .nearest

/-- One float step and its flags. -/
def redStepFloat (f : Fields) (acc x : FV) : FV × BitVec 4 :=
  if f.sub == 0 then
    let y := acc.add x
    let z := fmtF32.encode y.1 (redMode f) (f.sat == 1)
    (fmtF32.decode z.1, y.2 ||| z.2)
  else if f.sub == 1 then (acc.min x, 0)
  else (acc.max x, 0)

/-- A left fold over the active lanes that gives the value after each: lane, value before, value
after. -/
def scanLanes {α : Type} (step : α → Nat → α) (first : Nat → α) : List Nat → Option α →
    List (Nat × Option α × α)
  | [], _ => []
  | i :: rest, acc =>
      let y := match acc with | none => first i | some a => step a i
      (i, acc, y) :: scanLanes step first rest (some y)

/-- The bits vred or vscan writes in each active lane, and the flags.  With F = 1, SAT is accepted for every
operation, and the Encode of the result takes R60's Sat column with it (DEDUCED, log entry 181). -/
def redLanes (f : Fields) (fm : Fmt) (a : Shape) (k0 : Word) (scan : Bool) :
    List (Nat × Lane) × BitVec 4 :=
  let excl := scan && f.modx.getLsbD 1
  if f.modx.getLsbD 0 then
    let x := fun i => fm.decode (a.lane i).toNat
    let r := scanLanes (fun (acc : FV × BitVec 4) i => redStepFloat f acc.1 (x i))
      (fun i => (x i, 0)) (lanesOf k0) none
    let out := fun (v : Option (FV × BitVec 4)) =>
      fm.encode (match v with | some y => y.1 | none => .fin false 0 0) (redMode f) (f.sat == 1)
    let steps := flAll (r.map fun y => y.2.2.2)
    let last := out ((r.getLast?).map fun y => y.2.2)
    let res := if scan then r.map fun y => (y.1, out (if excl then y.2.1 else some y.2.2))
      else r.map fun y => (y.1, last)
    (res.map fun y => (y.1, BitVec.ofNat 32 y.2.1), steps ||| flAll (res.map fun y => y.2.2))
  else
    let ty := f.ty.toNat
    let x := fun i => tyInt ty (a.lane i).toNat
    let r := scanLanes (fun acc i => redStepInt f acc (x i)) x (lanesOf k0) none
    let out := fun (v : Option Int) => tyExtend 32 ty (v.getD (redIdentity f))
    let last := out ((r.getLast?).map fun y => y.2.2)
    (if scan then r.map fun y => (y.1, out (if excl then y.2.1 else some y.2.2))
     else r.map fun y => (y.1, last), 0)

/-- vred and vscan (R117). -/
def vReduce (scan : Bool) (f : Fields) (e : VEntry) (t : Troupe) (s : State) : VOut :=
  let o := readOps f e t
  let r := redLanes f (s.slotFmt t.id.ring f.ty.toNat) o.a.sh e.cap.k0 scan
  let lane := fun i => match r.1.find? fun y => y.1 == i with | some y => y.2 | none => 0
  let sh := if scan then generalOf lane
    else .uniform (match r.1 with | y :: _ => y.2 | [] => 0)
  { oneWrite f e sh o.a.g with fl := r.2 }

/-! ### Float frames (R118) -/

/-- The rounding mode MODX[1:0] selects. -/
def fMode (f : Fields) : RMode := rmodeOf f.modx.toNat

/-- The format TY names. -/
def fFmt (f : Fields) (t : Troupe) (s : State) : Fmt := s.slotFmt t.id.ring f.ty.toNat

/-- Lane i of operand B as a value: the register, or the immediate, an f32 encoded into the slot
(R42). -/
def fLaneB (f : Fields) (fm : Fmt) (o : VOps) (i : Nat) : FV :=
  if f.sub.getLsbD 3 then
    fm.decode (fm.encode (fmtF32.decode f.imm.toNat) .nearest false).1
  else fm.decode (o.b.sh.lane i).toNat

/-- A float result of the lane-wise class: bits and flags of each lane. -/
def fLanes (f : Fields) (e : VEntry) (ins : List Shape) (g : Nat) (lane : Nat → Nat × BitVec 4) : VOut :=
  { oneWrite f e (resultShape .other ins fun i => BitVec.ofNat 32 (lane i).1) g with
    fl := flAll ((lanesOf e.cap.k0).map fun i => (lane i).2) }

/-- Unary: op on Decode(TY, a), then the roundings of R118. -/
def fUnary (op : FV → FVF) (f : Fields) (e : VEntry) (t : Troupe) (s : State) : VOut :=
  let o := readOps f e t
  let fm := fFmt f t s
  fLanes f e [o.a.sh] o.a.g fun i =>
    finish fm (op (fm.decode (o.a.sh.lane i).toNat)) (fMode f) (f.sat == 1)

/-- Binary: op on a and b, then the roundings of R118. -/
def fBinary (op : FV → FV → FVF) (f : Fields) (e : VEntry) (t : Troupe) (s : State) : VOut :=
  let o := readOps f e t
  let fm := fFmt f t s
  fLanes f e (shapesAB f o) (gradeAB f o) fun i =>
    finish fm (op (fm.decode (o.a.sh.lane i).toNat) (fLaneB f fm o i)) (fMode f) (f.sat == 1)

/-- fma: a × b + c rounded once in f32 (R119). -/
def fMulAdd (f : Fields) (e : VEntry) (t : Troupe) (s : State) : VOut :=
  let o := readOps f e t
  let fm := fFmt f t s
  fLanes f e [o.a.sh, o.b.sh, o.c.sh] (max o.a.g (max o.b.g o.c.g)) fun i =>
    finish fm (FV.fma (fm.decode (o.a.sh.lane i).toNat) (fm.decode (o.b.sh.lane i).toNat)
      (fm.decode (o.c.sh.lane i).toNat)) (fMode f) (f.sat == 1)

/-- fmin and fmax: one of the operands without change, or the canonical NaN; no flags (R119, R120). -/
def fPick (op : FV → FV → FV) (f : Fields) (e : VEntry) (t : Troupe) (s : State) : VOut :=
  let o := readOps f e t
  let fm := fFmt f t s
  fLanes f e (shapesAB f o) (gradeAB f o) fun i =>
    ((fm.encode (op (fm.decode (o.a.sh.lane i).toNat) (fLaneB f fm o i)) .nearest false).1, 0)

/-- fscale: a × 2^b, b an i32, one Encode (R119); under SAT a passed infinity takes the Sat column of R60
(log entry 80). -/
def fScale (f : Fields) (e : VEntry) (t : Troupe) (s : State) : VOut :=
  let o := readOps f e t
  let fm := fFmt f t s
  fLanes f e (shapesAB f o) (gradeAB f o) fun i =>
    let b := if f.sub.getLsbD 3 then f.imm.toInt else (o.b.sh.lane i).toInt
    finish1 fm ((fm.decode (o.a.sh.lane i).toNat).scale b, 0) (fMode f) (f.sat == 1)

/-- frnd: the integer in the direction of MODX[1:0], one Encode to nearest (R121). -/
def fRound (f : Fields) (e : VEntry) (t : Troupe) (s : State) : VOut :=
  let o := readOps f e t
  let fm := fFmt f t s
  fLanes f e [o.a.sh] o.a.g fun i =>
    finish1 fm ((fm.decode (o.a.sh.lane i).toNat).roundTo (f.modx.toNat % 4), 0) .nearest (f.sat == 1)

/-- The condition of fcmp, and whether it raises invalid (R122). -/
def fcmpHolds (c : Nat) (a b : FV) : Bool × Bool :=
  if a.isNan || b.isNan then (c == 1 || c == 6, 2 ≤ c && c ≤ 5)
  else
    (if c = 0 then a.le b && b.le a
     else if c = 1 then !(a.le b && b.le a)
     else if c = 2 then a.lt b
     else if c = 3 then b.le a
     else if c = 4 then a.le b
     else if c = 5 then b.lt a
     else c == 7, false)

/-- fcmp (R122). -/
def fCompare (f : Fields) (e : VEntry) (t : Troupe) (s : State) : VOut :=
  let o := readOps f e t
  let fm := fFmt f t s
  let r := fun i => fcmpHolds (f.sub.toNat % 8) (fm.decode (o.a.sh.lane i).toNat) (fLaneB f fm o i)
  { ss := maskWrite f e t (gradeAB f o) fun i => (r i).1,
    fl := flAll ((lanesOf e.cap.k0).map fun i => flIf (r i).2 flInvalid) }

/-- fclass (R124). -/
def fClass (f : Fields) (e : VEntry) (t : Troupe) (s : State) : VOut :=
  let o := readOps f e t
  let fm := fFmt f t s
  fLanes f e [o.a.sh] o.a.g fun i => (fm.classMask ((o.a.sh.lane i).toNat), 0)

/-- fcvt between slots: one Encode (R125 SUB 0). -/
def fCvtSlot (f : Fields) (e : VEntry) (t : Troupe) (s : State) : VOut :=
  let o := readOps f e t
  let src := s.slotFmt t.id.ring f.sel.toNat
  fLanes f e [o.a.sh] o.a.g fun i =>
    finish1 (fFmt f t s) (src.decode (o.a.sh.lane i).toNat, 0) (fMode f) (f.sat == 1)

/-- fcvt from an integer type (R125 SUB 1). -/
def fCvtFromInt (f : Fields) (e : VEntry) (t : Troupe) (s : State) : VOut :=
  let o := readOps f e t
  fLanes f e [o.a.sh] o.a.g fun i =>
    finish1 (fFmt f t s) (FV.ofInt (tyInt f.sel.toNat (o.a.sh.lane i).toNat) 0, 0) (fMode f)
      (f.sat == 1)

/-- A value converted to an integer type: nearest in the direction, saturated; a non-integral value raises
inexact whether it saturates or not (R125 SUB 2). -/
def toIntTy (ty dir : Nat) (x : FV) : Int × BitVec 4 :=
  match x with
  | .nan => (0, flInvalid)
  | .inf n => (if n then tyLeast ty else tyGreatest ty, flInvalid)
  | .fin n m e =>
      let q := roundInt dir n m e
      let v : Int := if n then -(q : Int) else q
      let fl := flIf (intParts m e).2.1 flInexact
      if v < tyLeast ty then (tyLeast ty, flInvalid ||| fl)
      else if tyGreatest ty < v then (tyGreatest ty, flInvalid ||| fl)
      else (v, fl)

/-- fcvt to an integer type (R125 SUB 2). -/
def fCvtToInt (f : Fields) (e : VEntry) (t : Troupe) (s : State) : VOut :=
  let o := readOps f e t
  fLanes f e [o.a.sh] o.a.g fun i =>
    let r := toIntTy f.sel.toNat (f.modx.toNat % 4) ((fFmt f t s).decode (o.a.sh.lane i).toNat)
    ((tyExtend 32 f.sel.toNat r.1).toNat, r.2)

/-- fsrnd: stochastic Encode with r bits of B (R126). -/
def fStochastic (f : Fields) (e : VEntry) (t : Troupe) (s : State) : VOut :=
  let o := readOps f e t
  let src := s.slotFmt t.id.ring f.sel.toNat
  let r := f.imm.toNat
  fLanes f e (if r = 0 then [o.a.sh] else [o.a.sh, o.b.sh]) (if r = 0 then o.a.g else max o.a.g o.b.g)
    fun i =>
      let x := src.decode (o.a.sh.lane i).toNat
      finish1 (fFmt f t s) (x, 0) (.stoch ((o.b.sh.lane i).toNat % 2 ^ r) r (src.gridExp x))
        (f.sat == 1)

/-- One lane of fdot: the exact sum of the element products and C (R127). -/
def dotTerms (fm : Fmt) (a b c : Lane) : FVF :=
  let w := fm.width
  let el := fun (x : Lane) j => fm.decode (x.toNat / 2 ^ (j * w))
  let ps := (List.range (32 / w)).map fun j => (el a j).mul (el b j)
  let r := FV.sum (ps.map (·.1) ++ [fmtF32.decode c.toNat])
  (r.1, r.2 ||| flAll (ps.map (·.2)))

/-- fdot (R127). -/
def fDot (f : Fields) (e : VEntry) (t : Troupe) (s : State) : VOut :=
  let o := readOps f e t
  fLanes f e [o.a.sh, o.b.sh, o.c.sh] (max o.a.g (max o.b.g o.c.g)) fun i =>
    finish1 fmtF32 (dotTerms (fFmt f t s) (o.a.sh.lane i) (o.b.sh.lane i) (o.c.sh.lane i)) (fMode f)
      (f.sat == 1)

/-- fzpt: (n − z) × s, one Encode (R128). -/
def fZeroPoint (f : Fields) (e : VEntry) (t : Troupe) (s : State) : VOut :=
  let o := readOps f e t
  let w := if f.sub == 0 then 8 else 4
  fLanes f e [o.a.sh, o.b.sh, o.c.sh] (max o.a.g (max o.b.g o.c.g)) fun i =>
    let n := (o.a.sh.lane i).toNat / 2 ^ (w * f.imm.toNat) % 2 ^ w
    let z := (o.b.sh.lane i).toNat % 2 ^ w
    finish1 (fFmt f t s)
      ((FV.ofInt ((n : Int) - z) 0).mul (fmtF32.decode (o.c.sh.lane i).toNat)) (fMode f) (f.sat == 1)

/-- vred (R117). -/
def execVred (f : Fields) (s : State) : Out :=
  vectorInstr (.vred f) s fun e => computeIssue (vReduce false f e) e

/-- vscan (R117). -/
def execVscan (f : Fields) (s : State) : Out :=
  vectorInstr (.vscan f) s fun e => computeIssue (vReduce true f e) e

/-- fadd (R119). -/
def execFadd (f : Fields) (s : State) : Out :=
  vectorInstr (.fadd f) s fun e => computeIssue (fBinary FV.add f e) e

/-- fsub (R119). -/
def execFsub (f : Fields) (s : State) : Out :=
  vectorInstr (.fsub f) s fun e => computeIssue (fBinary (fun a b => a.add b.negate) f e) e

/-- fmul (R119). -/
def execFmul (f : Fields) (s : State) : Out :=
  vectorInstr (.fmul f) s fun e => computeIssue (fBinary FV.mul f e) e

/-- fma (R119). -/
def execFma (f : Fields) (s : State) : Out :=
  vectorInstr (.fma f) s fun e => computeIssue (fMulAdd f e) e

/-- fmin (R120). -/
def execFmin (f : Fields) (s : State) : Out :=
  vectorInstr (.fmin f) s fun e => computeIssue (fPick FV.min f e) e

/-- fmax (R120). -/
def execFmax (f : Fields) (s : State) : Out :=
  vectorInstr (.fmax f) s fun e => computeIssue (fPick FV.max f e) e

/-- fabs (R119). -/
def execFabs (f : Fields) (s : State) : Out :=
  vectorInstr (.fabs f) s fun e => computeIssue (fUnary (fun a => (a.abs, 0)) f e) e

/-- fneg (R119). -/
def execFneg (f : Fields) (s : State) : Out :=
  vectorInstr (.fneg f) s fun e => computeIssue (fUnary (fun a => (a.negate, 0)) f e) e

/-- fcmp (R122). -/
def execFcmp (f : Fields) (s : State) : Out :=
  vectorInstr (.fcmp f) s fun e => computeIssue (fCompare f e) e

/-- frcp (R123). -/
def execFrcp (f : Fields) (s : State) : Out :=
  vectorInstr (.frcp f) s fun e => computeIssue (fUnary FV.rcp f e) e

/-- frsq (R123). -/
def execFrsq (f : Fields) (s : State) : Out :=
  vectorInstr (.frsq f) s fun e => computeIssue (fUnary FV.rsqrt f e) e

/-- fsqrt (R123). -/
def execFsqrt (f : Fields) (s : State) : Out :=
  vectorInstr (.fsqrt f) s fun e => computeIssue (fUnary FV.sqrt f e) e

/-- fexp2 (R123). -/
def execFexp2 (f : Fields) (s : State) : Out :=
  vectorInstr (.fexp2 f) s fun e => computeIssue (fUnary FV.exp2 f e) e

/-- flog2 (R123). -/
def execFlog2 (f : Fields) (s : State) : Out :=
  vectorInstr (.flog2 f) s fun e => computeIssue (fUnary FV.log2 f e) e

/-- fsin (R123). -/
def execFsin (f : Fields) (s : State) : Out :=
  vectorInstr (.fsin f) s fun e => computeIssue (fUnary FV.sinPi f e) e

/-- fcos (R123). -/
def execFcos (f : Fields) (s : State) : Out :=
  vectorInstr (.fcos f) s fun e => computeIssue (fUnary FV.cosPi f e) e

/-- ftanh (R123). -/
def execFtanh (f : Fields) (s : State) : Out :=
  vectorInstr (.ftanh f) s fun e => computeIssue (fUnary FV.tanh f e) e

/-- fscale (R119). -/
def execFscale (f : Fields) (s : State) : Out :=
  vectorInstr (.fscale f) s fun e => computeIssue (fScale f e) e

/-- fclass (R124). -/
def execFclass (f : Fields) (s : State) : Out :=
  vectorInstr (.fclass f) s fun e => computeIssue (fClass f e) e

/-- fcvtSlot (R125). -/
def execFcvtSlot (f : Fields) (s : State) : Out :=
  vectorInstr (.fcvtSlot f) s fun e => computeIssue (fCvtSlot f e) e

/-- fcvtFromInt (R125). -/
def execFcvtFromInt (f : Fields) (s : State) : Out :=
  vectorInstr (.fcvtFromInt f) s fun e => computeIssue (fCvtFromInt f e) e

/-- fcvtToInt (R125). -/
def execFcvtToInt (f : Fields) (s : State) : Out :=
  vectorInstr (.fcvtToInt f) s fun e => computeIssue (fCvtToInt f e) e

/-- fsrnd (R126). -/
def execFsrnd (f : Fields) (s : State) : Out :=
  vectorInstr (.fsrnd f) s fun e => computeIssue (fStochastic f e) e

/-- frnd (R121). -/
def execFrnd (f : Fields) (s : State) : Out :=
  vectorInstr (.frnd f) s fun e => computeIssue (fRound f e) e

/-- fdot (R127). -/
def execFdot (f : Fields) (s : State) : Out :=
  vectorInstr (.fdot f) s fun e => computeIssue (fDot f e) e

/-- fzpt (R128). -/
def execFzpt (f : Fields) (s : State) : Out :=
  vectorInstr (.fzpt f) s fun e => computeIssue (fZeroPoint f e) e

end Sys2Proof.Machine
end

