-- ==== Sys2Proof/Machine/Dispatch.lean ====
section
/-! DEFINITION. One arm per row of the opcode table: the meaning of each instruction and device step. -/

namespace Sys2Proof.Machine

def exec (i : Instr) (s : State) : Host.Outcome State Fault Refusal :=
  match i with
  | .clauseHeader f => Sys2Proof.Machine.execClauseHeader f s
  | .nop f => Sys2Proof.Machine.execNop f s
  | .bra f => Sys2Proof.Machine.execBra f s
  | .brc f => Sys2Proof.Machine.execBrc f s
  | .bany f => Sys2Proof.Machine.execBany f s
  | .bnone f => Sys2Proof.Machine.execBnone f s
  | .call f => Sys2Proof.Machine.execCall f s
  | .ret f => Sys2Proof.Machine.execRet f s
  | .jmp f => Sys2Proof.Machine.execJmp f s
  | .done f => Sys2Proof.Machine.execDone f s
  | .trap f => Sys2Proof.Machine.execTrap f s
  | .sysc f => Sys2Proof.Machine.execSysc f s
  | .rdsr f => Sys2Proof.Machine.execRdsr f s
  | .wrsr f => Sys2Proof.Machine.execWrsr f s
  | .tick f => Sys2Proof.Machine.execTick f s
  | .yield f => Sys2Proof.Machine.execYield f s
  | .sleep f => Sys2Proof.Machine.execSleep f s
  | .sadd f => Sys2Proof.Machine.execSadd f s
  | .ssub f => Sys2Proof.Machine.execSsub f s
  | .smul f => Sys2Proof.Machine.execSmul f s
  | .smulhi f => Sys2Proof.Machine.execSmulhi f s
  | .sdiv f => Sys2Proof.Machine.execSdiv f s
  | .srem f => Sys2Proof.Machine.execSrem f s
  | .sand f => Sys2Proof.Machine.execSand f s
  | .sor f => Sys2Proof.Machine.execSor f s
  | .sxor f => Sys2Proof.Machine.execSxor f s
  | .sandn f => Sys2Proof.Machine.execSandn f s
  | .sshl f => Sys2Proof.Machine.execSshl f s
  | .sshr f => Sys2Proof.Machine.execSshr f s
  | .ssra f => Sys2Proof.Machine.execSsra f s
  | .srol f => Sys2Proof.Machine.execSrol f s
  | .smin f => Sys2Proof.Machine.execSmin f s
  | .smax f => Sys2Proof.Machine.execSmax f s
  | .sabs f => Sys2Proof.Machine.execSabs f s
  | .sclz f => Sys2Proof.Machine.execSclz f s
  | .spop f => Sys2Proof.Machine.execSpop f s
  | .sbrev f => Sys2Proof.Machine.execSbrev f s
  | .sins f => Sys2Proof.Machine.execSins f s
  | .sxtr f => Sys2Proof.Machine.execSxtr f s
  | .ssel f => Sys2Proof.Machine.execSsel f s
  | .scmp f => Sys2Proof.Machine.execScmp f s
  | .smov f => Sys2Proof.Machine.execSmov f s
  | .sli f => Sys2Proof.Machine.execSli f s
  | .sliHi f => Sys2Proof.Machine.execSliHi f s
  | .sadr f => Sys2Proof.Machine.execSadr f s
  | .kand f => Sys2Proof.Machine.execKand f s
  | .kor f => Sys2Proof.Machine.execKor f s
  | .kxor f => Sys2Proof.Machine.execKxor f s
  | .kandn f => Sys2Proof.Machine.execKandn f s
  | .knot f => Sys2Proof.Machine.execKnot f s
  | .kmov f => Sys2Proof.Machine.execKmov f s
  | .kset f => Sys2Proof.Machine.execKset f s
  | .kget f => Sys2Proof.Machine.execKget f s
  | .kpop f => Sys2Proof.Machine.execKpop f s
  | .kffs f => Sys2Proof.Machine.execKffs f s
  | .klast f => Sys2Proof.Machine.execKlast f s
  | .kbcast f => Sys2Proof.Machine.execKbcast f s
  | .sqput f => Sys2Proof.Machine.execSqput f s
  | .vqget f => Sys2Proof.Machine.execVqget f s
  | .vqput f => Sys2Proof.Machine.execVqput f s
  | .sqget f => Sys2Proof.Machine.execSqget f s
  | .vadd f => Sys2Proof.Machine.execVadd f s
  | .vsub f => Sys2Proof.Machine.execVsub f s
  | .vmul f => Sys2Proof.Machine.execVmul f s
  | .vmulhi f => Sys2Proof.Machine.execVmulhi f s
  | .vmad f => Sys2Proof.Machine.execVmad f s
  | .vand f => Sys2Proof.Machine.execVand f s
  | .vor f => Sys2Proof.Machine.execVor f s
  | .vxor f => Sys2Proof.Machine.execVxor f s
  | .vandn f => Sys2Proof.Machine.execVandn f s
  | .vshl f => Sys2Proof.Machine.execVshl f s
  | .vshr f => Sys2Proof.Machine.execVshr f s
  | .vsra f => Sys2Proof.Machine.execVsra f s
  | .vmin f => Sys2Proof.Machine.execVmin f s
  | .vmax f => Sys2Proof.Machine.execVmax f s
  | .vabs f => Sys2Proof.Machine.execVabs f s
  | .vneg f => Sys2Proof.Machine.execVneg f s
  | .vclz f => Sys2Proof.Machine.execVclz f s
  | .vpop f => Sys2Proof.Machine.execVpop f s
  | .vcmp f => Sys2Proof.Machine.execVcmp f s
  | .vsel f => Sys2Proof.Machine.execVsel f s
  | .vmov f => Sys2Proof.Machine.execVmov f s
  | .vperm f => Sys2Proof.Machine.execVperm f s
  | .vbcast f => Sys2Proof.Machine.execVbcast f s
  | .vred f => Sys2Proof.Machine.execVred f s
  | .vscan f => Sys2Proof.Machine.execVscan f s
  | .vlane f => Sys2Proof.Machine.execVlane f s
  | .vsplat f => Sys2Proof.Machine.execVsplat f s
  | .fadd f => Sys2Proof.Machine.execFadd f s
  | .fsub f => Sys2Proof.Machine.execFsub f s
  | .fmul f => Sys2Proof.Machine.execFmul f s
  | .fma f => Sys2Proof.Machine.execFma f s
  | .fmin f => Sys2Proof.Machine.execFmin f s
  | .fmax f => Sys2Proof.Machine.execFmax f s
  | .fabs f => Sys2Proof.Machine.execFabs f s
  | .fneg f => Sys2Proof.Machine.execFneg f s
  | .fcmp f => Sys2Proof.Machine.execFcmp f s
  | .frcp f => Sys2Proof.Machine.execFrcp f s
  | .frsq f => Sys2Proof.Machine.execFrsq f s
  | .fsqrt f => Sys2Proof.Machine.execFsqrt f s
  | .fexp2 f => Sys2Proof.Machine.execFexp2 f s
  | .flog2 f => Sys2Proof.Machine.execFlog2 f s
  | .fsin f => Sys2Proof.Machine.execFsin f s
  | .fcos f => Sys2Proof.Machine.execFcos f s
  | .ftanh f => Sys2Proof.Machine.execFtanh f s
  | .fscale f => Sys2Proof.Machine.execFscale f s
  | .fclass f => Sys2Proof.Machine.execFclass f s
  | .fcvtSlot f => Sys2Proof.Machine.execFcvtSlot f s
  | .fcvtFromInt f => Sys2Proof.Machine.execFcvtFromInt f s
  | .fcvtToInt f => Sys2Proof.Machine.execFcvtToInt f s
  | .fsrnd f => Sys2Proof.Machine.execFsrnd f s
  | .frnd f => Sys2Proof.Machine.execFrnd f s
  | .fdot f => Sys2Proof.Machine.execFdot f s
  | .fzpt f => Sys2Proof.Machine.execFzpt f s
  | .lds f => Sys2Proof.Machine.execLds f s
  | .sts f => Sys2Proof.Machine.execSts f s
  | .ldsb f => Sys2Proof.Machine.execLdsb f s
  | .xld f => Sys2Proof.Machine.execXld f s
  | .xldX24 f => Sys2Proof.Machine.execXldX24 f s
  | .xldNt f => Sys2Proof.Machine.execXldNt f s
  | .xst f => Sys2Proof.Machine.execXst f s
  | .xgat f => Sys2Proof.Machine.execXgat f s
  | .xsct f => Sys2Proof.Machine.execXsct f s
  | .xcpy f => Sys2Proof.Machine.execXcpy f s
  | .xcpyMc f => Sys2Proof.Machine.execXcpyMc f s
  | .xfill f => Sys2Proof.Machine.execXfill f s
  | .qjoin f => Sys2Proof.Machine.execQjoin f s
  | .tgwany f => Sys2Proof.Machine.execTgwany f s
  | .tgwall f => Sys2Proof.Machine.execTgwall f s
  | .tgffr f => Sys2Proof.Machine.execTgffr f s
  | .tgclr f => Sys2Proof.Machine.execTgclr f s
  | .tgget f => Sys2Proof.Machine.execTgget f s
  | .bini f => Sys2Proof.Machine.execBini f s
  | .barr f => Sys2Proof.Machine.execBarr f s
  | .barrN f => Sys2Proof.Machine.execBarrN f s
  | .barrExp f => Sys2Proof.Machine.execBarrExp f s
  | .bexp f => Sys2Proof.Machine.execBexp f s
  | .bwait f => Sys2Proof.Machine.execBwait f s
  | .btest f => Sys2Proof.Machine.execBtest f s
  | .bcan f => Sys2Proof.Machine.execBcan f s
  | .nqini f => Sys2Proof.Machine.execNqini f s
  | .nqsend f => Sys2Proof.Machine.execNqsend f s
  | .nqrecv f => Sys2Proof.Machine.execNqrecv f s
  | .nqret f => Sys2Proof.Machine.execNqret f s
  | .nqtry f => Sys2Proof.Machine.execNqtry f s
  | .nbsync f => Sys2Proof.Machine.execNbsync f s
  | .nbarv f => Sys2Proof.Machine.execNbarv f s
  | .tbsync f => Sys2Proof.Machine.execTbsync f s
  | .tbarv f => Sys2Proof.Machine.execTbarv f s
  | .mxgo f => Sys2Proof.Machine.execMxgo f s
  | .mxmul f => Sys2Proof.Machine.execMxmul f s
  | .mxdual f => Sys2Proof.Machine.execMxdual f s
  | .mxsp f => Sys2Proof.Machine.execMxsp f s
  | .mxzero f => Sys2Proof.Machine.execMxzero f s
  | .mxld f => Sys2Proof.Machine.execMxld f s
  | .mxst f => Sys2Proof.Machine.execMxst f s
  | .mxadd f => Sys2Proof.Machine.execMxadd f s
  | .mxscl f => Sys2Proof.Machine.execMxscl f s
  | .mxwaitTg f => Sys2Proof.Machine.execMxwaitTg f s
  | .mxwaitBo f => Sys2Proof.Machine.execMxwaitBo f s
  | .mxnb f => Sys2Proof.Machine.execMxnb f s
  | .mxnbArv f => Sys2Proof.Machine.execMxnbArv f s
  | .mxloopBegin f => Sys2Proof.Machine.execMxloopBegin f s
  | .mxloop f => Sys2Proof.Machine.execMxloop f s
  | .mxend f => Sys2Proof.Machine.execMxend f s
  | .mxstat f => Sys2Proof.Machine.execMxstat f s
  | .mxnorm f => Sys2Proof.Machine.execMxnorm f s
  | .mxalias f => Sys2Proof.Machine.execMxalias f s
  | .mxsamp f => Sys2Proof.Machine.execMxsamp f s
  | .mxvar f => Sys2Proof.Machine.execMxvar f s
  | .ld f => Sys2Proof.Machine.execLd f s
  | .ldAc f => Sys2Proof.Machine.execLdAc f s
  | .st f => Sys2Proof.Machine.execSt f s
  | .vld f => Sys2Proof.Machine.execVld f s
  | .vldAc f => Sys2Proof.Machine.execVldAc f s
  | .vst f => Sys2Proof.Machine.execVst f s
  | .vldw f => Sys2Proof.Machine.execVldw f s
  | .vstw f => Sys2Proof.Machine.execVstw f s
  | .acwait f => Sys2Proof.Machine.execAcwait f s
  | .acget f => Sys2Proof.Machine.execAcget f s
  | .acclr f => Sys2Proof.Machine.execAcclr f s
  | .pref f => Sys2Proof.Machine.execPref f s
  | .cfl f => Sys2Proof.Machine.execCfl f s
  | .fence f => Sys2Proof.Machine.execFence f s
  | .aadd f => Sys2Proof.Machine.execAadd f s
  | .amin f => Sys2Proof.Machine.execAmin f s
  | .amax f => Sys2Proof.Machine.execAmax f s
  | .aand f => Sys2Proof.Machine.execAand f s
  | .aor f => Sys2Proof.Machine.execAor f s
  | .axor f => Sys2Proof.Machine.execAxor f s
  | .axch f => Sys2Proof.Machine.execAxch f s
  | .acas f => Sys2Proof.Machine.execAcas f s
  | .ainb f => Sys2Proof.Machine.execAinb f s
  | .ainw f => Sys2Proof.Machine.execAinw f s
  | .adecp f => Sys2Proof.Machine.execAdecp f s
  | .aflim f => Sys2Proof.Machine.execAflim f s
  | .aaddf f => Sys2Proof.Machine.execAaddf f s
  | .redadd f => Sys2Proof.Machine.execRedadd f s
  | .redmin f => Sys2Proof.Machine.execRedmin f s
  | .redmax f => Sys2Proof.Machine.execRedmax f s
  | .redand f => Sys2Proof.Machine.execRedand f s
  | .redor f => Sys2Proof.Machine.execRedor f s
  | .redxor f => Sys2Proof.Machine.execRedxor f s
  | .redaddf f => Sys2Proof.Machine.execRedaddf f s
  | .tdep f => Sys2Proof.Machine.execTdep f s
  | .tread f => Sys2Proof.Machine.execTread f s
  | .ttake f => Sys2Proof.Machine.execTtake f s
  | .tcan f => Sys2Proof.Machine.execTcan f s
  | .tstat f => Sys2Proof.Machine.execTstat f s
  | .slvtab f => Sys2Proof.Machine.execSlvtab f s
  | .slvini f => Sys2Proof.Machine.execSlvini f s
  | .slvstg f => Sys2Proof.Machine.execSlvstg f s
  | .slvend f => Sys2Proof.Machine.execSlvend f s
  | .slvst f => Sys2Proof.Machine.execSlvst f s
  | .slvstRel f => Sys2Proof.Machine.execSlvstRel f s
  | .fmreq f => Sys2Proof.Machine.execFmreq f s
  | .fmfence f => Sys2Proof.Machine.execFmfence f s
  | .fmq f => Sys2Proof.Machine.execFmq f s
  | .fmqHash f => Sys2Proof.Machine.execFmqHash f s
  | .fmrel f => Sys2Proof.Machine.execFmrel f s
  | .grd f => Sys2Proof.Machine.execGrd f s
  | .grraise f => Sys2Proof.Machine.execGrraise f s
  | .grdecl f => Sys2Proof.Machine.execGrdecl f s
  | .ticket f => Sys2Proof.Machine.execTicket f s
  | .tkret f => Sys2Proof.Machine.execTkret f s
  | .phint f => Sys2Proof.Machine.execPhint f s
  | .spawn f => Sys2Proof.Machine.execSpawn f s
  | .binflush f => Sys2Proof.Machine.execBinflush f s
  | .bincfg f => Sys2Proof.Machine.execBincfg f s
  | .frec f => Sys2Proof.Machine.execFrec f s
  | .fres f => Sys2Proof.Machine.execFres f s
  | .fresM f => Sys2Proof.Machine.execFresM f s
  | .fresRet f => Sys2Proof.Machine.execFresRet f s
  | .fdrop f => Sys2Proof.Machine.execFdrop f s
  | .fdropEnd f => Sys2Proof.Machine.execFdropEnd f s
  | .nflg f => Sys2Proof.Machine.execNflg f s
  | .nflgClr f => Sys2Proof.Machine.execNflgClr f s
  | .nflgSet f => Sys2Proof.Machine.execNflgSet f s
  | .nflgDef f => Sys2Proof.Machine.execNflgDef f s
  | .post f => Sys2Proof.Machine.execPost f s
  | .qring f => Sys2Proof.Machine.execQring f s
  | .treeBarrierRelease => Sys2Proof.Machine.execTreeBarrierRelease s
  | .matrixContextGrant => Sys2Proof.Machine.execMatrixContextGrant s
  | .splitLoadReply => Sys2Proof.Machine.execSplitLoadReply s
  | .longLatencyComplete => Sys2Proof.Machine.execLongLatencyComplete s
  | .atomicReply => Sys2Proof.Machine.execAtomicReply s
  | .windowReductionApply => Sys2Proof.Machine.execWindowReductionApply s
  | .tupleDepositServe => Sys2Proof.Machine.execTupleDepositServe s
  | .tupleRefill => Sys2Proof.Machine.execTupleRefill s
  | .tupleMatchServe => Sys2Proof.Machine.execTupleMatchServe s
  | .tupleCancelServe => Sys2Proof.Machine.execTupleCancelServe s
  | .tupleReply => Sys2Proof.Machine.execTupleReply s
  | .calliopeGrant => Sys2Proof.Machine.execCalliopeGrant s
  | .formatCheckComplete => Sys2Proof.Machine.execFormatCheckComplete s
  | .slotDrainComplete => Sys2Proof.Machine.execSlotDrainComplete s
  | .frameReady => Sys2Proof.Machine.execFrameReady s
  | .launchSlotBind => Sys2Proof.Machine.execLaunchSlotBind s
  | .admissionGrant => Sys2Proof.Machine.execAdmissionGrant s
  | .ticketTimeout => Sys2Proof.Machine.execTicketTimeout s
  | .binTimerExpiry => Sys2Proof.Machine.execBinTimerExpiry s
  | .binLaunch => Sys2Proof.Machine.execBinLaunch s
  | .spawnDrain => Sys2Proof.Machine.execSpawnDrain s
  | .sleepExpiry => Sys2Proof.Machine.execSleepExpiry s
  | .icacheFill => Sys2Proof.Machine.execIcacheFill s
  | .copyStart => Sys2Proof.Machine.execCopyStart s
  | .copyBytesLand => Sys2Proof.Machine.execCopyBytesLand s
  | .copyComplete => Sys2Proof.Machine.execCopyComplete s
  | .copyFinalFault => Sys2Proof.Machine.execCopyFinalFault s
  | .troupeRetire => Sys2Proof.Machine.execTroupeRetire s
  | .ringEnd => Sys2Proof.Machine.execRingEnd s
  | .queueTailWrite => Sys2Proof.Machine.execQueueTailWrite s
  | .qenWrite => Sys2Proof.Machine.execQenWrite s
  | .launchRecordAccept => Sys2Proof.Machine.execLaunchRecordAccept s
  | .launchStart => Sys2Proof.Machine.execLaunchStart s
  | .neighbourhoodPlace => Sys2Proof.Machine.execNeighbourhoodPlace s
  | .preemptionWaitExpiry => Sys2Proof.Machine.execPreemptionWaitExpiry s
  | .launchCompletionRecord => Sys2Proof.Machine.execLaunchCompletionRecord s
  | .registerWrite => Sys2Proof.Machine.execRegisterWrite s
  | .invalPage => Sys2Proof.Machine.execInvalPage s
  | .invalAsid => Sys2Proof.Machine.execInvalAsid s
  | .invalAll => Sys2Proof.Machine.execInvalAll s
  | .replayAll => Sys2Proof.Machine.execReplayAll s
  | .cancelAsid => Sys2Proof.Machine.execCancelAsid s
  | .mmuInvalidationDone => Sys2Proof.Machine.execMmuInvalidationDone s
  | .pageWalkComplete => Sys2Proof.Machine.execPageWalkComplete s
  | .extentAdd => Sys2Proof.Machine.execExtentAdd s
  | .extentRelease => Sys2Proof.Machine.execExtentRelease s
  | .refreshInterval => Sys2Proof.Machine.execRefreshInterval s
  | .refreshRetryReissue => Sys2Proof.Machine.execRefreshRetryReissue s
  | .ctxCreate => Sys2Proof.Machine.execCtxCreate s
  | .ctxEnd => Sys2Proof.Machine.execCtxEnd s
  | .ownerKey => Sys2Proof.Machine.execOwnerKey s
  | .regionCreate => Sys2Proof.Machine.execRegionCreate s
  | .preempt => Sys2Proof.Machine.execPreempt s
  | .faultActFres => Sys2Proof.Machine.execFaultActFres s
  | .faultActFresM => Sys2Proof.Machine.execFaultActFresM s
  | .faultActFresRet => Sys2Proof.Machine.execFaultActFresRet s
  | .faultActFdrop => Sys2Proof.Machine.execFaultActFdrop s
  | .faultActFdropEnd => Sys2Proof.Machine.execFaultActFdropEnd s
  | .roster => Sys2Proof.Machine.execRoster s
  | .window => Sys2Proof.Machine.execWindow s
  | .queueAssign => Sys2Proof.Machine.execQueueAssign s
  | .preemptionRequest => Sys2Proof.Machine.execPreemptionRequest s
  | .drainWaitExpiry => Sys2Proof.Machine.execDrainWaitExpiry s
  | .neighbourhoodSave => Sys2Proof.Machine.execNeighbourhoodSave s
  | .neighbourhoodRestore => Sys2Proof.Machine.execNeighbourhoodRestore s
  | .faultQueueHeadPoll => Sys2Proof.Machine.execFaultQueueHeadPoll s
  | .coldReset => Sys2Proof.Machine.execColdReset s
  | .lifeCycleChange => Sys2Proof.Machine.execLifeCycleChange s
  | .pcieHotReset => Sys2Proof.Machine.execPcieHotReset s
  | .hostLinkUp => Sys2Proof.Machine.execHostLinkUp s
  | .linkDownWithoutReset => Sys2Proof.Machine.execLinkDownWithoutReset s
  | .vfReset => Sys2Proof.Machine.execVfReset s
  | .vfResetDrainExpiry => Sys2Proof.Machine.execVfResetDrainExpiry s
  | .ideIntegrityFailure => Sys2Proof.Machine.execIdeIntegrityFailure s
  | .fabricFlitAuthFailure => Sys2Proof.Machine.execFabricFlitAuthFailure s
  | .fabricRekey => Sys2Proof.Machine.execFabricRekey s
  | .inboundAccess => Sys2Proof.Machine.execInboundAccess s
  | .scrub => Sys2Proof.Machine.execScrub s
  | .getVersion => Sys2Proof.Machine.execGetVersion s
  | .getCapabilities => Sys2Proof.Machine.execGetCapabilities s
  | .negotiateAlgorithms => Sys2Proof.Machine.execNegotiateAlgorithms s
  | .getDigests => Sys2Proof.Machine.execGetDigests s
  | .getCertificate => Sys2Proof.Machine.execGetCertificate s
  | .challenge => Sys2Proof.Machine.execChallenge s
  | .getMeasurements => Sys2Proof.Machine.execGetMeasurements s
  | .keyExchange => Sys2Proof.Machine.execKeyExchange s
  | .finish => Sys2Proof.Machine.execFinish s
  | .keyUpdate => Sys2Proof.Machine.execKeyUpdate s
  | .endSession => Sys2Proof.Machine.execEndSession s
  | .ideKm => Sys2Proof.Machine.execIdeKm s
  | .roustaboutWatchdog => Sys2Proof.Machine.execRoustaboutWatchdog s
  | .clockStretch => Sys2Proof.Machine.execClockStretch s
  | .thermalTrip => Sys2Proof.Machine.execThermalTrip s
  | .thermalPowerOff => Sys2Proof.Machine.execThermalPowerOff s
  | .solverQueueServe => Sys2Proof.Machine.execSolverQueueServe s
  | .computeBoundIntervalExpiry => Sys2Proof.Machine.execComputeBoundIntervalExpiry s
  | .slewSubsides => Sys2Proof.Machine.execSlewSubsides s
  | .grantBudgetChange => Sys2Proof.Machine.execGrantBudgetChange s
  | .memberWithdrawal => Sys2Proof.Machine.execMemberWithdrawal s
  | .flitCrcFailure => Sys2Proof.Machine.execFlitCrcFailure s
  | .linkRetrainComplete => Sys2Proof.Machine.execLinkRetrainComplete s

end Sys2Proof.Machine
end

