-- ==== Sys2Proof/Machine/Sched.lean ====
section
/-! DEFINITION. Who may act next: the scalar sides as their issue slots pick them, the vector sides, the
matrix streams, and the device steps whose conditions hold (spec/01_machine.md R20, R24,
spec/15_issue_and_launch.md R327-R329). -/

namespace Sys2Proof.Machine

/-! ### One party's turn -/

/-- The state in which a party's instruction is executed: who acts, and the length of its unit. -/
def State.acting (s : State) (who : Agent) (len : Nat) : State := { s with cur := who, len := len }

/-- The scalar side of a troupe fetches and executes its next unit (R28, R35, R45, R345).  A unit that
stands for no instruction (a poison word, a reserved opcode, an undefined SUB) is rejected here, whichever
side its opcode belongs to (log entry 62). -/
def runScalar (t : Troupe) (s : State) : Out :=
  match s.fetchTroupe t with
  | .unit_ (.ok i n) => exec i (s.acting (.scalar t.id) n)
  | .unit_ (.bad _ n _) => .next ((s.acting (.scalar t.id) n).scalarFault t { cause := .illop })
  | .poison page n => .next ((s.acting (.scalar t.id) n).scalarFault t { cause := .ifetch, aux := page })

/-- The vector side of a troupe issues its first dispatched instruction. -/
def runVector (t : Troupe) (s : State) : Out :=
  match t.vq with
  | [] => .next s
  | e :: _ => exec e.instr (s.acting (.vside t.id) s.len)

/-- The opcodes that a matrix stream may contain (R45). -/
def streamOpcode (op : Nat) : Bool := op == 0 || (0xA1 ≤ op && op ≤ 0xAC) || (0xAE ≤ op && op ≤ 0xB1)

/-- A stream fetches and executes its next unit (R35, R45, R204): an undefined SUB of an opcode that no
stream may contain is MXILL, which R46 puts first.  The page of a fetch fault is not kept with the stop
(log entry 150). -/
def runStream (ring : Nat) (st : Stream) (s : State) : Out :=
  match s.fetchStream ring st with
  | .unit_ (.ok i n) => exec i (s.acting (.stream ring) n)
  | .unit_ (.bad .variant n op) =>
      let s1 := s.acting (.stream ring) n
      .next (if streamOpcode op then s1.stopStream ring mxIllop 0 else s1.foreign ring)
  | .unit_ (.bad _ n _) => .next ((s.acting (.stream ring) n).stopStream ring mxIllop 0)
  | .poison _ n => .next ((s.acting (.stream ring) n).stopStream ring mxIfetch 0)

/-! ### Whether a party may act -/

/-- The pre-emption state of a ring's neighbourhood. -/
def State.preOf (s : State) (ring : Nat) : PreSt := (s.nbhd (s.ring ring).nb).pre

/-- A ring is chosen for save. -/
def State.saving (s : State) (ring : Nat) : Bool :=
  match s.preOf ring with
  | .save _ => true
  | _ => false

/-- The scalar side still waits after an attempt. -/
def scalarWaits (id : TroupeId) : Out → Bool
  | .next s =>
      match s.troupe? id with
      | some t => t.wait.isSome && t.stopped.isEmpty
      | none => false
  | _ => false

/-- The vector side still waits after an attempt. -/
def vectorWaits (id : TroupeId) : Out → Bool
  | .next s =>
      match s.troupe? id with
      | some t => t.vwait.isSome && t.stopped.isEmpty
      | none => false
  | _ => false

/-- The stream still waits after an attempt. -/
def streamWaits (ring : Nat) : Out → Bool
  | .next s =>
      match s.stream? ring with
      | some st => st.wait.isSome && st.state == 3
      | none => false
  | _ => false

/-- A wait that begins before its instruction has had any effect: the instruction cannot be dispatched or issued yet
(R20, R90, R328).  The other waits belong to an instruction that has issued: it counts its sleep, has arrived at its
barrier, stands in the queue of its ticket or is parked. -/
def Wait.holds : Wait → Bool
  | .flags _ => true
  | .hold _ => true
  | .queue _ => true
  | .counter .. => true
  | .tags => true
  | .barrier => true
  | .nq _ => true
  | .slot _ => true
  | .issue => true
  | .drain => true
  | _ => false

/-- The scalar side meets such a wait when it tries its next instruction. -/
def scalarHeld (id : TroupeId) : Out → Bool
  | .next s =>
      match s.troupe? id with
      | some t => (match t.wait with | some w => w.holds | none => false)
      | none => false
  | _ => false

/-- The vector side meets such a wait when it tries its next instruction. -/
def vectorHeld (id : TroupeId) : Out → Bool
  | .next s =>
      match s.troupe? id with
      | some t => (match t.vwait with | some w => w.holds | none => false)
      | none => false
  | _ => false

/-- How a side of a troupe stands for its issue slot. -/
inductive Turn where
  /-- it has nothing to do -/
  | no
  /-- its next instruction is held, and it has yet to begin the wait -/
  | held
  /-- it is ready -/
  | ready
  deriving DecidableEq, Repr

/-- How a scalar side stands (R20, R90, R328): it has no turn when stopped, ending or about to report lane faults,
held by a save at its clause boundary or where it blocks (R363), or of a function in reset (R388); one that waits is
ready when its wait is over, and another when its next instruction can be dispatched. -/
def scalarTurn (s : State) (t : Troupe) : Turn :=
  if t.stopped.isEmpty && !t.ending && !(t.left == 0 && !t.reports.isEmpty)
      && !(s.saving t.id.ring && t.scalarAtRest)
      && !(s.fw.vfReset.any fun v => v.1 == (s.launchOf t.id.ring).fn) then
    match t.wait with
    | none => if scalarHeld t.id (runScalar t s) then .held else .ready
    | some _ => if scalarWaits t.id (runScalar t s) then .no else .ready
  else .no

/-- How a vector side stands. -/
def vectorTurn (s : State) (t : Troupe) : Turn :=
  if t.stopped.isEmpty && !t.vq.isEmpty then
    match t.vwait with
    | none => if vectorHeld t.id (runVector t s) then .held else .ready
    | some _ => if vectorWaits t.id (runVector t s) then .no else .ready
  else .no

/-- A scalar side is ready (R328). -/
def scalarReady (s : State) (t : Troupe) : Bool := scalarTurn s t == .ready

/-- A vector side is ready (R328). -/
def vectorReady (s : State) (t : Troupe) : Bool := vectorTurn s t == .ready

/-- A stream is ready: it holds its contexts and runs, or its wait is over (R183, R206). -/
def streamReady (s : State) (r : Ring) (st : Stream) : Bool :=
  st.ctx && st.loaded && (st.state == 2 || st.state == 3)
    && !(s.saving r.id && s.streamAtRest r)
    && (match st.wait with
        | none => true
        | some .retry => true
        | some .parked => false
        | some _ => !streamWaits r.id (runStream r.id st s))

/-! ### The pick of an issue slot (R327, R328) -/

/-- Core and issue slot of a troupe. -/
def State.slotOf (s : State) (t : Troupe) : Nat × Nat := ((s.ring t.id.ring).core, t.slot)

/-- Of two troupes that tie, the one of the lower ring slot, then of the lower index, comes first. -/
def State.tieFirst (s : State) (a b : Troupe) : Bool :=
  let x := (s.ring a.id.ring).rslot
  let y := (s.ring b.id.ring).rslot
  decide (x < y) || (x == y && decide (a.id.idx ≤ b.id.idx))

/-- Of two troupes, the first has the smaller age stamp. -/
def State.older (s : State) (a b : Troupe) : Bool :=
  decide (a.age < b.age) || (a.age == b.age && s.tieFirst a b)

/-- The launch priority of a troupe. -/
def State.prioOf (s : State) (t : Troupe) : Nat := (s.launchOf t.id.ring).prio

/-- The pick of R328 among the ready troupes of a slot. -/
def State.slotPick (s : State) (rdy : List Troupe) : Option Troupe :=
  let urgent := rdy.filter fun t => 192 ≤ t.starve
  if urgent.isEmpty then
    (sortBy (fun a b => decide (s.prioOf b < s.prioOf a) || (s.prioOf a == s.prioOf b && s.older a b)) rdy).head?
  else
    (sortBy (fun a b => decide (b.starve < a.starve) || (a.starve == b.starve && s.older a b)) urgent).head?

/-- The starvation counts of a slot once it has issued `pick` (R328). -/
def State.countStarve (s : State) (pick : Troupe) (rdy : List TroupeId) : State :=
  { s with troupes := s.troupes.map fun t =>
      if s.slotOf t = s.slotOf pick then
        { t with starve := if t.id != pick.id && rdy.contains t.id then t.starve + 1 else 0 }
      else t }

/-! ### What may happen next -/

/-- Something that may happen in one step. -/
inductive Act where
  /-- a scalar side issues; the ready troupes of its slot -/
  | scalar (t : Troupe) (rdy : List TroupeId)
  /-- a vector side issues; the ready troupes of its slot -/
  | vector (t : Troupe) (rdy : List TroupeId)
  /-- a scalar side whose next instruction is held begins its wait; nothing issues (log entry 192) -/
  | scalarWait (t : Troupe)
  /-- a vector side whose next instruction is held begins its wait; nothing issues -/
  | vectorWait (t : Troupe)
  /-- a stream executes -/
  | stream (ring : Nat) (st : Stream)
  /-- a device step -/
  | device (i : Instr) (e : Event)
  /-- the first host action or event of the agenda -/
  | agenda
  /-- nothing: time passes -/
  | idle
  deriving DecidableEq, Repr

/-- A side of the troupe is ready. -/
def troupeReady (s : State) (t : Troupe) : Bool := scalarReady s t || vectorReady s t

/-- What the issue slots may issue: an instruction of either side of the troupe that each picks (R328). -/
def State.slotActs (s : State) : List Act :=
  let rdy := s.troupes.filter (troupeReady s)
  ((rdy.map s.slotOf).eraseDups).flatMap fun k =>
    let l := rdy.filter fun t => s.slotOf t == k
    let ids := l.map (·.id)
    match s.slotPick l with
    | none => []
    | some t =>
        (if vectorReady s t then [.vector t ids] else []) ++ if scalarReady s t then [.scalar t ids] else []

/-- The sides that begin to wait (R20, R90). -/
def State.waitActs (s : State) : List Act :=
  s.troupes.flatMap fun t =>
    (if vectorTurn s t = .held then [.vectorWait t] else []) ++ if scalarTurn s t = .held then [.scalarWait t] else []

/-- An operation of the array: one that takes turns with the other context's (R183). -/
def arrayOp : Instr → Bool
  | .mxmul _ => true
  | .mxdual _ => true
  | .mxsp _ => true
  | .mxzero _ => true
  | .mxld _ => true
  | .mxst _ => true
  | .mxadd _ => true
  | .mxscl _ => true
  | .mxnorm _ => true
  | .mxalias _ => true
  | .mxsamp _ => true
  | _ => false

/-- The next instruction of a stream is an operation of the array. -/
def State.atArrayOp (s : State) (ring : Nat) (st : Stream) : Bool :=
  match s.fetchStream ring st with
  | .unit_ (.ok i _) => arrayOp i
  | _ => false

/-- The streams that may execute: of two contexts of a core that both have an operation ready, the one
that did not take the latest turn (R183). -/
def State.streamActs (s : State) : List Act :=
  let rdy := s.rings.filterMap fun r =>
    match r.stream with
    | some st => if streamReady s r st then some (r, st, s.atArrayOp r.id st) else none
    | none => none
  (rdy.filter fun x =>
    !(x.2.2 && (s.core x.1.core).mxlast == some x.1.id
      && rdy.any fun y => y.1.id != x.1.id && y.1.core == x.1.core && y.2.2)).map fun x =>
        .stream x.1.id x.2.1

/-- A device step under a condition. -/
def devIf (c : Bool) (i : Instr) (e : Event) : List Act := if c then [.device i e] else []

/-- Replies of a troupe's operations that may arrive (R88, R231, R236). -/
def opActs (t : Troupe) (o : Op) : List Act :=
  let e : Event := { ring := t.id.ring, idx := t.id.idx, op := o.id }
  let back := (o.lanes.filter fun l => l.st.isReply).map fun l => ({ e with lane := l.lane } : Event)
  if isLoad o.instr then
    if o.held then devIf (!back.isEmpty) .longLatencyComplete e
    else back.map fun x => .device .splitLoadReply x
  else if isAtomic o.instr then back.map fun x => .device .atomicReply x
  else devIf (o.lanes.isEmpty && (!o.vres.isEmpty || !o.sres.isEmpty)) .longLatencyComplete e

/-- Device steps about a troupe. -/
def State.troupeActs (s : State) (t : Troupe) : List Act :=
  let e : Event := { ring := t.id.ring, idx := t.id.idx }
  t.ops.flatMap (opActs t)
    ++ devIf (s.canRetire t) .troupeRetire e
    ++ devIf (match t.wait with | some (.sleep u) => u != 0 | _ => false) .sleepExpiry e
    ++ devIf (s.ticketDeadline t.id).isSome .ticketTimeout e

/-- Device steps about a ring. -/
def State.ringActs (s : State) (r : Ring) : List Act :=
  let e : Event := { ring := r.id }
  let quiet := s.saving r.id
  devIf (s.canEnd r) .ringEnd e
    ++ devIf r.phint.isSome .computeBoundIntervalExpiry e
    ++ devIf (!quiet && !(s.readyBins r.id).isEmpty && s.belowLimit r.id) .binLaunch e
    ++ devIf (!quiet && s.canDrain r.id) .spawnDrain e
    ++ devIf (match r.stream with
        | some st =>
            if st.ctx && !st.loaded then st.wait == some .retry
            else
              match (s.core r.core).mxq with
              | x :: _ => x == r.id && s.ctxFree r.core st
              | [] => false
        | none => false) .matrixContextGrant e

/-- A copy that may start would only wait for a draining slot (R138), or for a link (R380). -/
def copyStalls (s : State) (e : CopyEnt) : Bool :=
  (e.nslot.isSome || s.fabricPort.isNone)
    && (match e.instr.fields with
        | some f => (match startOf s e f with | .stall => true | _ => false)
        | none => false)

/-- Device steps about an entry of a copy queue. -/
def State.copyActs (s : State) (core q : Nat) (c : CopyEnt) : List Act :=
  let e : Event := { core := core, queue := q, op := c.id }
  devIf ((!s.saving c.ring || s.copyGoesOn core c)
      && (match c.instr.fields with | some f => s.copyMayStart core q c f | none => false)
      && !copyStalls s c) .copyStart e
    ++ devIf (s.copyMayLand core q c) .copyBytesLand e
    ++ devIf (s.copyFirst core c.id && c.over_ && !s.copyHeld c) .copyComplete e
    ++ devIf (c.fault.isSome && s.copyFirst core c.id && !s.copyHeld c) .copyFinalFault e

/-- Device steps about a core: its copies, and the bin whose countdown ends next. -/
def State.coreActs (s : State) (core : Nat) : List Act :=
  let c := s.core core
  c.cq0.flatMap (s.copyActs core 0) ++ c.cq1.flatMap (s.copyActs core 1)
    ++ (match s.filling core with
        | (_, j) :: _ => [Act.device .binTimerExpiry { core := core, op := j }]
        | [] => [])

/-- Device steps about a memory slice. -/
def State.sliceActs (s : State) (n : Nat) : List Act :=
  let c := s.slice n
  let e : Event := { unit_ := n }
  (match c.next? with
   | some q =>
       match q.kind with
       | .dep => [Act.device .tupleDepositServe e]
       | .cancel => [Act.device .tupleCancelServe e]
       | .read => [Act.device .tupleMatchServe e]
       | .take => [Act.device .tupleMatchServe e]
       | .stat => [Act.device .tupleMatchServe e]
   | none => [])
    ++ (c.regs.flatMap fun r =>
        devIf (canRefill s n r.asid r.rid) .tupleRefill { e with asid := r.asid, num := r.rid })
    ++ ((c.replies.map fun r =>
          ({ e with ring := r.t.ring, idx := r.t.idx, op := r.op, lane := r.lane } : Event)).eraseDups.flatMap fun x =>
        devIf (match takeReply ⟨x.ring, x.idx⟩ x.op x.lane c.replies with
          | some (r, _) => replyReady s r
          | none => false) .tupleReply x)
    ++ devIf (0 < c.retries) .refreshRetryReissue e

/-- Device steps about a die. -/
def State.dieActs (s : State) (d : Nat) : List Act :=
  let x := s.die d
  let e : Event := { die := d }
  devIf (s.admissible d) .admissionGrant e
    ++ devIf (s.solverTurn d).isSome .solverQueueServe e
    ++ devIf (match s.calliopeHead d with | some r => s.calliopeFits d r | none => false) .calliopeGrant e
    ++ devIf (match s.placeAct d with
        | some (.restore ..) => false
        | some _ => true
        | none => false) .neighbourhoodPlace e
    ++ devIf (s.restorable d).isSome .neighbourhoodRestore e
    ++ devIf (match x.resv with | some r => (s.launch? r.launch).isSome | none => false) .preemptionWaitExpiry e
    ++ devIf (x.busy && !s.invalWaits d) .mmuInvalidationDone e
    ++ ((((x.parked.filter (·.marked)).map fun p =>
          ({ e with asid := p.asid, addr := p.vpage } : Event)).eraseDups).map fun y => .device .pageWalkComplete y)
    ++ devIf x.stretched .slewSubsides e

/-- Device steps about a neighbourhood. -/
def State.nbhdActs (s : State) (n : Nbhd) : List Act :=
  let e : Event := { obj := n.id }
  (n.release.map fun x => .device .treeBarrierRelease { e with num := x.1 })
    ++ (match n.pre with
        | .none => []
        | .asked .. => [Act.device .preemptionRequest e]
        | .drain .. => [Act.device .drainWaitExpiry e]
        | .flush _ => devIf (s.flushOver n.id || s.flushParked n.id) .preemptionRequest e
        | .save _ => devIf (s.canSave n.id) .neighbourhoodSave e)

/-- Device steps about a launch. -/
def State.launchActs (s : State) (l : Launch) : List Act :=
  let e : Event := { obj := l.id }
  devIf (l.stage == .binding
      && ((l.lr.listed.all fun n => l.bound.contains n) || (s.bindTurn l).isSome)) .launchSlotBind e
    ++ devIf (s.mayStart l) .launchStart e
    ++ devIf (l.stage == .ended && !s.launchWrites l && !s.crecCut l) .launchCompletionRecord e

/-- Device steps about a context. -/
def State.ctxActs (s : State) (c : Ctx) : List Act :=
  let e : Event := { asid := c.asid }
  (match c.held with
   | r :: _ => devIf (s.fqWrite c r).isSome .faultQueueHeadPoll e
   | [] => [])
    ++ ((List.range 8).flatMap fun i =>
        let x := nth c.slots i {}
        devIf (x.state == 1 && !s.slotBusy c.asid (8 + i)) .slotDrainComplete { e with num := 8 + i }
          ++ devIf (x.state == 2 && s.framesReady c.asid (8 + i)) .frameReady { e with num := 8 + i })

/-- The row of the table that a command's OPC stands for, a FAULT_ACT's by its action (R393). -/
def CmdBlock.row (b : CmdBlock) : Option Instr :=
  match b.opc with
  | 1 => some .ctxCreate
  | 2 => some .ctxEnd
  | 3 => some .ownerKey
  | 4 => some .regionCreate
  | 5 => some .preempt
  | 6 =>
      match (nth b.words 2 0).toNat with
      | 0 => some .faultActFres
      | 1 => some .faultActFresM
      | 2 => some .faultActFresRet
      | 3 => some .faultActFdrop
      | 4 => some .faultActFdropEnd
      | _ => none
  | 7 => some .roster
  | 8 => some .window
  | 9 => some .queueAssign
  | _ => none

/-- The first command that waits may be performed (R393). -/
def State.commandActs (s : State) : List Act :=
  match s.fw.cmdq with
  | [] => []
  | fn :: _ => match (s.block fn).row with | some i => [.device i {}] | none => []

/-- Device steps about the front end, the firmware and the fabric. -/
def State.frontActs (s : State) : List Act :=
  s.commandActs ++
  devIf s.nextQueue.isSome .launchRecordAccept {}
    ++ devIf s.nextRequest.isSome .formatCheckComplete {}
    ++ ((s.fw.releasing.filter fun n => !s.extentOwes n).map fun n => .device .extentRelease { num := n })
    ++ (s.fw.contribs.map fun c => .device .windowReductionApply { op := c.id })
    ++ (s.fw.vfReset.map fun v => .device .vfResetDrainExpiry { fn := v.1 })
    -- a frame of a core is reconfigured (R129, R137)
    ++ s.cores.zipIdx.flatMap fun c =>
        ((c.1.frames.zipIdx.filter fun f => f.1.state == 2).map fun f =>
          .device .frameReady { core := c.2, num := f.2, on := true })

/-- The device steps whose conditions hold. -/
def State.deviceActs (s : State) : List Act :=
  s.frontActs ++ s.launches.flatMap s.launchActs ++ s.nbhds.flatMap s.nbhdActs ++ s.ctxs.flatMap s.ctxActs
    ++ (List.range 4).flatMap s.dieActs ++ (List.range 16).flatMap s.sliceActs
    ++ ((s.rings.map (·.core)).eraseDups).flatMap s.coreActs ++ s.rings.flatMap s.ringActs
    ++ s.troupes.flatMap s.troupeActs

/-- Everything that may happen next, the first action of the agenda among it. -/
def State.acts (s : State) : List Act :=
  (if s.agenda.isEmpty then [] else [Act.agenda])
    ++ s.deviceActs ++ s.slotActs ++ s.waitActs ++ s.streamActs

/-- Lines of code that a core's instruction cache may fill of itself, beside whatever else may happen: the
line of a scalar side's next unit, or of a stream's (R36). -/
def State.fillActs (s : State) : List Act :=
  let fill := fun (core asid : Nat) (pc : Word) => Act.device .icacheFill { core := core, asid := asid, addr := pc }
  (s.troupes.map fun t => fill (s.ring t.id.ring).core (s.asidOf t.id.ring) t.pc)
    ++ s.rings.filterMap fun r => r.stream.map fun st => fill r.core (s.asidOf r.id) st.pc

/-! ### Doing it -/

/-- The first action of the agenda. -/
def runAgenda (s : State) : Out :=
  match s.agenda with
  | [] => .next s
  | (i, e) :: rest => exec i { s with agenda := rest, ev := e, cur := .device }

/-- A context takes a turn of the array with an operation of it (R183). -/
def State.takeTurn (s : State) (ring : Nat) (st : Stream) : State :=
  if s.atArrayOp ring st then s.modCore (s.ring ring).core fun c => { c with mxlast := some ring } else s

/-- Do one thing. -/
def perform (a : Act) (s : State) : Out :=
  match a with
  | .scalar t rdy => runScalar t (s.countStarve t rdy)
  | .vector t rdy => runVector t (s.countStarve t rdy)
  | .scalarWait t => runScalar t s
  | .vectorWait t => runVector t s
  | .stream ring st => runStream ring st (s.takeTurn ring st)
  | .device i e => exec i { s with ev := e, cur := .device }
  | .agenda => runAgenda s
  | .idle => .next s

/-- Time passes on every die, and the next step has its own free choices. -/
def State.passTime (s : State) : State :=
  { s with dies := s.dies.map fun d => { d with tick := d.tick + 1 + Config.stepCycles s.choice },
           choice := s.choice + 1, cur := .device, ev := {} }

/-- The outcome of a step, once what waited for it is performed and time has passed. -/
def timed : Out → Out
  | .next s => .next s.catchUp.passTime
  | .fault f => .fault f
  | .refused r => .refused r

/-- The state in which a step is made: whether the vector side lags is a free choice. -/
def State.ready (s : State) : State := { s with lag := Config.vectorLag s.choice % 2 == 1 }

/-- A step without power: only a cold reset has an effect (R403). -/
def stepOff (s : State) : Out :=
  match s.agenda with
  | [] => .next s
  | (.coldReset, _) :: _ => runAgenda s
  | _ :: rest => .next { s with agenda := rest }

/-- One step of the package. -/
def stepPackage (s : State) : Out :=
  if s.fw.powered then
    match s.acts with
    | [] => .next s.passTime
    | [a] => timed (perform a s.ready)
    | a :: b :: rest =>
        let l := (a :: b :: rest) ++ s.fillActs
        timed (perform (nth l (Config.schedule s.choice % l.length) .idle) s.ready)
  else stepOff s

/-! ### Placing a program from outside (log entry 3) -/

/-- Page tables for one 256 KiB page at virtual address 0, readable, writable and executable, at grade 0:
the three nodes stand at physical 0x10000, 0x20000 and 0x30000, and the page at 0x40000 (R247-R249). -/
def hostTables (m : List Host.Cell) : List Host.Cell :=
  let m1 := cellWriteN m 0x10000 (leBytes (0x20000 + 1) 8)
  let m2 := cellWriteN m1 0x20000 (leBytes (0x30000 + 1) 8)
  cellWriteN m2 0x30000 (leBytes (0x40000 + 0x3B) 8)

/-- A package on which the host has placed code: context 1, one launch of one ring with one troupe, about
to execute the unit at virtual address 0.  A clause header is met at a clause boundary; any other unit
stands as the last of its clause. -/
def State.withCode (s : State) (code : List Byte) : State :=
  let head := match decode code with | .ok (.clauseHeader _) _ => true | _ => false
  let ctx : Ctx := { asid := 1, root := 0x10000 }
  let l : Launch := { id := 0, queue := 0, asid := 1, lr := {}, stage := .running, tick0 := (s.die 0).tick }
  let nb : Nbhd := { id := 0, launch := 0, n := 0, die := 0 }
  let r : Ring := { id := 0, nb := 0 }
  let s1 : State :=
    { s with mem := cellWriteN (hostTables s.mem) 0x40000 code,
             ctxs := s.ctxs.filter (fun c => c.asid != 1) ++ [ctx],
             launches := [l], nbhds := [nb], rings := [r], troupes := [], agenda := [], fresh := s.fresh + 1 }
  let t := s1.newTroupe 0 0 0
  s1.addTroupe { t with left := if head then 0 else 1 }

end Sys2Proof.Machine
end

