-- ==== Sys2Proof/Machine/Step.lean ====
section
/-! DEFINITION. One step of the package, and how the host places an instruction where the next step
fetches. -/

namespace Sys2Proof.Machine

/-- One step: of all that may happen next one thing happens, a free choice where there are several; with
nothing to happen time passes. -/
def step (s : State) : Host.Outcome State Fault Refusal := stepPackage s

/-- The package with the unit whose `nbits` bits are `w` loaded from outside as the program of one troupe,
which executes it next (log entry 3). -/
def State.withFetchWord (s : State) (nbits w : Nat) : State := s.withCode (tableBytes nbits w)

end Sys2Proof.Machine
end

