-- ==== Sys2Proof/Safety.lean ====
section
/-! DEFINITION. When the acting party stands before an instruction's own effect, and what every state of
the package has to keep. -/

namespace Sys2Proof.Machine

/-! ### Before an instruction's own effect -/

/-- The scalar side of troupe `t` stands before the effect of `i`: the instruction lies in a clause, a control
instruction ends it, the encoding is one the scalar side executes, no register it reads or writes waits for
an earlier result, none it reads has an uncorrectable error (R28, R46, R90, R389). -/
def ScalarMay (i : Instr) (t : Troupe) (s : State) : Prop :=
  s.cur = .scalar t.id ∧ s.troupe? t.id = some t ∧ 0 < t.left ∧ (endsClause i = true → t.left = 1)
    ∧ decodeFault false i = none ∧ t.scalarHolds (i.scalarReads ++ i.writes) = []
    ∧ t.readsBad i.scalarReads = false

/-- The vector side of troupe `t` stands before the effect of `i`, its first dispatched instruction, entry
`e`: no fault of decoding, no register it waits for, no register error, nothing before it that keeps it at
issue (R46, R90, R389, R276). -/
def VectorMay (i : Instr) (e : VEntry) (t : Troupe) (s : State) : Prop :=
  s.cur = .vside t.id ∧ s.troupe? t.id = some t ∧ t.vq.head? = some e ∧ e.instr = i
    ∧ decodeFault false i = none ∧ t.vectorHolds (i.vectorReads e.cap ++ i.writes) = []
    ∧ t.readsBad (i.vectorReads e.cap) = false ∧ t.heldBack i = false

/-- The scalar side of troupe `t` stands before the dispatch of `i` to its vector side: `i` lies in a clause
of a troupe's code, decodes, waits for no register it is to capture, and fewer than 16 instructions are
dispatched and not issued (R81, R90). -/
def DispatchMay (i : Instr) (t : Troupe) (s : State) : Prop :=
  s.cur = .scalar t.id ∧ s.troupe? t.id = some t ∧ 0 < t.left ∧ decodeFault false i = none
    ∧ t.scalarHolds i.scalarReads = [] ∧ t.readsBad i.scalarReads = false ∧ t.vq.length < 16

/-- The stream of a ring stands before the effect of `i`: the instruction is one a stream may hold, lies in a
clause, ends it where it must, its encoding has no fault, the stream has both banks where it needs
them, and no bank it reads nor the alias unit has an uncorrectable error (R45, R46, R179, R181, R389). -/
def StreamMay (i : Instr) (f : Fields) (ring : Nat) (st : Stream) (s : State) : Prop :=
  s.cur = .stream ring ∧ s.stream? ring = some st ∧ 0 < st.left
    ∧ (match i.row with | some r => r.inStream = true | none => False)
    ∧ decodeFault true i = none ∧ (streamEnds i = true → st.left = 1)
    ∧ (needsTwo i f = true → st.two = true)
    ∧ usesBad i f st (s.core (s.ring ring).core).au = false

/-- The scalar side goes on to the next unit with a new value of its troupe. -/
def State.scalarNext (s : State) (t u : Troupe) : State :=
  (s.setTroupe u).endInstr t.id (t.pc + BitVec.ofNat 64 s.len)

/-- Making register `d` general stays within the budget: `d` is no register, is general already, or one more
fits (R86). -/
def Troupe.room (t : Troupe) (g : Nat) (d : BitVec 8) : Prop :=
  64 ≤ d.toNat ∨ d.toNat ∈ t.generals ∨ t.generals.length < g

/-- The vector side goes on with a new value of its troupe. -/
def State.vectorNext (s : State) (t u : Troupe) : State := (s.setTroupe u).vectorEnd t.id

/-- `exec` answers the next state in which register `d` has, in its active lanes, the lanes `lane` with
grade `g`, and the sticky flags have gained `fl` (R47, R82, R85, R110). -/
def Computes (i : Instr) (e : VEntry) (t : Troupe) (s : State) (d : BitVec 8) (g : Nat)
    (lane : Nat → Lane) (fl : BitVec 4) : Prop :=
  ∃ sh : Shape, (∀ n < 64, sh.lane n = lane n) ∧
    exec i s = .next (s.vectorNext t
      ((t.writeV { d := d, mask := e.cap.k0, sh := sh, g := g }).raise fl))

/-- `exec` answers the next state in which an operation is outstanding that will give register `d`, in its
active lanes, the lanes `lane` with grade `g`, and the sticky flags `fl`; with no active lane the wait flag
counted at dispatch is lowered and nothing else happens (R88). -/
def Produces (i : Instr) (e : VEntry) (t : Troupe) (s : State) (d : BitVec 8) (g : Nat)
    (lane : Nat → Lane) (fl : BitVec 4) : Prop :=
  (e.cap.k0 = 0 → exec i s = .next (s.vectorNext t (t.lowerFlag e.flag))) ∧
  (e.cap.k0 ≠ 0 → ∃ (sh : Shape) (general : Bool),
    (∀ n < 64, e.cap.k0.getLsbD n = true → sh.lane n = lane n) ∧
    exec i s = .next (s.vectorNext t (t.startOp e
      { id := 0, instr := i, vdest := if d.toNat < 64 then [d.toNat] else [], general := general, grade := g,
        vres := [{ d := d, mask := e.cap.k0, sh := sh, g := g }], fl := fl })))

/-- The vector side of `t` has issued its first dispatched instruction, which raised no fault: the troupe stands
as `u`. -/
def Issued (t u : Troupe) (s1 : State) : Prop :=
  s1.troupe? t.id = some u ∧ u.vq = t.vq.tail ∧ u.vwait = none ∧ u.stopped = t.stopped ∧ u.reports = t.reports

/-- The scalar side of the troupe does not wait, and no lane fault of it is to be reported. -/
def Troupe.calm (t : Troupe) : Prop := t.wait = none ∧ t.reports = []

/-- Lane `n` of a memory instruction reaches its bytes: its access passes the checks of R227, and a link is up
where its place is in another package, or where it is a reduction into a window (R225, R227, R242, R380). -/
def Reaches (i : Instr) (f : Fields) (e : VEntry) (t : Troupe) (s : State) (n : Nat) (site : Site) : Prop :=
  s.access (s.ringParty t.id.ring) (lanePlace i f e t n).toNat (accessWant i f (dataGrade i f e t)) = .ok site
    ∧ s.cutOff site (isReduction i) = false ∧ site.locs.Nodup ∧ ∀ c a, Loc.spad c a ∈ site.locs → c < s.cores.length

/-- A place shares its pooled line with a byte of the site, and the line was written under another key: a write of the
site decrypts it and writes it anew (R381, R382). -/
def Rekeyed (s : State) (site : Site) (x : Loc) : Prop :=
  ∃ a b, x = .phys a ∧ Loc.phys b ∈ site.locs ∧ a / 128 = b / 128 ∧ s.otherKey site.key (.phys b) = true

/-- A place stays reachable while other bytes are written: it lies in a scratchpad or, in package memory, on a
page that the TLB of the ring's core holds (R225, R256). -/
def Firm (s : State) (ring va : Nat) (w : Site) : Prop :=
  w.scratch = true ∨ (w.win = none ∧ (∀ x ∈ w.locs, x.pooled = false) ∧
    (s.core (s.ring ring).core).tlb.any (fun x => x.covers (s.asidOf ring) va) = true)

/-- No lane of a memory instruction changes what another reaches: one lane accesses, or every place is firm. -/
def Steady (i : Instr) (f : Fields) (e : VEntry) (t : Troupe) (s : State) (site : Nat → Site) : Prop :=
  (∃ n, accessLanes i e.cap.k0 = [n]) ∨
  ∀ n ∈ accessLanes i e.cap.k0, Firm s t.id.ring (lanePlace i f e t n).toNat (site n)

/-- The vector side stands before a memory instruction that has lanes to access with and a place for each
resource it takes, and nothing it must be performed after (R86, R226, R231, R235, R269, R270, R347). -/
def MemoryMay (i : Instr) (f : Fields) (e : VEntry) (t : Troupe) (s : State) : Prop :=
  VectorMay i e t s ∧ t.calm ∧ accessLanes i e.cap.k0 ≠ [] ∧ (∀ o ∈ t.ops, o.id < t.nextOp)
    ∧ t.overBudget (s.ring t.id.ring).vgen (loadDests i f e.cap.k0) = false
    ∧ s.windowWaits t.uid f.ord.toNat f.scp.toNat (· == f.col.toNat) = false
    ∧ (i.logged = true → t.freeSlot ≠ none) ∧ counterFull i t (accessLanes i e.cap.k0).length = false
    ∧ t.behind s (memOp f e t) = false

/-- The places of the accessing lanes do not overlap. -/
def Apart (i : Instr) (e : VEntry) (site : Nat → Site) : Prop :=
  ∀ n ∈ accessLanes i e.cap.k0, ∀ m ∈ accessLanes i e.cap.k0, n ≠ m → ∀ x ∈ (site n).locs, x ∉ (site m).locs

/-- The troupe is neither about to stall nor about to report lane faults: nothing follows of itself after
its action (R92, R347). -/
def Troupe.quiet (t : Troupe) : Bool := !t.stalled && !t.mustReport

/-- The same state but for what the links of the fabric have counted, and the keys they have taken for it (R380). -/
def FlitsOnly (s s1 : State) : Prop := ∃ l, s1 = s.modFw fun w => { w with links := l }

/-! ### Exact values -/

/-- Of the finite values v and y (sign, significand, exponent), v is at most as far from x as y (R59). -/
def Nearer (x v y : Bool × Nat × Int) : Prop :=
  let b := min x.2.2 (min v.2.2 y.2.2)
  let at_ := fun (w : Bool × Nat × Int) => signedTo w.1 w.2.1 w.2.2 b
  (at_ x - at_ v).natAbs ≤ (at_ x - at_ y).natAbs

/-- Two finite values are the same number. -/
def SameValue (v y : Bool × Nat × Int) : Prop :=
  let b := min v.2.2 y.2.2
  signedTo v.1 v.2.1 v.2.2 b = signedTo y.1 y.2.1 y.2.2 b

/-! ### What every state keeps -/

/-- Physical memory and every scratchpad are in canonical form. -/
def Inv (s : State) : Prop := Memory.wf s.mem = true ∧ ∀ c ∈ s.cores, Memory.wf c.spad = true

/-- The records that contexts keep for a handler: those of KIND 0 and 1 name a troupe, the others are of KIND 3
(R344). -/
def RecordsPend (s : State) : Prop :=
  ∀ c ∈ s.ctxs, ∀ r ∈ c.recs, ((r.kind = 0 ∨ r.kind = 1) ∧ r.troupe ≠ none) ∨ r.kind = 3

end Sys2Proof.Machine
end

