-- ==== Sys2Proof/Certificates/Slice0/Obligations.lean ====
section
/-! DEFINITION. The statements for the provers, each with the rules of the spec it rests on. -/

open Sys2Proof Sys2Proof.Machine

/-- For sadd, ssub, smul, smulhi, sand, sor, sxor, sandn, smin and smax: where the scalar side stands before the
instruction, exec answers the next state in which D holds the exact result of a and b, clamped to the type
when SAT is set, reduced mod 2^w and extended to 64 bits, with the higher grade of the operands, and the pc
stands at the next unit. For sabs, sclz, spop and sbrev: where the scalar side stands before the
instruction, exec answers the next state in which D holds the exact result of a (its absolute value, clamped
when SAT is set; its leading zero bits; its one bits; its w bits reversed), reduced and extended, with the
grade of the operand.  The model reads or fills in the spec here as log entry 176 says. (R94, R101, R102) -/
def Obligations.ScalarArithmetic : Prop :=
  (∀ p ∈ ([(Instr.sadd, fun _ a b => a + b), (.ssub, fun _ a b => a - b), (.smul, fun _ a b => a * b),
        (.smulhi, fun w a b => a * b / 2 ^ w),
        (.sand, fun _ a b => (BitVec.ofInt 64 a &&& BitVec.ofInt 64 b).toNat),
        (.sor, fun _ a b => (BitVec.ofInt 64 a ||| BitVec.ofInt 64 b).toNat),
        (.sxor, fun _ a b => (BitVec.ofInt 64 a ^^^ BitVec.ofInt 64 b).toNat),
        (.sandn, fun _ a b => (BitVec.ofInt 64 a &&& ~~~BitVec.ofInt 64 b).toNat),
        (.smin, fun _ a b => min a b), (.smax, fun _ a b => max a b)] :
        List ((Fields → Instr) × (Nat → Int → Int → Int))),
    ∀ (f : Fields) (t : Troupe) (s : State), ScalarMay (p.1 f) t s →
      exec (p.1 f) s = .next (s.scalarNext t (t.writeS f.d
        { v := tyExtend 64 f.ty.toNat
            (tySat f.ty.toNat (f.sat == 1) (p.2 (tyWidth f.ty.toNat) (opA s t f).1 (opB s t f).1))
          g := max (opA s t f).2 (opB s t f).2 }))) ∧
  (∀ p ∈ ([(Instr.sabs, fun _ a => if a < 0 then -a else a),
        (.sclz, fun w a => (((List.range w).find? fun i => (BitVec.ofInt w a).getLsbD (w - 1 - i)).getD w : Nat)),
        (.spop, fun w a => (((List.range w).filter fun i => (BitVec.ofInt w a).getLsbD i).length : Nat)),
        (.sbrev, fun w a => ((BitVec.ofInt w a).reverse.toNat : Int))] :
        List ((Fields → Instr) × (Nat → Int → Int))),
    ∀ (f : Fields) (t : Troupe) (s : State), ScalarMay (p.1 f) t s →
      exec (p.1 f) s = .next (s.scalarNext t (t.writeS f.d
        { v := tyExtend 64 f.ty.toNat
            (tySat f.ty.toNat (f.sat == 1) (p.2 (tyWidth f.ty.toNat) (opA s t f).1))
          g := (opA s t f).2 })))

/-- For sshl, sshr, ssra and srol: exec answers the next state in which D holds the w bits of a shifted by n,
the whole of register B or the extended immediate: zeros enter in sshl and sshr, copies of bit w - 1 in
ssra, also where n is w or more; srol rotates by n mod w; the result is extended to 64 bits. For sins, sxtr,
ssel, scmp, smov, sli, sli.hi and sadr: exec answers the next state in which D holds what the rules give:
sins replaces bits pos + len - 1 to pos of D bit by bit, sxtr extracts them, ssel picks A or B on C, scmp
writes 1 or 0, smov and sli extend, sli.hi joins the immediate with the low half of D, sadr forms the
address.  The model reads or fills in the spec here as log entry 176 says. (R104, R94, R105, R106, R43) -/
def Obligations.ScalarShiftsAndMoves : Prop :=
  (∀ (f : Fields) (t : Troupe) (s : State),
    let w := tyWidth f.ty.toNat
    let a : BitVec w := (readS s t f.a).v.setWidth w
    let n := if f.sub.getLsbD 3 then immShift 64 f.ty.toNat f.imm else (readS s t f.b).v.toNat
    let g := if f.sub.getLsbD 3 then (readS s t f.a).g else max (readS s t f.a).g (readS s t f.b).g
    let result := fun (x : BitVec w) =>
      (.next (s.scalarNext t (t.writeS f.d { v := if tySigned f.ty.toNat then x.signExtend 64 else x.setWidth 64, g := g })) : Out)
    (ScalarMay (.sshl f) t s → exec (.sshl f) s = result (a <<< n)) ∧
    (ScalarMay (.sshr f) t s → exec (.sshr f) s = result (a >>> n)) ∧
    (ScalarMay (.ssra f) t s → exec (.ssra f) s = result (a.sshiftRight n)) ∧
    (ScalarMay (.srol f) t s → exec (.srol f) s = result (a.rotateLeft n))) ∧
  (∀ (f : Fields) (t : Troupe) (s : State),
    let a := readS s t f.a
    let b := readS s t f.b
    let c := readS s t f.c
    let d := readS s t f.d
    let pos := f.imm.toNat % 64
    let len := f.imm.toNat / 256
    let result := fun (v : Word) (g : Nat) => (.next (s.scalarNext t (t.writeS f.d { v := v, g := g })) : Out)
    (ScalarMay (.sins f) t s → ∃ v : Word, exec (.sins f) s = result v (max d.g a.g) ∧
      ∀ j < 64, v.getLsbD j = if pos ≤ j ∧ j < pos + len then a.v.getLsbD (j - pos) else d.v.getLsbD j) ∧
    (ScalarMay (.sxtr f) t s → ∃ v : Word, exec (.sxtr f) s = result v a.g ∧
      ∀ j < 64, v.getLsbD j =
        if j < len then a.v.getLsbD (pos + j) else tySigned f.ty.toNat && a.v.getLsbD (pos + len - 1)) ∧
    (ScalarMay (.ssel f) t s →
      exec (.ssel f) s = result (if c.v = 0 then b.v else a.v) (max a.g (max b.g c.g))) ∧
    (ScalarMay (.scmp f) t s →
      exec (.scmp f) s = result (if (match f.sub.toNat % 8 with
          | 0 => (opA s t f).1 == (opB s t f).1 | 1 => (opA s t f).1 != (opB s t f).1
          | 2 => decide ((opA s t f).1 < (opB s t f).1) | 3 => decide ((opA s t f).1 ≥ (opB s t f).1)
          | 4 => decide ((opA s t f).1 ≤ (opB s t f).1) | _ => decide ((opA s t f).1 > (opB s t f).1))
        then 1 else 0) (max (opA s t f).2 (opB s t f).2)) ∧
    (ScalarMay (.smov f) t s → exec (.smov f) s = result (tyExtend 64 f.ty.toNat (tyInt f.ty.toNat a.v.toNat)) a.g) ∧
    (ScalarMay (.sli f) t s → exec (.sli f) s = result (tyExtend 64 f.ty.toNat (immInt f.ty.toNat f.imm)) 0) ∧
    (ScalarMay (.sliHi f) t s → exec (.sliHi f) s = result ((f.imm.setWidth 64 <<< 32) ||| (d.v &&& 0xFFFFFFFF)) d.g) ∧
    (ScalarMay (.sadr f) t s →
      exec (.sadr f) s = result (if f.modx.getLsbD 3 then a.v + (b.v <<< (f.modx.toNat % 4)) + f.imm.signExtend 64
          else a.v + f.imm.signExtend 64) (if f.modx.getLsbD 3 then max a.g b.g else a.g)))

/-- Where its clause names a wait flag w_j below 63, sdiv (srem) is next: the flag counts one more and one
operation is outstanding that will write D with q, a / b truncated toward zero (a - b q), 0 (a) and the
divide-by-zero flag when b = 0; for the least value of an i type by -1 sdiv gives a, or the greatest value
with SAT, and srem gives 0.  The model reads or fills in the spec here as log entries 72, 176 say. (R103,
R88, R89) -/
def Obligations.DivisionStarts : Prop :=
  ∀ (f : Fields) (t t1 : Troupe) (s : State) (j : Nat),
    let a := opA s t f
    let b := opB s t f
    let ty := f.ty.toNat
    let started := fun (i : Instr) (x : Int) =>
      (.next (s.scalarNext t (t1.startOp (t.scalarEntry i (some j))
        { id := 0, instr := i, sdest := sNum f.d, grade := max a.2 b.2,
          sres := [{ d := f.d, v := { v := BitVec.ofInt 64 x, g := max a.2 b.2 } }],
          fl := if b.1 = 0 then 8 else 0 })) : Out)
    (ScalarMay (.sdiv f) t s → t.nameFlag (.sdiv f) = .named j t1 →
      exec (.sdiv f) s = started (.sdiv f)
        (if b.1 = 0 then 0
         else if tySigned ty ∧ a.1 = tyLeast ty ∧ b.1 = -1 then (if f.sat = 1 then tyGreatest ty else a.1)
         else a.1.tdiv b.1)) ∧
    (ScalarMay (.srem f) t s → t.nameFlag (.srem f) = .named j t1 →
      exec (.srem f) s = started (.srem f)
        (if b.1 = 0 then a.1
         else if tySigned ty ∧ a.1 = tyLeast ty ∧ b.1 = -1 then 0
         else a.1 - b.1 * a.1.tdiv b.1))

/-- For each mask instruction: where the scalar side stands before it, exec answers the next state in which D
holds the result of R107, with the highest grade among the operands read (0 for kset with SUB 0). (R107) -/
def Obligations.MaskResults : Prop :=
  ∀ (f : Fields) (t : Troupe) (s : State),
    let a := readS s t f.a
    let b := readS s t f.b
    let first := f.imm.toNat % 64
    let result := fun (v : Word) (g : Nat) => (.next (s.scalarNext t (t.writeS f.d { v := v, g := g })) : Out)
    let index := fun (v : Word) (best : Nat → Nat → Prop) (n : Nat) =>
      (v = 0 ∧ n = 64) ∨ (n < 64 ∧ v.getLsbD n = true ∧ ∀ j < 64, v.getLsbD j = true → best n j)
    (ScalarMay (.kand f) t s → exec (.kand f) s = result (a.v &&& b.v) (max a.g b.g)) ∧
    (ScalarMay (.kor f) t s → exec (.kor f) s = result (a.v ||| b.v) (max a.g b.g)) ∧
    (ScalarMay (.kxor f) t s → exec (.kxor f) s = result (a.v ^^^ b.v) (max a.g b.g)) ∧
    (ScalarMay (.kandn f) t s → exec (.kandn f) s = result (a.v &&& ~~~b.v) (max a.g b.g)) ∧
    (ScalarMay (.knot f) t s → exec (.knot f) s = result (~~~a.v) a.g) ∧
    (ScalarMay (.kmov f) t s → exec (.kmov f) s = result a.v a.g) ∧
    (ScalarMay (.kset f) t s → ∃ v : Word,
      exec (.kset f) s = result v (if f.sub = 0 then 0 else a.g) ∧
      ∀ j < 64, v.getLsbD j = decide (first ≤ j ∧ j < first +
        (if f.sub = 0 then f.imm.toNat / 256 % 128 else min a.v.toNat (64 - first)))) ∧
    (ScalarMay (.kget f) t s → exec (.kget f) s =
      if f.sub.getLsbD 3 then result (if a.v.getLsbD f.imm.toNat then 1 else 0) a.g
      else result (if a.v.getLsbD (b.v.toNat % 64) then 1 else 0) (max a.g b.g)) ∧
    (ScalarMay (.kpop f) t s → exec (.kpop f) s =
      result (BitVec.ofNat 64 (((List.range 64).filter fun j => a.v.getLsbD j).length)) a.g) ∧
    (ScalarMay (.kffs f) t s → ∃ n, exec (.kffs f) s = result (BitVec.ofNat 64 n) a.g ∧ index a.v (· ≤ ·) n) ∧
    (ScalarMay (.klast f) t s → ∃ n, exec (.klast f) s = result (BitVec.ofNat 64 n) a.g ∧ index a.v (· ≥ ·) n) ∧
    (ScalarMay (.kbcast f) t s → exec (.kbcast f) s = result (if a.v = 0 then 0 else 0xFFFFFFFFFFFFFFFF) a.g)

/-- bra, brc, bany and bnone: exec answers the next state in which the pc is the address of the unit plus the
sign-extended immediate when the branch is taken, and the byte after the unit otherwise; brc tests A as its
type, bany and bnone the mask A, ANDed with k0 under .act. call goes to its target, computed before s127
takes the byte after the unit with grade 0; ret goes to s127; jmp goes to A plus the displacement. (R96,
R97) -/
def Obligations.ControlFlow : Prop :=
  (∀ (f : Fields) (t : Troupe) (s : State),
    let go := fun (taken : Prop) [Decidable taken] =>
      (.next (s.endInstr t.id (if taken then t.pc + f.imm.signExtend 64 else t.pc + BitVec.ofNat 64 s.len)) : Out)
    let a := (opA s t f).1
    let m := if f.sub = 1 then (readS s t f.a).v &&& t.k0 else (readS s t f.a).v
    (ScalarMay (.bra f) t s → exec (.bra f) s = go True) ∧
    (ScalarMay (.brc f) t s → exec (.brc f) s =
      match f.sub.toNat with
      | 0 => go (a ≠ 0) | 1 => go (a = 0) | 2 => go (a < 0) | _ => go (a ≥ 0)) ∧
    (ScalarMay (.bany f) t s → exec (.bany f) s = go (m ≠ 0)) ∧
    (ScalarMay (.bnone f) t s → exec (.bnone f) s = go (m = 0))) ∧
  (∀ (f : Fields) (t : Troupe) (s : State),
    (ScalarMay (.call f) t s →
      exec (.call f) s = .next ((s.setTroupe
          { t with s := t.s.modify 127 fun _ => { v := t.pc + BitVec.ofNat 64 s.len, g := 0 },
                   regErr := t.regErr.filter (· != 127) }).endInstr t.id
        ((if f.sub = 0 then t.pc else (readS s t f.a).v) + f.imm.signExtend 64))) ∧
    (ScalarMay (.ret f) t s → exec (.ret f) s = .next (s.endInstr t.id (t.reg 127).v)) ∧
    (ScalarMay (.jmp f) t s →
      exec (.jmp f) s = .next (s.endInstr t.id ((readS s t f.a).v + f.imm.signExtend 64))))

/-- Where the scalar side stands before rdsr (for VGEN and the shape words: nothing dispatched, no vector result
outstanding), D takes CLAUSE, the count of general registers with g, the shape codes two bits a register,
the set wait flags, the occupancy of the queues, the launch grade, MILES or UTAG; only UTAG carries a grade.
wrsr writes A with its grade to UTAG. tick writes the cycle counter of the die of its ring with grade 0;
yield sets the age stamp of its troupe to that counter and changes nothing else; nop only goes on to the
next unit, in a troupe and in a matrix stream. A troupe that meets sleep waits until the counter of its die
has advanced by 16 x max(1, n) from issue, n being IMM or A[19:0]; once the counter stands there or beyond,
the instruction ends and the pc stands at the next unit.  The model reads or fills in the spec here as log
entries 4, 63 say. (R99, R81, R83, R100, R329, R95, R45, R20) -/
def Obligations.StatusAndClocks : Prop :=
  (∀ (f : Fields) (t : Troupe) (s : State),
    let n := f.imm.toNat
    let result := fun (v : GW) => (.next (s.scalarNext t (t.writeS f.d v)) : Out)
    let vgen : Word := BitVec.ofNat 64
      (((List.range 64).filter fun j => (t.vreg j).sh.code == 2).length * 256 + (s.ring t.id.ring).vgen)
    let quiet := t.vq = [] ∧ t.pending.filter (256 ≤ ·) = []
    (ScalarMay (.rdsr f) t s →
      (n = 0x000 → exec (.rdsr f) s = result { v := t.clause }) ∧
      (n = 0x001 → quiet → exec (.rdsr f) s = result { v := vgen }) ∧
      (n = 0x002 → quiet → ∃ w : Word, exec (.rdsr f) s = result { v := w } ∧
        ∀ j < 32, w.toNat / 4 ^ j % 4 = (t.vreg j).sh.code) ∧
      (n = 0x003 → quiet → ∃ w : Word, exec (.rdsr f) s = result { v := w } ∧
        ∀ j < 32, w.toNat / 4 ^ j % 4 = (t.vreg (32 + j)).sh.code) ∧
      (n = 0x004 → ∃ w : Word, exec (.rdsr f) s = result { v := w } ∧
        ∀ j < 64, w.getLsbD j = (decide (j < 12) && t.w.getD j 0 != 0)) ∧
      (n = 0x005 → exec (.rdsr f) s = result { v := BitVec.ofNat 64 (t.up.length * 2 ^ 8 + t.down.length) }) ∧
      (n = 0x006 → exec (.rdsr f) s = result { v := BitVec.ofNat 64 (s.launchOf t.id.ring).lr.grade }) ∧
      (n = 0x007 → exec (.rdsr f) s = result { v := BitVec.ofNat 64 t.miles }) ∧
      (n = 0x010 → exec (.rdsr f) s = result t.utag)) ∧
    (ScalarMay (.wrsr f) t s → exec (.wrsr f) s = .next (s.scalarNext t { t with utag := readS s t f.a }))) ∧
  (((∀ (f : Fields) (t : Troupe) (s : State),
    let now := (s.die ((s.ring t.id.ring).core / 64)).tick
    (ScalarMay (.tick f) t s →
      exec (.tick f) s = .next (s.scalarNext t (t.writeS f.d { v := BitVec.ofNat 64 now, g := 0 }))) ∧
    (ScalarMay (.yield f) t s → exec (.yield f) s = .next (s.scalarNext t { t with age := now })) ∧
    (ScalarMay (.nop f) t s → exec (.nop f) s = .next (s.endInstr t.id (t.pc + BitVec.ofNat 64 s.len)))) ∧
  (∀ (f : Fields) (ring : Nat) (st : Stream) (s : State), StreamMay (.nop f) f ring st s →
    exec (.nop f) s = .next (s.streamNext ring (st.pc + BitVec.ofNat 64 s.len)))) ∧
  (∀ (f : Fields) (t : Troupe) (s : State), ScalarMay (.sleep f) t s →
    let now := (s.die ((s.ring t.id.ring).core / 64)).tick
    let n := if f.sub = 0 then f.imm.toNat else (readS s t f.a).v.toNat % 2 ^ 20
    ((∀ u, t.wait ≠ some (.sleep u)) → exec (.sleep f) s = .next (s.blockScalar t.id (.sleep (now + 16 * max 1 n)))) ∧
    (∀ u, t.wait = some (.sleep u) →
      exec (.sleep f) s =
        if u ≤ now then .next (s.endInstr t.id (t.pc + BitVec.ofNat 64 s.len))
        else .next (s.blockScalar t.id (.sleep u)))))

/-- With every dispatched instruction issued, trap and sysc go on to the next unit and stop the troupe with a
record whose IADDR is the unit, with cause TRAP or SYSC and the 16-bit code or service number; the record of
sysc holds s4-s11 as pairs. Taking a fault in a troupe with no lane faults to report gives the context one
more pending record: KIND 0, the next FSEQ, the cause, reason, AUX, CODE and GRADE of the fault, the unit
and k0, the ring index, troupe index and core of the troupe, SEQ and queue of its launch; the troupe is
stopped on that FSEQ and keeps everything else.  The model reads or fills in the spec here as log entries
64, 68 say. (R98, R346, R350, R344) -/
def Obligations.TrapsAndFaultRecords : Prop :=
  (∀ (f : Fields) (t : Troupe) (s : State), t.vq = [] →
    let past := s.endInstr t.id (t.pc + BitVec.ofNat 64 s.len)
    let sreg := fun n => (t.s.getD n {}).v
    (ScalarMay (.trap f) t s →
      exec (.trap f) s = .next (past.takeFault t.id false t.pc t.k0
        { cause := .trap, code := f.imm.toNat % 2 ^ 16, grade := t.gradeOf (Instr.trap f).scalarReads })) ∧
    (ScalarMay (.sysc f) t s →
      exec (.sysc f) s = .next (past.takeFault t.id false t.pc t.k0
        { cause := .sysc, code := f.imm.toNat % 2 ^ 16, grade := t.gradeOf (Instr.sysc f).scalarReads,
          ents := [(sreg 4, sreg 5), (sreg 6, sreg 7), (sreg 8, sreg 9), (sreg 10, sreg 11)] }))) ∧
  (∀ (s : State) (t : Troupe) (c : Ctx) (vside : Bool) (iaddr k0 : Word) (fi : FInfo),
    s.troupe? t.id = some t → t.reports = [] → s.ctx? (s.asidOf t.id.ring) = some c →
    let s1 := s.takeFault t.id vside iaddr k0 fi
    (∃ r : FRec, (s1.ctx c.asid).recs = c.recs ++ [r] ∧ (s1.ctx c.asid).fseq = c.fseq + 1 ∧
      r.fseq = c.fseq + 1 ∧ r.kind = 0 ∧ r.cause = fi.cause ∧ r.reason = fi.reason ∧ r.aux = fi.aux ∧
      r.code = fi.code ∧ r.grade = fi.grade ∧ r.ents = fi.ents ∧ r.iaddr = iaddr ∧ r.k0 = k0 ∧
      r.tidx = t.id.idx ∧ r.ridx = (s.ring t.id.ring).ridx ∧ r.core = (s.ring t.id.ring).core % 256 ∧
      r.seq = (s.launchOf t.id.ring).lr.seq ∧ r.queue = (s.launchOf t.id.ring).queue) ∧
    s1.troupe? t.id = some { t with stopped := t.stopped ++ [c.fseq + 1] } ∧
    (∀ id, id ≠ t.id → s1.troupe? id = s.troupe? id))

/-- sqput adds A with its grade behind the down queue while it holds fewer than 16 entries; sqget moves the
oldest entry of the up queue with its grade to D. vqget pops one entry of the down queue, whatever k0 holds,
and writes its low 32 bits to the active lanes with the grade of the entry; vqput pushes the lowest active
lane of A zero-extended, or 0 with no active lane, with the grade of A. sqput to a full down queue, or sqget
from an empty up queue, with no dispatched instruction left on the vector side stops the troupe at once with
a record of cause QSTALL whose IADDR is the instruction; the queues and the registers stay as they are.  The
model reads or fills in the spec here as log entry 61 says. (R91, R108, R92) -/
def Obligations.QueuesBetweenTheSides : Prop :=
  ((∀ (f : Fields) (t : Troupe) (s : State),
    (ScalarMay (.sqput f) t s → t.down.length < 16 →
      exec (.sqput f) s = .next (s.scalarNext t { t with down := t.down ++ [readS s t f.a] })) ∧
    (∀ x rest, ScalarMay (.sqget f) t s → t.up = x :: rest →
      exec (.sqget f) s = .next (s.scalarNext t (({ t with up := rest } : Troupe).writeS f.d x)))) ∧
  (∀ (f : Fields) (e : VEntry) (t : Troupe) (s : State), t.room (s.ring t.id.ring).vgen f.d →
    (∀ x rest, VectorMay (.vqget f) e t s → t.down = x :: rest → ∃ sh : Shape,
      (∀ n < 64, sh.lane n = x.v.setWidth 32) ∧
      exec (.vqget f) s = .next (s.vectorNext t
        ((({ t with down := rest } : Troupe).writeV { d := f.d, mask := e.cap.k0, sh := sh, g := x.g }).raise 0))) ∧
    (VectorMay (.vqput f) e t s → t.up.length < 16 →
      let a := readV t f.a e.cap.a
      (e.cap.k0 = 0 → exec (.vqput f) s = .next (s.vectorNext t { t with up := t.up ++ [{ v := 0, g := a.g }] })) ∧
      (∀ n, n < 64 → e.cap.k0.getLsbD n = true → (∀ m < n, e.cap.k0.getLsbD m = false) →
        exec (.vqput f) s = .next (s.vectorNext t
          { t with up := t.up ++ [{ v := (a.sh.lane n).setWidth 64, g := a.g }] }))))) ∧
  (∀ (f : Fields) (t : Troupe) (s : State) (c : Ctx),
    t.vq = [] → t.stopped = [] → t.reports = [] → s.ctx? (s.asidOf t.id.ring) = some c →
    let stalls := fun (push : Bool) (o : Out) => ∃ (s1 : State) (r : FRec),
      o = .next s1 ∧ (s1.ctx c.asid).recs = c.recs ++ [r] ∧ r.cause = .qstall ∧ r.iaddr = t.pc ∧
      s1.troupe? t.id = some { t with wait := some (.queue push), stopped := [c.fseq + 1] }
    (ScalarMay (.sqput f) t s → 16 ≤ t.down.length → stalls true (exec (.sqput f) s)) ∧
    (ScalarMay (.sqget f) t s → t.up = [] → stalls false (exec (.sqget f) s)))

/-- At a clause boundary with every flag of WAIT clear and k0 readable where Z is set: a header with a forbidden
SETA, SETB or reserved bit is ILLOP; with Z set and k0 zero the clause is skipped and retires at once, the
pc behind its units; else the clause begins: CLAUSE is the address of the header, LEN + 1 instructions
follow, its lines are held, and SETA and SETB name the flags of its producers.  The model reads or fills in
the spec here as log entry 60 says. (R28, R37, R38) -/
def Obligations.ClauseHeaderEffect : Prop :=
  ∀ (h : Header) (t : Troupe) (s : State),
    let bad := (0xC ≤ h.seta.toNat ∧ h.seta.toNat ≤ 0xE) ∨ (0xC ≤ h.setb.toNat ∧ h.setb.toNat ≤ 0xE) ∨
      (h.seta = 0xF ∧ h.setb ≠ 0xF) ∨ (h.seta ≠ 0xF ∧ h.seta = h.setb) ∨ h.rsv ≠ 0
    let scan := s.scanUnits (s.asidOf t.id.ring) (s.ring t.id.ring).core (h.len.toNat + 1) (t.pc + 4)
    s.cur = .scalar t.id → s.troupe? t.id = some t → t.left = 0 →
    (bad → exec (.clauseHeader h) s = .next (s.scalarFault t { cause := .illop })) ∧
    (¬bad → h.wait &&& t.wflags = 0 →
      (h.z = 1 → t.scalarHolds [128] = [] ∧ t.readsBad [128] = false) →
      (h.z = 1 → t.k0 = 0 → exec (.clauseHeader h) s = .next ((s.setTroupe
        { t with clause := t.pc, left := 1, mile := h.mile == 1 }).endInstr t.id scan.2)) ∧
      (¬(h.z = 1 ∧ t.k0 = 0) → scan.1 = none →
        exec (.clauseHeader h) s = .next ((s.setTroupe
          { t with clause := t.pc, pc := t.pc + 4, left := h.len.toNat + 1, named := 0, wait := none,
                   code := s.codeLines (s.asidOf t.id.ring) (s.ring t.id.ring).core t.pc.toNat scan.2.toNat,
                   seta := if h.seta = 15 then none else some h.seta.toNat,
                   setb := if h.setb = 15 then none else some h.setb.toNat,
                   mile := h.mile == 1 }).settle t.id)))

/-- With every dispatched instruction issued, done completes: the troupe is ending, its clause has retired, no
record is made, memory and every other register of the troupe are as before; every memory slice is to cancel
its parked tuple requests as tcan would for all lanes, and at every barrier of its ring whose phase counts
the live troupes and at which it has not arrived it counts as arrived, which completes the phase when the
count is reached. Going on to an address leaves the pc there and one instruction less in the clause; with
the last one the clause retires: it counts, its flag names are gone, and with MILE set it is a milestone of
the troupe and of its ring.  Nothing else of the troupe changes.  The model reads or fills in the spec here
as log entries 11, 73 say. (R21, R98, R173, R38, R99, R361, R366) -/
def Obligations.DoneEndsTroupe : Prop :=
  (∀ (f : Fields) (t : Troupe) (s : State), ScalarMay (.done f) t s → t.vq = [] →
    (t.reports = [] → ∃ (s1 : State) (u : Troupe), exec (.done f) s = .next s1 ∧ s1.troupe? t.id = some u ∧
      u.ending = true ∧ u.left = 0 ∧ u.wait = none ∧ u.pc = t.pc + BitVec.ofNat 64 s.len ∧ u.cno = t.cno + 1 ∧
      u.stopped = t.stopped ∧ u.s = t.s ∧ u.k = t.k ∧ u.v = t.v ∧ s1.mem = s.mem ∧ s1.ctxs = s.ctxs) ∧
    exec (.done f) s = .next ((s.beginEnd t).endInstr t.id (t.pc + BitVec.ofNat 64 s.len)) ∧
    (s.beginEnd t).troupe? t.id = some { t with ending := true } ∧
    (∀ n, ((s.beginEnd t).slice n).ports = if n < s.slices.length then
        (s.slice n).ports.modify (s.dieOf t.id.ring) (· ++
          [{ kind := .cancel, t := t.id, op := t.nextOp, asid := s.asidOf t.id.ring, lanes := allLanes }])
      else (s.slice n).ports) ∧
    (let left := fun (b : NB) =>
        if b.fixed = true ∧ b.zero = true ∧ t.id.idx ∉ b.mask then
          if b.count ≤ b.arrived + 1 then ({ phase := b.phase + 1 } : NB)
          else { b with arrived := b.arrived + 1, mask := b.mask ++ [t.id.idx] }
        else b
     ∀ r, s.ring? t.id.ring = some r →
       (s.beginEnd t).ring? t.id.ring = some { r with nbs := r.nbs.map left, bts := r.bts.map left })) ∧
  (∀ (t : Troupe) (s : State) (pc : Word), s.troupe? t.id = some t → 0 < t.left →
    let t1 : Troupe :=
      if 1 < t.left then { t with pc := pc, left := t.left - 1, wait := none }
      else { t with pc := pc, left := 0, wait := none, code := [], cno := t.cno + 1, seta := none, setb := none, named := 0,
                    mile := false, miles := if t.mile then (t.miles + 1) % 2 ^ 32 else t.miles }
    t1.quiet = true →
    (s.endInstr t.id pc).troupe? t.id = some t1 ∧
    (∀ id, id ≠ t.id → (s.endInstr t.id pc).troupe? id = s.troupe? id) ∧
    (∀ r, s.ring? t.id.ring = some r →
      (s.endInstr t.id pc).ring? t.id.ring =
        some (if t.left = 1 ∧ t.mile then { r with miles := min (2 ^ 32 - 1) (r.miles + 1) } else r)) ∧
    (s.endInstr t.id pc).mem = s.mem ∧ (s.endInstr t.id pc).cores = s.cores)

/-- For every instruction of the vector side: where it may be dispatched and its wait flag, if it is a producer,
can be named, and other instructions wait before it, the vector side lags or the troupe is stopped, the next
state has it last among the dispatched instructions with its scalar operands and k0 captured, its flag
counted, and the pc at the next unit. A long-latency producer names the flag of SETA when it is the first of
its clause and of SETB when it is the second; that flag counts one more; a third producer, or one with no
flag given, finds none; a count of 63 holds it; other instructions name no flag.  The model reads or fills
in the spec here as log entries 5, 62 say. (R81, R88, R366, R38, R89) -/
def Obligations.VectorDispatchAndFlags : Prop :=
  (∀ (i : Instr) (r : Row) (t t1 : Troupe) (s : State) (flag : Option Nat),
    i.row = some r → r.side = .vector → DispatchMay i t s →
    ((t.nameFlag i = .none ∧ flag = none ∧ t1 = t) ∨ ∃ j, t.nameFlag i = .named j t1 ∧ flag = some j) →
    (s.lag = true ∨ t.vq ≠ [] ∨ t.stopped ≠ []) →
    exec i s = .next (s.scalarNext t { t1 with vq := t.vq ++
      [{ instr := i, cap := capture s t i, iaddr := t.pc, flag := flag, cno := t.cno }] })) ∧
  (∀ (t : Troupe) (i : Instr),
    (i.longLatency = false → t.nameFlag i = .none) ∧
    (i.longLatency = true →
      (2 ≤ t.named → t.nameFlag i = .noFlag) ∧
      (t.named = 0 → t.seta = none → t.nameFlag i = .noFlag) ∧
      (t.named = 1 → t.setb = none → t.nameFlag i = .noFlag) ∧
      (∀ j, (t.named = 0 ∧ t.seta = some j) ∨ (t.named = 1 ∧ t.setb = some j) →
        (63 ≤ t.w.getD j 0 → t.nameFlag i = .full) ∧
        (t.w.getD j 0 < 63 →
          t.nameFlag i = .named j { t with w := t.w.modify j (· + 1), named := t.named + 1 }))))

/-- For a signed floating-point format of any field widths and bias and a finite non-zero x, rounding to nearest
gives the value of the format nearest to x with the sign of x, of two equally near the one with an even
code, and inexact exactly when it differs; no other flag marks a tiny result. From half a step beyond the
largest finite value on (at the half itself when the code of the largest is odd) it gives infinity under the
IEEE policy without SAT, else the largest finite value, with overflow and inexact. Toward zero gives the
greatest magnitude not above that of x, with overflow above the largest finite value. An infinity stays one
under the IEEE policy without SAT, else becomes the largest finite value with invalid; each resident format
has its NaN or its answer to one; slot 7 takes the nearest code, ties to even. (R56, R57, R58, R59, R60,
R61, R66) -/
def Obligations.FormatRounding : Prop :=
  (∀ (ew fb : Nat) (bias : Int) (sp : Special) (neg sat : Bool) (m : Nat) (ex : Int), 1 ≤ ew → ew + fb ≤ 31 → m ≠ 0 →
    let fm := Fmt.float true ew fb bias sp
    let top := maxCode ew fb sp
    let last := floatMag fb bias top
    let next := floatMag fb bias (top + 1)
    let b := min ex (min last.2 next.2)
    let twice := 2 * scaleTo m ex b
    let sum := scaleTo last.1 last.2 b + scaleTo next.1 next.2 b
    let past := sum < twice ∨ (sum = twice ∧ top % 2 = 1)
    let x : Bool × Nat × Int := (neg, m, ex)
    let finite := fun (y : Nat) (v : Bool × Nat × Int) => y < 2 ^ (1 + ew + fb) ∧ fm.decode y = .fin v.1 v.2.1 v.2.2
    let near := fm.encode (.fin neg m ex) .nearest sat
    let zero := fm.encode (.fin neg m ex) .zero sat
    (¬past → ∃ mv ev, finite near.1 (neg, mv, ev) ∧
      (∀ y v, finite y v → Nearer x (neg, mv, ev) v ∧
        (Nearer x v (neg, mv, ev) → SameValue v (neg, mv, ev) ∨ near.1 % 2 = 0)) ∧
      near.2 = if magLe m ex mv ev && magLe mv ev m ex then 0 else flInexact) ∧
    (past → near.2 = flOverflow ||| flInexact ∧
      fm.decode near.1 = if sp = .ieee ∧ sat = false then .inf neg else .fin neg last.1 last.2) ∧
    (∃ mv ev, finite zero.1 (neg, mv, ev) ∧ magLe mv ev m ex = true ∧
      (∀ y v, finite y v → magLe v.2.1 v.2.2 m ex = true → magLe v.2.1 v.2.2 mv ev = true) ∧
      zero.2 = if magLe m ex last.1 last.2 = false then flOverflow ||| flInexact
        else if magLe m ex mv ev then 0 else flInexact) ∧
    (∀ mode, let r := fm.encode (.inf neg) mode sat
      if sp = .ieee ∧ sat = false then fm.decode r.1 = .inf neg ∧ r.2 = 0
      else fm.decode r.1 = .fin neg last.1 last.2 ∧ r.2 = flInvalid)) ∧
  (∀ c ∈ ([(0, 0x7FC00000, 0), (1, 0x7FC0, 0), (2, 0x7E00, 0), (3, 0x7F, 0), (4, 0x7E, 0), (5, 0, flInvalid),
      (6, 0, flInvalid), (7, 128, flInvalid)] : List (Nat × Nat × BitVec 4)),
    ∀ mode sat, (residentFmt c.1).encode .nan mode sat = (c.2.1, c.2.2)) ∧
  (∀ (neg sat : Bool) (m : Nat) (ex : Int), m ≠ 0 →
    let r := ((residentFmt 7).encode (.fin neg m ex) .nearest sat).1
    ∃ nv mv ev, (residentFmt 7).decode r = .fin nv mv ev ∧ r < 256 ∧
      ∀ y < 256, ∀ ny my ey, (residentFmt 7).decode y = .fin ny my ey →
        Nearer (neg, m, ex) (nv, mv, ev) (ny, my, ey) ∧
        (Nearer (neg, m, ex) (ny, my, ey) (nv, mv, ev) → y = r ∨ r % 2 = 0))

/-- For the lane-wise vector integer operations: where the vector side stands before the instruction and the
budget has room, exec answers the next state in which every active lane of D holds the exact result of the
lanes, clamped with SAT, reduced mod 2^w and extended to 32 bits, with the higher grade; the shapes of the
operands change no lane. For vshl, vshr and vsra: every active lane of D holds the w bits of the lane of A
shifted by the whole lane of B, or by the extended immediate: zeros enter, in vsra copies of bit w - 1; an
affine A shifted by one amount stays exact in every lane. With every lane active the result of an integer
instruction is uniform, affine or general as its class and the shapes of its operands give (an affine result
of stride 0 is uniform); a result that would be general, or that a partial mask makes general, where the
budget has no room raises REGBUDGET instead. Permutes and scans hold general results, an integer vred a
uniform one unless some lane is inactive.  The model reads or fills in the spec here as log entry 176 says.
(R111, R112, R113, R84, R85, R104, R83, R86, R115) -/
def Obligations.VectorIntegerAndShift : Prop :=
  (∀ (f : Fields) (e : VEntry) (t : Troupe) (s : State), t.room (s.ring t.id.ring).vgen f.d →
    let ty := f.ty.toNat
    let w := tyWidth ty
    let o := readOps f e t
    let a := fun n => tyInt ty (o.a.sh.lane n).toNat
    let b := fun n => if f.sub.getLsbD 3 then immInt ty f.imm else tyInt ty (o.b.sh.lane n).toNat
    let c := fun n => tyInt ty (o.c.sh.lane n).toNat
    let g := if f.sub.getLsbD 3 then o.a.g else max o.a.g o.b.g
    let gives := fun (i : Instr) (g : Nat) (x : Nat → Int) =>
      VectorMay i e t s → Computes i e t s f.d g (fun n => tyExtend 32 ty (tySat ty (f.sat == 1) (x n))) 0
    gives (.vadd f) g (fun n => a n + b n) ∧
    gives (.vsub f) g (fun n => a n - b n) ∧
    gives (.vmul f) g (fun n => a n * b n) ∧
    gives (.vmulhi f) g (fun n => a n * b n / 2 ^ w) ∧
    gives (.vmad f) (max o.a.g (max o.b.g o.c.g)) (fun n => a n * b n + c n) ∧
    gives (.vand f) g (fun n => intAnd (a n) (b n)) ∧
    gives (.vor f) g (fun n => intOr (a n) (b n)) ∧
    gives (.vxor f) g (fun n => intXor (a n) (b n)) ∧
    gives (.vandn f) g (fun n => intAndn (a n) (b n)) ∧
    gives (.vmin f) g (fun n => min (a n) (b n)) ∧
    gives (.vmax f) g (fun n => max (a n) (b n)) ∧
    gives (.vabs f) o.a.g (fun n => if a n < 0 then -(a n) else a n) ∧
    gives (.vneg f) o.a.g (fun n => -(a n)) ∧
    gives (.vclz f) o.a.g (fun n => clzTy ty (a n)) ∧
    gives (.vpop f) o.a.g (fun n => popTy ty (a n))) ∧
  (∀ (f : Fields) (e : VEntry) (t : Troupe) (s : State), t.room (s.ring t.id.ring).vgen f.d → f.sat = 0 →
    let ty := f.ty.toNat
    let w := tyWidth ty
    let o := readOps f e t
    let a := fun n => ((o.a.sh.lane n).setWidth w : BitVec w)
    let k := fun n => if f.sub.getLsbD 3 then immShift 32 ty f.imm else (o.b.sh.lane n).toNat
    let ext := fun (x : BitVec w) => if tySigned ty then (x.signExtend 32 : Lane) else x.setWidth 32
    let g := if f.sub.getLsbD 3 then o.a.g else max o.a.g o.b.g
    (VectorMay (.vshl f) e t s → Computes (.vshl f) e t s f.d g (fun n => ext (a n <<< k n)) 0) ∧
    (VectorMay (.vshr f) e t s → Computes (.vshr f) e t s f.d g (fun n => ext (a n >>> k n)) 0) ∧
    (VectorMay (.vsra f) e t s → Computes (.vsra f) e t s f.d g (fun n => ext ((a n).sshiftRight (k n))) 0)) ∧
  (∀ (f : Fields) (e : VEntry) (t : Troupe) (s : State), f.d.toNat < 64 →
    let o := readOps f e t
    let a := o.a.sh.code
    let b := if f.sub.getLsbD 3 then 0 else o.b.sh.code
    let wide := (f.ty = 2 ∨ f.ty = 6) ∧ f.sat = 0
    let other := if a = 0 ∧ b = 0 then 0 else 2
    let alone := if a = 0 then 0 else 2
    let room := t.room (s.ring t.id.ring).vgen f.d
    let some_ := e.cap.k0 ≠ 0 ∧ e.cap.k0 ≠ allLanes
    let over_ := fun (i : Instr) => exec i s = .next (s.vectorFaultOf i t e { cause := .regbudget })
    let gives := fun (i : Instr) (code : Nat) => VectorMay i e t s →
      (e.cap.k0 = allLanes → code < 2 ∨ room → ∃ sh g, sh.norm.code = (if code = 1 ∧ sh.lane 0 = sh.lane 1 then 0 else code) ∧
        exec i s = .next (s.vectorNext t ((t.writeV { d := f.d, mask := allLanes, sh := sh, g := g }).raise 0))) ∧
      (some_ ∨ (e.cap.k0 = allLanes ∧ code = 2) → ¬room → over_ i)
    let holds := fun (i : Instr) (code : Nat) => VectorMay i e t s →
      (e.cap.k0 = allLanes → code < 2 ∨ room → ∃ x : Op, exec i s = .next (s.vectorNext t (t.startOp e x)) ∧
        x.general = decide (code = 2) ∧ x.vdest = [f.d.toNat] ∧ ∀ w ∈ x.vres, w.sh.code = code) ∧
      (some_ → room → ∃ x : Op, exec i s = .next (s.vectorNext t (t.startOp e x)) ∧ x.general = true) ∧
      (some_ ∨ (e.cap.k0 = allLanes ∧ code = 2) → ¬room → over_ i)
    (∀ c ∈ [Instr.vadd, .vsub], gives (c f) (if wide ∧ a < 2 ∧ b < 2 then max a b else other)) ∧
    gives (.vneg f) (if wide ∧ a < 2 then a else alone) ∧
    gives (.vmul f) (if wide ∧ a + b < 2 then a + b else other) ∧
    gives (.vshl f) (if wide ∧ a < 2 ∧ b = 0 then a else other) ∧
    (∀ c ∈ [Instr.vmulhi, .vand, .vor, .vxor, .vandn, .vshr, .vsra, .vmin, .vmax], gives (c f) other) ∧
    (∀ c ∈ [Instr.vabs, .vclz, .vpop], gives (c f) alone) ∧
    gives (.vmad f) (if a = 0 ∧ o.b.sh.code = 0 ∧ o.c.sh.code = 0 then 0 else 2) ∧
    gives (.vmov f) a ∧ gives (.vbcast f) 0 ∧ gives (.vsplat f) 1 ∧ gives (.vsel f) 2 ∧
    holds (.vperm f) 2 ∧
    (f.modx.getLsbD 0 = false → holds (.vscan f) 2 ∧ holds (.vred f) 0))

/-- vsel takes A where the bit of C is set and B elsewhere; vmov copies A; vbcast gives every active lane the
named lane of A; vsplat gives lane i the value of lane 0 of A plus i times lane 0 of B or the immediate;
vlane writes the named lane of A, extended, to a scalar register unless no lane is active. vcmp and fcmp
write, in each active bit of D, whether the comparison of the lanes holds, and keep the other bits; a mask
written under fewer than all lanes keeps the higher of the old and new grades; with no active lane D keeps
everything.  fcmp: -0 equals +0; with a NaN only .ne and .uo hold, and .lt, .ge, .le and .gt raise invalid.
The model reads or fills in the spec here as log entry 176 says. (R115, R110, R114, R122, R85) -/
def Obligations.VectorMovesAndMasks : Prop :=
  (∀ (f : Fields) (e : VEntry) (t : Troupe) (s : State), t.room (s.ring t.id.ring).vgen f.d →
    let o := readOps f e t
    let j := if f.sub.getLsbD 3 then f.imm.toNat else (o.b.sh.lane 0).toNat % 64
    let g := if f.sub.getLsbD 3 then o.a.g else max o.a.g o.b.g
    (VectorMay (.vsel f) e t s → Computes (.vsel f) e t s f.d (max (max o.a.g o.b.g) e.cap.c.g)
      (fun n => if e.cap.c.v.getLsbD n then o.a.sh.lane n else o.b.sh.lane n) 0) ∧
    (VectorMay (.vmov f) e t s → Computes (.vmov f) e t s f.d o.a.g (fun n => o.a.sh.lane n) 0) ∧
    (VectorMay (.vbcast f) e t s → Computes (.vbcast f) e t s f.d g (fun _ => o.a.sh.lane j) 0) ∧
    (VectorMay (.vsplat f) e t s → Computes (.vsplat f) e t s f.d g
      (fun n => o.a.sh.lane 0 + BitVec.ofNat 32 n * (if f.sub.getLsbD 3 then f.imm else o.b.sh.lane 0)) 0) ∧
    (VectorMay (.vlane f) e t s →
      exec (.vlane f) s = .next (s.vectorNext t (if e.cap.k0 = 0 then t else t.writeS f.d
        { v := tyExtend 64 f.ty.toNat (tyInt f.ty.toNat (o.a.sh.lane j).toNat), g := o.a.g })))) ∧
  (∀ (f : Fields) (e : VEntry) (t : Troupe) (s : State),
    let o := readOps f e t
    let g := if f.sub.getLsbD 3 then o.a.g else max o.a.g o.b.g
    let old := if f.d.toNat < 0xE0 then t.reg f.d.toNat else {}
    let k0 := e.cap.k0
    let writes := fun (i : Instr) (holds : Nat → Bool) (fl : BitVec 4) => ∃ m : Word,
      (∀ n < 64, m.getLsbD n = if k0.getLsbD n then holds n else old.v.getLsbD n) ∧
      exec i s = .next (s.vectorNext t ((if k0 = 0 then t else t.writeS f.d
        { v := m, g := if k0 = allLanes then g else max old.g g }).raise fl))
    let a := fun n => tyInt f.ty.toNat (o.a.sh.lane n).toNat
    let b := fun n => if f.sub.getLsbD 3 then immInt f.ty.toNat f.imm else tyInt f.ty.toNat (o.b.sh.lane n).toNat
    let fm := s.slotFmt t.id.ring f.ty.toNat
    let x := fun n => fm.decode (o.a.sh.lane n).toNat
    let y := fun n => if f.sub.getLsbD 3 then fm.decode (fm.encode (fmtF32.decode f.imm.toNat) .nearest false).1
      else fm.decode (o.b.sh.lane n).toNat
    (VectorMay (.vcmp f) e t s → writes (.vcmp f) (fun n => match f.sub.toNat % 8 with
      | 0 => a n == b n | 1 => a n != b n | 2 => decide (a n < b n) | 3 => decide (b n ≤ a n)
      | 4 => decide (a n ≤ b n) | _ => decide (b n < a n)) 0) ∧
    (VectorMay (.fcmp f) e t s → s.judgeSlots t.id.ring [f.ty.toNat] = none →
      ∃ fl : BitVec 4,
        (fl = 1 ↔ ∃ n < 64, k0.getLsbD n = true ∧ ((x n).isNan = true ∨ (y n).isNan = true) ∧
          2 ≤ f.sub.toNat % 8 ∧ f.sub.toNat % 8 ≤ 5) ∧ (fl = 0 ∨ fl = 1) ∧
        writes (.fcmp f) (fun n =>
          if (x n).isNan || (y n).isNan then f.sub.toNat % 8 == 1 || f.sub.toNat % 8 == 6
          else match f.sub.toNat % 8 with
            | 0 => (x n).le (y n) && (y n).le (x n) | 1 => !((x n).le (y n) && (y n).le (x n))
            | 2 => (x n).lt (y n) | 3 => (y n).le (x n) | 4 => (x n).le (y n) | 5 => (y n).lt (x n)
            | 6 => false | _ => true) fl))

/-- For the float operations of one pass: with the slot they name ready and room in the budget, every active
lane of D holds the bits that the rounding of the rules gives for the exact result on the decoded lanes, and
the sticky flags gain those of the active lanes. With both slots ready and room in the budget: fcvt between
slots encodes the decoded lane once in the mode of MODX; fsrnd rounds it up with the probability that the
low r bits of the lane of B decide.  The model reads or fills in the spec here as log entries 74, 75, 77 to
80 say. (R118, R119, R120, R121, R124, R73, R110, R125, R126) -/
def Obligations.VectorFloatAndConversions : Prop :=
  (∀ (f : Fields) (e : VEntry) (t : Troupe) (s : State), t.room (s.ring t.id.ring).vgen f.d →
    s.judgeSlots t.id.ring [f.ty.toNat] = none →
    let o := readOps f e t
    let fm := s.slotFmt t.id.ring f.ty.toNat
    let a := fun n => fm.decode (o.a.sh.lane n).toNat
    let b := fun n => if f.sub.getLsbD 3 then fm.decode (fm.encode (fmtF32.decode f.imm.toNat) .nearest false).1
      else fm.decode (o.b.sh.lane n).toNat
    let c := fun n => fm.decode (o.c.sh.lane n).toNat
    let sat := f.sat == 1
    let mode := rmodeOf f.modx.toNat
    let g := if f.sub.getLsbD 3 then o.a.g else max o.a.g o.b.g
    let gives := fun (i : Instr) (g : Nat) (x : Nat → Nat × BitVec 4) =>
      VectorMay i e t s → Computes i e t s f.d g (fun n => BitVec.ofNat 32 (x n).1)
        (flAll ((lanesOf e.cap.k0).map fun n => (x n).2))
    gives (.fadd f) g (fun n => finish fm ((a n).add (b n)) mode sat) ∧
    gives (.fsub f) g (fun n => finish fm ((a n).add (b n).negate) mode sat) ∧
    gives (.fmul f) g (fun n => finish fm ((a n).mul (b n)) mode sat) ∧
    gives (.fma f) (max o.a.g (max o.b.g o.c.g)) (fun n => finish fm (FV.fma (a n) (b n) (c n)) mode sat) ∧
    gives (.fmin f) g (fun n => ((fm.encode ((a n).min (b n)) .nearest false).1, 0)) ∧
    gives (.fmax f) g (fun n => ((fm.encode ((a n).max (b n)) .nearest false).1, 0)) ∧
    gives (.fabs f) o.a.g (fun n => finish fm ((a n).abs, 0) mode sat) ∧
    gives (.fneg f) o.a.g (fun n => finish fm ((a n).negate, 0) mode sat) ∧
    gives (.fscale f) g (fun n => finish1 fm
      ((a n).scale (if f.sub.getLsbD 3 then f.imm.toInt else (o.b.sh.lane n).toInt), 0) mode sat) ∧
    gives (.frnd f) o.a.g (fun n => finish1 fm ((a n).roundTo (f.modx.toNat % 4), 0) .nearest sat) ∧
    gives (.fclass f) o.a.g (fun n => (fm.classMask (o.a.sh.lane n).toNat, 0)) ∧
    gives (.fcvtFromInt f) o.a.g (fun n => finish1 fm
      (FV.ofInt (tyInt f.sel.toNat (o.a.sh.lane n).toNat) 0, 0) mode sat) ∧
    gives (.fcvtToInt f) o.a.g (fun n =>
      let r := toIntTy f.sel.toNat (f.modx.toNat % 4) (a n)
      ((tyExtend 32 f.sel.toNat r.1).toNat, r.2)) ∧
    gives (.fdot f) (max o.a.g (max o.b.g o.c.g)) (fun n => finish1 fmtF32
      (dotTerms fm (o.a.sh.lane n) (o.b.sh.lane n) (o.c.sh.lane n)) mode sat) ∧
    gives (.fzpt f) (max o.a.g (max o.b.g o.c.g)) (fun n =>
      let w := if f.sub = 0 then 8 else 4
      finish1 fm ((FV.ofInt (((o.a.sh.lane n).toNat / 2 ^ (w * f.imm.toNat) % 2 ^ w : Nat) -
        ((o.b.sh.lane n).toNat % 2 ^ w : Nat)) 0).mul (fmtF32.decode (o.c.sh.lane n).toNat)) mode sat)) ∧
  (∀ (f : Fields) (e : VEntry) (t : Troupe) (s : State), t.room (s.ring t.id.ring).vgen f.d →
    s.judgeSlots t.id.ring [f.ty.toNat, f.sel.toNat] = none →
    let o := readOps f e t
    let fm := s.slotFmt t.id.ring f.ty.toNat
    let src := s.slotFmt t.id.ring f.sel.toNat
    let a := fun n => src.decode (o.a.sh.lane n).toNat
    let r := f.imm.toNat
    let gives := fun (i : Instr) (g : Nat) (x : Nat → Nat × BitVec 4) =>
      VectorMay i e t s → Computes i e t s f.d g (fun n => BitVec.ofNat 32 (x n).1)
        (flAll ((lanesOf e.cap.k0).map fun n => (x n).2))
    gives (.fcvtSlot f) o.a.g (fun n => finish1 fm (a n, 0) (rmodeOf f.modx.toNat) (f.sat == 1)) ∧
    gives (.fsrnd f) (if r = 0 then o.a.g else max o.a.g o.b.g) (fun n => finish1 fm (a n, 0)
      (.stoch ((o.b.sh.lane n).toNat % 2 ^ r) r (src.gridExp (a n))) (f.sat == 1)))

/-- For frcp, frsq, fsqrt, fexp2, flog2, fsin, fcos, ftanh and vperm: at issue an operation is outstanding that
holds the result of every active lane and its flags; with no active lane only the wait flag is lowered. On
an integer type vred puts into every active lane the left fold of the step (.add clamped at each step with
SAT, .min, .max, .and, .or, .xor) over the active lanes in increasing order, and vscan puts the fold over
the active lanes up to the lane itself, or below it with .excl, where the first sees the identity; on a slot
both hold the results of R117 as their operation gives them.  The model reads or fills in the spec here as
log entry 12 says. (R123, R118, R116, R88, R89, R117) -/
def Obligations.ProducersAndReductions : Prop :=
  (∀ (f : Fields) (e : VEntry) (t : Troupe) (s : State), t.room (s.ring t.id.ring).vgen f.d →
    let o := readOps f e t
    let fm := s.slotFmt t.id.ring f.ty.toNat
    let gives := fun (i : Instr) (op : FV → FV × BitVec 4) =>
      let x := fun n => finish fm (op (fm.decode (o.a.sh.lane n).toNat)) (rmodeOf f.modx.toNat) (f.sat == 1)
      VectorMay i e t s → s.judgeSlots t.id.ring [f.ty.toNat] = none →
        Produces i e t s f.d o.a.g (fun n => BitVec.ofNat 32 (x n).1)
          (flAll ((lanesOf e.cap.k0).map fun n => (x n).2))
    let j := if f.sub.getLsbD 3 then f.imm.toNat else (o.b.sh.lane 0).toNat % 64
    gives (.frcp f) FV.rcp ∧ gives (.frsq f) FV.rsqrt ∧ gives (.fsqrt f) FV.sqrt ∧
    gives (.fexp2 f) FV.exp2 ∧ gives (.flog2 f) FV.log2 ∧ gives (.fsin f) FV.sinPi ∧
    gives (.fcos f) FV.cosPi ∧ gives (.ftanh f) FV.tanh ∧
    (VectorMay (.vperm f) e t s → Produces (.vperm f) e t s f.d
      (if f.sub.getLsbD 3 then o.a.g else max o.a.g o.b.g)
      (fun n => o.a.sh.lane (if f.sub = 0 then (o.b.sh.lane n).toNat % 64
        else if f.sub.toNat % 8 = 1 then (n + j) % 64 else n ^^^ j)) 0)) ∧
  (∀ (f : Fields) (e : VEntry) (t : Troupe) (s : State), t.room (s.ring t.id.ring).vgen f.d →
    let o := readOps f e t
    let ty := f.ty.toNat
    let x := fun n => tyInt ty (o.a.sh.lane n).toNat
    let step := fun (p q : Int) =>
      let y := match f.sub.toNat with
        | 0 => tySat ty (f.sat == 1) (p + q) | 1 => min p q | 2 => max p q
        | 3 => intAnd p q | 4 => intOr p q | _ => intXor p q
      tyInt ty (y % 2 ^ tyWidth ty).toNat
    let unit := match f.sub.toNat with
      | 1 => tyGreatest ty | 2 => tyLeast ty | 3 => tyInt ty (2 ^ tyWidth ty - 1) | _ => 0
    let fold := fun (l : List Nat) => match l with | [] => unit | n :: rest => (rest.map x).foldl step (x n)
    (f.modx.getLsbD 0 = false →
      (VectorMay (.vred f) e t s → Produces (.vred f) e t s f.d o.a.g
        (fun _ => tyExtend 32 ty (fold (lanesOf e.cap.k0))) 0) ∧
      (VectorMay (.vscan f) e t s → Produces (.vscan f) e t s f.d o.a.g
        (fun n => tyExtend 32 ty (fold ((lanesOf e.cap.k0).filter fun m =>
          if f.modx.getLsbD 1 then decide (m < n) else decide (m ≤ n)))) 0)) ∧
    (f.modx.getLsbD 0 = true → s.judgeSlots t.id.ring [ty] = none →
      ∀ scan, VectorMay (if scan then .vscan f else .vred f) e t s →
        let r := redLanes f (s.slotFmt t.id.ring ty) o.a.sh e.cap.k0 scan
        Produces (if scan then .vscan f else .vred f) e t s f.d o.a.g
          (fun n => match r.1.find? fun y => y.1 == n with | some y => y.2 | none => 0) r.2))

/-- For every memory instruction: with an accessing lane, room in the budget, a free entry of the operand log
where it is logged, its arrival counter below its limit and nothing it must be performed after, exec answers
the next state in which its lanes have been performed in increasing order; with no active lane nothing is
accessed and the wait flag counted for it is lowered. Where an earlier operation of the troupe still owes
accesses that must be performed first (an acquire read, a read before a write, what a release of its colour
carries, an overlapping byte, a fence), the instruction issues but none of its lanes is performed: memory is
unchanged and its lanes stand behind.  The model reads or fills in the spec here as log entries 10, 13, 99
say. (R226, R230, R231, R235, R236, R241, R347, R88, R269, R270) -/
def Obligations.MemoryIssueAndOrder : Prop :=
  (∀ c ∈ [Instr.lds, .sts, .ldsb, .ld, .ldAc, .st, .vld, .vldAc, .vst, .vldw, .vstw, .pref, .cfl,
      .aadd, .amin, .amax, .aand, .aor, .axor, .axch, .acas, .ainb, .ainw, .adecp, .aflim, .aaddf,
      .redadd, .redmin, .redmax, .redand, .redor, .redxor, .redaddf],
    ∀ (f : Fields) (e : VEntry) (t : Troupe) (s : State), VectorMay (c f) e t s →
      t.overBudget (s.ring t.id.ring).vgen (loadDests (c f) f e.cap.k0) = false →
      (accessLanes (c f) e.cap.k0 = [] → exec (c f) s = .next (s.vectorNext t (t.lowerFlag e.flag))) ∧
      (accessLanes (c f) e.cap.k0 ≠ [] →
        s.windowWaits t.uid f.ord.toNat f.scp.toNat (· == f.col.toNat) = false →
        ((c f).logged = true → t.freeSlot ≠ none) →
        counterFull (c f) t (accessLanes (c f) e.cap.k0).length = false →
        t.behind s (memOp f e t) = false →
        exec (c f) s = .next ((performOp t.id t.nextOp (s.setTroupe (t.startMem f e))).vectorEnd t.id))) ∧
  (∀ c ∈ [Instr.ld, .st, .vld, .vst, .vldw, .vstw, .lds, .sts, .ldsb, .aadd, .acas, .redadd],
    ∀ (f : Fields) (e : VEntry) (t : Troupe) (s : State), VectorMay (c f) e t s →
      t.overBudget (s.ring t.id.ring).vgen (loadDests (c f) f e.cap.k0) = false → accessLanes (c f) e.cap.k0 ≠ [] →
      s.windowWaits t.uid f.ord.toNat f.scp.toNat (· == f.col.toNat) = false →
      ((c f).logged = true → t.freeSlot ≠ none) →
      counterFull (c f) t (accessLanes (c f) e.cap.k0).length = false →
      t.behind s (memOp f e t) = true → (∀ o ∈ t.ops, o.id < t.nextOp) →
      ∃ u : Troupe, exec (c f) s = .next (s.vectorNext t u) ∧ u.id = t.id ∧
        ∃ o ∈ u.ops, o.id = t.nextOp ∧ o.instr = c f ∧ o.lanes ≠ [] ∧ ∀ l ∈ o.lanes, l.st = .behind)

/-- ld, st and ldsb access A plus the scaled scalar index plus the immediate; vld, vst, every atomic and
reduction, pref, cfl and the vector-index forms of lds and sts A plus the scaled lane of B, sign-extended,
plus the immediate; vldw and vstw A + IMM + (i >> b) x B + (i AND (2^b - 1)) x w/8; lds.row and lds.col the
rows and columns of a tile, 4 bytes a lane. (R43, R229, R154) -/
def Obligations.LaneAddresses : Prop :=
  ∀ (f : Fields) (e : VEntry) (t : Troupe) (n : Nat), n < 64 →
    let a := e.cap.a.v
    let imm := f.imm.signExtend 64
    let ix := (readV t f.b e.cap.b).sh.lane n
    let sh := f.modx.toNat % 4
    (∀ c ∈ [Instr.ld, .ldAc, .st, .ldsb], lanePlace (c f) f e t n =
      if f.modx.getLsbD 3 then a + (e.cap.b.v <<< sh) + imm else a + imm) ∧
    (∀ c ∈ [Instr.vld, .vldAc, .vst, .aadd, .amin, .amax, .aand, .aor, .axor, .axch, .acas, .ainb, .ainw, .adecp,
        .aflim, .aaddf, .redadd, .redmin, .redmax, .redand, .redor, .redxor, .redaddf, .pref, .cfl],
      lanePlace (c f) f e t n =
        if f.modx.getLsbD 3 then a + (ix.signExtend 64 <<< sh) + imm else a + imm) ∧
    (f.modx.toNat < 7 → ∀ c ∈ [Instr.vldw, .vstw], lanePlace (c f) f e t n =
      a + imm + BitVec.ofNat 64 (n >>> f.modx.toNat) * e.cap.b.v
        + BitVec.ofNat 64 ((n &&& (2 ^ f.modx.toNat - 1)) * (tyWidth f.ty.toNat / 8))) ∧
    (∀ c ∈ [Instr.lds, .sts],
      (f.sub = 0 → lanePlace (c f) f e t n =
        if f.modx.getLsbD 3 then a + (ix.signExtend 64 <<< sh) + imm else a + imm) ∧
      (f.sub = 2 → lanePlace (c f) f e t n = a + imm + BitVec.ofNat 64 (4 * n)) ∧
      (f.sub = 3 → lanePlace (c f) f e t n = a + imm + BitVec.ofNat 64 (64 * (n % 16) + 4 * (n / 16))))

/-- A lane of st, vst, vstw or sts whose checks succeed, over a link that is up where its place is in another
package, leaves its bytes, little-endian, at its place, and every byte of memory and scratchpad outside the
place is as before, but for the rest of a pooled line written under another key, which becomes what the key
of the store decrypts. A lane of a load whose checks succeed, over a link that is up where it needs one,
stands with the little-endian number of the bytes that it finds at its place as its reply, the result grade
is raised to that of the page or line, and no byte of memory or scratchpad changes. A lane whose check ends
in a final cause writes no byte of memory or scratchpad; except for a dropped prefetch or flush, its
operation is to be reported at the next boundary with that cause and reason in the lane.  The model reads or
fills in the spec here as log entries 67, 87 say. (R230, R154, R4, R225, R381, R382, R82, R228, R227, R347,
R234) -/
def Obligations.AccessingLanes : Prop :=
  (∀ (id : TroupeId) (o : Op) (f : Fields) (s : State) (l : LaneRec) (site : Site),
    o.instr ∈ [Instr.st f, .vst f, .vstw f, .sts f] →
    s.access (s.ringParty id.ring) l.addr.toNat (accessWant o.instr f o.dgrade) = .ok site → s.cutOff site = false →
    site.locs.Nodup → (∀ c a, Loc.spad c a ∈ site.locs → c < s.cores.length) →
    let s1 := performLane id o f s l
    s1.readSite site = leBytes l.data.toNat (accessBytes o.instr f) ∧
    (∀ x, x ∉ site.locs → ¬Rekeyed s site x → s1.readLoc x = s.readLoc x) ∧
    (∀ a k, Loc.phys a ∉ site.locs → Rekeyed s site (.phys a) → site.key = some k →
      s1.readLoc (.phys a) = (s.openedLine k (a / 128)).getD (a % 128) 0)) ∧
  ((∀ (t : Troupe) (o : Op) (f : Fields) (s : State) (l : LaneRec) (site : Site),
    o.instr ∈ [Instr.ld f, .ldAc f, .vld f, .vldAc f, .vldw f, .lds f, .ldsb f] →
    s.troupe? t.id = some t →
    s.access (s.ringParty t.id.ring) l.addr.toNat (accessWant o.instr f o.dgrade) = .ok site → s.cutOff site = false →
    let s1 := performLane t.id o f s l
    s1.mem = s.mem ∧ (∀ x, s1.readLoc x = s.readLoc x) ∧
    s1.troupe? t.id = some ((t.setLane o.id l.lane
      (.reply [BitVec.ofNat 64 (leNat (s.loadSite site))])).modOp o.id
        fun o => { o with rgrade := max o.rgrade site.g })) ∧
  (∀ (t : Troupe) (o : Op) (f : Fields) (s : State) (l : LaneRec) (c : Cause) (r : Nat),
    s.troupe? t.id = some t → isMaint o.instr = false →
    s.access (s.ringParty t.id.ring) l.addr.toNat (accessWant o.instr f o.dgrade) = .final c r →
    let s1 := performLane t.id o f s l
    s1.mem = s.mem ∧ s1.cores = s.cores ∧
    s1.troupe? t.id = some { (t.setLane o.id l.lane (.faulted c r none)) with
      reports := if o.id ∈ t.reports then t.reports else t.reports ++ [o.id] }))

/-- For old and operand values below 2^32 and TY i32 or n32, every integer atomic and reduction gives the new
value of R238 and returns the old one; aflim adds to the low word of its pair unless the exact sum exceeds
the limit, and then fails and leaves the pair. A lane of an atomic whose checks succeed (over a link that is
up where it needs one) leaves the new value of R238 at its place, little-endian, where it is not the old
one; its reply holds the returned value, the failure and the flags; with the old value no byte changes, else
every byte outside the place is as before, but for the rest of a pooled line written under another key.
(R238, R241, R236, R237) -/
def Obligations.Atomics : Prop :=
  (∀ (f : Fields) (old c d : Nat), f.ty = 2 ∨ f.ty = 6 → old < 2 ^ 32 → c < 2 ^ 32 → d < 2 ^ 32 →
    let v := fun x => tyInt f.ty.toNat x
    let gives := fun (i : Instr) (new : Nat) => atomicOp i f old c d = (new, old, false, 0)
    gives (.aadd f) ((old + c) % 2 ^ 32) ∧ gives (.redadd f) ((old + c) % 2 ^ 32) ∧
    (∃ x, gives (.amin f) x ∧ gives (.redmin f) x ∧ v x = min (v old) (v c)) ∧
    (∃ x, gives (.amax f) x ∧ gives (.redmax f) x ∧ v x = max (v old) (v c)) ∧
    gives (.aand f) (old &&& c) ∧ gives (.redand f) (old &&& c) ∧
    gives (.aor f) (old ||| c) ∧ gives (.redor f) (old ||| c) ∧
    gives (.axor f) (old ^^^ c) ∧ gives (.redxor f) (old ^^^ c) ∧
    gives (.axch f) c ∧ gives (.acas f) (if old = d then c else old) ∧
    (v old < v c → gives (.ainb f) ((old + 1) % 2 ^ 32)) ∧ (v c ≤ v old → gives (.ainb f) old) ∧
    (v c ≤ v old → gives (.ainw f) 0) ∧ (v old < v c → gives (.ainw f) ((old + 1) % 2 ^ 32)) ∧
    (0 < v old → gives (.adecp f) ((old + 2 ^ 32 - 1) % 2 ^ 32)) ∧ (v old ≤ 0 → gives (.adecp f) old) ∧
    (∀ lim < 2 ^ 32, atomicOp (.aflim f) f (old + lim * 2 ^ 32) c d =
      if v lim < v old + v c then (old + lim * 2 ^ 32, old, true, 0)
      else ((old + c) % 2 ^ 32 + lim * 2 ^ 32, old, false, 0))) ∧
  (∀ (t : Troupe) (o : Op) (f : Fields) (s : State) (l : LaneRec) (site : Site),
    isAtomic o.instr = true → s.troupe? t.id = some t →
    s.access (s.ringParty t.id.ring) l.addr.toNat (accessWant o.instr f o.dgrade) = .ok site → s.cutOff site = false →
    site.locs.Nodup → (∀ c a, Loc.spad c a ∉ site.locs) →
    let n := accessBytes o.instr f
    let old := leNat (s.loadSite site)
    let c := l.data.toNat % 2 ^ (if isFloatAtomic o.instr then 8 * n else 32)
    let r := atomicOp o.instr f old c l.dold.toNat
    let s1 := performLane t.id o f s l
    (r.1 ≠ old → s1.readSite site = leBytes r.1 n) ∧ (r.1 = old → ∀ x, s1.readLoc x = s.readLoc x) ∧
    (∀ x, x ∉ site.locs → ¬Rekeyed s site x → s1.readLoc x = s.readLoc x) ∧
    s1.troupe? t.id = some ((t.setLane o.id l.lane
      (.reply [BitVec.ofNat 64 r.2.1, if r.2.2.1 then 1 else 0, r.2.2.2.setWidth 64])).modOp o.id
        fun o => { o with rgrade := max o.rgrade site.g }))

/-- An access passes only below 2^57 and aligned; in the windows only inside an allocation of the ring and
neither as an atomic, a flush nor a tuple access; in a page only where the leaf allows the read or write, a
write carries no higher grade than the page, a protected context writes only pages of its domain, and an
atomic stays within what host and split-word pages allow.  The model reads or fills in the spec here as log
entries 30, 89 say. (R225, R227, R228, R240, R373, R375, R148, R149) -/
def Obligations.AccessChecks : Prop :=
  ∀ (s : State) (p : Party) (va : Nat) (w : Want) (site : Site), s.access p va w = .ok site →
    va < 2 ^ 57 ∧ va % w.align = 0 ∧ site.locs.length = w.n ∧
    (inWindows va = true → site.scratch = true ∧ w.atomic = false ∧ w.maint = false ∧ w.ex = false ∧
      ∃ c o r, s.scratchAt p.ring va w.n = some (c, o, r) ∧
        site.locs = (List.range w.n).map fun i => Loc.spad c (o + i)) ∧
    (inWindows va = false → w.mustScratch = false ∧ site.scratch = false ∧
      (w.rd = true → site.leaf.rd = true) ∧ (w.wr = true → site.leaf.wr = true) ∧
      (w.ex = true → site.leaf.ex = true) ∧
      (w.wr = true → w.gradeChk = true → w.g ≤ site.leaf.grade) ∧ site.g = site.leaf.grade ∧
      (w.wr = true → (s.ctx p.asid).prot = true → site.leaf.dom = true) ∧
      (w.atomic = true → site.leaf.kind = 2 → w.splitOk = true) ∧
      (w.atomic = true → site.leaf.kind = 0 → tierOf site.leaf.frame = .host → w.hostOk = true) ∧
      (site.leaf.kind = 1 ↔ w.tuple = true))

/-- LONG_LATENCY_COMPLETE writes the results and flags an operation holds and ends it, or delivers the replies
of a plain load; SPLIT_LOAD_REPLY writes one lane, raises the grade of the register and lowers the arrival
counter by 1; ATOMIC_REPLY adds the flags of its lane, and with the last reply the destination is written.
The model reads or fills in the spec here as log entry 40 says. (R88, R110, R231, R232, R236, R238) -/
def Obligations.RepliesArrive : Prop :=
  ∀ (s : State) (t : Troupe) (o : Op), s.troupe? t.id = some t → t.op? o.id = some o →
    s.ev.ring = t.id.ring → s.ev.idx = t.id.idx → s.ev.op = o.id →
    (isLoad o.instr = false → o.lanes = [] → (o.vres ≠ [] ∨ o.sres ≠ []) →
      exec .longLatencyComplete s = .next ((s.setTroupe ((t.writeResults o).endOp o)).settle t.id)) ∧
    (isLoad o.instr = true → o.held = true → (∃ l ∈ o.lanes, l.st.isReply = true) →
      exec .longLatencyComplete s = .next ((deliverOp t.id o.id (s.setTroupe (t.modOp o.id fun o =>
        { o with lanes := o.lanes.map fun l =>
            match l.st with | .reply v => { l with st := .got v } | _ => l }))).settle t.id)) ∧
    (∀ (f : Fields) (l : LaneRec) (vals : List Word), o.instr = .vldAc f → o.held = false → f.d.toNat < 64 →
      o.lanes.find? (fun l => l.lane == s.ev.lane) = some l → l.st = .reply vals →
      let old := t.vreg f.d.toNat
      let u : Troupe := { t with v := t.v.modify f.d.toNat fun _ =>
        { sh := .general ((List.range 64).map fun n => if n = s.ev.lane then
              tyExtend 32 f.ty.toNat (tyInt f.ty.toNat (vals.getD 0 0).toNat) else old.sh.lane n),
          g := max old.g o.rgrade } }
      exec .splitLoadReply s = .next
        (((s.setTroupe ((u.lowerCounter o.ac).setLane o.id s.ev.lane .done)).tidyOp t.id o.id).settle t.id)) ∧
    (∀ (l : LaneRec) (vals : List Word), isAtomic o.instr = true →
      o.lanes.find? (fun l => l.lane == s.ev.lane) = some l → l.st = .reply vals →
      let u := (t.setLane o.id s.ev.lane (.got vals)).raise ((vals.getD 2 0).setWidth 4)
      exec .atomicReply s = .next (((if (match u.op? o.id with
          | some x => x.lanes.any fun l => l.st.isReply | none => false)
        then s.setTroupe u else deliverOp t.id o.id (s.setTroupe u))).settle t.id))

/-- acwait goes on once the count is n or less; acget writes the count with grade 0; acclr makes the count 0 and
leaves no split-phase load counted on it outstanding, the other counters and every register as they were.
With no reduction of the troupe into a window that its release part waits for, fence issues: with no earlier
access that it orders still to be performed nothing changes, else it stands among the operations of the
troupe until they are. tgwany goes on once a named tag is ready or all are idle, tgwall once every named tag
is ready or idle, and both give TAGMAP AND A; tgffr gives the lowest ready named tag or 64; tgclr clears the
named ready and error bits; tgget gives TAGMAP, TAGERR or the mask of tags with outstanding copies; all with
grade 0.  The model reads or fills in the spec here as log entries 7, 13 say. (R233, R235, R242, R164, R165) -/
def Obligations.CountersAndFences : Prop :=
  ((∀ (f : Fields) (e : VEntry) (t : Troupe) (s : State),
    let j := f.sel.toNat
    (VectorMay (.acwait f) e t s → t.ac.getD j 0 ≤ f.imm.toNat → exec (.acwait f) s = .next (s.vectorEnd t.id)) ∧
    (VectorMay (.acget f) e t s → exec (.acget f) s =
      .next (s.vectorNext t (t.writeS f.d { v := BitVec.ofNat 64 (t.ac.getD j 0), g := 0 }))) ∧
    (VectorMay (.acclr f) e t s → ∃ (s1 : State) (u : Troupe),
      exec (.acclr f) s = .next (s1.vectorEnd t.id) ∧ s1.troupe? t.id = some u ∧ s1.mem = s.mem ∧
      u.ac = t.ac.modify j (fun _ => 0) ∧ u.s = t.s ∧ u.k = t.k ∧ u.v = t.v ∧ u.w = t.w ∧
      (∀ o ∈ u.ops, isLoad o.instr = true → o.ac ≠ some j))) ∧
  (∀ (f : Fields) (e : VEntry) (t : Troupe) (s : State), VectorMay (.fence f) e t s →
    s.windowWaits t.uid f.ord.toNat f.scp.toNat (fun c => f.imm.getLsbD c) = false →
    let o : Op := { id := t.nextOp, instr := .fence f, held := false }
    exec (.fence f) s = .next ((if t.behind s o then s.setTroupe (t.startOp e o) else s).vectorEnd t.id))) ∧
  (∀ (f : Fields) (e : VEntry) (t : Troupe) (s : State),
    let r := s.ring t.id.ring
    let a := e.cap.a.v
    let m := r.tagmap &&& a
    let named := fun j => j < 64 ∧ j < r.tags ∧ a.getLsbD j = true
    let ready := fun j => r.tagmap.getLsbD j = true
    let idle := fun j => r.tagcnt.getD j 0 = 0 ∧ ¬ready j
    let result := fun (v : Word) => (.next (s.vectorNext t (t.writeS f.d { v := v, g := 0 })) : Out)
    (VectorMay (.tgwany f) e t s → (∃ j, named j ∧ ready j) ∨ (∀ j, named j → idle j) →
      exec (.tgwany f) s = result m) ∧
    (VectorMay (.tgwall f) e t s → (∀ j, named j → ready j ∨ idle j) → exec (.tgwall f) s = result m) ∧
    (VectorMay (.tgffr f) e t s → ∃ n, exec (.tgffr f) s = result (BitVec.ofNat 64 n) ∧
      ((m = 0 ∧ n = 64) ∨ (n < 64 ∧ m.getLsbD n = true ∧ ∀ j < n, m.getLsbD j = false))) ∧
    (VectorMay (.tgclr f) e t s → exec (.tgclr f) s = .next ((s.modRing t.id.ring fun r =>
      { r with tagmap := r.tagmap &&& ~~~a, tagerr := r.tagerr &&& ~~~a }).vectorEnd t.id)) ∧
    (VectorMay (.tgget f) e t s → ∃ v : Word, exec (.tgget f) s = result v ∧
      (f.sub = 0 → v = r.tagmap) ∧ (f.sub = 1 → v = r.tagerr) ∧
      (f.sub = 2 → ∀ j < 64, v.getLsbD j = decide (0 < r.tagcnt.getD j 0))))

/-- Where a memory instruction may issue and every accessing lane passes its checks, exec answers a next state
with no fault: a load leaves memory and an outstanding operation that holds the number at each place; stores
leave their data at places apart; atomics the new value, with the old on its way; reductions the new value,
or a contribution to the home of a window; prefetch and flush change no byte.  The model reads or fills in
the spec here as log entries 10, 13, 99, 145 say. (R225, R226, R227, R230, R231, R234, R236, R238, R241,
R242, R154, R229) -/
def Obligations.MemoryAccessesComplete : Prop :=
  ∀ (f : Fields) (e : VEntry) (t : Troupe) (s : State) (site : Nat → Site),
    let reached := fun (i : Instr) =>
      MemoryMay i f e t s ∧ Steady i f e t s site ∧ ∀ n ∈ accessLanes i e.cap.k0, Reaches i f e t s n (site n)
    let same := fun (s1 : State) => ∀ x, s1.readLoc x = s.readLoc x
    let rest := fun (i : Instr) (s1 : State) =>
      ∀ x, (∀ n ∈ accessLanes i e.cap.k0, x ∉ (site n).locs ∧ ¬Rekeyed s (site n) x) → s1.readLoc x = s.readLoc x
    let held := fun (i : Instr) (u : Troupe) (lane : Nat → LaneSt) => ∃ o ∈ u.ops, o.id = t.nextOp ∧ o.instr = i ∧
      ∀ n ∈ accessLanes i e.cap.k0, ∃ l ∈ o.lanes, l.lane = n ∧ l.st = lane n
    let data := fun (n : Nat) => ((readV t f.c e.cap.c).sh.lane n).toNat
    let leaves := fun (s1 : State) (n new bytes : Nat) =>
      if new = leNat (s.loadSite (site n)) then ∀ x ∈ (site n).locs, s1.readLoc x = s.readLoc x
      else s1.readSite (site n) = leBytes new bytes
    let result := fun (i : Instr) (n : Nat) => atomicOp i f (leNat (s.loadSite (site n)))
      (data n % 2 ^ (if isFloatAtomic i then 8 * accessBytes i f else 32))
    (∀ c ∈ [Instr.lds, .ldsb, .ld, .ldAc, .vld, .vldAc, .vldw], reached (c f) →
      ∃ s1 u, exec (c f) s = .next s1 ∧ Issued t u s1 ∧ same s1 ∧
        held (c f) u fun n => .reply [BitVec.ofNat 64 (leNat (s.loadSite (site n)))]) ∧
    (∀ c ∈ [Instr.sts, .st, .vst, .vstw], reached (c f) → Apart (c f) e site →
      ∃ s1 u, exec (c f) s = .next s1 ∧ Issued t u s1 ∧ (∀ o ∈ u.ops, o.id ≠ t.nextOp) ∧ rest (c f) s1 ∧
        ∀ n ∈ accessLanes (c f) e.cap.k0, s1.readSite (site n) =
          leBytes (if isScalarAccess (c f) then e.cap.c.v.toNat else data n) (accessBytes (c f) f)) ∧
    (∀ c ∈ ([(Instr.aadd, false), (.amin, false), (.amax, false), (.aand, false), (.aor, false), (.axor, false),
        (.axch, false), (.acas, true), (.ainb, false), (.ainw, false), (.adecp, false), (.aflim, false),
        (.aaddf, false)] : List ((Fields → Instr) × Bool)), reached (c.1 f) → Apart (c.1 f) e site →
      let r := fun n => result (c.1 f) n
        (if c.2 = true ∧ f.d.toNat < 64 then ((t.vreg f.d.toNat).sh.lane n).toNat else 0)
      ∃ s1 u, exec (c.1 f) s = .next s1 ∧ Issued t u s1 ∧ rest (c.1 f) s1 ∧
        (∀ n ∈ accessLanes (c.1 f) e.cap.k0, leaves s1 n (r n).1 (accessBytes (c.1 f) f)) ∧
        held (c.1 f) u fun n => .reply [BitVec.ofNat 64 (r n).2.1, if (r n).2.2.1 then 1 else 0, (r n).2.2.2.setWidth 64]) ∧
    (∀ c ∈ [Instr.redadd, .redmin, .redmax, .redand, .redor, .redxor, .redaddf], reached (c f) →
      (Apart (c f) e site → (∀ n ∈ accessLanes (c f) e.cap.k0, (site n).win = none) →
        ∃ s1 u, exec (c f) s = .next s1 ∧ Issued t u s1 ∧ (∀ o ∈ u.ops, o.id ≠ t.nextOp) ∧ rest (c f) s1 ∧
          ∀ n ∈ accessLanes (c f) e.cap.k0, leaves s1 n (result (c f) n 0).1 (accessBytes (c f) f)) ∧
      (∀ n a locs, accessLanes (c f) e.cap.k0 = [n] → (site n).win ≠ none → (site n).locs = .phys a :: locs →
        ∃ s1 u, exec (c f) s = .next s1 ∧ Issued t u s1 ∧ same s1 ∧ ∃ x : Contrib, x.instr = c f ∧ x.addr = a ∧
          x.c.toNat = data n ∧ x.key = (site n).key ∧ s1.fw.contribs = s.fw.contribs ++ [x])) ∧
    (∀ c ∈ [Instr.pref, .cfl], MemoryMay (c f) f e t s →
      (∀ n ∈ accessLanes (c f) e.cap.k0, inWindows (lanePlace (c f) f e t n).toNat = false) →
      (s.fabricPort ≠ none ∨ ∀ w ∈ s.fw.wins, w.home = s.fw.pkg) →
      ∃ s1 u, exec (c f) s = .next s1 ∧ Issued t u s1 ∧ (∀ o ∈ u.ops, o.id ≠ t.nextOp) ∧ same s1)

/-- A record of a context has been posted to the fault queue (written to its slot, TAIL advanced by 1), or is held
because the queue is full or cannot be written (R349). -/
def PostedOrHeld (s1 : State) (asid : Nat) (r : FRec) : Prop :=
  (s1.ctx asid).fseq = r.fseq ∧ (r ∈ (s1.ctx asid).held ∨
    ∃ s0 s2 : State, s0.fqWrite (s0.ctx asid) r = some s2 ∧ (s2.ctx asid).fqtail = (s0.ctx asid).fqtail + 1 ∧
      s1.mem = s2.mem)

/-- `n` bytes at a window address lie in the allocation of ring `r` (R148). -/
def InRing (s : State) (ring va n r : Nat) : Prop := ∃ d, s.spadDest ring va n = some (r, d)

/-- The completion fields of a copy or join are legal: its tag is one of the ring's, or the offset of its object
is a multiple of 16, the object lies in the allocation of every ring whose bytes it counts, and the issuing ring's
is VALID (R156, R162). -/
def Signals (f : Fields) (s : State) (ring : Nat) (recv : List Nat) : Prop :=
  if f.modx.getLsbD 3 then f.imm.toNat % 16 = 0 ∧ ∀ r ∈ recv, ∃ p, s.boundObj r f.imm.toNat = some p ∧
    (r = ring → (s.barrierObj p).valid = true)
  else f.imm.toNat < (s.ring ring).tags

/-- With the operands R155 allows, every scratchpad run in an allocation, a legal tag or object, fewer than 255
on the tag and 32 in the queues: the copy stands last in the queue SEL names (a join in each of them), not
started, with its captured operands; a tag counts one more and both its bits are clear; the troupe goes on
with no fault.  An xld.nt keeps the slot that its header names now, and where that slot is bound the format
it has now. COPY_START of an entry that may start reads its source: for xfill every word is the low half of
B, for xld, xst and xcpy each word is the four bytes of its source; COPY_BYTES_LAND of one that may land
writes its first words in order, and of one with one word left that word; COPY_COMPLETE removes the first
entry of its queues once it has nothing left and signals its tag; COPY_FINAL_FAULT of a first entry posts
its KIND 2 record, with the cause, the address and the tag or object of the copy, or holds it; once it is
posted the entry is gone, and the error bit of its tag is set or its object is FAULTED. The first word still
to land of a copy that signals a tag, when its write passes the checks, over a link that is up where its
place is in another package, leaves its bytes under their bit masks at its place; every byte of memory and
scratchpad outside the place is as before, but for the rest of a pooled line written under another key; the
entry has that word less to land. With a bound copy PENDB of the object of its ring falls by the bytes it
counts, and the advance rule is applied.  The model reads or fills in the spec here as log entries 6, 41,
42, 89, 90 say. (R155, R156, R157, R160, R161, R162, R164, R211, R158, R159, R163, R167) -/
def Obligations.Copies : Prop :=
  (∀ (f : Fields) (e : VEntry) (t : Troupe) (s : State),
    let ring := t.id.ring
    let core := (s.ring ring).core
    let a := e.cap.a.v.toNat
    let b := e.cap.b.v.toNat
    let c := e.cap.c.v.toNat
    let may := fun (i : Instr) (qs : List Nat) => VectorMay i e t s ∧
      (f.modx.getLsbD 3 = true ∨ (s.ring ring).tagcnt.getD f.imm.toNat 0 < 255) ∧
      ∀ q ∈ qs, ((s.core core).copyQueue q).length < 32
    let entered := fun (i : Instr) (qs : List Nat) (fmt : Option (Nat × Fmt)) (slot : Option Nat) =>
      let ent : CopyEnt :=
        { id := s.fresh, instr := i, iaddr := e.iaddr, ring := ring, troupe := t.id.idx, uid := t.uid,
          mark := t.nextOp, cap := e.cap, fmt := fmt, nslot := slot }
      let s1 := qs.foldl (fun s q => s.modQueueOf core q fun l => l ++ [ent]) s
      let s2 := if f.modx.getLsbD 3 then s1 else s1.modRing ring fun r =>
        { r with tagcnt := r.tagcnt.modify f.imm.toNat (· + 1),
                 tagmap := r.tagmap &&& ~~~(1#64 <<< f.imm.toNat),
                 tagerr := r.tagerr &&& ~~~(1#64 <<< f.imm.toNat) }
      let s3 := ({ s2 with fresh := s.fresh + 1 } : State).vectorEnd t.id
      exec i s = .next s3 ∧ (t.calm → ∃ u, Issued t u s3)
    let sel := [f.sel.toNat]
    let count := fun n => 1 ≤ n ∧ n ≤ 524288 ∧ n % 4 = 0
    let clear := fun va n => inWindows va = false ∧ inWindows (va + n - 1) = false
    (∀ r, may (.xld f) sel → count c → a % 4 = 0 → b % 4 = 0 → clear b c → InRing s ring a c r →
      Signals f s ring [r] → entered (.xld f) sel none none) ∧
    (∀ r, may (.xst f) sel → count c → a % 4 = 0 → b % 4 = 0 → clear b c → InRing s ring a c r →
      Signals f s ring [ring] → entered (.xst f) sel none none) ∧
    (∀ r x, may (.xcpy f) sel → count c → a % 4 = 0 → b % 4 = 0 → InRing s ring a c r → InRing s ring b c x →
      Signals f s ring [r] → entered (.xcpy f) sel none none) ∧
    (∀ r, may (.xfill f) sel → count c → a % 4 = 0 → InRing s ring a c r → Signals f s ring [r] →
      entered (.xfill f) sel none none) ∧
    (∀ r n w, may (.xldX24 f) sel → c = n + w * 2 ^ 32 → n < 2 ^ 32 → w ∈ [4, 8, 16, 32] → n % 64 = 0 →
      1 ≤ n → n * w / 8 ≤ 524288 → clear b (n * w / 16 + n / 8) → InRing s ring a (n * w / 8) r →
      Signals f s ring [r] → entered (.xldX24 f) sel none none) ∧
    (∀ r n (mask : Nat), may (.xcpyMc f) sel → c = n + mask * 2 ^ 40 → mask ≠ 0 → mask < 2 ^ 24 → n < 2 ^ 20 →
      count n → a % 4 = 0 → b % 4 = 0 → InRing s ring b n r →
      (∀ j < 24, mask.testBit j = true → ∃ x, s.peerRing ring j = some x ∧ a + n ≤ x.spLen) →
      Signals f s ring ((s.mcRings ring c).filterMap fun r => r.map (·.id)) →
      entered (.xcpyMc f) sel none none) ∧
    (∀ i ∈ [Instr.xgat f, .xsct f], ∀ r, may i sel → InRing s ring a 1 r →
      f.c.toNat + min 7 (s.peekRank ring b) ≤ 128 →
      Signals f s ring [if i = .xgat f then r else ring] → entered i sel none none) ∧
    (∀ r, may (.xldNt f) sel → clear b 1 → InRing s ring a 1 r → Signals f s ring [r] →
      (s.ntSlot ring c = none → entered (.xldNt f) sel none none) ∧
      (∀ n fm, s.ntSlot ring c = some n → s.slotView ring (n % 16) = .ready fm →
        entered (.xldNt f) sel (some (n % 16, fm)) (some n)) ∧
      (∀ n, s.ntSlot ring c = some n → s.slotView ring (n % 16) = .stall → entered (.xldNt f) sel none (some n))) ∧
    (let qs := (List.range 2).filter fun q => f.sel.getLsbD q
     may (.qjoin f) qs → Signals f s ring [ring] → entered (.qjoin f) qs none none)) ∧
  (∀ (s : State) (x : CopyEnt) (f : Fields),
    let core := s.ev.core
    let q := s.ev.queue
    let p := s.ringParty x.ring
    let asid := s.asidOf x.ring
    let tagged := f.modx.getLsbD 3 = false
    s.copy? core q s.ev.op = some x → x.id = s.ev.op → x.instr.fields = some f →
    let starts := fun (ws : List CWord) (fl : BitVec 4) (fmt : Option (Nat × Fmt)) =>
      let left := skipWords x.landed ws
      let r := x.reads s (4 * ws.length)
      exec .copyStart s = .next ((s.countFlits p r.1 r.2).modCopy core q x.id fun y =>
        { y with started := true, words := left, fl := fl, fmt := fmt, dgrade := maxOf (left.map (·.g)) })
    (s.copyMayStart core q x f = true →
      (∀ ws fl fmt, startOf s x f = .ready ws fl fmt → starts ws fl fmt) ∧
      (∀ va c l, startOf s x f = .park va c l → exec .copyStart s = .next (s.parkCopy core q x va c l)) ∧
      (startOf s x f = .stall → exec .copyStart s = .next s) ∧
      (∀ ws c r va g, startOf s x f = .fault ws c r va g → ∃ left d, exec .copyStart s =
        .next (s.modCopy core q x.id fun y =>
          { y with started := true, words := left, fault := some (c, r, BitVec.ofNat 64 va), dgrade := d })) ∧
      (x.instr = .xfill f → ∃ ws, starts ws 0 none ∧
        ∀ w ∈ ws, w.bytes.map (·.val) = leBytes (x.cap.b.v.toNat % 2 ^ 32) 4 ∧ w.g = x.cap.b.g) ∧
      (∀ (va : Nat) (dest : Nat → Nat × Nat) (bs : Nat → List Byte) (g : Nat → Nat), x.landed = 0 →
        ((x.instr = .xst f ∧ va = x.cap.a.v.toNat ∧ dest = fun k => (x.ring, x.cap.b.v.toNat + 4 * k)) ∨
          ((x.instr = .xld f ∨ x.instr = .xcpy f) ∧ va = x.cap.b.v.toNat ∧
            ∃ r d, s.spadDest x.ring x.cap.a.v.toNat x.cap.c.v.toNat = some (r, d) ∧
              dest = fun k => (r, d + 4 * k))) →
        (∀ k < x.cap.c.v.toNat / 4, s.fetchData p (va + 4 * k) 4 = .ok (bs k, g k)) →
        starts ((List.range (x.cap.c.v.toNat / 4)).map fun k =>
          { ring := (dest k).1, va := BitVec.ofNat 64 (dest k).2, bytes := wholeBytes (bs k), g := g k,
            counts := 4, prog := 4 }) 0 none)) ∧
    (s.copyMayLand core q x = true →
      exec .copyBytesLand s = .next (landWords core q x.id (1 + Config.landWords s.choice) s) ∧
      (∀ w site, core < s.cores.length → x.words = [w] → tagged →
        s.access { asid := asid, ring := some w.ring, core := some core } w.va.toNat
          { n := w.bytes.length, wr := true, g := w.g } = .ok site → s.cutOff site = false → site.locs.Nodup →
        (∀ c a, Loc.spad c a ∈ site.locs → c < s.cores.length) →
        ∃ s1, exec .copyBytesLand s = .next s1 ∧
          s1.readSite site = ((s.loadSite site).zip w.bytes).map
            (fun y => (y.1 &&& ~~~y.2.mask) ||| (y.2.val &&& y.2.mask)) ∧
          (∀ y, y ∉ site.locs → ¬Rekeyed s site y → s1.readLoc y = s.readLoc y) ∧
          s1.copy? core q x.id = some { x with words := [], landed := x.landed + w.prog })) ∧
    (s.copyFirst core x.id = true → x.over_ = true → s.copyHeld x = false →
      exec .copyComplete s = .next (s.finishCopy core x) ∧ (s.finishCopy core x).copy? core q x.id = none ∧
      (tagged → x.fl = 0 → x.fault = none → ∀ r, s.ring? x.ring = some r → ∃ r1, (s.finishCopy core x).ring? x.ring = some r1 ∧
        (s.finishCopy core x).mem = s.mem ∧
        r1.tagcnt = r.tagcnt.modify f.imm.toNat (· - 1) ∧
        r1.tagmap = (if r.tagcnt.getD f.imm.toNat 0 ≤ 1 then r.tagmap ||| (1#64 <<< f.imm.toNat) else r.tagmap) ∧
        r1.tagerr = r.tagerr)) ∧
    (s.copyFirst core x.id = true → s.copyHeld x = false → ∀ c r va, x.fault = some (c, r, va) → x.fl = 0 →
      (x.posted = true → exec .copyFinalFault s = .next (s.finishCopy core x)) ∧
      (x.posted = false → s.ctx? asid ≠ none →
        let rec_ := { s.copyRecord x c r va with fseq := s.nextFseq asid }
        rec_.kind = 2 ∧ rec_.cause = c ∧ rec_.reason = r ∧ rec_.aux = va ∧ rec_.iaddr = x.iaddr ∧
        rec_.code = (if tagged then f.imm.toNat else 2 ^ 15 + f.imm.toNat / 16) ∧
        ∃ s1, exec .copyFinalFault s = .next s1 ∧ PostedOrHeld s1 asid rec_ ∧
          (rec_ ∈ (s1.ctx asid).held → s1.copy? core q x.id =
            some { x with words := [], fseq := some rec_.fseq, posted := true }) ∧
          (rec_ ∉ (s1.ctx asid).held → s1.copy? core q x.id = none ∧
            (tagged → ∀ y, s.ring? x.ring = some y → ∃ y1, s1.ring? x.ring = some y1 ∧
              y1.tagerr = y.tagerr ||| (1#64 <<< f.imm.toNat)) ∧
            (∀ y b, ¬tagged → s.receivers x.instr x.ring x.cap.a.v.toNat x.cap.c.v.toNat = [y] →
              s.boundObj y f.imm.toNat = some b → b.1 < s.cores.length → (s.barrierObj b).valid = true →
              (s1.barrierObj b).faulted = true ∧
              ((s.barrierObj b).faulted = false → (s1.barrierObj b).frec = rec_.fseq)))))) ∧
  (∀ (s : State) (core q : Nat) (x : CopyEnt) (w : CWord) (ws : List CWord) (site : Site),
    s.copy? core q x.id = some x → core < s.cores.length → x.words = w :: ws → x.parked = false →
    s.access { asid := s.asidOf x.ring, ring := some w.ring, core := some core } w.va.toNat
      { n := w.bytes.length, wr := true, g := w.g } = .ok site → s.cutOff site = false →
    site.locs.Nodup → (∀ c a, Loc.spad c a ∈ site.locs → c < s.cores.length) →
    let s1 := landWord core q x.id s
    let f := x.instr.fields.getD {}
    (f.modx.getLsbD 3 = false →
      s1.readSite site = ((s.loadSite site).zip w.bytes).map
        (fun y => (y.1 &&& ~~~y.2.mask) ||| (y.2.val &&& y.2.mask)) ∧
      (∀ y, y ∉ site.locs → ¬Rekeyed s site y → s1.readLoc y = s.readLoc y) ∧
      s1.copy? core q x.id = some { x with words := ws, landed := x.landed + w.prog }) ∧
    (∀ p, f.modx.getLsbD 3 = true → w.counts ≠ 0 → s.boundObj w.ring f.imm.toNat = some p → p.1 < s.cores.length →
      (∀ k < 16, Loc.spad p.1 (p.2 + k) ∉ site.locs) →
      let o := s.barrierObj p
      o.valid = true → o.faulted = false → -(2 ^ 23) ≤ o.pendb - w.counts →
      s1.barrierObj p = ({ o with pendb := o.pendb - w.counts } : BObj).advance))

/-- Every 128-bit value is read into the fields of R166 and written back unchanged; with VALID set, PENDA and
PENDB zero and FAULTED clear an update advances the phase mod 2^16, sets PENDA to EXPA and PENDB, EXPB and
CANCELLED to 0; in every other case the advance rule changes nothing. Replacing an object writes its 16
bytes and changes no memory, no register and no other wait; a bwait on it whose condition the update meets
is to return with its status word. At an address in an allocation and a multiple of 16: bini writes the
object afresh; on a VALID object barr, barr.n and barr.exp arrive and give the phase before the update, bexp
expects more bytes, bwait (once its phase is over or FAULTED: a waiter the word of the update that met its
condition) and btest give the status word, bcan ends the phase; each applies the advance rule in the same
update. On an object with an uncorrectable error all but bini raise MEMERR.  The model reads or fills in the
spec here as log entries 94, 95 say. (R166, R167, R168, R169, R170, R389) -/
def Obligations.BarrierObjects : Prop :=
  ((∀ w < 2 ^ 128, (BObj.ofNat w).toNat = w) ∧
  (∀ o : BObj,
    (o.valid = true ∧ o.penda = 0 ∧ o.pendb = 0 ∧ o.faulted = false → o.advance =
      { o with phase := (o.phase + 1) % 2 ^ 16, penda := o.expa, pendb := 0, expb := 0, cancelled := false }) ∧
    (¬(o.valid = true ∧ o.penda = 0 ∧ o.pendb = 0 ∧ o.faulted = false) → o.advance = o)) ∧
  (∀ (s : State) (p : Nat × Nat) (o : BObj) (g : Nat),
    let s1 := s.putBarrier p o g
    s1.mem = s.mem ∧ s1.cores = (s.spadPut p.1 p.2 16 o.toNat g).cores ∧ s1.ctxs = s.ctxs ∧
    (∀ t, s.troupe? t.id = some t → ∃ u, s1.troupe? t.id = some u ∧ { u with vwait := t.vwait } = t ∧
      (t.vwait ≠ some .barrier → u = t) ∧
      (∀ f e rest, t.vwait = some .barrier → t.vq = e :: rest → e.instr = .bwait f →
        s.objectAt t.id.ring (e.cap.a.v + f.imm.signExtend 64).toNat 16 = some p →
        o.ready (f.sub == 1) e.cap.b.v = true ∨ o.faulted = true →
        u.vwait = some (.barrierOver (o.status (f.sub == 1) e.cap.b.v)))))) ∧
  (∀ (f : Fields) (e : VEntry) (t : Troupe) (s : State) (p : Nat × Nat),
    let va := (e.cap.a.v + f.imm.signExtend 64).toNat
    s.objectAt t.id.ring va 16 = some p → va % 16 = 0 →
    let b := e.cap.b.v.toNat
    let o := BObj.ofNat (leNat (cellReadN (s.core p.1).spad p.2 16))
    let g := s.lineGrade p.1 p.2
    let put := fun (x : BObj) (g : Nat) => s.putBarrier p x g
    let gets := fun (i : Instr) (s1 : State) => (.next ((s1.setTroupe (t.startOp e
      { id := 0, instr := i, sdest := sNum f.d, grade := g,
        sres := [{ d := f.d, v := { v := BitVec.ofNat 64 o.phase, g := g } }] })).vectorEnd t.id) : Out)
    let arrived := fun (n x : Nat) => ({ o with
      penda := o.penda - n, expb := o.expb + x, pendb := if o.faulted then o.pendb else o.pendb + x } : BObj).advance
    let fits := b < 2 ^ 23 ∧ o.expb + b < 2 ^ 24 ∧ (o.faulted = true ∨ o.pendb + b < 2 ^ 23)
    (VectorMay (.bini f) e t s → 1 ≤ b → b < 4096 →
      exec (.bini f) s = .next ((put { penda := b, expa := b } e.cap.b.g).vectorEnd t.id)) ∧
    (s.spadBad p 16 = true → ∀ c ∈ [Instr.barr, .barrN, .barrExp, .bexp, .bwait, .btest, .bcan], VectorMay (c f) e t s →
      exec (c f) s = .next (s.vectorFaultOf (c f) t e { cause := .memerr })) ∧
    (o.valid = true → s.spadBad p 16 = false →
      (VectorMay (.barr f) e t s → o.penda ≠ 0 → exec (.barr f) s = gets (.barr f) (put (arrived 1 0) e.cap.b.g)) ∧
      (VectorMay (.barrN f) e t s → 1 ≤ b → b ≤ o.penda →
        exec (.barrN f) s = gets (.barrN f) (put (arrived b 0) e.cap.b.g)) ∧
      (VectorMay (.barrExp f) e t s → o.penda ≠ 0 → fits →
        exec (.barrExp f) s = gets (.barrExp f) (put (arrived 1 b) e.cap.b.g)) ∧
      (VectorMay (.bexp f) e t s → fits →
        exec (.bexp f) s = .next ((put (arrived 0 b) e.cap.b.g).vectorEnd t.id)) ∧
      (VectorMay (.bwait f) e t s →
        (∀ v, t.vwait = some (.barrierOver v) →
          exec (.bwait f) s = .next (s.vectorNext t (t.writeS f.d { v := v, g := g }))) ∧
        ((∀ v, t.vwait ≠ some (.barrierOver v)) → o.ready (f.sub == 1) e.cap.b.v = true ∨ o.faulted = true →
          exec (.bwait f) s = .next (s.vectorNext t
            (t.writeS f.d { v := o.status (f.sub == 1) e.cap.b.v, g := g })))) ∧
      (VectorMay (.btest f) e t s →
        exec (.btest f) s = .next (s.vectorNext t (t.startOp e
          { id := 0, instr := .btest f, sdest := sNum f.d, grade := g,
            sres := [{ d := f.d, v := { v := o.status (f.sub == 1) e.cap.b.v, g := g } }] }))) ∧
      (VectorMay (.bcan f) e t s →
        exec (.bcan f) s = .next ((put { o with
          phase := (o.phase + 1) % 2 ^ 16, penda := o.expa, pendb := 0, expb := 0, faulted := false,
          cancelled := true, frec := 0 } 0).vectorEnd t.id))))

/-- At an address in an allocation and a multiple of 16, on a VALID queue with no uncorrectable error but for
nqini: nqini writes the header; nqsend, with allowance, room and no sender blocked before, stores the handle
in slot (HEAD + COUNT) mod NSLOT and counts it; nqrecv and nqtry take slot HEAD; nqret adds to the allowance
up to 255; nqtry on an empty queue gives all ones. An arrival fixes the count of its phase where it is the
first (n, or the live troupes when n is 0), is refused with BADARG where it names another n, and completes
the phase when the arrivals reach the count; nbarv and tbarv arrive and go on wherever the arrival is legal;
nbsync and tbsync go on when their phase is over, at once where their arrival completes it within one ring;
the release of a tree barrier advances its phase.  The model reads or fills in the spec here as log entries
73, 96, 98 say. (R171, R172, R173, R174) -/
def Obligations.NumberedBarriers : Prop :=
  (∀ (f : Fields) (e : VEntry) (t : Troupe) (s : State) (p : Nat × Nat),
    let va := (e.cap.a.v + f.imm.signExtend 64).toNat
    s.objectAt t.id.ring va 16 = some p → va % 16 = 0 →
    let b := e.cap.b.v.toNat
    let c := e.cap.c.v.toNat
    let w := leNat (cellReadN (s.core p.1).spad p.2 8)
    let nslot := bitsOf w 7 0
    let head := bitsOf w 15 8
    let count := bitsOf w 23 16
    let allow := bitsOf w 31 24
    let hdr := fun (n h c a : Nat) => n + h * 2 ^ 8 + c * 2 ^ 16 + a * 2 ^ 24 + 2 ^ 32
    let slot := fun j => s.objectAt t.id.ring (va + 16 + 8 * j) 8
    let takes := fun (i : Instr) => ∀ a, slot head = some a → s.spadBad a 8 = false → exec i s =
      .next (((s.spadPut p.1 p.2 8 (hdr nslot ((head + 1) % nslot) (count - 1) allow) 0).setTroupe
        (t.writeS f.d { v := BitVec.ofNat 64 (leNat (cellReadN (s.core a.1).spad a.2 8)),
                        g := s.lineGrade a.1 a.2 })).vectorEnd t.id)
    (VectorMay (.nqini f) e t s → 1 ≤ b → b ≤ 255 → c ≤ 255 → s.objectAt t.id.ring va (16 + 8 * b) ≠ none →
      exec (.nqini f) s = .next ((s.spadPut p.1 p.2 16 (hdr b 0 0 c) (max e.cap.b.g e.cap.c.g)).vectorEnd t.id)) ∧
    (bitsOf w 32 32 = 1 → s.spadBad p 8 = false →
      (VectorMay (.nqsend f) e t s → e.cap.b.v ≠ BitVec.allOnes 64 → 1 ≤ allow → count < nslot →
        s.nqBehind t true p = false → ∀ a, slot ((head + count) % nslot) = some a →
        exec (.nqsend f) s = .next (((s.spadPut a.1 a.2 8 b e.cap.b.g).spadPut p.1 p.2 8
          (hdr nslot head (count + 1) (allow - 1)) 0).vectorEnd t.id)) ∧
      (VectorMay (.nqrecv f) e t s → 1 ≤ count → s.nqBehind t false p = false → takes (.nqrecv f)) ∧
      (VectorMay (.nqret f) e t s → 1 ≤ b → b ≤ 255 → exec (.nqret f) s =
        .next ((s.spadPut p.1 p.2 8 (hdr nslot head count (min 255 (allow + b))) e.cap.b.g).vectorEnd t.id)) ∧
      (VectorMay (.nqtry f) e t s →
        (count = 0 → exec (.nqtry f) s =
          .next (s.vectorNext t (t.writeS f.d { v := BitVec.allOnes 64, g := 0 }))) ∧
        (1 ≤ count → takes (.nqtry f))))) ∧
  ((∀ (b : NB) (n live : Nat) (who : Option Nat),
    let first := b.fixed = false
    let count := if first then (if n = 0 then live else n) else b.count
    (¬first → (b.zero = true ↔ n ≠ 0) ∨ (n ≠ 0 ∧ b.count ≠ n) → b.arrive n live who = none) ∧
    (first ∨ ((b.zero = true ↔ n = 0) ∧ (n = 0 ∨ b.count = n)) →
      (count ≤ b.arrived + 1 → b.arrive n live who = some { phase := b.phase + 1 }) ∧
      (b.arrived + 1 < count → ∃ b1, b.arrive n live who = some b1 ∧ b1.phase = b.phase ∧ b1.count = count ∧
        b1.arrived = b.arrived + 1 ∧ b1.fixed = true))) ∧
  (∀ (f : Fields) (e : VEntry) (t : Troupe) (s : State),
    let j := f.sel.toNat
    let n := f.imm.toNat
    let fresh := (∀ x p, t.vwait ≠ some (.nb x p)) ∧ (∀ x p, t.vwait ≠ some (.tb x p))
    (∀ tree : Bool, ∀ p s1, fresh → s.nbArrive t.id.ring tree j n (some t.id.idx) = some (p, s1) →
      let arv := if tree then Instr.tbarv f else .nbarv f
      let syn := if tree then Instr.tbsync f else .nbsync f
      (VectorMay arv e t s → exec arv s = .next (s1.vectorEnd t.id)) ∧
      (VectorMay syn e t s → exec syn s = if s1.nbOver t.id.ring tree j p then .next (s1.vectorEnd t.id)
        else .next (s1.blockVector t.id (if tree then .tb j p else .nb j p)))) ∧
    (∀ tree : Bool, fresh → t.calm →
      let r := s.ring t.id.ring
      let b := (if tree then r.bts else r.nbs).getD j {}
      let arv := if tree then Instr.tbarv f else .nbarv f
      let syn := if tree then Instr.tbsync f else .nbsync f
      let count := if b.fixed = true then b.count else if n = 0 then (s.activeTroupes t.id.ring).length else n
      b.fixed = false ∨ ((b.zero = true ↔ n = 0) ∧ (n = 0 ∨ b.count = n)) →
      (VectorMay arv e t s → ∃ s1 u, exec arv s = .next s1 ∧ Issued t u s1 ∧ s1.mem = s.mem) ∧
      (VectorMay syn e t s → s.ring? t.id.ring = some r → j < (if tree then r.bts else r.nbs).length →
        count ≤ b.arrived + 1 → (tree = true → s.multiRing r.nb = false) →
        ∃ s1 u, exec syn s = .next s1 ∧ Issued t u s1 ∧ s1.mem = s.mem)) ∧
    (∀ x p, t.vwait = some (.nb x p) → VectorMay (.nbsync f) e t s → s.nbOver t.id.ring false j p = true →
      exec (.nbsync f) s = .next (s.vectorEnd t.id)) ∧
    (∀ x p, t.vwait = some (.tb x p) → VectorMay (.tbsync f) e t s → s.nbOver t.id.ring true j p = true →
      exec (.tbsync f) s = .next (s.vectorEnd t.id))) ∧
  (∀ (s : State) (x : Nat × Nat),
    (s.nbhd s.ev.obj).release.find? (fun x => x.1 == s.ev.num) = some x →
    exec .treeBarrierRelease s = .next (((s.modDie (s.nbhd s.ev.obj).die fun d =>
      { d with tick := max d.tick x.2 }).modNbhd s.ev.obj fun n =>
        { n with release := n.release.filter fun y => y.1 != s.ev.num,
                 tphase := n.tphase.modify s.ev.num (· + 1) }).treeCheck s.ev.obj)))

/-- Where the ring has no starting, running, waiting or stopped stream and the addresses are legal, mxgo leaves
a starting stream with both captured values and asks for its grant; MATRIX_CONTEXT_GRANT gives the head of
the queue its contexts, with banks of zeros and the argument block in m and t, once they are free, a
restored stream with what it held; mxend ends the stream.  The model reads or fills in the spec here as log
entry 13 says. (R202, R182, R177, R201, R206) -/
def Obligations.StreamStart : Prop :=
  (∀ (f : Fields) (e : VEntry) (t : Troupe) (s : State), VectorMay (.mxgo f) e t s →
    let ring := t.id.ring
    let a := e.cap.a
    let b := e.cap.b
    (∀ st, (s.ring ring).stream = some st → st.state = 0 ∨ st.state = 4 ∨ 5 < st.state) →
    a.v.toNat < 2 ^ 57 → b.v.toNat < 2 ^ 57 → b.v.toNat % 8 = 0 →
    let st : Stream :=
      { start := a.v, pc := a.v, args := b.v, g0 := max a.g b.g, by_ := t.id.idx, state := 1,
        two := f.modx.getLsbD 0, smp := f.modx.getLsbD 1, nth_ := ((s.ring ring).stream.map (·.nth_)).getD 0 }
    let s1 := ((s.modRing ring fun r => { r with stream := some st }).askGrant ring st.two st.smp).vectorEnd t.id
    exec (.mxgo f) s = .next s1 ∧ (t.calm → ∃ u, Issued t u s1)) ∧
  (∀ (s : State) (st : Stream) (rest : List Nat), s.stream? s.ev.ring = some st →
    let ring := s.ev.ring
    let core := (s.ring ring).core
    let g := (s.launchOf ring).lr.grade
    (st.ctx = false → (s.core core).mxq = ring :: rest → s.ctxFree core st = true →
      let given := s.modCore core fun c =>
        { c with mxq := c.mxq.filter (· != ring),
                 au := if st.smp then { (st.unit_.getD {}) with holder := some ring } else c.au }
      (st.loaded = false → st.state ≠ 5 →
        exec .matrixContextGrant s = .next (startStream ring (given.modStream ring
          fun st => { st with ctx := true, za := Bank.zero, zb := Bank.zero, ga := g, gb := g, badA := false, badB := false })) ∧
        ∀ m w x, readArgs s ring st = .ok ((m, w), x) → ∃ s1 u, exec .matrixContextGrant s = .next s1 ∧
          s1.stream? ring = some u ∧ u.ctx = true ∧ u.state = 2 ∧ u.m = m ∧ u.t = w ∧ u.za = Bank.zero ∧
          u.zb = Bank.zero ∧ u.pc = st.pc ∧ s1.mem = s.mem) ∧
      (st.loaded = true ∨ st.state = 5 → exec .matrixContextGrant s =
        .next (given.modStream ring fun st => { st with ctx := true, unit_ := none }))) ∧
    (∀ (m : List GW) (w : List Word) (x : Nat), readArgs s ring st = .ok ((m, w), x) →
      startStream ring s = s.modStream ring fun st =>
        { st with m := m, t := w, loaded := true, state := 2, wait := none })) ∧
  (∀ (f : Fields) (ring : Nat) (st : Stream) (s : State), StreamMay (.mxend f) f ring st s →
    let s1 := if st.mile then
      s.modRing ring fun r => { r with miles := min (2 ^ 32 - 1) (r.miles + 1) } else s
    exec (.mxend f) s = .next (s1.endStream ring) ∧
    ∃ u, (s1.endStream ring).stream? ring = some u ∧ u.state = 4 ∧ u.ctx = false ∧ u.left = 0 ∧ u.row = 0 ∧
      u.m = st.m ∧ u.flags = st.flags)

/-- mxwait.tg goes on once every named tag is ready or idle, none of them in error; mxwait.bo once the phase of
its object is over, adding 1 to mB; mxnb.arv goes on from its arrival and mxnb once the phase is over;
mxloop.begin pushes its count; mxloop steps the named m registers and goes back, or on with the innermost
loop left when its count is 1. mxstat gives, with grade 0 once it completes, the state, form, offset of the
pc, cause and flags of the stream of the ring, or ROWPROG, or 0 with no stream; mxvar gives SMPSTAT or SVAR
with the grade of the sampled bank, in a troupe to a scalar register and in a stream to an m register.  The
model reads or fills in the spec here as log entries 97, 150 say. (R198, R199, R200, R203, R219, R220) -/
def Obligations.StreamFlowAndStatus : Prop :=
  (∀ (f : Fields) (ring : Nat) (st : Stream) (s : State),
    let r := s.ring ring
    let m := fun (x : BitVec 8) => st.m.getD x.toNat {}
    let next := st.pc + BitVec.ofNat 64 s.len
    let on := fun (s : State) => (.next (s.streamNext ring next) : Out)
    (StreamMay (.mxwaitTg f) f ring st s →
      let named := fun j => j < 64 ∧ j < r.tags ∧ (m f.a).v.getLsbD j = true
      ((∀ j, named j → r.tagmap.getLsbD j = true ∨ r.tagcnt.getD j 0 = 0) →
        (∀ j, named j → r.tagerr.getLsbD j = false) → exec (.mxwaitTg f) s = on s) ∧
      ((∃ j, named j ∧ r.tagmap.getLsbD j = false ∧ r.tagcnt.getD j 0 ≠ 0) → exec (.mxwaitTg f) s =
        .next (s.modStream ring fun st => { st with state := 3, wait := some .tags }))) ∧
    (StreamMay (.mxwaitBo f) f ring st s →
      let va := ((m f.a).v + f.imm.signExtend 64).toNat
      ∀ p : Nat × Nat, s.objectAt ring va 16 = some p → va % 16 = 0 →
      let o := BObj.ofNat (leNat (cellReadN (s.core p.1).spad p.2 16))
      let gap := (o.phase + 2 ^ 16 - (m f.b).v.toNat % 2 ^ 16) % 2 ^ 16
      let stepped := s.modStream ring fun st => { st with m := st.m.modify f.b.toNat fun x => { x with v := x.v + 1 } }
      o.valid = true → s.spadBad p 16 = false →
      (st.wait = some (.barrierOver false) → exec (.mxwaitBo f) s = on stepped) ∧
      ((∀ c, st.wait ≠ some (.barrierOver c)) → o.faulted = false →
        (gap ≠ 0 → ¬(gap = 1 ∧ o.cancelled = true) → exec (.mxwaitBo f) s = on stepped) ∧
        (gap = 0 → exec (.mxwaitBo f) s =
          .next (s.modStream ring fun st => { st with state := 3, wait := some .barrier })))) ∧
    (∀ p s1, (∀ x q, st.wait ≠ some (.nb x q)) →
      s.nbArrive ring false f.sel.toNat f.imm.toNat none = some (p, s1) →
      (StreamMay (.mxnbArv f) f ring st s → exec (.mxnbArv f) s = on s1) ∧
      (StreamMay (.mxnb f) f ring st s → exec (.mxnb f) s =
        if s1.nbOver ring false f.sel.toNat p then on s1
        else .next (s1.modStream ring fun st => { st with state := 3, wait := some (.nb f.sel.toNat p) }))) ∧
    (∀ x p, st.wait = some (.nb x p) → s.nbOver ring false f.sel.toNat p = true →
      StreamMay (.mxnb f) f ring st s → exec (.mxnb f) s = on s) ∧
    (StreamMay (.mxloopBegin f) f ring st s → st.loops.length < 4 → exec (.mxloopBegin f) s =
      on (s.modStream ring fun st => { st with loops := f.imm.toNat :: st.loops })) ∧
    (StreamMay (.mxloop f) f ring st s → ∀ n rest, st.loops = n :: rest →
      let stepped := s.modStream ring fun st =>
        { st with
          m := (List.range 8).map fun j =>
            if f.c.getLsbD j then { st.m.getD j {} with v := (st.m.getD j {}).v + st.t.getD j 0 } else st.m.getD j {},
          loops := if n = 1 then rest else (n - 1) :: rest }
      exec (.mxloop f) s = if n = 1 then on stepped
        else .next (stepped.streamNext ring (st.pc + f.imm.signExtend 64)))) ∧
  ((∀ (f : Fields) (e : VEntry) (t : Troupe) (s : State),
    let r := s.ring t.id.ring
    let result := fun (i : Instr) (v : GW) => (.next (s.vectorNext t (t.startOp e
      { id := 0, instr := i, sdest := sNum f.d, grade := v.g, sres := [{ d := f.d, v := v }] })) : Out)
    (VectorMay (.mxstat f) e t s →
      (r.stream = none → exec (.mxstat f) s = result (.mxstat f) {}) ∧
      (∀ st, r.stream = some st → f.sub ≠ 0 → exec (.mxstat f) s = result (.mxstat f) { v := st.row.setWidth 64 }) ∧
      (∀ st, r.stream = some st → f.sub = 0 → exec (.mxstat f) s = result (.mxstat f)
        { v := BitVec.ofNat 64 ((if st.ctx = true ∨ st.state = 0 ∨ st.state = 4 then st.state else 1)
            + (if st.two then 16 else 0) + (if st.smp then 32 else 0)
            + (st.pc - st.start).toNat % 2 ^ 24 * 2 ^ 8 + st.cause * 2 ^ 32 + st.flags.toNat * 2 ^ 52) })) ∧
    (VectorMay (.mxvar f) e t s →
      exec (.mxvar f) s = result (.mxvar f) { v := if f.sub = 0 then r.smpstat else r.svar, g := r.smpg })) ∧
  (∀ (f : Fields) (ring : Nat) (st : Stream) (s : State), StreamMay (.mxvar f) f ring st s →
    let r := s.ring ring
    exec (.mxvar f) s = .next ((s.modStream ring fun st =>
      { st with m := st.m.modify f.d.toNat fun _ =>
          { v := if f.sub = 0 then r.smpstat else r.svar, g := r.smpg } }).streamNext ring
            (st.pc + BitVec.ofNat 64 s.len))))

/-- With both headers legal, their slots bound, the pair, the sparsity, the class and the origin as the rules
require and every group readable, mxmul (mxsp with a seeded A, whose positions not kept contribute +0) goes
on with the group sums of k in 32s added to the tile one pass after the other; mxdual likewise into za over
dY and W, then into zb over X and dY.  The model reads or fills in the spec here as log entries 81, 84, 91
say. (R191, R192, R187, R188, R189) -/
def Obligations.MatrixProducts : Prop :=
  (∀ (f : Fields) (ring : Nat) (st : Stream) (s : State) (sparse : Bool) (ha hb : HdrUse)
      (a b : Nat → List (List (Option FV)) × Nat),
    let i := if sparse then Instr.mxsp f else .mxmul f
    let imm := f.imm.toNat
    let m := shapeM f.shape
    let n := shapeN f.shape
    let k := shapeK f.shape
    let both7 := ha.h.slot = 7 ∧ hb.h.slot = 7
    let kx := fun bit => if imm.testBit 16 then some (imm.testBit bit) else none
    let oa : Operand := { h := ha.h, fmt := ha.fmt, p := m, k := k, kx7 := kx 17 }
    let ob : Operand := { h := hb.h, fmt := hb.fmt, p := n, k := k, kx7 := kx 18 }
    StreamMay i f ring st s → st.row = 0 →
    useHdr s ring st f.a = .ok ha → useHdr s ring st f.b = .ok hb →
    pairOk ha.h hb.h = true → hb.h.spar = 0 → (if sparse then ha.h.spar ≠ 0 ∧ ha.h.tr = false else ha.h.spar = 0) →
    shapeOk (max (cellClass ha.h ha.fmt) (cellClass hb.h hb.fmt)) f.shape = true → originOk imm m n = true →
    (both7 ∨ ∀ j, 16 ≤ j → j ≤ 18 → imm.testBit j = false) →
    (∀ g < k / 32, oa.group s (s.ringParty ring) g 32 = .ok (a g) ∧ ob.group s (s.ringParty ring) g 32 = .ok (b g)) →
    let pass := fun (u : Stream) (g : Nat) => u.putBank f.d.toNat
      ((u.bank f.d.toNat).addTile (originRow imm) (originCol imm) m n fun p q =>
        groupSum (((nth (a g).1 p []).zip (nth (b g).1 q [])).map fun x => elemMul x.1 x.2))
      (max (max ha.g hb.g) (max (a g).2 (b g).2))
    ∃ s0, FlitsOnly s s0 ∧ ((∀ o ∈ [oa, ob], s.remoteAt (s.ringParty ring) o.h.base = false) → s0 = s) ∧
    exec i s = .next ((s0.modStream ring fun u =>
      { (List.range (k / 32)).foldl pass u with row := 0 }).streamNext ring (st.pc + BitVec.ofNat 64 s.len))) ∧
  (∀ (f : Fields) (ring : Nat) (st : Stream) (s : State) (hy hw hx : HdrUse)
      (y w x y2 : Nat → List (List (Option FV)) × Nat),
    let m := shapeM f.shape
    let n := shapeN f.shape
    let k := shapeK f.shape
    let p := s.ringParty ring
    let oy : Operand := { h := hy.h, fmt := hy.fmt, p := m, k := k }
    let ow : Operand := { h := hw.h, fmt := hw.fmt, p := n, k := k }
    let ox : Operand := { h := hx.h, fmt := hx.fmt, p := n, k := m }
    StreamMay (.mxdual f) f ring st s → st.row = 0 →
    useHdr s ring st f.a = .ok hy → useHdr s ring st f.b = .ok hw → useHdr s ring st f.c = .ok hx →
    pairOk hy.h hw.h = true → pairOk hx.h hy.h = true →
    (∀ u ∈ [hy, hw, hx], u.h.spar = 0 ∧ u.h.narrow = false) →
    shapeOk (maxOf [cellClass hy.h hy.fmt, cellClass hw.h hw.fmt, cellClass hx.h hx.fmt]) f.shape = true →
    inWindows hy.h.base = true →
    (∀ g < k / 32, oy.group s p g 32 = .ok (y g) ∧ ow.group s p g 32 = .ok (w g)) →
    (∀ g < m / 32, ox.group s p g 32 = .ok (x g) ∧
      Rd.all (fun o => Rd.all (fun j => oy.elem s p (32 * g + j) o) (List.range 32)) (List.range k) = .ok (y2 g)) →
    ∃ s1 : State, exec (.mxdual f) s = .next (s1.streamNext ring (st.pc + BitVec.ofNat 64 s.len)) ∧
      s1.mem = s.mem ∧ s1.cores = s.cores ∧
      ∃ u, s1.stream? ring = some u ∧ u.row = 0 ∧ u.m = st.m ∧ u.t = st.t ∧
        u.za = (List.range (k / 32)).foldl (fun z g => (z.addTile 0 0 m n fun c d =>
          groupSum (((nth (y g).1 c []).zip (nth (w g).1 d [])).map fun x => elemMul x.1 x.2)).1) st.za ∧
        u.zb = (List.range (m / 32)).foldl (fun z g => (z.addTile 0 0 n k fun c d =>
          groupSum (((nth (x g).1 c []).zip (nth (y2 g).1 d [])).map fun x => elemMul x.1 x.2)).1) st.zb)

/-- mxzero makes its tile, or the bank, zero; mxld loads the runs of a tile with what its header reads; mxadd
adds a tile of the other bank or of memory in one pass; mxscl multiplies by the f32 of mA; each goes on to
the next unit with the grade raised. mxst goes on with every element written where every byte may be
written, each as the rounding of the bank's element under its bit mask, and no other byte changed.  The
model reads or fills in the spec here as log entries 81, 82, 83, 86 say. (R193, R194, R195, R196, R197,
R189) -/
def Obligations.MatrixHousekeeping : Prop :=
  ∀ (f : Fields) (ring : Nat) (st : Stream) (s : State),
    let imm := f.imm.toNat % 2 ^ 16
    let src := f.imm.toNat / 2 ^ 16
    let m := shapeM f.shape
    let n := shapeN f.shape
    let d := f.d.toNat
    let legal := fun (x : Nat) => x % 256 % 32 = 0 ∧ x / 256 % 16 = 0 ∧ x % 256 + m ≤ 128 ∧ x / 256 + n ≤ 128
    let tile := fun (u : Stream) (g : Run → Nat → Nat → Run × BitVec 4) =>
      (u.bank d).onTile (imm % 256) (imm / 256) m n g
    let onAt := fun (s0 : State) (h : Stream → Stream) =>
      (.next ((s0.modStream ring h).streamNext ring (st.pc + BitVec.ofNat 64 s.len)) : Out)
    let on := onAt s
    let reads := fun (i : Instr) (base : Nat) (h : Stream → Stream) => ∃ s0, FlitsOnly s s0 ∧
      (s.remoteAt (s.ringParty ring) base = false → s0 = s) ∧ exec i s = onAt s0 h
    let tileRead := fun (u : HdrUse) (raw gr : Nat → Nat → Nat) =>
      useHdr s ring st f.a = .ok u ∧ u.h.spar = 0 ∧ (u.h.narrow = true → u.h.slot = 7) ∧ legal imm ∧
      ∀ p < m, ∀ k < n, ({ h := u.h, fmt := u.fmt, p := m, k := n } : Operand).raw s (s.ringParty ring) p k (k % 32) =
        .ok (raw p k, gr p k)
    let row := fun (u : HdrUse) (raw : Nat → Nat → Nat) (i c : Nat) =>
      (List.range 16).map fun j => u.fmt.decode (raw i (c + j))
    (StreamMay (.mxzero f) f ring st s →
      (f.sub = 1 → exec (.mxzero f) s = on fun u => (u.putBank d (Bank.zero, 0) 0).cleaned d) ∧
      (f.sub ≠ 1 → legal imm → exec (.mxzero f) s = on fun u => u.putBank d (tile u fun _ _ _ => ({}, 0)) 0)) ∧
    (StreamMay (.mxld f) f ring st s → ∀ u raw gr, tileRead u raw gr → ∃ g, u.g ≤ g ∧ (∀ p < m, ∀ k < n, gr p k ≤ g) ∧
      reads (.mxld f) u.h.base fun v => v.putBank d (tile v fun _ i c => Run.load (row u raw i c)) g) ∧
    (StreamMay (.mxadd f) f ring st s →
      (f.sub = 0 → d ≠ f.a.toNat → legal imm → legal src → exec (.mxadd f) s = on fun u =>
        u.putBank d (tile u fun r i c => r.pass ((List.range 16).map fun j =>
          (u.bank f.a.toNat).value (src % 256 + i) (src / 256 + c + j))) (st.bankGrade f.a.toNat)) ∧
      (f.sub ≠ 0 → ∀ u raw gr, tileRead u raw gr → ∃ g, u.g ≤ g ∧ (∀ p < m, ∀ k < n, gr p k ≤ g) ∧
        reads (.mxadd f) u.h.base fun v => v.putBank d (tile v fun r i c => r.pass (row u raw i c)) g)) ∧
    (StreamMay (.mxscl f) f ring st s → legal imm → exec (.mxscl f) s = on fun u =>
      u.putBank d (tile u fun r _ _ => r.scale (fmtF32.decode ((st.m.getD f.a.toNat {}).v.toNat % 2 ^ 32)))
        (st.m.getD f.a.toNat {}).g) ∧
    (StreamMay (.mxst f) f ring st s → ∀ u, useHdr s ring st f.a = .ok u → u.h.spar = 0 → u.h.aux = 0 →
      (u.h.narrow = true → u.h.slot = 7) → legal imm →
      let o : Operand := { h := u.h, fmt := u.fmt, p := m, k := n }
      let grade := st.bankGrade d
      let bit := fun i j => o.bitAt i j (j % 32)
      let enc := fun i j => u.fmt.encode ((st.bank d).value (imm % 256 + i) (imm / 256 + j))
        (stMode f u.h (imm % 256 + i) (imm / 256 + j)
          ((st.bank d).run (imm % 256 + i) ((imm / 256 + j) / 16)).x) (f.sat == 1)
      let bytes := fun i j => bitBytes (bit i j) o.w (enc i j).1
      let at_ := fun i j k => s.access (s.ringParty ring) (bit i j / 8 + k) { n := 1, wr := true, g := grade }
      (∀ i j (w : Nat → Site), (∀ k < (bytes i j).length, at_ i j k = .ok (w k) ∧ s.cutOff (w k) = false) →
        storeElem f u o d grade s i j = .ok (((List.range (bytes i j).length).foldl (fun s k =>
            let b := (bytes i j).getD k { val := 0 }
            (s.writeSite (w k) ((s.loadSite (w k)).map fun x => (x &&& ~~~b.mask) ||| (b.val &&& b.mask)) grade).sendTo (w k))
          s).modStream ring fun st => { st with flags := st.flags ||| (enc i j).2 })) ∧
      ((∀ i < m, ∀ j < n, ∀ k < (bytes i j).length, ∃ w, at_ i j k = .ok w ∧ Firm s ring (bit i j / 8 + k) w) →
        ∃ s2, exec (.mxst f) s = .next (s2.streamNext ring (st.pc + BitVec.ofNat 64 s.len)) ∧
          storeElems f u o d grade ((List.range m).flatMap fun i => (List.range n).map fun j => (i, j))
            (s.modStream ring fun st => { st with fmts := keptFormats [u] }) = .done s2 ∧
          ∀ x, (∀ i < m, ∀ j < n, ∀ k < (bytes i j).length, ∀ w, at_ i j k = .ok w → x ∉ w.locs) →
            s2.readLoc x = s.readLoc x))

/-- With its last K group readable and the vector in an allocation, mxnorm goes on with the norms of both
operands and S written; mxalias goes on with the alias unit holding K, S and the table of R213, or marked
ZERO when S is 0; mxsamp on a table marked ZERO with the tile zero and REASON 3, else, with the group of its
turn readable, with the 16 terms of every element added in one pass: it stops with REASON 1 where V of R217
is at most THR, with REASON 2 at s_max, the tile then divided by s, and runs on otherwise.  The model reads
or fills in the spec here as log entries 12, 85, 152 say. (R183, R210, R212, R213, R216, R217, R218, R219) -/
def Obligations.SampledProducts : Prop :=
  ∀ (f : Fields) (ring : Nat) (st : Stream) (s : State),
    let p := s.ringParty ring
    let core := (s.ring ring).core
    let au := (s.core core).au
    let next := st.pc + BitVec.ofNat 64 s.len
    let on := fun (s1 : State) => (.next (s1.streamNext ring next) : Out)
    let goesOn := fun (i : Instr) (s1 : State) => exec i s = .next s1 ∧
      ∃ u, s1.stream? ring = some u ∧ u.pc = next ∧ u.left = st.left - 1 ∧ u.state = 2 ∧ u.row = 0
    let reg := fun (x : BitVec 8) => st.m.getD x.toNat {}
    let c := st.row.toNat % 2 ^ 16
    (∀ (ha hb : HdrUse) (kb : List Byte) (g0 : Nat),
      let va := (reg f.c).v.toNat
      let k := leNat kb
      let oa : Operand := { h := ha.h, fmt := ha.fmt, p := shapeM f.shape, k := k }
      let ob : Operand := { h := hb.h, fmt := hb.fmt, p := shapeN f.shape, k := k }
      StreamMay (.mxnorm f) f ring st s → useHdr s ring st f.a = .ok ha → useHdr s ring st f.b = .ok hb →
      va % 16 = 0 → s.fetchData p va 4 = .ok (kb, g0) → k % 32 = 0 → 32 ≤ k → k ≤ 65536 →
      pairOk ha.h hb.h = true → ha.h.spar = 0 → hb.h.spar = 0 →
      (c + 4 < k / 32 → ∀ s2, normGroups oa ob va (maxOf [ha.g, hb.g, (reg f.c).g, g0]) [c, c + 1, c + 2, c + 3]
          (s.modStream ring fun st => { st with fmts := keptFormats [ha, hb] }) = .ok s2 →
        exec (.mxnorm f) s = .next (s2.modStream ring fun st => { st with state := 2, wait := none })) ∧
      (c + 1 = k / 32 → (∃ x y z, x < s.cores.length ∧ ∀ i n, 0 < n → i + n ≤ 16 + 8 * k →
          inWindows (va + i) = true ∧ s.scratchAt (some ring) (va + i) n = some (x, y + i, z)) →
        ∀ na nb ga gb, operandNorms oa (32 * c) 32 s p = .ok (na, ga) → operandNorms ob (32 * c) 32 s p = .ok (nb, gb) →
        ∃ s1, goesOn (.mxnorm f) s1 ∧ s1.mem = s.mem ∧ ∃ rows : Nat → List Byte,
          (∀ i < k, ∃ g, s1.fetchData p (va + 16 + 8 * i) 8 = .ok (rows i, g)) ∧
          (∀ i < 32, rows (32 * c + i) = leBytes (bits0 (na.getD i (.nan, 0)).1) 4 ++ leBytes (bits0 (nb.getD i (.nan, 0)).1) 4) ∧
          ∃ g, s1.fetchData p (va + 8) 4 = .ok (leBytes (bits0 (normSum ((List.range k).map fun i =>
            (fmtF32.decode (fieldAt (rows i) 0 4), fmtF32.decode (fieldAt (rows i) 4 4)))).1) 4, g))) ∧
    (∀ (kb : List Byte) (g0 g1 : Nat) (rows : List (List Byte)),
      let va := (reg f.a).v.toNat
      let k := leNat kb
      let norms := rows.map fun b => (fmtF32.decode (fieldAt b 0 4), fmtF32.decode (fieldAt b 4 4))
      let sum := normSum norms
      let t := aliasTable (norms.map fun x => (enc0 ((x.1.mul x.2).1, 0)).1) sum.1
      let held := fun (zero : Bool) (ents : List AliasEnt) (fl : BitVec 4) =>
        on ((s.modCore core fun c => { c with au := { c.au with
          k := k, s := BitVec.ofNat 32 (bits0 sum.1), g := max (reg f.a).g (max g0 g1), zero := zero,
          ents := ents, bad := false } }).modStream ring fun st => { st with flags := st.flags ||| fl })
      StreamMay (.mxalias f) f ring st s → au.holder = some ring → s.fetchData p va 4 = .ok (kb, g0) →
      k % 32 = 0 → 32 ≤ k → k ≤ 65536 →
      Rd.all (fun i => s.fetchData p (va + 16 + 8 * i) 8) (List.range k) = .ok (rows, g1) →
      (∀ x ∈ norms, normBad x.1 = false ∧ normBad x.2 = false) → sum.1.isInf = false →
      (sum.1.isZero = true → exec (.mxalias f) s = held true (List.replicate k {}) sum.2) ∧
      (sum.1.isZero = false → exec (.mxalias f) s = held false t.1 (sum.2 ||| t.2))) ∧
    (∀ (ha hb : HdrUse),
      let imm := f.imm.toNat
      let m := shapeM f.shape
      let n := shapeN f.shape
      let w := reg f.c
      let smin := w.v.toNat % 2 ^ 21
      let smax := w.v.toNat / 2 ^ 32 % 2 ^ 21
      let d := f.d.toNat
      let seed := reg (f.c + 1)
      let oa : Operand := { h := ha.h, fmt := ha.fmt, p := m, k := au.k }
      let ob : Operand := { h := hb.h, fmt := hb.fmt, p := n, k := au.k }
      let zeroed := s.modStream ring fun st =>
        { st.putBank d ((st.bank d).onTile (originRow imm) (originCol imm) m n fun _ _ _ => ({}, 0))
            (max (maxOf [(reg f.a).g, (reg f.b).g, w.g, seed.g, ha.g, hb.g]) au.g) with fmts := keptFormats [ha, hb] }
      let cols := fun (o : Operand) => Rd.all (fun q => Rd.all (fun k => o.value s p q k)
        ((List.range 16).map fun i => drawAt au (seed.v.toNat % 2 ^ 32) (16 * c + i))) (List.range o.p)
      StreamMay (.mxsamp f) f ring st s → st.smp = true →
      useHdr s ring st f.a = .ok ha → useHdr s ring st f.b = .ok hb → au.k ≠ 0 →
      w.v.toNat = smin + smax * 2 ^ 32 → smin % 16 = 0 → smax % 16 = 0 → 16 ≤ smin → smin ≤ smax → smax ≤ 2 ^ 20 →
      ha.h.spar = 0 → hb.h.spar = 0 → pairOk ha.h hb.h = true →
      cellClass ha.h ha.fmt ≤ 1 → cellClass hb.h hb.fmt ≤ 1 → originOk imm m n = true →
      (au.zero = true → c = 0 → ∃ g, exec (.mxsamp f) s = on (zeroed.modRing ring fun x =>
        { x with smpstat := smpWord 3 false 0 0, svar := BitVec.ofNat 64 (au.s.toNat * 2 ^ 32), smpg := g })) ∧
      (au.zero = false → ∀ xa xb ga gb, cols oa = .ok (xa, ga) → cols ob = .ok (xb, gb) →
        let count := 16 * (c + 1)
        let ks := (List.range 16).map fun i => drawAt au (seed.v.toNat % 2 ^ 32) (16 * c + i)
        let term := fun (i j : Nat) => groupSum ((((nth xa i []).zip (nth xb j [])).zip
          (ks.map fun k => fmtF32.decode (nth au.ents k {}).rho.toNat)).map fun x => ((x.1.1.mul x.1.2).1.mul x.2).1)
        let start := if c = 0 then ((st.bank d).onTile (originRow imm) (originCol imm) m n fun _ _ _ => ({}, 0)).1
          else st.bank d
        let bank := (start.addTile (originRow imm) (originCol imm) m n term).1
        let facc := ((List.range m).flatMap fun i => (List.range n).map fun j => (i, j)).foldl (fun acc x =>
          let e := (enc0 (bank.value (originRow imm + x.1) (originCol imm + x.2), 0)).1
          (enc0 (FV.fma e e acc)).1) (.fin false 0 0)
        let v := (sampVariance facc (fmtF32.decode au.s.toNat) count).1
        let checks := if c = 0 then 0 else bitsOf (s.ring ring).smpstat.toNat 48 32
        let thr := fmtF32.decode (seed.v.toNat / 2 ^ 32)
        let below := v.isNan = false ∧ thr.isNan = false ∧ v.le thr = true
        let svar := BitVec.ofNat 64 (au.s.toNat * 2 ^ 32 + bits0 v)
        let runs := fun (w : Word) (z : State → Prop) => ∃ s1 u, exec (.mxsamp f) s = .next s1 ∧
          s1.stream? ring = some u ∧ u.pc = st.pc ∧ u.state = 2 ∧ u.left = st.left ∧ u.row.toNat = c + 1 ∧
          u.bank d = bank ∧ (s1.ring ring).smpstat = w ∧ z s1 ∧ s1.mem = s.mem
        let stops := fun (reason : Nat) => ∃ s1 u, goesOn (.mxsamp f) s1 ∧ s1.mem = s.mem ∧
          s1.stream? ring = some u ∧ (s1.ring ring).smpstat = smpWord reason false (checks + 1) count ∧
          (s1.ring ring).svar = svar ∧
          u.bank d = (bank.onTile (originRow imm) (originCol imm) m n fun x _ _ => x.divide count).1
        (count < smin → runs (smpWord 0 true checks count) fun _ => True) ∧
        (smin ≤ count → count < smax → ¬below → runs (smpWord 0 true (checks + 1) count) fun s1 =>
          (s1.ring ring).svar = svar) ∧
        (smin ≤ count → count ≤ smax → below → stops 1) ∧
        (count = smax → ¬below → stops 2))) ∧
    (∀ (facc tab : FV) (n : Nat), facc.isNan = false → facc.isInf = false →
      let fr := (enc0 (facc.quot (.fin false (n * n) 0), 0)).1
      let num := (enc0 ((enc0 (tab.mul tab)).1.add fr.negate)).1
      let den := (enc0 ((FV.fin false n 0).mul fr)).1
      let v := (sampVariance facc tab n).1
      (fr.isZero = true → v = .inf false) ∧
      (fr.isZero = false → fr.isNan = false → num.isNan = false → num.isInf = false → den.isNan = false →
        den.isInf = false → v = (enc0 (num.quot den, 0)).1))

/-- With the base page accessible, a region there and a legal pattern, tdep, tread and ttake with a free entry
of the operand log leave an outstanding operation whose active lanes, in increasing order, have each been
sent to the home of its tag (a deposit above the grade of the page faults its lane); with no active lane
nothing is sent. tcan sends a cancellation to every slice; tstat asks its slices for their counts. Where no
lane faults the instruction has issued and every lane waits for its reply.  The model reads or fills in the
spec here as log entries 13, 105 say. (R287, R289, R296, R297, R298, R300, R301) -/
def Obligations.TupleInstructions : Prop :=
  ∀ (f : Fields) (e : VEntry) (t : Troupe) (s : State),
    let base := e.cap.a.v
    let p := s.ringParty t.id.ring
    let found := fun (i : Instr) (r : Region) (site : Site) =>
      e.cap.k0 ≠ 0 ∧ t.vwait ≠ some .parked ∧ s.access p base.toNat (tupleWant i) = .ok site ∧
        s.regionAt p.asid base = some r
    let started := fun (r : Region) (site : Site) (n : Nat) (o : Op) =>
      (.next (((tupleLanes e t f.c.toNat n).foldl (startLane t.id { o with id := t.nextOp, cap := e.cap } r site.g)
        ((s.touch p base.toNat site).setTroupe (t.startOp e o))).vectorEnd t.id) : Out)
    let sent := fun (i : Instr) => ∃ (s1 : State) (u : Troupe), exec i s = .next s1 ∧ Issued t u s1 ∧
      ∃ o ∈ u.ops, o.id = t.nextOp ∧ o.instr = i ∧ o.lanes.map (·.lane) = lanesOf e.cap.k0 ∧ ∀ l ∈ o.lanes, l.st = .sent
    (VectorMay (.tdep f) e t s →
      (e.cap.k0 = 0 → exec (.tdep f) s = .next (s.vectorEnd t.id)) ∧
      (∀ r site slot, found (.tdep f) r site → t.freeSlot = some slot →
        let n := 1 + f.imm.toNat
        let g := maxOf ((List.range n).map fun j => (t.vreg (f.c.toNat + j)).g)
        exec (.tdep f) s = started r site n
          { id := 0, instr := .tdep f, slot := some slot, sdest := sNum f.d, grade := max e.cap.a.g g, dgrade := g,
            lanes := tupleLanes e t f.c.toNat n, sres := [{ d := f.d, v := {} }] } ∧
        (t.calm → (∀ o ∈ t.ops, o.id < t.nextOp) → g ≤ site.g → sent (.tdep f)))) ∧
    (∀ c ∈ [Instr.tread, .ttake], VectorMay (c f) e t s →
      let pat := e.cap.b.v
      let n := 1 + patM pat
      t.overBudget (s.ring t.id.ring).vgen ((resultBlock f).map (BitVec.ofNat 8)) = false →
      (e.cap.k0 = 0 → exec (c f) s = .next (s.vectorNext t (t.lowerFlag e.flag))) ∧
      (∀ r site slot, found (c f) r site → t.freeSlot = some slot →
        patBad pat = false → (patMasked pat = true → f.b.toNat < 127) → f.c.toNat + n ≤ 64 →
        let mg := if patMasked pat then maxOf (e.cap.more.map (·.g)) else 0
        let g := maxOf [e.cap.a.g, e.cap.b.g, mg, maxOf ((patFields pat).map fun j => (t.vreg (f.c.toNat + 1 + j)).g),
          (t.vreg f.c.toNat).g, site.g]
        exec (c f) s = started r site n
          { id := 0, instr := c f, slot := some slot, vdest := resultBlock f, general := true,
            ac := if f.sub = 1 then some f.sel.toNat else none, grade := g, rgrade := g,
            lanes := tupleLanes e t f.c.toNat n } ∧
        (t.calm → (∀ o ∈ t.ops, o.id < t.nextOp) → sent (c f)))) ∧
    (VectorMay (.tcan f) e t s →
      (e.cap.k0 = 0 → exec (.tcan f) s = .next (s.vectorEnd t.id)) ∧
      (e.cap.k0 ≠ 0 → exec (.tcan f) s = .next (State.vectorEnd { s.setTroupe { t with
          nextOp := t.nextOp + 1 } with slices := s.slices.map fun c =>
            { c with ports := upd c.ports (s.dieOf t.id.ring) fun l => l ++
              [{ kind := .cancel, t := t.id, op := t.nextOp, asid := s.asidOf t.id.ring, lanes := e.cap.k0,
                 park := some f.sel.toNat }] } } t.id))) ∧
    (∀ r site, VectorMay (.tstat f) e t s → t.vwait ≠ some .parked →
      s.access p base.toNat (tupleWant (.tstat f)) = .ok site → s.regionAt p.asid base = some r →
      let tag : Lane := e.cap.b.v.setWidth 32
      let homes := if f.sub = 1 then [tupleHome p.asid r.rid tag] else List.range 16
      let g := maxOf [e.cap.a.g, if f.sub = 1 then e.cap.b.g else 0, site.g]
      exec (.tstat f) s = .next ((homes.foldl
        (fun s n => s.toSlice (s.dieOf t.id.ring) n
          { kind := .stat, t := t.id, op := t.nextOp, lane := n, asid := p.asid, rid := r.rid,
            tag := if f.sub = 1 then some tag else none })
        ((s.touch p base.toNat site).setTroupe (t.startOp e
          { id := 0, instr := .tstat f, sdest := sNum f.d, grade := g, rgrade := g,
            lanes := homes.map fun n => { lane := n, addr := base, st := .sent } }))).vectorEnd t.id))

/-- A slice serves its next request against its region, with the spilled tuples as the spill area holds them,
and newly spilled tuples are written there. A deposit is numbered: where a parked take matches it is
consumed, the store as before and the count one more; else it is stored, or answered FULL where quota and
spill are full, the region as before. A copy-match changes no store; a take removes the oldest match. A
cancellation frees the entries of its lanes and counter and answers each with status 4, changing no store. A
refill moves the oldest spilled tuple to the store and writes no memory; a tuple newly spilled is written to
the lowest free entry. A reply is applied to its lane.  The model reads or fills in the spec here as log
entries 14, 100 to 104, 106 say. (R290, R291, R292, R293, R300, R298) -/
def Obligations.TupleService : Prop :=
  (∀ (s : State) (q : TReq),
    let n := s.ev.unit_
    (s.slice n).next? = some q →
    let s0 := s.loadSpill n q.asid q.rid
    (q.kind = .dep → s.region? q.asid q.rid ≠ none → exec .tupleDepositServe s =
      .next ((s0.modSlice n fun c => serveDeposit q.quota q.scap q c.pop).storeSpill n q.asid q.rid)) ∧
    (q.kind = .read ∨ q.kind = .take →
      exec .tupleMatchServe s = .next ((s0.matchServe n q).storeSpill n q.asid q.rid)) ∧
    (q.kind = .stat → exec .tupleMatchServe s = .next (s0.modSlice n fun c => serveStat q c.pop)) ∧
    (((s.slice n).region q.asid q.rid).spill = [] → s0 = s) ∧
    (q.kind = .cancel → exec .tupleCancelServe s = .next (s.modSlice n fun c => serveCancel q c.pop))) ∧
  (∀ (q : TReq) (quota scap : Nat) (c : Slice),
    let old := c.region q.asid q.rid
    let tup : Tup := { tag := q.tag.getD 0, arity := q.arity, grade := q.g, seq := old.count,
                       f := (List.range 14).map fun j => if j < q.arity then q.vals.getD j 0 else 0 }
    let taker := (c.parked.map (·.2)).find? fun x =>
      x.asid == q.asid && x.rid == q.rid && x.matches tup && x.kind == .take
    let new := (serveDeposit quota scap q c).region q.asid q.rid
    (taker ≠ none → new.count = old.count + 1 ∧ new.store = old.store ∧ new.spill = old.spill) ∧
    (taker = none → old.live < quota + scap →
      new.count = old.count + 1 ∧ new.live = old.live + 1 ∧ tup ∈ new.store ++ new.spill) ∧
    (taker = none → quota + scap ≤ old.live → new = old ∧
      { t := q.t, op := q.op, lane := q.lane, status := 0, full := true : TReply } ∈ (serveDeposit quota scap q c).replies)) ∧
  (∀ (q : TReq) (room : Bool) (c : Slice),
    let old := c.region q.asid q.rid
    let r := serveMatch q room c
    (∀ t, old.all.find? q.matches = some t → r.2 = false ∧ q.matched t false ∈ r.1.replies ∧
      (q.kind = .read → r.1.region q.asid q.rid = old) ∧ (q.kind = .take → r.1.region q.asid q.rid = old.without t.seq)) ∧
    (old.all.find? q.matches = none → r.1.regs = c.regs ∧
      (q.park = none → r.2 = false ∧ q.answer 1 false ∈ r.1.replies) ∧
      (q.park ≠ none → room = true → (∃ n < 256, ∀ p ∈ c.parked, p.1 ≠ n) → r.2 = true ∧
        q.answer 2 false ∈ r.1.replies ∧ ∃ n < 256, r.1.parked = c.parked ++ [(n, q)] ∧ (∀ p ∈ c.parked, p.1 ≠ n) ∧
          ∀ j < n, ∃ p ∈ c.parked, p.1 = j) ∧
      (q.park ≠ none → room = false ∨ (∀ n < 256, ∃ p ∈ c.parked, p.1 = n) → r.2 = false ∧
        q.answer 3 false ∈ r.1.replies ∧ r.1.parked = c.parked))) ∧
  (∀ (q : TReq) (c : Slice),
    let hit := fun (x : TReq) => x.t == q.t && q.lanes.getLsbD x.lane && (q.park.isNone || x.park == q.park)
    let c1 := serveCancel q c
    c1.parked = (c.parked.filter fun p => !hit p.2) ∧
    c1.replies = c.replies ++ ((c.parked.filter fun p => hit p.2).map fun p => p.2.answer 4 true) ∧
    c1.regs = c.regs ∧ c1.ports = c.ports) ∧
  (∀ r : RegSt, r.spill ≠ [] → ∃ t, (∀ u ∈ r.spill, t.seq ≤ u.seq) ∧ (t :: r.refill.spill).Perm r.spill ∧
    r.refill.store.Perm (t :: r.store) ∧ r.refill.count = r.count) ∧
  (∀ (s : State) (n asid rid : Nat) (x : Region), s.region? asid rid = some x → n < s.slices.length →
    let r := (s.slice n).region asid rid
    let kept := r.places.filter fun p => r.spill.any fun t => t.seq == p.1
    let s1 := s.storeSpill n asid rid
    ((∀ t ∈ r.spill, ∃ p ∈ r.places, p.1 = t.seq) → s1.mem = s.mem) ∧
    (∀ t, (r.spill.filter fun u => !kept.any fun p => p.1 == u.seq) = [t] → ∃ k,
      (∀ j < k, ∃ p ∈ kept, p.2 = j) ∧ (∀ p ∈ kept, p.2 ≠ k) ∧ s1.mem = cellWriteN s.mem (x.spillEntry n k) t.bytes ∧
      ((s1.slice n).region asid rid).places = kept ++ [(t.seq, k)])) ∧
  (∀ (s : State), canRefill s s.ev.unit_ s.ev.asid s.ev.num = true →
    exec .tupleRefill s = .next (((s.loadSpill s.ev.unit_ s.ev.asid s.ev.num).modSlice s.ev.unit_ fun c =>
      c.putRegion (c.region s.ev.asid s.ev.num).refill).storeSpill s.ev.unit_ s.ev.asid s.ev.num)) ∧
  (∀ (s : State) (r : TReply) (rest : List TReply),
    takeReply ⟨s.ev.ring, s.ev.idx⟩ s.ev.op s.ev.lane (s.slice s.ev.unit_).replies = some (r, rest) →
    replyReady s r = true → s.savedOf s.ev.ring = none →
    exec .tupleReply s = .next ((applyReply r (s.modSlice s.ev.unit_ fun c => { c with replies := rest })).settle
      ⟨s.ev.ring, s.ev.idx⟩))

/-- With fewer than 16 entries the instruction stands last in the queue with its captured operand, slvst with
its destination held; the sequencer of a die performs the head of the ring whose turn it is: slvst gives the
word of R314 with the grade of the batch, slvtab installs a valid table that suits a held descriptor, slvstg
and slvend step every live sample in order (with no live sample they change none); slvini without a batch
reads its descriptor and asks for its grant, and with all records read the batch is READY; the earliest
granted request that fits claims its slots; a batch whose ring has no live troupe and no queued operation is
released.  The model reads or fills in the spec here as log entries 107 to 112, 169, 170 say. (R303, R304,
R305, R306, R309, R312, R313, R314) -/
def Obligations.SolverQueue : Prop :=
  (∀ (f : Fields) (e : VEntry) (t : Troupe) (s : State),
    let ring := t.id.ring
    let joined := fun (i : Instr) (op : Nat) => s.modRing ring fun r =>
      let q := r.solver.queue ++ [{ instr := i, a := e.cap.a, by_ := t.id, op := op, iaddr := e.iaddr }]
      { r with solver := { r.solver with
        queue := q,
        state := if r.solver.state ≠ 0 then r.solver.state
          else if q.any fun o => match o.instr with | .slvini _ => true | _ => false then 1 else 0 } }
    (s.solver ring).queue.length < 16 →
    (∀ c ∈ [Instr.slvtab, .slvini, .slvstg, .slvend], VectorMay (c f) e t s →
      exec (c f) s = .next ((joined (c f) 0).vectorEnd t.id)) ∧
    (∀ c ∈ [Instr.slvst, .slvstRel], VectorMay (c f) e t s →
      exec (c f) s = .next (((joined (c f) t.nextOp).setTroupe
        (t.startOp e { id := 0, instr := c f, sdest := sNum f.d })).vectorEnd t.id))) ∧
  (∀ (s : State) (r : Nat) (o : SolvOp) (rest : List SolvOp), s.solverTurn s.ev.die = some r →
    (s.solver r).queue = o :: rest → (s.solver r).reload = 0 →
    let v := s.solver r
    let s1 := s.modDie s.ev.die fun d => { d with solvRR := r }
    let does := fun (s2 : State) => exec .solverQueueServe s = .next (s2.releaseIdle r)
    let popped := fun (s : State) => s.modSolver r fun v => { v with queue := v.queue.tail, pos := 0, hold := false }
    (∀ f, o.instr = .slvst f → f.sub = 0 → does ((popped (s1.modTroupe o.by_ fun t =>
      match t.op? o.op with
      | some op => (t.writeS f.d { v := BitVec.ofNat 64 (v.flags.toNat * 2 ^ 48 + v.err * 2 ^ 32
          + (if v.claimed then descN v.desc else 0) * 2 ^ 16
          + (if v.claimed then (v.samples.filter fun x => x.status &&& 0x1C == 0).length else 0)), g := v.grade }).endOp op
      | none => t)).settle o.by_)) ∧
    (∀ f b g, o.instr = .slvtab f → v.state ≠ 3 →
      s1.fetchData (s1.solverParty r) o.a.v.toNat 384 = .ok (b, g) → o.a.v.toNat % 64 = 0 → tabValid b = true →
      (v.claimed = true → tabBesideBad v.desc b = false) →
      does (popped (((s1.modSolver r fun v => if v.claimed then { v with grade := max (max v.grade o.a.g) g } else v).countFlits
        (s1.solverParty r) o.a.v.toNat 384).modSolver r fun v =>
          { v with tab := some b, cq := tabCq b, tgrade := max g o.a.g }))) ∧
    (∀ f s2, o.instr = .slvstg f ∧ f.imm.toNat < tabSigma (v.tab.getD []) → v.state = 2 → v.tab ≠ none →
      repeatStep (nextSample r (stageSample f.imm.toNat)) (v.samples.length - v.pos) s1 = (s2, none) → does (popped s2)) ∧
    (∀ f s2, o.instr = .slvend f → v.state = 2 → v.tab ≠ none →
      repeatStep (nextSample r endSample) (v.samples.length - v.pos) s1 = (s2, none) → does (popped s2)) ∧
    (∀ f, o.instr = .slvend f ∨ (o.instr = .slvstg f ∧ f.imm.toNat < tabSigma (v.tab.getD [])) → v.state = 2 →
      v.tab ≠ none → (∀ x ∈ v.samples, x.live = false) → does (popped s1)) ∧
    (∀ f, o.instr = .slvini f → v.claimed = true → v.state = 1 → descN v.desc ≤ v.samples.length →
      does (popped (s1.modSolver r fun v => { v with state := 2 }))) ∧
    (∀ f b g, o.instr = .slvini f → v.state ≠ 3 → v.claimed = false →
      let s2 := s1.modSolver r fun v => { v with flags := 0, err := 0 }
      s2.fetchData (s2.solverParty r) o.a.v.toNat 128 = .ok (b, g) → o.a.v.toNat % 64 = 0 → descBad b v.tab = false →
      does (((s2.countFlits (s2.solverParty r) o.a.v.toNat 128).modSolver r fun v => { v with
        state := 1, daddr := o.a.v, desc := b, samples := [],
        grade := maxOf [(s2.launchOf r).lr.grade, v.tgrade, o.a.g, g] }).askCalliope r))) ∧
  (∀ (s : State) (r : Nat), s.calliopeHead s.ev.die = some r → s.calliopeFits s.ev.die r = true →
    let s1 := s.modSolver r fun v => { v with claimed := true, hold := false }
    ((s.solver r).state = 1 → exec .calliopeGrant s = .next ((performSolver r s1).releaseIdle r)) ∧
    ((s.solver r).state ≠ 1 → exec .calliopeGrant s = .next ((reloadSamples r s1).releaseIdle r)) ∧
    ((s.solver r).state ≠ 1 → (s.solver r).reload = 0 → exec .calliopeGrant s = .next (s1.releaseIdle r))) ∧
  (∀ (s : State) (r : Nat),
    let v := s.solver r
    (s.troupesOf r ≠ [] ∨ v.queue ≠ [] → s.releaseIdle r = s) ∧
    (s.troupesOf r = [] → v.queue = [] → v.claimed = true → v.implicit = false → 4 ∉ (s.ring r).returns →
      s.releaseIdle r = s.modSolver r fun v => { v with
        state := 0, samples := [], desc := [], claimed := false, granted := false, implicit := false, reload := 0 }))

/-- fmreq counts its wait flag and hands the format manager a request of slot, address and grade; fmfence goes
on once no operation of its troupe and no earlier copy of it (with SUB 1 of its ring, and no operation of
its stream issued before) names the slot; fmq and fmq.hash will write the state word or a part of the image
hash with grade 0; fmrel writes 9 for an UNBOUND slot with no request in flight or one whose release is
pending, 0 and nothing more for an UNBOUND slot with one, else 0 with the release begun or pending.  The
model reads or fills in the spec here as log entries 118, 153, 156 say. (R142, R143, R144, R145, R146) -/
def Obligations.FormatInstructions : Prop :=
  ∀ (f : Fields) (t t1 : Troupe) (s : State) (j : Nat),
    let ring := t.id.ring
    let asid := s.asidOf ring
    let slot := f.ty.toNat
    let ent := s.slotEnt asid slot
    let core := (s.ring ring).core
    let waits := fun (i : Instr) (o : Op) => s.setTroupe (t1.startOp (t.scalarEntry i (some j)) o)
    let on := fun (s1 : State) => (.next (s1.endInstr t.id (t.pc + BitVec.ofNat 64 s.len)) : Out)
    (ScalarMay (.fmreq f) t s → t.nameFlag (.fmreq f) = .named j t1 →
      exec (.fmreq f) s = on ((waits (.fmreq f)
        { id := 0, instr := .fmreq f, sdest := sNum f.d, grade := (readS s t f.a).g }).modFw fun w =>
          { w with fm := w.fm ++ [{ asid := asid, slot := slot, addr := (readS s t f.a).v,
                                    grade := (readS s t f.a).g, by_ := some (t.id, t.nextOp), ring := ring }] })) ∧
    (∀ e, VectorMay (.fmfence f) e t s → (∀ o ∈ t.ops, slot ∉ o.instr.slots) →
      let clear := fun (upto : Nat) =>
        ∀ x ∈ (s.core core).cq0 ++ (s.core core).cq1, x.ring = ring → (f.sub = 1 ∨ x.uid = t.uid) → x.id < upto →
          x.names s slot = false
      ((∀ n op, t.vwait ≠ some (.fmfence n op)) → clear s.fresh → (f.sub = 1 →
          (s.ring ring).streamUses slot = false ∨ ∀ st, (s.ring ring).stream = some st → st.issued = false) →
        exec (.fmfence f) s = .next (s.vectorEnd t.id)) ∧
      (∀ n op, t.vwait = some (.fmfence n op) → clear n →
        (f.sub = 1 → (s.ring ring).streamUses slot = false ∨ op ≠ (s.ring ring).stream.map Stream.nth_) →
        exec (.fmfence f) s = .next (s.vectorEnd t.id))) ∧
    (∀ c ∈ [Instr.fmq, .fmqHash], ScalarMay (c f) t s → t.nameFlag (c f) = .named j t1 →
      ∃ w : Word, exec (c f) s = on (waits (c f)
        { id := 0, instr := c f, sdest := sNum f.d, sres := [{ d := f.d, v := { v := w, g := 0 } }] }) ∧
      (f.sub = 1 → w = if slot < 8 then 0
        else BitVec.ofNat 64 (leNat ((ent.ihash.drop (8 * (f.imm.toNat % 4))).take 8))) ∧
      (f.sub ≠ 1 → slot < 8 → ((s.core core).frames.getD slot {}).users < 256 →
        w.toNat % 16 = 4 ∧ w.toNat / 16 % 16 = slot ∧ w.getLsbD 16 = false ∧ w.getLsbD 17 = true) ∧
      (f.sub ≠ 1 → 8 ≤ slot → ent.state < 16 → (∀ m ∈ ent.map, m.2 < 16) →
        w.toNat % 16 = ent.state ∧ w.getLsbD 16 = ent.rel ∧
        w.toNat / 16 % 16 = (((ent.map.find? fun m => m.1 == core).map (·.2)).getD 15) ∧
        w.getLsbD 17 = s.slotAvail ring slot)) ∧
    (ScalarMay (.fmrel f) t s →
      let writes := fun (s1 : State) (n : Word) => on (s1.modTroupe t.id fun t => t.writeS f.d { v := n, g := 0 })
      (ent.rel = true ∨ (ent.state = 0 ∧ ∀ r ∈ s.fw.fm, r.asid = asid → r.slot ≠ slot) →
        exec (.fmrel f) s = writes s 9) ∧
      (ent.state = 0 → ent.rel = false → (∃ r ∈ s.fw.fm, r.asid = asid ∧ r.slot = slot) →
        exec (.fmrel f) s = writes s 0) ∧
      (ent.state ≠ 0 → ent.rel = false → exec (.fmrel f) s = writes (s.modSlot asid slot fun e =>
        { e with rel := true, state := if e.state = 3 then 1 else e.state }) 0))

/-- FORMAT_CHECK_COMPLETE ends the next request with the status of the stage that fails, or begins it: with no
frame on some core the status is 8, otherwise an image not bound leaves the slot DRAINING towards it.
SLOT_DRAIN_COMPLETE makes a slot no operation names LOADING; FRAME_READY makes a frame ready, and a slot
whose frames all are BOUND to the image, or UNBOUND when a release is pending, and the request ends with 0.
The model reads or fills in the spec here as log entries 115, 116, 117, 155 say. (R133, R135, R136, R137,
R146) -/
def Obligations.FormatEvents : Prop :=
  (∀ (s : State) (r : FmReq), s.nextRequest = some r →
    (∀ st, s.checkPackage r.asid r.addr r.grade = .error st →
      exec .formatCheckComplete s = .next ((s.dropRequest r).endRequest r st)) ∧
    (∀ hash f, s.checkPackage r.asid r.addr r.grade = .ok (hash, f) →
      let e := s.slotEnt r.asid r.slot
      let same := e.state = 3 ∧ e.ihash = hash
      let cores := s.slotCores r.asid r.slot r.ring
      (¬same → s.chooseAll hash e cores = none → exec .formatCheckComplete s = .next ((s.dropRequest r).endRequest r 8)) ∧
      (∀ l, ¬same → s.chooseAll hash e cores = some l →
        exec .formatCheckComplete s = .next (((l.foldl (State.takeFrame hash) s).modSlot r.asid r.slot fun e =>
          { e with state := 1, next := some (hash, f, l.map fun x => (x.1, x.2.1)) }).modFw fun w =>
            { w with fm := w.fm.map fun x => if x = r then { x with going := true } else x })) ∧
      (same → (∀ c ∈ cores, ∃ m ∈ e.map, m.1 = c) → exec .formatCheckComplete s =
        .next ((((s.modSlot r.asid r.slot fun e => { e with map := e.map ++ [] }).makeAvail r.ring r.slot).dropRequest
          r).endRequest r 0)))) ∧
  (∀ (s : State),
    let asid := s.ev.asid
    let slot := s.ev.num
    let e := s.slotEnt asid slot
    (e.state = 1 → s.slotBusy asid slot = false → ∃ s1, exec .slotDrainComplete s = .next s1 ∧
      s1.slotEnt asid slot = { e with state := 2 } ∧ s1.mem = s.mem ∧ s1.troupes = s.troupes) ∧
    (s.ev.on = true → exec .frameReady s =
      .next (s.modFrame s.ev.core s.ev.num fun fr => if fr.state = 2 then { fr with state := 3 } else fr)) ∧
    (∀ r hash f l, s.ev.on = false → e.state = 2 → e.next = some (hash, f, l) →
      (∀ x ∈ l, ((s.core x.1).frames.getD x.2 {}).state = 3 ∧ ((s.core x.1).frames.getD x.2 {}).pend = false) →
      s.fw.fm.find? (fun r => r.going && r.asid == asid && r.slot == slot) = some r →
      ∃ s1 : State, s1.mem = s.mem ∧ s1.troupes = s.troupes ∧
        s1.slotEnt asid slot =
          (if e.rel then {} else { state := 3, ihash := hash, fmt := some f, map := l }) ∧
        exec .frameReady s = .next ((s1.dropRequest r).endRequest r 0)))

/-- grd gives the grade of a register, of a vector register or of the line or page at an address, with grade 0;
grraise copies A with at least grade g; grdecl copies A with grade g in context 0, and in any other context
takes a fault with cause PRIV and no effect. With no operation outstanding that can raise flags and no
tracking copy that owes them: nflg writes the sticky flags to D, nflg.clr writes them and then clears those
of IMM, nflg.set sets those of IMM and writes no register, nflg.def writes the deferred-flag word; the other
flags stay.  The model reads or fills in the spec here as log entry 88 says. (R378, R379, R357) -/
def Obligations.GradesAndFlags : Prop :=
  (∀ (f : Fields) (e : VEntry) (t : Troupe) (s : State),
    let g := f.imm.toNat % 8
    let a := readS s t f.a
    let va := readV t f.a e.cap.a
    let nat := fun (n : Nat) => t.writeS f.d { v := BitVec.ofNat 64 n, g := 0 }
    let room := t.room (s.ring t.id.ring).vgen f.d
    (f.sub = 0 → ScalarMay (.grd f) t s → exec (.grd f) s = .next (s.scalarNext t (nat a.g))) ∧
    (f.sub = 1 → VectorMay (.grd f) e t s → exec (.grd f) s = .next (s.vectorNext t (nat va.g))) ∧
    (f.sub = 2 → VectorMay (.grd f) e t s → t.vwait ≠ some .parked →
      let at_ := (e.cap.a.v + f.imm.signExtend 64).toNat
      ∀ site, s.gradeAt (s.ringParty t.id.ring) at_ = .ok site → exec (.grd f) s =
        .next (((s.touch (s.ringParty t.id.ring) at_ site).modTroupe t.id fun t =>
          t.writeS f.d { v := BitVec.ofNat 64 site.g, g := 0 }).vectorEnd t.id)) ∧
    (f.sub = 0 → ScalarMay (.grraise f) t s →
      exec (.grraise f) s = .next (s.scalarNext t (t.writeS f.d { v := a.v, g := max a.g g }))) ∧
    (f.sub = 1 → VectorMay (.grraise f) e t s → room →
      Computes (.grraise f) e t s f.d (max va.g g) va.sh.lane 0) ∧
    (f.sub = 0 → ScalarMay (.grdecl f) t s → exec (.grdecl f) s =
      .next (if s.asidOf t.id.ring = 0 then s.scalarNext t (t.writeS f.d { v := a.v, g := g })
        else s.scalarFaultOf (.grdecl f) t { cause := .priv })) ∧
    (f.sub = 1 → VectorMay (.grdecl f) e t s → room →
      (s.asidOf t.id.ring = 0 → Computes (.grdecl f) e t s f.d g va.sh.lane 0) ∧
      (s.asidOf t.id.ring ≠ 0 → exec (.grdecl f) s = .next (s.vectorFaultOf (.grdecl f) t e { cause := .priv })))) ∧
  (∀ (f : Fields) (e : VEntry) (t : Troupe) (s : State),
    (∀ o ∈ t.ops, o.fl = 0 ∧ isAtomic o.instr = false) → s.normsOwed t = false →
    let m : BitVec 4 := f.imm.setWidth 4
    let d := fun (v : Word) => t.writeS f.d { v := v, g := 0 }
    (VectorMay (.nflg f) e t s → exec (.nflg f) s = .next (s.vectorNext t (d (t.sticky.setWidth 64)))) ∧
    (VectorMay (.nflgClr f) e t s → exec (.nflgClr f) s =
      .next (s.vectorNext t { d (t.sticky.setWidth 64) with sticky := t.sticky &&& ~~~m })) ∧
    (VectorMay (.nflgSet f) e t s → exec (.nflgSet f) s =
      .next (s.vectorNext t { t with sticky := t.sticky ||| m })) ∧
    (VectorMay (.nflgDef f) e t s → exec (.nflgDef f) s = .next (s.vectorNext t (d t.defl))))

/-- spawn with a free entry of the operand log places the record of every active lane in increasing order; a
record goes to a bin of its key with room, else to an empty bin, else to the overflow area; binflush makes
the bins of the ring ready and starts its drain; bincfg sets n for 1 to 65,536. The countdown that ends next
makes its bin ready; the first ready bin of a ring below its limit launches; a drain moves its oldest record
to a bin, clearing its VALID bit and lowering the live count, and is over when none is left. A bin that
becomes ready at the limit waits with its records; below it, it becomes a troupe with record i in lane i.
The model reads or fills in the spec here as log entries 119, 120, 121, 166 say. (R333, R334, R335, R336,
R342, R343) -/
def Obligations.SpawnBins : Prop :=
  (∀ (f : Fields) (e : VEntry) (t : Troupe) (s : State),
    (VectorMay (.spawn f) e t s →
      (e.cap.k0 = 0 → exec (.spawn f) s = .next (s.vectorEnd t.id)) ∧
      (∀ slot, e.cap.k0 ≠ 0 → t.freeSlot = some slot → s.windowOwes t.uid (fun _ => true) = false →
        let c := readV t f.c e.cap.c
        let g := maxOf [e.cap.a.g, maxOf ((List.range 4).map fun j => (t.vreg (f.b.toNat + j)).g),
          if f.sub = 1 then c.g else 0]
        exec (.spawn f) s = .next ((performSpawn t.id t.nextOp (s.setTroupe (t.startOp e
          { id := 0, instr := .spawn f, slot := some slot, grade := g, dgrade := g,
            lanes := (lanesOf e.cap.k0).map fun i =>
              { lane := i, addr := e.cap.a.v + (if f.sub = 1 then (c.sh.lane i).setWidth 64 else 0),
                vals := (List.range 4).map fun j => (t.vreg (f.b.toNat + j)).sh.lane i, st := .redo } }))).vectorEnd t.id) ∧
        (∀ i j, lanesOf e.cap.k0 = [i] → t.calm → (∀ o ∈ t.ops, o.id < t.nextOp) →
          let core := (s.ring t.id.ring).core
          let key : Nat × Word := (t.id.ring, e.cap.a.v + (if f.sub = 1 then (c.sh.lane i).setWidth 64 else 0))
          let r : SRec := { p := (List.range 4).map fun j => (t.vreg (f.b.toNat + j)).sh.lane i, g := g }
          (∀ x ∈ s.filling core, (s.die (core / 64)).tick < x.1) → s.binFor core key = some j →
          j < (s.core core).bins.length → core < s.cores.length → ((s.core core).bins.getD j {}).recs.length + 1 < 64 →
          ∃ (s1 : State) (u : Troupe), exec (.spawn f) s = .next s1 ∧ Issued t u s1 ∧ (∀ o ∈ u.ops, o.id ≠ t.nextOp) ∧
            s1.mem = s.mem ∧ ((s1.core core).bins.getD j {}).key = some key ∧
            ((s1.core core).bins.getD j {}).recs = ((s.core core).bins.getD j {}).recs ++ [r]))) ∧
    (VectorMay (.binflush f) e t s → exec (.binflush f) s = .next ((s.flushBins t.id.ring).vectorEnd t.id)) ∧
    (VectorMay (.bincfg f) e t s →
      let n := if f.sub = 0 then f.imm.toNat else e.cap.a.v.toNat
      1 ≤ n → n ≤ 65536 →
      exec (.bincfg f) s = .next ((s.modRing t.id.ring fun r => { r with binN := n }).vectorEnd t.id))) ∧
  (∀ (s : State) (ring : Nat) (entry : Word) (r : SRec),
    let core := (s.ring ring).core
    let bin := fun (j : Nat) => (s.core core).bins.getD j {}
    let fits := fun (j : Nat) => j < 8 ∧ (bin j).key = some (ring, entry) ∧ (bin j).recs.length < 64
    let empty := fun (j : Nat) => j < 8 ∧ (bin j).key = none
    (∀ x ∈ s.filling core, (s.die (core / 64)).tick < x.1) →
    (∀ j, fits j → (∀ i < j, ¬fits i) → s.placeRecord ring entry r = .ok (s.binPut core j (ring, entry) r)) ∧
    (∀ j, (∀ i, ¬fits i) → empty j → (∀ i < j, ¬empty i) →
      s.placeRecord ring entry r = .ok (s.binPut core j (ring, entry) r)) ∧
    ((∀ i, ¬fits i) → (∀ i, ¬empty i) → s.placeRecord ring entry r = s.spill ring entry r)) ∧
  (∀ (s : State),
    (∀ end_ rest, s.filling s.ev.core = (end_, s.ev.op) :: rest → exec .binTimerExpiry s =
      .next ((s.modDie (s.ev.core / 64) fun d => { d with tick := max d.tick end_ }).readyBin s.ev.core s.ev.op)) ∧
    (∀ core x, x ∈ s.filling core → (∀ y ∈ s.filling core, x.1 < y.1 ∨ (x.1 = y.1 ∧ x.2 ≤ y.2)) →
      (s.filling core).head? = some x) ∧
    (∀ o j entry rest, s.readyBins s.ev.ring = (o, j) :: rest →
      (s.troupesOf s.ev.ring).length < (s.ring s.ev.ring).limit →
      let core := (s.ring s.ev.ring).core
      ((s.core core).bins.getD j {}).key = some (s.ev.ring, entry) →
      exec .binLaunch s = .next ((s.modBin core j fun _ => {}).spawnTroupe s.ev.ring entry
        ((s.core core).bins.getD j {}).recs)) ∧
    (s.canDrain s.ev.ring = true →
      let ring := s.ev.ring
      let core := (s.ring ring).core
      let l := (s.launchOf ring).lr
      let p : Party := { asid := s.asidOf ring }
      (s.overflow ring = .ok [] → exec .spawnDrain s = .next (s.modRing ring fun r => { r with draining := false })) ∧
      (∀ r rest j h g s1 s2, s.overflow ring = .ok (r :: rest) → (∀ x ∈ s.filling core, (s.die (core / 64)).tick < x.1) →
        s.binFor core (ring, r.entry) = some j → s.remoteAt p l.sova.toNat = false →
        s.readBytes p l.sova.toNat 4 = .ok (h, g) →
        s.writeBytes p (l.sova.toNat + 64 + 64 * r.slot + 0x29) [0] { n := 1, wr := true, gradeChk := false } = .ok s1 →
        s1.writeBytes p l.sova.toNat (leBytes (leNat h - 1) 4) { n := 4, wr := true, gradeChk := false } = .ok s2 →
        let s3 := s2.binPut core j (ring, r.entry) { p := r.p, g := r.g }
        exec .spawnDrain s = .next (if ∃ x ∈ rest, x.entry = r.entry then s3 else s3.readyBin core j)))) ∧
  (∀ (s : State) (core j : Nat) (key : Nat × Word) (r : SRec),
    let b := (s.core core).bins.getD j {}
    b.recs.length + 1 < 64 → s.binPut core j key r = s.modBin core j fun b =>
      { b with key := some key, recs := b.recs ++ [r],
               deadline := if b.recs = [] then s.tickOf key.1 + 16 * (s.ring key.1).binN else b.deadline }) ∧
  (∀ (s : State) (core j ring : Nat) (entry : Word),
    let bin := fun (s : State) (j : Nat) => (s.core core).bins.getD j {}
    let b := bin s j
    let s1 := s.readyBin core j
    core < s.cores.length → j < (s.core core).bins.length → b.key = some (ring, entry) → b.ready = none → b.recs ≠ [] →
    (4 ≤ (s.ring ring).vgen ∨ (s.ring ring).limit ≤ (s.troupesOf ring).length → s1.mem = s.mem) ∧ (∀ i, i ≠ j → (s.readyBins ring = [] ∨ (s.ring ring).limit ≤ (s.troupesOf ring).length →
      bin s1 i = bin s i)) ∧
    ((s.ring ring).limit ≤ (s.troupesOf ring).length → s1.troupes = s.troupes ∧
      bin s1 j = { b with ready := some s.fresh } ∧ s1.fresh = s.fresh + 1) ∧
    ((s.troupesOf ring).length < (s.ring ring).limit → s.readyBins ring = [] → (s.ring ring).core = core → j < 8 →
      4 ≤ (s.ring ring).vgen → bin s1 j = {} ∧ ∃ t, s1.troupes = s.troupes ++ [t] ∧ t.id = ⟨ring, s.freeIndex ring⟩ ∧
        t.pc = entry ∧ t.k0 = maskOf (List.range b.recs.length) ∧ ∀ j < 4, (t.vreg j).g = maxOf (b.recs.map (·.g)) ∧
          ∀ i < 64, (t.vreg j).sh.lane i = match b.recs[i]? with | some r => r.p.getD j 0 | none => 0)) ∧
  (∀ (s : State) (ring : Nat),
    let core := (s.ring ring).core
    let bin := fun (s : State) (j : Nat) => (s.core core).bins.getD j {}
    let mine := fun (j : Nat) => j < 8 ∧ (∃ e, (bin s j).key = some (ring, e)) ∧ (bin s j).recs ≠ [] ∧ (bin s j).ready = none
    let s1 := s.flushBins ring
    (∀ x ∈ s.filling core, (s.die (core / 64)).tick < x.1) → (s.ring ring).limit ≤ (s.troupesOf ring).length →
    core < s.cores.length → (s.core core).bins.length = 8 → (∃ r, s.ring? ring = some r) →
    s1.mem = s.mem ∧ s1.troupes = s.troupes ∧ (s1.ring ring).draining = true ∧
    (∀ j, ¬mine j → bin s1 j = bin s j) ∧
    (∀ j, mine j → ∃ n, bin s1 j = { bin s j with ready := some n } ∧ s.fresh ≤ n ∧
      ∀ i < j, mine i → ∃ m < n, (bin s1 i).ready = some m))

/-- ticket writes 2 when its ring holds the class; with A = 0 it takes the grant at once and writes 0, or writes
1; otherwise it waits in the queue of its die until it is granted (0) or its time is over (1). tkret returns
the grant, later when it is relied on; phint sets or ends the interval; ADMISSION_GRANT serves the head of
the queue that fits what BASE leaves of the budget, which never exceeds 1500 A. (R330, R331, R340, R341) -/
def Obligations.AdmissionAndIntervals : Prop :=
  (∀ (f : Fields) (t : Troupe) (s : State),
    let ring := t.id.ring
    let c := f.imm.toNat % 8
    let r := s.ring ring
    let a := (readS s t f.a).v
    let die := r.core / 64
    let d := s.die die
    let cost := [0, 28, 15, 20, 40, 6].getD c 0
    let on := fun (s1 : State) => (.next (s1.endInstr t.id (t.pc + BitVec.ofNat 64 s.len)) : Out)
    let writes := fun (s1 : State) (n : Word) => on (s1.modTroupe t.id fun t => t.writeS f.d { v := n, g := 0 })
    let idle := (∀ n, t.wait ≠ some (.ticketed n)) ∧ (∀ n, t.wait ≠ some (.ticket n))
    (ScalarMay (.ticket f) t s →
      (∀ n, t.wait = some (.ticketed n) → exec (.ticket f) s = writes s (BitVec.ofNat 64 n)) ∧
      (idle → c ∈ r.grants → exec (.ticket f) s = writes s 2) ∧
      (idle → c ∉ r.grants → a = 0 → exec (.ticket f) s =
        if d.grantq = [] ∧ s.heldCost die + cost ≤ d.total - d.base
        then writes (s.modRing ring fun r => { r with grants := r.grants ++ [c] }) 0 else writes s 1) ∧
      (idle → c ∉ r.grants → a ≠ 0 → exec (.ticket f) s =
        .next ((s.modDie die fun d => { d with grantq := d.grantq ++
          [{ who := .ticket t.id (if a = BitVec.allOnes 64 then none else some (d.tick + a.toNat)), cls := c }] }).blockScalar
            t.id (.ticket c)))) ∧
    (ScalarMay (.tkret f) t s →
      (c ∉ r.grants → exec (.tkret f) s = on s) ∧
      (c ∈ r.grants → r.reliesOn c = false → exec (.tkret f) s = on (s.modRing ring fun r =>
        { r with grants := r.grants.filter (· != c), returns := r.returns.filter (· != c) })) ∧
      (c ∈ r.grants → r.reliesOn c = true → exec (.tkret f) s = on (s.modRing ring fun r =>
        { r with returns := if c ∈ r.returns then r.returns else r.returns ++ [c] }))) ∧
    (ScalarMay (.phint f) t s →
      let until_ := fun (n : Nat) => on (s.modRing ring fun r => { r with phint := some (d.tick + 1024 * n) })
      (f.sub = 0 → exec (.phint f) s = until_ f.imm.toNat) ∧
      (f.sub = 1 → 1 ≤ a.toNat → a.toNat < 4096 → exec (.phint f) s = until_ a.toNat) ∧
      (f.sub = 2 → exec (.phint f) s = on (s.modRing ring fun r => { r with phint := none })))) ∧
  (∀ (s : State),
    let die := s.ev.die
    let id : TroupeId := ⟨s.ev.ring, s.ev.idx⟩
    (∀ q rest, (s.die die).grantq = q :: rest →
      s.heldCost die + s.requestCost q ≤ (s.die die).total - (s.die die).base ∨ s.requestCost q = 0 →
      exec .admissionGrant s = .next ((s.modDie die fun d => { d with grantq := d.grantq.tail }).grantRequest die q)) ∧
    (let total := min 1500 (s.ev.args.getD 1 0)
     exec .grantBudgetChange s = .next (s.modDie die fun d =>
       { d with base := min total (s.ev.args.getD 0 0), total := total })) ∧
    (∀ x, s.ticketDeadline id = some x → exec .ticketTimeout s = .next (((s.modDie (s.dieOf id.ring) fun d =>
      { d with tick := max d.tick x }).dropTicket id).endTicket id 1)) ∧
    (∀ x, (s.ring s.ev.ring).phint = some x → exec .computeBoundIntervalExpiry s =
      .next ((s.modDie (s.dieOf s.ev.ring) fun d => { d with tick := max d.tick x }).modRing s.ev.ring fun r =>
        { r with phint := none })) ∧
    (∀ t x, s.troupe? id = some t → t.wait = some (.sleep x) → exec .sleepExpiry s =
      .next ((s.modDie (s.dieOf id.ring) fun d => { d with tick := max d.tick x }).modTroupe id fun t =>
        { t with wait := some (.sleep 0) })))

/-- frec gives a word of the header or of a lane entry of the pending record A names, with its grade, or all
ones with grade 0; each acting form completes with its action applied to the record A names and the status
of R352 written with grade 0. FAULT_ACT, the first command that waits, with the context of its function,
applies the action its third argument names, its result being the status; without such a context it ends
with NOCTX. (R352, R353, R393) -/
def Obligations.FaultHandling : Prop :=
  (∀ (f : Fields) (e : VEntry) (t : Troupe) (s : State),
    let asid := s.asidOf t.id.ring
    let rec_ := (s.ctx asid).recs.find? fun r => r.fseq == e.cap.a.v.toNat
    let gets := fun (v : GW) => exec (.frec f) s = .next (s.vectorNext t (t.startOp e
      { id := 0, instr := .frec f, sdest := sNum f.d, grade := v.g, sres := [{ d := f.d, v := v }] }))
    (VectorMay (.frec f) e t s →
      (rec_ = none → gets { v := BitVec.allOnes 64, g := 0 }) ∧
      (∀ r, rec_ = some r → f.sub = 0 →
        gets { v := BitVec.ofNat 64 (leNat ((r.header.drop (8 * (f.imm.toNat % 8))).take 8)), g := r.grade }) ∧
      (∀ r x, rec_ = some r → f.sub ≠ 0 → r.ents[f.imm.toNat % 64]? = some x →
        gets { v := if f.sub = 1 then x.1 else x.2, g := r.grade }) ∧
      (∀ r, rec_ = some r → f.sub ≠ 0 → r.ents[f.imm.toNat % 64]? = none → gets { v := BitVec.allOnes 64, g := 0 })) ∧
    (∀ c ∈ ([(Instr.fres, FAct.res), (.fresM, .resM e.cap.b.v), (.fresRet, .resRet e.cap.more), (.fdrop, .drop),
        (.fdropEnd, .dropEnd)] : List ((Fields → Instr) × FAct)),
      VectorMay (c.1 f) e t s →
      let r := s.resolve asid e.cap.a.v c.2
      exec (c.1 f) s = .next ((r.1.modTroupe t.id fun t =>
        t.writeS f.d { v := BitVec.ofNat 64 r.2, g := 0 }).vectorEnd t.id))) ∧
  (∀ (s : State) (fn : Nat) (rest : List Nat), s.fw.cmdq = fn :: rest → (s.block fn).opc = 6 →
    let s0 := { s with ev := { s.ev with fn := fn } }
    let w := fun (n : Nat) => (s.block fn).words.getD n 0
    ∀ x ∈ ([(Instr.faultActFres, 0, FAct.res), (.faultActFresM, 1, .resM (w 3)),
        (.faultActFresRet, 2, .resRet ((List.range 4).map fun j => { v := w (3 + j) })), (.faultActFdrop, 3, .drop),
        (.faultActFdropEnd, 4, .dropEnd)] : List (Instr × Nat × FAct)), (w 2).toNat = x.2.1 →
      (s.ctxOf? (w 0).toNat fn = none → exec x.1 s = .next (s0.endCommand 5 none)) ∧
      (∀ c, s.ctxOf? (w 0).toNat fn = some c →
        let r := s0.resolve (w 0).toNat (w 1) x.2.2
        exec x.1 s = .next (r.1.endCommand 0 (some (BitVec.ofNat 64 r.2)))))

/-- Where pending records are of KIND 0 or 1, with a troupe, or 3 (an invariant of the machine), the status is 1
with no such record, 2 with nothing changed where R353 has KIND, and 0 otherwise. A troupe placed resumes at
its unit, or after it, or with s4 to s7 written; a whole KIND 1 record has its lanes performed again from
the log, a part of it stays pending, dropped lanes leave k0 and the counter and no register changes; an
ended troupe marks its launch with 14; a stream resumes or ends.  The model reads or fills in the spec here
as log entries 69, 70, 133 say. (R344, R353, R354, R355) -/
def Obligations.FaultActions : Prop :=
  ∀ (s : State) (asid : Nat) (q : Word),
    let rec_ := (s.ctx asid).recs.find? fun r => r.fseq == q.toNat
    let does := s.resolve asid q
    let allowed := fun (r : FRec) (act : FAct) => match act with
      | .res => True
      | .resM _ => r.kind = 1
      | .resRet _ => r.kind = 0 ∧ r.cause = .sysc
      | .drop => r.kind ≠ 3
      | .dropEnd => True
    (∀ act, rec_ = none → does act = (s, 1)) ∧
    (∀ r act, RecordsPend s → rec_ = some r →
      (allowed r act → (does act).2 = 0) ∧ (¬allowed r act → does act = (s, 2))) ∧
    (∀ r, rec_ = some r →
      let gone := s.modCtx asid fun c => { c with recs := c.recs.filter fun x => x.fseq != r.fseq }
      let resumed := fun (s : State) (id : TroupeId) (g : Troupe → Troupe) =>
        (s.modTroupe id fun t => { g t with stopped := (g t).stopped.filter (· != r.fseq) }).settle id
      (∀ id, r.troupe = some id → s.savedOf id.ring = none →
        (r.kind = 0 →
          (does .res = (resumed gone id fun t => t, 0)) ∧
          (r.cause = .sysc → ∀ vals, does (.resRet vals) = (resumed gone id fun t =>
            (List.range 4).foldl (fun t j => t.writeS (BitVec.ofNat 8 (4 + j)) (vals.getD j {})) t, 0)) ∧
          (r.cause = .trap ∨ r.cause = .sysc → does .drop = (resumed gone id fun t => t, 0)) ∧
          (r.cause ≠ .trap → r.cause ≠ .sysc →
            (r.vside = true → does .drop = (resumed gone id fun t => match t.vq with
              | e :: rest => { t.lowerFlag e.flag with vq := rest, vwait := none }
              | [] => t, 0)) ∧
            (r.vside = false → (∀ t, s.troupe? id = some t → t.left ≠ 1 ∨ t.mile = false) →
              does .drop = (resumed gone id fun t =>
                let u := { t with pc := t.pc + BitVec.ofNat 64 r.ulen, wait := none, left := t.left - 1 }
                if t.left = 1 then
                  { u with cno := t.cno + 1, code := [], seta := none, setb := none, named := 0, mile := false,
                           miles := if t.mile then (t.miles + 1) % 2 ^ 32 else t.miles }
                else u, 0)))) ∧
        (r.kind = 1 → ∀ t o, s.troupe? id = some t → t.op? r.op = some o →
          let left := maskOf ((o.lanes.filter fun l => l.recordedIn r.fseq).map (·.lane))
          let again := fun (s : State) (mask : Word) =>
            s.modTroupe id fun t => t.modOp r.op fun o =>
              { o with lanes := o.lanes.map fun l =>
                  if l.recordedIn r.fseq && mask.getLsbD l.lane then { l with st := .redo } else l }
          let performs := fun (s : State) => (match o.instr with
            | .tdep _ => performTuple id r.op s
            | .tread _ => performTuple id r.op s
            | .ttake _ => performTuple id r.op s
            | .spawn _ => performSpawn id r.op s
            | _ => performOp id r.op s)
          let over_ := fun (s : State) => (s.modCtx asid fun c =>
            { c with recs := c.recs.filter fun x => x.fseq != r.fseq }).modTroupe id fun t =>
              { t with stopped := t.stopped.filter (· != r.fseq) }
          (does .res = (((performs (over_ (again s left))).tidyAny id r.op).settle id, 0)) ∧
          (∀ mask, mask &&& left = 0 → does (.resM mask) = (s, 0)) ∧
          (∀ mask, mask &&& left ≠ 0 → left &&& ~~~mask ≠ 0 →
            does (.resM mask) = (((performs (again s mask)).tidyAny id r.op).settle id, 0)) ∧
          (∀ mask, mask &&& left ≠ 0 → left &&& ~~~mask = 0 →
            does (.resM mask) = (((performs (over_ (again s mask))).tidyAny id r.op).settle id, 0)) ∧
          (does .drop = (((over_ (s.modTroupe id fun t => t.dropLanes r.op r.fseq)).tidyAny id r.op).settle id, 0)) ∧
          (let u := t.dropLanes r.op r.fseq
           u.k0 = t.k0 &&& ~~~left ∧ u.v = t.v ∧ u.s = t.s ∧
           u.op? r.op = some { o with lanes := o.lanes.filter fun l => !l.recordedIn r.fseq } ∧
           ∀ j, o.ac = some j → isLoad o.instr = true → j < t.ac.length →
             u.ac.getD j 0 = t.ac.getD j 0 - (o.lanes.filter fun l => l.recordedIn r.fseq).length)) ∧
        (r.kind = 0 → ∀ t l, s.troupe? id = some t → t.reports = [] → s.launch? (s.launchOf id.ring).id = some l →
          ∃ s1 u, does .dropEnd = (s1, 0) ∧ s1.mem = s.mem ∧ s1.troupe? id = some u ∧ u.ending = true ∧ u.vq = [] ∧
            ∃ x, s1.launch? l.id = some x ∧ x.code = if l.code = 0 then 14 else l.code)) ∧
      (r.kind = 3 → s.savedOf r.ring = none →
        (∀ st, s.stream? r.ring = some st → st.loaded = true →
          does .res = (gone.modStream r.ring fun st => { st with state := 2, fseq := none }, 0)) ∧
        (∀ st, s.stream? r.ring = some st → st.loaded = false → st.ctx = false →
          does .res = (gone.modStream r.ring fun st => { st with state := 1, fseq := none }, 0)) ∧
        does .dropEnd = ((gone.modStream r.ring fun st => { st with fseq := none }).endStream r.ring, 0)) ∧
      (∀ id act, r.troupe = some id → r.kind = 0 ∨ r.kind = 1 → s.savedOf id.ring ≠ none → s.troupe? id = none →
        (does act).1.troupes = s.troupes))

/-- A function writes TAIL and QEN of its own queues only; a queue that is enabled starts when its configuration
is right. The next record of the queue in turn is accepted when its SEQ is the successor of ACCSEQ, with
HEAD and ACCSEQ advanced and the status of the first check that fails; another SEQ stops the queue with
error 1. Its listed slots are requests of the format manager, bound one by one in their turn, a ready launch
starts, and a launch that is over leaves: its completion record is written where its context puts it,
DONESEQ advances over completed SEQ values only, and the interrupt of its queue is raised. A launch whose
context ends is torn down with status 21, its record written to the bytes it had translated to. With the 64
bytes at A writable and none of the troupe's window reductions on its way, post leaves there the completion
record of its launch with POST set and its code and user word, and with .irq raises the interrupt of its
queue; qring writes B to TAIL of queue A when A and B are in range, the queue is enabled and of the same
function, and at most 2^LOG records are then waiting.  The model reads or fills in the spec here as log
entries 31, 115, 122 to 127 say. (R317, R318, R320, R321, R141, R392, R394, R396, R397, R398) -/
def Obligations.LaunchQueuesAndRecords : Prop :=
  (∀ (s : State),
    let n := s.ev.queue
    let q := s.queue n
    (q.fn ≠ s.ev.fn → exec .queueTailWrite s = .next s ∧ exec .qenWrite s = .next s) ∧
    (s.fw.hostUp = false → exec .queueTailWrite s = .next s ∧ exec .qenWrite s = .next s) ∧
    (s.fw.hostUp = true → q.fn = s.ev.fn → exec .queueTailWrite s = .next (s.modQueue n fun q => { q with tail := s.ev.val.setWidth 32 })) ∧
    (s.fw.hostUp = true → q.fn = s.ev.fn → s.ev.val.getLsbD 5 = true → q.en = false → s.queueCfgOk q = true →
      exec .qenWrite s = .next (s.modQueue n fun q =>
        { q with prio := s.ev.val.toNat % 16, head := if q.state = 2 then q.tail else q.head, en := true,
                 state := 1, err := 0 })) ∧
    (s.fw.hostUp = true → q.fn = s.ev.fn → s.ev.val.getLsbD 5 = false → q.en = true →
      exec .qenWrite s = .next (s.modQueue n fun q =>
        { q with prio := s.ev.val.toNat % 16, en := false, state := if q.state = 1 then 0 else q.state })) ∧
    (∀ m c b g, s.nextQueue = some m →
      let p := s.queue m
      let s1 := s.modFw fun w => { w with qrr := upd w.qrr p.prio fun _ => m }
      s.ctx? p.asid = some c →
      s.readBytes { asid := p.asid } (p.base.toNat + 256 * (p.head.toNat % 2 ^ p.log)) 256 = .ok (b, g) →
      (leNat (b.take 4) ≠ (p.accseq + 1).toNat → exec .launchRecordAccept s =
        .next (s1.modQueue m fun q => { q with state := 2, err := 1 })) ∧
      (leNat (b.take 4) = (p.accseq + 1).toNat →
        let l := LRec.ofBytes b
        let code := if badRec c b l then 12 else if badShape l then 11 else if s1.noRes l then 13 else 0
        ∃ a : Launch, a.id = s.fresh ∧ a.queue = m ∧ a.fn = p.fn ∧ a.asid = p.asid ∧ a.prio = p.prio ∧ a.lr = l ∧
          a.code = code ∧ a.stage = (if code = 0 then .binding else .ended) ∧
          exec .launchRecordAccept s = .next { ((s1.modQueue m fun q =>
            { q with head := q.head + 1, accseq := BitVec.ofNat 32 l.seq }).modFw fun w =>
              { w with fm := w.fm ++ if code = 0 then l.listed.map (fun n =>
                ({ asid := p.asid, slot := n, addr := l.slotpkg.getD (n - 8) 0, grade := l.grade, by_ := none, ring := 0,
                   launch := some s.fresh } : FmReq)) else [] }) with
            launches := s.launches ++ [a], fresh := s.fresh + 1 })) ∧
    (∀ l, s.launch? s.ev.obj = some l → l.stage = .binding →
      ((∀ j ∈ l.lr.listed, j ∈ l.bound) → exec .launchSlotBind s =
        .next (s.modLaunch l.id fun l => { l with stage := .ready })) ∧
      (∀ r, (∃ j ∈ l.lr.listed, j ∉ l.bound) → s.fw.fm.find? (fun r => !r.going) = some r → r.launch = some l.id →
        let ent := s.slotEnt l.asid r.slot
        let binds := fun (s1 : State) => exec .launchSlotBind s =
          .next ((s1.dropRequest r).modLaunch l.id fun l => { l with bound := l.bound ++ [r.slot] })
        let fails := fun (st : Nat) => ∃ s1, exec .launchSlotBind s = .next s1 ∧ s1.ctxs = s.ctxs ∧
          (∀ x ∈ s1.fw.fm, x.launch ≠ some l.id) ∧ ∃ x, s1.launch? l.id = some x ∧ x.stage = .ended ∧ x.code = st
        (∀ hash f, s.checkPackage l.asid r.addr r.grade = .ok (hash, f) →
          (ent.state = 0 → binds (s.modSlot l.asid r.slot fun _ => { state := 3, ihash := hash, fmt := some f })) ∧
          (ent.state = 3 → ent.ihash = hash → binds s) ∧ (ent.state = 3 → ent.ihash ≠ hash → fails 10)) ∧
        (∀ st, s.checkPackage l.asid r.addr r.grade = .error st → ent.state = 0 ∨ ent.state = 3 → fails st) ∧
        (ent.state = 1 ∨ ent.state = 2 → fails 10))) ∧
    (∀ l, s.launch? s.ev.obj = some l → s.mayStart l = true → ∃ s1, exec .launchStart s = .next s1 ∧
      s1.mem = s.mem ∧ ∃ x, s1.launch? l.id = some x ∧ x.stage = .running ∧ x.tick0 = (s.die 0).tick ∧ x.lr = l.lr ∧
        x.range = splitBounds ((List.range 4).map (s.fitCount l)) (l.lr.gx * l.lr.gy * l.lr.gz)) ∧
    (∀ l, s.launch? s.ev.obj = some l → l.stage = .ended → s.launchWrites l = false → s.crecCut l = false →
      exec .launchCompletionRecord s = .next (s.finishLaunch l)) ∧
    (∀ l : Launch,
      let s1 := s.finishLaunch l
      let bytes := leBytes (2 ^ 31 + l.code) 4 ++ leBytes l.lr.seq 4 ++ leBytes l.queue 2 ++ zeroBytes 2
        ++ leBytes (l.doneN % 2 ^ 32) 4 ++ leBytes (l.tick0 % 2 ^ 64) 8 ++ leBytes ((s.die 0).tick % 2 ^ 64) 8
        ++ zeroBytes 32
      let old := s.queue l.queue
      let new := s1.queue l.queue
      let vecs := s.fw.vectors.getD old.fn 0
      s1.launch? l.id = none ∧ s1.troupes = s.troupes ∧
      s1.fw.irqs = (if vecs = 0 then s.fw.irqs else s.fw.irqs ++ [(old.fn, old.vec % vecs)]) ∧
      (l.queue < s.queues.length →
        ((old.doneseq + 1).toNat ∉ old.doneSet ++ [l.lr.seq] →
          new.doneseq = old.doneseq ∧ new.doneSet = old.doneSet ++ [l.lr.seq]) ∧
        (l.lr.seq = (old.doneseq + 1).toNat → (old.doneseq + 2).toNat ∉ old.doneSet → new.doneseq = old.doneseq + 1)) ∧
      (∀ a, a + 64 ≤ poolBase →
        (l.stage ≠ .torn → (∀ i < 64, ∃ w, s.access { asid := l.asid } (l.lr.crec.toNat + i)
            { n := 1, wr := true, gradeChk := false } = .ok w ∧ w.locs = [.phys (a + i)] ∧ s.cutOff w = false ∧
            s.leaves w false = false) →
          s1.mem = cellWriteN s.mem a bytes) ∧
        (l.stage = .torn → l.crecAt = (List.range 64).map (a + ·) → (∀ i < 64, reservedPA (a + i) = false) →
          s1.mem = cellWriteN s.mem a bytes))) ∧
    (∀ asid l, l ∈ s.launches → l.asid = asid → (∀ c ∈ s.fw.contribs, ∀ w ∈ c.who, w.asid ≠ asid) →
      ∃ x ∈ (s.endContext asid).launches, x.id = l.id ∧ x.stage = .torn ∧ x.code = 21 ∧ x.lr = l.lr ∧
        ∀ a, l.stage ≠ .torn → (∀ i < 64, ∃ w, s.access { asid := asid } (l.lr.crec.toNat + i)
          { n := 1, wr := true, gradeChk := false } = .ok w ∧ w.locs = [.phys (a + i)]) →
            x.crecAt = (List.range 64).map (a + ·))) ∧
  (∀ (f : Fields) (e : VEntry) (t : Troupe) (s : State),
    let a := e.cap.a.v
    let b := e.cap.b.v
    (∀ c ∈ s.fw.contribs, ∀ w ∈ c.who, w.uid ≠ t.uid) →
    (∀ site, VectorMay (.post f) e t s → t.vwait ≠ some .parked →
      s.access (s.ringParty t.id.ring) a.toNat
        { n := 64, wr := true, align := 64, g := max e.cap.a.g e.cap.b.g } = .ok site → s.cutOff site = false →
      let l := s.launchOf t.id.ring
      let q := s.queue l.queue
      let bytes := leBytes (2 ^ 31 + 2 ^ 30 + f.imm.toNat % 2 ^ 16) 4 ++ leBytes l.lr.seq 4 ++ leBytes l.queue 2
        ++ zeroBytes 2 ++ leBytes (l.doneN % 2 ^ 32) 4 ++ leBytes (l.tick0 % 2 ^ 64) 8
        ++ leBytes ((s.die 0).tick % 2 ^ 64) 8 ++ leBytes b.toNat 8 ++ zeroBytes 24
      let s1 := ((s.touch (s.ringParty t.id.ring) a.toNat site).sendTo site).writeSite site bytes (max e.cap.a.g e.cap.b.g)
      exec (.post f) s = .next ((if f.modx.getLsbD 0 then s1.irq q.fn q.vec else s1).vectorEnd t.id)) ∧
    (VectorMay (.qring f) e t s →
      let q := s.queue a.toNat
      a.toNat < 1024 → b.toNat < 2 ^ 32 → q.fn = (s.ctx (s.asidOf t.id.ring)).fn → q.en = true →
      (b.setWidth 32 - q.head).toNat ≤ 2 ^ q.log →
      exec (.qring f) s = .next ((s.modQueue a.toNat fun q => { q with tail := b.setWidth 32 }).vectorEnd t.id)))

/-- The acts of a dispatcher, of retirement, ring end, pre-emption, drain expiry, save, restore and fault-queue
poll, and what they leave: a placed neighbourhood has its rings at the cores of its corner, scratchpad zero,
and n initial troupes each; a saved one is off its cores, with its entry and counter kept; a restored one
has its rings and troupes as saved and its counter gone; the last ring to end counts for its launch; a flush
keeps started copies only and returns the neighbourhood; a notice and a posted record are written as R363
and R349 lay them out. Drain is chosen when every ring has ended or stands within a tenth of the estimated
milestones; flush when the launch is idempotent and every ring has less than a quarter of them; save
otherwise, and wherever the mode that qualifies is not allowed.  The model reads or fills in the spec here
as log entries 11, 30, 128 to 136, 154, 155, 163, 164, 167 say. (R18, R21, R22, R323, R324, R325, R326,
R349, R362, R363, R370, R361) -/
def Obligations.PlacementAndPreemption : Prop :=
  (∀ (s : State),
    let d := s.ev.die
    let id : TroupeId := ⟨s.ev.ring, s.ev.idx⟩
    (∀ l, s.placeAct d = some (.ask l) → exec .neighbourhoodPlace s = .next ((s.modDie d fun x =>
      { x with grantq := x.grantq ++ [{ who := .place l.id (l.lr.w * l.lr.h), cls := l.lr.tclass }] }).modLaunch l.id
        fun l => { l with asked := l.asked ++ [d] })) ∧
    (∀ l r c, s.placeAct d = some (.reserve l r c) → exec .neighbourhoodPlace s = .next (s.modDie d fun x =>
      { x with resv := some { launch := l.id, row0 := r, col0 := c, since := x.tick } })) ∧
    (∀ l r c, s.placeAct d = some (.frames l r c) → ∃ s1, exec .neighbourhoodPlace s = .next s1 ∧ s1.mem = s.mem ∧
      s1.nbhds = s.nbhds ∧ s1.troupes = s.troupes ∧ ∀ x, s1.launch? l.id = some x → (d, r, c) ∈ x.chosen) ∧
    (∀ l r c n, s.placeAct d = some (.place l r c) → s.headOf l d = some (.fresh n) →
      exec .neighbourhoodPlace s = .next (s.placeNew l d n r c)) ∧
    (s.ev.on = true → exec .preemptionWaitExpiry s = .next (s.modDie d fun x => { x with preWait := s.ev.num }) ∧
      exec .drainWaitExpiry s = .next (s.modDie d fun x => { x with drainWait := s.ev.num })) ∧
    (∀ r l, s.ev.on = false → (s.die d).resv = some r → s.launch? r.launch = some l →
      let at_ := r.since + (s.die d).preWait
      let who := (s.victimsNeeded l r d [] (s.victims l r d)).map (·.id)
      exec .preemptionWaitExpiry s = .next ((who.foldl (fun s n => s.modNbhd n fun x =>
          if x.pre = .none then { x with pre := .asked 7 0 } else x) s).modDie d fun x =>
        { x with tick := max x.tick at_, resv := some { r with since := max x.tick at_ } })) ∧
    (∀ t, s.troupe? id = some t → t.id.idx < 32 → s.canRetire t = true →
      ∃ s1, exec .troupeRetire s = .next s1 ∧ s1.troupe? id = none ∧ s1.mem = s.mem ∧
        ∀ u ∈ s.troupes, u.id ≠ id → u ∈ s1.troupes) ∧
    (∀ r, s.ring? s.ev.ring = some r → s.canEnd r = true →
      exec .ringEnd s = .next (if s.hasRecords r then s.flushBins r.id else s.endRing r.id)) ∧
    (∀ x, s.nbhd? s.ev.obj = some x →
      let put := fun (p : PreSt) => s.modNbhd x.id fun y => { y with pre := p }
      (∀ modes at_, x.pre = .asked modes at_ →
        let m := preMode (s.launch x.launch).lr (s.ringsOf x.id) modes
        (m = .drain → exec .preemptionRequest s =
          .next (put (.drain ((s.die x.die).tick + (s.die x.die).drainWait) at_))) ∧
        (m = .flush → exec .preemptionRequest s = .next (s.flushStart x.id at_)) ∧
        (m = .save → exec .preemptionRequest s = .next (put (.save at_)))) ∧
      (∀ at_, x.pre = .flush at_ →
        let s1 := s.cancelFlushed x.id
        exec .preemptionRequest s = .next (if s1.flushOver x.id then s1.flushEnd x.id at_ else s1)) ∧
      (x.pre = .none → s.ev.on = true → s.ev.addr.toNat % 64 = 0 →
        exec .preemptionRequest s = .next (put (.asked (s.ev.num % 8) s.ev.addr.toNat))) ∧
      (∀ u at_, x.pre = .drain u at_ → s.ev.on = false → exec .drainWaitExpiry s =
        .next ((s.modDie x.die fun y => { y with tick := max y.tick u }).modNbhd x.id fun y => { y with pre := .save at_ })) ∧
      (∀ at_, x.pre = .save at_ → s.canSave x.id = true → exec .neighbourhoodSave s = .next (s.saveNbhd x.id at_))) ∧
    (∀ l v r c, s.placeAct d = some (.restore l v 0 r c) → exec .neighbourhoodRestore s = .next (s.restoreAt l v r c)) ∧
    (∀ l v st r c, st ≠ 0 → s.placeAct d = some (.restore l v st r c) → exec .neighbourhoodRestore s =
      .next ((s.dropSaved v st).modLaunch l.id fun l =>
        { l with granted := l.granted.filter (· != d), asked := l.asked.filter (· != d) })) ∧
    (∀ l n row col, s.launch? l.id = some l → (∀ r ∈ s.rings, r.id < s.fresh ∧ r.nb ≠ s.fresh) →
      (∀ x ∈ s.nbhds, x.id ≠ s.fresh) →
      let s1 := s.placeNew l d n row col
      let cores := rectCores d row col l.lr.w l.lr.h
      s1.mem = s.mem ∧
      (∃ x, s1.nbhds = s.nbhds ++ [x] ∧ x.id = s.fresh ∧ x.launch = l.id ∧ x.n = n ∧ x.die = d ∧ x.row0 = row ∧ x.col0 = col) ∧
      ∃ rs ts, s1.rings = s.rings ++ rs ∧ s1.troupes = s.troupes ++ ts ∧ rs.length = l.lr.w * l.lr.h ∧
        ts.length = rs.length * l.lr.n ∧
        (∀ k r, rs[k]? = some r → r.nb = s.fresh ∧ r.ridx = k ∧ r.core = cores.getD k 0 ∧ r.limit = l.lr.l ∧
          r.vgen = l.lr.g ∧ r.ended = false ∧ ∀ o < r.spLen, cellRead (s1.core r.core).spad (r.spBase + o) = unlisted) ∧
        ∀ t ∈ ts, (∃ r ∈ rs, t.id.ring = r.id) ∧ t.id.idx < l.lr.n ∧ t.pc = l.lr.entry ∧
          (t.s.getD 0 {}).v = BitVec.ofNat 64 (n % l.lr.gx) ∧ (t.s.getD 3 {}).v = l.lr.args) ∧
    (∀ nb at_ x c, s.nbhd? nb = some x → s.ctx? (s.launch x.launch).asid = some c →
      let s1 := s.saveNbhd nb at_
      let l := s.launch x.launch
      s1.nbhd? nb = none ∧ s1.ringsOf nb = [] ∧ (∀ t ∈ s1.troupes, ∀ r ∈ s.ringsOf nb, t.id.ring ≠ r.id) ∧
      (∃ v ∈ s1.saved, v.nb.id = nb ∧ v.nb.n = x.n ∧ v.nb.launch = x.launch ∧ v.ctr = c.savectr + 1 ∧ v.mail = [] ∧
        v.rings.map (·.ring.id) = (s.ringsOf nb).map (·.id)) ∧
      ∃ c1, s1.ctx? c.asid = some c1 ∧ c1.savectr = c.savectr + 1 ∧ ((l.queue, l.lr.seq, x.n), c.savectr + 1) ∈ c1.kept) ∧
    (∀ l v row col, v.mail = [] → (∀ r ∈ v.rings, ∀ t ∈ r.troupes, t.ops = [] ∧ t.killed = false ∧
        ∀ u ∈ s.troupes, u.id ≠ t.id) →
      let s1 := s.restoreAt l v row col
      let cores := rectCores v.nb.die row col l.lr.w l.lr.h
      s1.mem = s.mem ∧ (∀ y ∈ s1.saved, y.nb.id ≠ v.nb.id) ∧
      (∃ x, s1.nbhds = s.nbhds ++ [x] ∧ x.id = v.nb.id ∧ x.n = v.nb.n ∧ x.row0 = row ∧ x.col0 = col ∧ x.pre = .none) ∧
      (∀ c, s.ctx? l.asid = some c → ∃ c1, s1.ctx? l.asid = some c1 ∧
        ∀ k ∈ c1.kept, k ∈ c.kept ∧ k.1 ≠ headerKey (cellReadN s.mem v.addr 64)) ∧
      (∀ r ∈ v.rings, (∃ y ∈ s1.rings, y.id = r.ring.id ∧ y.core = cores.getD r.ring.ridx 0 ∧ y.nbs = r.ring.nbs ∧
          y.miles = r.ring.miles ∧ y.tags = r.ring.tags) ∧
        ∀ t ∈ r.troupes, ∃ u ∈ s1.troupes, u.id = t.id ∧ u.pc = t.pc ∧ u.left = t.left ∧ u.s = t.s ∧ u.k = t.k ∧ u.v = t.v ∧
          u.w = t.w ∧ u.vq = t.vq ∧ u.stopped = t.stopped ∧ u.sticky = t.sticky ||| t.defl.setWidth 4 ∧
          u.age = (s.die (cores.getD r.ring.ridx 0 / 64)).tick + t.id.idx) ∧
      (∀ r, v.rings = [r] → cores.getD r.ring.ridx 0 < s.cores.length → Memory.wf r.spad = true →
        (∀ x ∈ r.spad, x.1 < r.ring.spLen) → ∃ y ∈ s1.rings, y.id = r.ring.id ∧ ∀ o < r.ring.spLen,
          cellRead (s1.core y.core).spad (y.spBase + o) = cellRead r.spad o)) ∧
    (∀ r, s.ring? r = some (s.ring r) →
      let x := s.nbhd (s.ring r).nb
      let s1 := s.endRing r
      ((∀ u a, x.pre ≠ .drain u a) → s1.mem = s.mem) ∧
      ((∃ y ∈ s.ringsOf (s.ring r).nb, y.id ≠ r ∧ y.ended = false) → s1.launches = s.launches ∧
        (s1.ring r).ended = true ∧ (s1.ring r).grants = [] ∧ (s1.ring r).returns = [] ∧ (s1.ring r).phint = none) ∧
      (∀ l, (∀ y ∈ s.ringsOf (s.ring r).nb, y.id = r ∨ y.ended = true) → (∀ u a, x.pre ≠ .drain u a) →
        s.launch? x.launch = some l → ∃ z, s1.launch? l.id = some z ∧ z.doneN = l.doneN + 1 ∧
          z.stage = if l.lr.total ≤ l.doneN + 1 ∧ l.stage = .running then .ended else l.stage)) ∧
    (∀ nb at_ x, s.nbhd? nb = some x →
      let rs := (s.ringsOf nb).map (·.id)
      (let s1 := s.flushStart nb at_
       s1.mem = s.mem ∧ s1.troupes = s.troupes.filter (fun t => !rs.contains t.id.ring) ∧
       (∃ y, s1.nbhd? nb = some y ∧ y.pre = .flush at_) ∧
       ∀ c ∈ s1.cores, (∀ e ∈ c.cq0 ++ c.cq1, e.ring ∈ rs → e.started = true ∧ e.parked = false) ∧
         ∀ b ∈ c.bins, ∀ k, b.key = some k → k.1 ∉ rs) ∧
      (let s1 := s.flushEnd nb 0
       s1.mem = s.mem ∧ s1.nbhd? nb = none ∧ s1.ringsOf nb = [] ∧
       ∀ l, s.launch? x.launch = some l → x.die < l.todo.length → ∃ z, s1.launch? l.id = some z ∧
         ∀ k, k ∈ z.todo.getD x.die [] ↔ k = x.n ∨ k ∈ l.todo.getD x.die [])) ∧
    (∀ (x : Nbhd) (at_ status rec_ ctr : Nat) (s1 : State),
      let l := s.launch x.launch
      (at_ = 0 → s.notice x at_ status rec_ ctr = s) ∧
      (at_ ≠ 0 → s.writeBytes { asid := l.asid } at_ (leBytes status 4 ++ leBytes l.lr.seq 4 ++ leBytes l.queue 2 ++ zeroBytes 2
          ++ leBytes (x.n % 2 ^ 32) 4 ++ leBytes rec_ 8 ++ leBytes ctr 8 ++ zeroBytes 32)
          { n := 1, wr := true, gradeChk := false } = .ok s1 →
        s.notice x at_ status rec_ ctr = s1)) ∧
    (exec .faultQueueHeadPoll s = .next (s.fqRetry s.ev.asid)) ∧
    (∀ asid c r rest h g, s.ctx? asid = some c → c.held = r :: rest →
      let p : Party := { asid := asid }
      s.readBytes p (c.fqbase.toNat + 4) 4 = .ok (h, g) →
      let waits := (c.fqtail - BitVec.ofNat 32 (leNat h)).toNat
      (waits = 2 ^ c.fqlog → s.fqRetry asid = s.modCtx asid fun c => { c with held := r :: rest }) ∧
      (waits ≠ 2 ^ c.fqlog → rest = [] → ∀ s1 s2,
        s.writeBytes p (c.fqbase.toNat + 64 + 1088 * (c.fqtail.toNat % 2 ^ c.fqlog)) r.bytes
          { n := 1, wr := true, gradeChk := false } = .ok s1 →
        s1.writeBytes p c.fqbase.toNat (leBytes (c.fqtail + 1).toNat 4) { n := 1, wr := true, gradeChk := false } = .ok s2 →
        s.fqRetry asid = ((s2.modCtx asid fun c => { c with fqtail := c.fqtail + 1 }).irq c.fn c.fqvec).modCtx asid
          fun c => { c with held := [] }))) ∧
  (∀ (l : LRec) (rs : List Ring) (modes : Nat),
    let near := ∀ r ∈ rs, r.ended = true ∨ (0 < l.mest ∧ l.mest - l.mest / 10 ≤ r.miles)
    let early := ∀ r ∈ rs, l.idem = true ∧ 0 < l.mest ∧ 4 * r.miles < l.mest
    (near → modes.testBit 0 = true → preMode l rs modes = .drain) ∧
    (near → modes.testBit 0 = false → preMode l rs modes = .save) ∧
    (¬near → early → modes.testBit 1 = true → preMode l rs modes = .flush) ∧
    (¬near → early → modes.testBit 1 = false → preMode l rs modes = .save) ∧
    (¬near → ¬early → preMode l rs modes = .save))

/-- A command of PF0 on a die that is not BUSY removes the entries it names from the TLBs of the die and of its
cores and sets BUSY, or marks every parked access for replay, or cancels those of a context; on a BUSY die,
from another function, or while the host link is down, nothing changes. The end of a walk retries every
marked access to its page. A register write acts on registers of its function only, and PF0 alone gives out
MSI-X vectors, resizes BAR2 and reads the telemetry; a contribution leaves through a fabric port that is up
and is applied to its word once; a withdrawal lowers MEMBERS and sets WITHDRAWN. An access in a reserved
range writes nothing.  The model reads or fills in the spec here as log entries 7, 92, 93, 145, 158, 159,
160, 171, 175, 191 say. (R254, R256, R257, R259, R261, R242, R317, R377, R391, R392, R401, R403) -/
def Obligations.MemoryManagement : Prop :=
  ∀ (s : State),
    let die := s.ev.die
    let asid := s.ev.asid
    let d := s.die die
    let plain := fun (a : Nat) => (Loc.phys a).pooled = false ∧ (a < physEnd → reservedPA a = false)
    let gone := fun (p : TlbEnt → Prop) (s1 : State) =>
      s1.mem = s.mem ∧ s1.troupes = s.troupes ∧ (∀ e ∈ (s1.die die).tlb, e ∈ d.tlb ∧ ¬p e) ∧
      ∀ c < 64, ∀ e ∈ (s1.core (64 * die + c)).tlb, e ∈ (s.core (64 * die + c)).tlb ∧ ¬p e
    (∀ i ∈ [Instr.invalPage, .invalAsid, .invalAll, .replayAll, .cancelAsid],
      s.ev.fn ≠ 0 ∨ s.fw.hostUp = false ∨ d.busy = true → exec i s = .next s) ∧
    (s.ev.fn = 0 → s.fw.hostUp = true → d.busy = false →
      (∃ s1, exec .invalPage s = .next s1 ∧ gone (fun e => e.covers asid d.mmuarg.toNat = true) s1 ∧
        (die < s.dies.length → (s1.die die).busy = true)) ∧
      (∃ s1, exec .invalAsid s = .next s1 ∧ gone (fun e => e.asid = asid) s1) ∧
      (∃ s1, exec .invalAll s = .next s1 ∧ gone (fun _ => True) s1) ∧
      (exec .replayAll s = .next (s.modDie die fun d =>
        { d with fbuf := [], dropped := false, mmuopc := 4, mmuasid := asid,
                 parked := d.parked.map fun p => { p with marked := true } })) ∧
      (exec .cancelAsid s = .next (s.cancelAsid die asid))) ∧
    ((∀ c ∈ s.fw.contribs, ∀ w ∈ c.who, w.die = die → d.mmuopc ≠ 3 ∧ w.asid ≠ d.mmuasid) →
      exec .mmuInvalidationDone s = .next (s.modDie die fun d => { d with busy := false })) ∧
    ((∀ p ∈ d.parked, ¬(p.marked = true ∧ p.asid = asid ∧ p.vpage = s.ev.addr)) →
      exec .pageWalkComplete s = .next s) ∧
    (∀ p : Parked, d.parked = [p] → p.marked = true → p.asid = asid → p.vpage = s.ev.addr → (∀ r, p.who = .stream r →
      exec .pageWalkComplete s = .next ((s.modDie die fun d => { d with parked := d.parked.filter fun q =>
        !(q.marked && q.asid == asid && q.vpage == s.ev.addr) }).modStream r fun st => { st with wait := some .retry }))) ∧
    (s.ev.num ≠ 4 → s.fw.hostUp = false ∨ (s.ev.num ≠ 0 ∧ s.ev.fn ≠ 0) → exec .registerWrite s = .next s) ∧
    (s.fw.hostUp = true → s.ev.fn = 0 →
      (s.ev.num = 1 → sumOf s.ev.args ≤ 2048 → s.ev.args.length ≤ 64 → exec .registerWrite s = .next (s.modFw fun w =>
        { w with vectors := s.ev.args ++ List.replicate (64 - s.ev.args.length) 0 })) ∧
      (s.ev.num = 1 → 2048 < sumOf s.ev.args → exec .registerWrite s = .next s) ∧
      (∀ k, s.ev.num = 2 → k ≤ 6 → s.ev.val.toNat = 2 ^ (30 + k) → exec .registerWrite s = .next (s.modFw fun w =>
        { w with bar2 := 2 ^ (30 + k) })) ∧
      (s.ev.num = 2 → (∀ k, k ≤ 6 → s.ev.val.toNat ≠ 2 ^ (30 + k)) → exec .registerWrite s = .next s) ∧
      (s.ev.num = 3 → exec .registerWrite s = .next (s.modFw fun w =>
        { w with inbound := .done ((s.dies.map (·.temp) ++ s.fw.rails).flatMap (leBytes · 8)) }))) ∧
    (s.ev.num = 4 → ∃ w0 : Fw, exec .registerWrite s = .next (s.modFw fun _ => w0) ∧
      w0 = { s.fw with fwins := w0.fwins } ∧ (∀ x ∈ s.fw.fwins, x.base ≠ s.ev.args.getD 0 0 → x ∈ w0.fwins) ∧
      (∀ x ∈ w0.fwins, x.base = s.ev.args.getD 0 0 → x = { base := s.ev.args.getD 0 0, len := s.ev.args.getD 1 0, ceil := s.ev.args.getD 2 0 % 8, domain := s.ev.args.getD 3 0, bar2 := s.ev.args.getD 4 0 } ∧ x.len ≠ 0)) ∧
    (s.ev.num = 0 → s.fw.hostUp = true → s.ev.on = true → exec .registerWrite s = .next (s.modFw fun w =>
      { w with inbound := .done (dword (s.windowRead s.ev.fn (s.ev.addr.toNat / 8 * 8))) })) ∧
    (s.ev.num = 0 → s.fw.hostUp = true → s.ev.on = false → s.ev.addr.toNat < 0x10000 →
      let n := s.ev.addr.toNat / 64
      ((s.queue n).fn ≠ s.ev.fn → exec .registerWrite s = .next s) ∧
      ((s.queue n).fn = s.ev.fn → s.ev.addr.toNat % 64 / 8 = 3 → exec .registerWrite s =
        .next (s.modQueue n fun q => { q with tail := s.ev.val.setWidth 32 }))) ∧
    (s.ev.num < 262144 → s.ev.num ∉ s.extents →
      exec .extentAdd s = .next { s with extents := s.extents ++ [s.ev.num] }) ∧
    ((∀ c ∈ s.fw.contribs, poolBase ≤ c.addr → (c.addr - poolBase) / 2 ^ 28 ≠ s.ev.num) →
      exec .extentRelease s = .next ({ s with extents := s.extents.filter (· != s.ev.num) }.modFw fun w =>
        { w with releasing := w.releasing.filter (· != s.ev.num) })) ∧
    ((∃ c ∈ s.fw.contribs, poolBase ≤ c.addr ∧ (c.addr - poolBase) / 2 ^ 28 = s.ev.num) →
      ∃ s1, exec .extentRelease s = .next s1 ∧ s1.extents = s.extents ∧ s1.mem = s.mem ∧ s.ev.num ∈ s1.fw.releasing) ∧
    (let j := s.ev.unit_
     let n := d.allow.getD j 0
     let set := fun (k : Nat) => s.modDie die fun x => { x with allow := x.allow.modify j fun _ => k }
     j < 4 →
     (s.computeBound die = true → exec .refreshInterval s = .next (set (min 8 (n + 1)))) ∧
     (s.computeBound die = false → 0 < n → exec .refreshInterval s = .next (set (n - 1))) ∧
     (s.computeBound die = false → n = 0 → s.ev.on = true → exec .refreshInterval s =
       .next (s.modSlice (4 * die + j) fun c =>
         { c with rfretry := (c.rfretry + 1) % 2 ^ 64, retries := c.retries + 1 }))) ∧
    (exec .refreshRetryReissue s = .next (s.modSlice s.ev.unit_ fun c => { c with retries := c.retries - 1 })) ∧
    (let line := s.ev.addr.toNat / 128 * 128
     let w : Word := BitVec.ofNat 64 line
     ∀ site, line < 2 ^ 57 → inWindows line = false →
       s.access { asid := asid, core := some s.ev.core } line { n := 128, ex := true } = .ok site →
       exec .icacheFill s = .next (s.modCore s.ev.core fun c => { c with icache :=
         ((asid, w, s.loadSite site) :: c.icache.filter fun e => !(e.1 == asid && e.2.1 == w)).take 1024 })) ∧
    (s.fabricPort = none → exec .windowReductionApply s = .next s) ∧
    (∀ c, s.fw.contribs.find? (fun c => c.id == s.ev.op) = some c → s.mergeWith c = none → s.fabricPort ≠ none →
      let n := accessBytes c.instr (c.instr.fields.getD {})
      let v := (atomicOp c.instr (c.instr.fields.getD {}) (leNat (cellReadN s.mem c.addr n))
        (c.c.toNat % 2 ^ (8 * n)) 0).1
      ∃ s1, exec .windowReductionApply s = .next s1 ∧ s1.fw = { s.fw with contribs := s.fw.contribs.filter fun x => x.id != c.id } ∧
        s1.troupes = s.troupes ∧ s1.cores = s.cores ∧
        ((∀ i < n, plain (c.addr + i)) → (∀ i < n, s.reused (c.addr + i) = false) → s1.mem = cellWriteN s.mem c.addr (leBytes v n)) ∧
        ((∀ i < n, c.addr + i < physEnd ∧ reservedPA (c.addr + i) = true) → s1.mem = s.mem)) ∧
    (∀ w, s.fw.wins.find? (fun w => w.num == s.ev.num) = some w → w.home = s.fw.pkg →
      let a := s.homeAddr w.home w.base
      let h := leNat (cellReadN s.mem a 8)
      let new := h % 2 ^ 32 + (h / 2 ^ 32 % 2 ^ 16 - 1) * 2 ^ 32 + 2 ^ 48
      ((∀ i < 8, plain (a + i)) → exec .memberWithdrawal s = .next { s with mem := cellWriteN s.mem a (leBytes new 8) }) ∧
      ((∀ i < 8, a + i < physEnd ∧ reservedPA (a + i) = true) → ∃ s1, exec .memberWithdrawal s = .next s1 ∧ s1.mem = s.mem)) ∧
    ((∀ w ∈ s.fw.wins, w.num = s.ev.num → w.home ≠ s.fw.pkg) → exec .memberWithdrawal s = .next s)

/-- A write of OPC joins the commands that wait, unless the function has one there; the first that waits is
performed with the words of its block as arguments, and its end writes the result and STATUS with DONE, and
ends those behind it that the table lacks with BADCMD. CTX_CREATE gives the lowest free ASID a context with
the arguments; CTX_END ends a context of the function; OWNER_KEY sets the key of the function unless a slot
of one of its contexts is in use; REGION_CREATE adds a region with its descriptor written; PREEMPT asks for
pre-emption; ROSTER, WINDOW and QUEUE_ASSIGN are PF0's alone (else DENIED); a context or launch that is not
the function's gives NOCTX.  The model reads or fills in the spec here as log entries 51, 131, 137, 163,
171, 173 say. (R393, R132, R283, R284, R317, R360, R376, R392, R401) -/
def Obligations.CommandBlock : Prop :=
  ∀ (s : State),
    let cmds : List (Instr × Nat) := [(.ctxCreate, 1), (.ctxEnd, 2), (.ownerKey, 3), (.regionCreate, 4), (.preempt, 5),
      (.roster, 7), (.window, 8), (.queueAssign, 9)]
    let plain := fun (a : Nat) => (Loc.phys a).pooled = false ∧ (a < physEnd → reservedPA a = false)
    (s.fw.cmdq = [] → ∀ x ∈ cmds, exec x.1 s = .next s) ∧
    (s.ev.num = 0 → s.fw.hostUp = true → s.ev.on = false →
      let fn := s.ev.fn
      let opc := s.ev.val.toNat % 2 ^ 32
      (∀ j, j < 31 → s.ev.addr.toNat / 8 * 8 = 0x20008 + 8 * j → exec .registerWrite s =
        .next (s.modBlock fn fun b => { b with words := b.words.modify j fun _ => s.ev.val })) ∧
      (s.ev.addr.toNat / 8 * 8 = 0x20000 →
        (fn ∈ s.fw.cmdq → exec .registerWrite s = .next s) ∧
        (fn ∉ s.fw.cmdq → 1 ≤ opc → opc ≤ 9 → opc ≠ 6 → (∀ g ∈ s.fw.cmdq, (s.block g).known = true) →
          ∃ s1, exec .registerWrite s = .next s1 ∧ s1.fw.cmdq = s.fw.cmdq ++ [fn] ∧
            s1.block fn = { s.block fn with opc := opc, status := 0 } ∧ (∀ g, g ≠ fn → s1.block g = s.block g) ∧ s1.mem = s.mem) ∧
        (s.fw.cmdq = [] → opc = 0 ∨ 9 < opc → ∃ s1, exec .registerWrite s = .next s1 ∧ s1.fw.cmdq = [] ∧
          s1.block fn = { s.block fn with opc := opc, status := BitVec.ofNat 32 (2 ^ 31 + 1) }))) ∧
    (∀ (fn : Nat) (rest : List Nat), s.fw.cmdq = fn :: rest →
      let b := s.block fn
      let s0 : State := { s with ev := { s.ev with fn := fn } }
      let arg := fun (n : Nat) => (b.words.getD n 0).toNat
      let ends := fun (s1 : State) (code : Nat) (r : Option Word) => (.next (s1.endCommand code r) : Out)
      (∀ (code : Nat) (r : Option Word),
        let s1 := s.endCommand code r
        let done := { b with status := BitVec.ofNat 32 (2 ^ 31 + code), words := (match r with
          | some v => b.words.modify 0 fun _ => v
          | none => b.words) }
        s1.mem = s.mem ∧ s1.troupes = s.troupes ∧
        (fn ∉ rest → (∀ g ∈ rest, (s.block g).known = true) → s1.fw.cmdq = rest ∧ s1.block fn = done ∧
          ∀ g, g ≠ fn → s1.block g = s.block g) ∧
        (∀ g tail, rest = g :: tail → g ≠ fn → fn ∉ tail → g ∉ tail → (s.block g).known = false →
          (∀ h ∈ tail, (s.block h).known = true) → s1.fw.cmdq = tail ∧ s1.block fn = done ∧
          s1.block g = { s.block g with status := BitVec.ofNat 32 (2 ^ 31 + 1) })) ∧
      (∀ x ∈ cmds, b.opc ≠ x.2 → exec x.1 s = .next s) ∧
      (b.opc = 1 →
        ((∀ a < 8192, s.ctx? a ≠ none) → exec .ctxCreate s = ends s0 4 none) ∧
        (∀ asid, asid < 8192 → s.ctx? asid = none → (∀ a < asid, s.ctx? a ≠ none) →
          (arg 3 % 4096 ≠ 0 ∨ arg 4 < 4 ∨ 12 < arg 4 ∨ s.mappedWritable (arg 0 % 2 ^ 52 / 65536 * 65536) (arg 3) (fqSize (arg 4)) = false →
            exec .ctxCreate s = ends s0 1 none) ∧
          ((arg 2 % 2 = 1 → arg 6 % 2 ^ 16 ≠ 0) → arg 3 % 4096 = 0 → 4 ≤ arg 4 → arg 4 ≤ 12 → arg 3 + fqSize (arg 4) < 2 ^ 57 →
            s.mappedWritable (arg 0 % 2 ^ 52 / 65536 * 65536) (arg 3) (fqSize (arg 4)) = true →
            ∃ s1 c, exec .ctxCreate s = ends s1 0 (some (BitVec.ofNat 64 asid)) ∧ s1.ctxs = s.ctxs ++ [c] ∧ c.asid = asid ∧
              c.fn = fn ∧ c.root = arg 0 % 2 ^ 52 / 65536 * 65536 ∧ c.rply = decide (arg 1 % 2 = 1) ∧
              c.prot = decide (arg 2 % 2 = 1) ∧ c.domain = arg 6 % 2 ^ 16 ∧ c.fqbase.toNat = arg 3 ∧ c.fqlog = arg 4 ∧
              c.fqvec = arg 5 % 2 ^ 11))) ∧
      (b.opc = 2 →
        (s.ctxOf? (arg 0) fn = none → exec .ctxEnd s = ends s0 5 none) ∧
        (s.ctxOf? (arg 0) fn ≠ none → exec .ctxEnd s = ends (s0.endContext (arg 0)) 0 none)) ∧
      (b.opc = 3 →
        ((∃ c ∈ s.ctxs, c.fn = fn ∧ ∃ e ∈ c.slots, e.state ≠ 0) → exec .ownerKey s = ends s0 3 none) ∧
        ((∀ c ∈ s.ctxs, c.fn = fn → ∀ e ∈ c.slots, e.state = 0) → ∃ s1, exec .ownerKey s = ends s1 0 none ∧
          s1.mem = s.mem ∧
          s1.fw.owners.find? (fun o => o.1 == fn) = some (fn, (b.words.take 7).flatMap fun w => leBytes w.toNat 8) ∧
          ∀ g, g ≠ fn → s1.fw.owners.find? (fun o => o.1 == g) = s.fw.owners.find? fun o => o.1 == g)) ∧
      (b.opc = 4 →
        (s.ctxOf? (arg 0) fn = none → exec .regionCreate s = ends s0 5 none) ∧
        (∀ c, s.ctxOf? (arg 0) fn = some c →
          let used := sumOf (s.ctxs.flatMap fun c => c.regions.map (·.quota))
          (32768 < used + arg 3 → exec .regionCreate s = ends s0 4 none) ∧
          (used + arg 3 ≤ 32768 → arg 2 % 2 ^ 18 ≠ 0 ∨ s.regionFrames c.root (arg 2) (arg 4) = none →
            exec .regionCreate s = ends s0 1 none) ∧
          (∀ fs, used + arg 3 ≤ 32768 → arg 2 % 2 ^ 18 = 0 → arg 2 < 2 ^ 57 → arg 1 < 2 ^ 16 → 1 ≤ arg 3 → arg 4 ≤ 2 ^ 24 →
            (∀ r ∈ c.regions, r.rid ≠ arg 1) → s.regionFrames c.root (arg 2) (arg 4) = some fs →
            let r : Region := { rid := arg 1, base := BitVec.ofNat 64 (arg 2), quota := arg 3, scap := arg 4, frames := fs }
            let s1 := s0.modCtx c.asid fun c => { c with regions := c.regions ++ [r] }
            let m := cellWriteN s.mem (fs.headD 0) r.descriptor
            exec .regionCreate s = ends { s1 with mem := m } 0 none))) ∧
      (b.opc = 5 →
        let asked := s.launches.find? fun l => l.queue == arg 0 && l.lr.seq == arg 1 % 2 ^ 32 && (s.queue (arg 0)).fn == fn
        (asked = none → exec .preempt s = ends s0 5 none) ∧
        (∀ l, asked = some l → arg 4 % 64 = 0 → exec .preempt s =
          ends (s0.askPreempt l.id (if arg 2 = 2 ^ 64 - 1 then none else some (arg 2)) (arg 3 % 8) (arg 4)) 0 none)) ∧
      (fn ≠ 0 → ∀ x ∈ [(Instr.roster, 7), (.window, 8), (.queueAssign, 9)], b.opc = x.2 → exec x.1 s = ends s0 2 none) ∧
      (fn = 0 → b.opc = 7 →
        let ids := fun (n : Nat) => (List.range n).map fun i => (b.words.getD (3 + i / 4) 0).toNat / 2 ^ (16 * (i % 4)) % 2 ^ 16
        let dom := arg 0 % 2 ^ 16
        (b.words.length = 31 → arg 1 ≤ 112 → arg 2 = 0 → exec .roster s = ends (s0.modFw fun w =>
          { w with staged := none, rosters := (w.rosters.filter fun r => r.1 != dom) ++ [(dom, ids (arg 1))] }) 0 none) ∧
        (b.words.length = 31 → 112 < arg 1 → arg 1 ≤ 512 → arg 2 = 0 → exec .roster s = ends (s0.modFw fun w =>
          { w with staged := some (dom, arg 1, ids 112) }) 0 none) ∧
        (512 < arg 1 ∨ (arg 2 ≠ 0 ∧ s.fw.staged = none) → exec .roster s = ends (s0.modFw fun w => { w with staged := none }) 1 none)) ∧
      (fn = 0 → b.opc = 8 →
        let w : Win := { num := arg 0 % 256, home := arg 1, base := arg 2, pages := arg 3, red := arg 4 % 2 == 1,
                         acc := arg 4 / 2 % 2 == 1, members := arg 5 % 2 ^ 16 }
        let s1 := s0.modFw fun x => { x with wins := (x.wins.filter fun y => y.num != w.num) ++ [w] }
        (arg 1 ≠ s.fw.pkg → exec .window s = ends s1 0 none) ∧
        (arg 1 = s.fw.pkg → (∀ i < 8, plain (arg 2 + i)) →
          let h := leNat (cellReadN s.mem (arg 2) 4) + arg 5 % 2 ^ 16 * 2 ^ 32
          exec .window s = ends { s1 with mem := cellWriteN s.mem (arg 2) (leBytes h 8) } 0 none)) ∧
      (fn = 0 → b.opc = 9 →
        ((∃ i, arg 0 ≤ i ∧ i < arg 0 + arg 1 ∧ i < 1024 ∧ (s.queue i).en = true) → exec .queueAssign s = ends s0 3 none) ∧
        ((∀ i, arg 0 ≤ i → i < arg 0 + arg 1 → (s.queue i).en = false) →
          (1024 < arg 0 + arg 1 ∨ 63 < arg 2 → exec .queueAssign s = ends s0 1 none) ∧
          (arg 0 + arg 1 ≤ 1024 → arg 2 ≤ 63 → ∃ s1, exec .queueAssign s = ends s1 0 none ∧ s1.mem = s.mem ∧
            ∀ i < s.queues.length, s1.queue i =
              if arg 0 ≤ i ∧ i < arg 0 + arg 1 then { s.queue i with fn := arg 2 } else s.queue i))))

/-- A cold reset, a life-cycle change and a hot reset leave no byte of package memory, and the first two no
troupe, launch or context of a user; a link that goes down destroys the IDE keys and suspends the protected
contexts, an integrity failure those bound to its stream; a VF reset starts its drain, and its expiry frees
the VF and leaves its pages zero; an inbound access is admitted where a window covers every byte, no page
there is above the ceiling or of another domain and a write has a page of the ceiling as grade, and
otherwise reads and writes nothing and is refused; a link that fails authentication twice within 1 ms goes
down. R5 gives these times in wall-clock time at any clock: 1 ms is 2,400,000 and the drain of 100 µs
240,000 cycles here, the model's choice (log entry 190).  The model reads or fills in the spec here as log
entries 20, 138 to 145, 172, 174, 190, 191 say. (R5, R377, R380, R382, R386, R387, R388, R389, R391, R403) -/
def Obligations.ResetsAndLinks : Prop :=
  ∀ (s : State),
    let wiped := fun (s1 : State) => ∀ a < poolBase, cellRead s1.mem a = unlisted
    let kept := fun (s1 : State) => ∀ a, poolBase ≤ a → cellRead s1.mem a = cellRead s.mem a
    (∃ s1, exec .coldReset s = .next s1 ∧ wiped s1 ∧ kept s1 ∧ s1.troupes = [] ∧ s1.rings = [] ∧ s1.launches = [] ∧
      s1.saved = [] ∧ s1.cores = State.reset.cores ∧ s1.ctxs = State.reset.ctxs ∧ s1.fw.ide = false ∧ s1.fw.domKeys = [] ∧
      s1.fw.hostUp = true ∧ s1.fw.poolKey = s.fw.nextKey ∧ s.fw.nextKey < s1.fw.nextKey) ∧
    (∃ s1, exec .lifeCycleChange s = .next s1 ∧ wiped s1 ∧ kept s1 ∧ s1.troupes = [] ∧ s1.launches = [] ∧
      s1.ctxs = State.reset.ctxs ∧ s1.cores = State.reset.cores ∧ s1.fw.meas = s.fw.meas ∧
      s1.dies.map (·.tick) = s.dies.map (·.tick)) ∧
    (∃ s1, exec .pcieHotReset s = .next s1 ∧ wiped s1 ∧ s1.ctxs = State.reset.ctxs ∧ s1.fw.ide = false ∧ s1.fw.hostUp = false ∧ s1.fw.vfReset = []) ∧
    (∃ s1, exec .linkDownWithoutReset s = .next s1 ∧ s1.mem = s.mem ∧ s1.fw.ide = false ∧ s1.fw.hostUp = false ∧
      s1.troupes = s.troupes ∧ (∀ c ∈ s1.ctxs, c.prot = true → c.suspended = true)) ∧
    (exec .hostLinkUp s = .next (State.tryResume (((s.launches.filter fun l => l.stage == .torn)).foldl State.finishLaunch
      (s.modFw fun w => { w with hostUp := true })))) ∧
    (s.fw.hostUp = false ∨ s.ev.fn = 0 → exec .vfReset s = .next s) ∧
    (s.fw.hostUp = true → s.ev.fn ≠ 0 → (∀ v ∈ s.fw.vfReset, v.1 ≠ s.ev.fn) → exec .vfReset s = .next (s.modFw fun w =>
      { w with vfReset := w.vfReset ++ [(s.ev.fn, (s.die 0).tick + vfDrain)] })) ∧
    (∀ v, s.fw.vfReset.find? (fun v => v.1 == s.ev.fn) = some v → ∃ s1, exec .vfResetDrainExpiry s = .next s1 ∧
      (∀ o ∈ s1.fw.owners, o.1 ≠ s.ev.fn) ∧ (∀ x ∈ s1.fw.vfReset, x.1 ≠ s.ev.fn) ∧
      (∀ q ∈ s1.queues, q.fn = s.ev.fn → s.ev.fn = 0) ∧ (∀ c ∈ s1.ctxs, c.fn = s.ev.fn → c.asid = 0) ∧
      (∀ b ∈ s1.fw.blocks, b.fn ≠ s.ev.fn) ∧ s.ev.fn ∉ s1.fw.cmdq ∧
      (s.fw.hostUp = false → ∀ c ∈ s.ctxs, c.fn = s.ev.fn → c.asid ≠ 0 → ∀ r ∈ s.contextRanges c.asid,
        ∀ a, r.1 ≤ a → a < r.1 + r.2 → a < poolBase → cellRead s1.mem a = unlisted)) ∧
    (∀ (write : Bool) (a : Nat), s.admits write a = true ↔
      ∃ w, s.fw.fwins.find? (fun w => decide (w.base ≤ a) && decide (a < w.base + w.len)) = some w ∧
        (a < lpEnd ∨ (poolBase ≤ a ∧ a < poolEnd ∧ (a - poolBase) / 2 ^ 28 ∈ s.extents)) ∧
        (∀ x ∈ s.leavesAt a, x.2.grade ≤ w.ceil ∧ (x.1.prot = true → x.2.dom = true → x.1.domain = w.domain)) ∧
        (write = true → w.ceil = 0 ∨ ∃ x ∈ s.leavesAt a, w.ceil ≤ x.2.grade)) ∧
    (∀ port stream, s.portOpen port stream = true ↔ (s.fw.links.getD port {}).state = 0 ∧
      (port, stream) ∉ s.fw.insecure ∧ (port = 18 → s.fw.hostUp = true)) ∧
    (∀ a, (∀ port, port ≠ 18 → s.inboundAt port a = some a) ∧
      s.inboundAt 18 a = (s.fw.fwins.find? fun w =>
        decide (w.bar2 ≤ a) && decide (a < w.bar2 + w.len) && decide (a < s.fw.bar2)).map fun w => w.base + (a - w.bar2)) ∧
    (let n := if s.ev.on then s.ev.bytes.length else s.ev.num
     let at_ := fun (i : Nat) => s.inboundAt s.ev.unit_ (s.ev.addr.toNat + i)
     let s0 := if s.ev.unit_ < 18 then s.modLink s.ev.unit_ fun k => k.carry ((n + 255) / 256) else s
     let answers := fun (s1 : State) (x : Inbound) => exec .inboundAccess s = .next (s1.modFw fun w => { w with inbound := x })
     (s.portOpen s.ev.unit_ s.ev.op = false → answers s .silent) ∧
     (s.portOpen s.ev.unit_ s.ev.op = true →
       ((∃ i < n, ∀ a, at_ i = some a → s.admits s.ev.on a = false) →
         answers s0 (if s.ev.unit_ < 18 then .nak else .completerAbort)) ∧
       (∀ as : List Nat, as.length = n → (∀ i < n, at_ i = some (as.getD i 0)) → (∀ a ∈ as, s.admits s.ev.on a = true) →
         let whole := (∀ a ∈ as, s.lineLost (s.inboundKey a) (.phys a) = false) ∧
           (s.ev.on = false → ∀ a ∈ as, s.poisoned (.phys a) = false)
         (¬whole → answers s0 .poisoned) ∧
         (whole → s.ev.on = false →
           answers s0 (.done (as.map fun a => s.seenByte (some (s.inboundKey a)) (.phys a)))) ∧
         (whole → s.ev.on = true → ∃ s1, exec .inboundAccess s = .next s1 ∧
           s1.fw = { s0.fw with inbound := .done [] } ∧ s1.cores = s.cores ∧ s1.troupes = s.troupes ∧
           (∀ line, line ∈ s1.poison ↔ line ∈ s.poison ∧ ∀ a ∈ as, a / 128 ≠ line) ∧
           ((∀ a ∈ as, (Loc.phys a).pooled = false) →
             s1.mem = (as.zip s.ev.bytes).foldl (fun m x => cellWriteN m x.1 [x.2]) s.mem))))) ∧
    (∃ s1, exec .ideIntegrityFailure s = .next s1 ∧ s1.mem = s.mem ∧ s1.fw.ide = false ∧ s1.fw.spdm.session = 0 ∧
      (s.ev.num, s.ev.op) ∈ s1.fw.insecure ∧ (∀ c ∈ s1.ctxs, c.prot = true → c.stream = (s.ev.num, s.ev.op) → c.suspended = true)) ∧
    (exec .fabricFlitAuthFailure s = .next (s.modFw fun w => { w with links := w.links.modify s.ev.num fun k =>
      { k with state := (match k.failed with | some t => if (s.die 0).tick ≤ t + 2400000 then 2 else 1 | none => 1),
               failed := some (s.die 0).tick } })) ∧
    (exec .fabricRekey s = .next (s.modFw fun w => { w with links := w.links.modify s.ev.num fun k =>
      { k with key := k.key + 1, flits := 0 } })) ∧
    (exec .flitCrcFailure s = .next (s.modFw fun w => { w with
      links := w.links.modify s.ev.num fun k => { k with state := 1 }, ecc := w.ecc.modify 4 (· + 1) })) ∧
    (exec .linkRetrainComplete s = .next (s.modFw fun w => { w with links := w.links.modify s.ev.num fun k =>
      { k with state := 0, failed := if k.state = 2 then none else k.failed } })) ∧
    (let line := s.ev.addr.toNat / 128
     let poison : State := { s with poison := line :: s.poison.filter (· != line) }
     let count := fun (j : Nat) => s.modFw fun w => { w with ecc := w.ecc.modify j (· + 1) }
     (s.ev.on = false →
       ((∀ e ∈ s.symErr, e.1 ≠ line) → exec .scrub s = .next s) ∧
       (∀ x, s.symErr.find? (fun e => e.1 == line) = some x →
         (x.2 ≤ 8 → exec .scrub s = .next ({ s with symErr := s.symErr.filter fun y => y.1 != line }.modFw fun w =>
           { w with ecc := w.ecc.modify 5 (· + 1) })) ∧
         (8 < x.2 → exec .scrub s = .next s))) ∧
     (s.ev.on = true →
       (∀ j, s.ev.num = j → j = 0 ∨ j = 2 ∨ j = 3 → s.ev.bytes ≠ [] → exec .scrub s = .next (count j)) ∧
       (s.ev.num = 2 ∨ s.ev.num = 3 ∨ (s.ev.num = 0 ∧ s.ev.unit_ = 2) → s.ev.bytes = [] → exec .scrub s = .next poison) ∧
       (s.ev.num = 0 → s.ev.unit_ = 0 → s.ev.bytes = [] → ∀ t, s.troupe? ⟨s.ev.ring, s.ev.idx⟩ = some t →
         ∃ s1 u, exec .scrub s = .next s1 ∧ s1.troupe? ⟨s.ev.ring, s.ev.idx⟩ = some u ∧ s.ev.lane ∈ u.regErr ∧ s1.mem = s.mem) ∧
       (s.ev.num = 5 → exec .scrub s =
         .next { s with symErr := (line, s.ev.lane) :: s.symErr.filter fun x => x.1 != line }))) ∧
    (∀ a, s.poisoned (.phys a) = true ↔ a / 128 ∈ s.poison ∨ ∃ e ∈ s.symErr, e.1 = a / 128 ∧ 8 < e.2)

/-- A request of PF0 in its order is answered, its response joins the transcript with it and the state advances;
out of order, it is answered with an error and nothing else changes; from another function, or with the host
link down, nothing changes. GET_MEASUREMENTS and CHALLENGE use a one-time key of the signature; KEY_EXCHANGE
multiplies the requester's point of the curve, and a point off it is refused; GET_MEASUREMENTS in an open
session, KEY_UPDATE, END_SESSION and IDE_KM are of the session and sealed by it. The watchdog, the clock
events and the thermal events each set their own field. The order of requests is the model's choice (log
entry 21).  The model reads or fills in the spec here as log entries 21, 146, 175 say. (R385, R391, R332,
R402, R403) -/
def Obligations.AttestationAndClocks : Prop :=
  ∀ (s : State),
    let v := s.fw.spdm
    let put := fun (x : Spdm) => s.modFw fun w => { w with spdm := x }
    let wrong := (.next (put { v with response := [0x13, 0x7F, 0x04, 0x00] }) : Out)
    let answered := fun (code : Nat) (x : Spdm) =>
      let b := s.fw.spdmReply code s.ev.bytes
      (.next (s.modFw fun w =>
        { w with spdm := { x with transcript := sha256 (v.transcript ++ s.ev.bytes ++ b), response := b },
                 lms := if code = 0xE0 ∨ code = 0x83 then w.lms + 1 else w.lms }).tryResume : Out)
    let within := fun (code : Nat) (req : List Byte) (f : Fw → Fw) =>
      let b := s.fw.spdmReply code req
      let x := { v with transcript := sha256 (v.transcript ++ req ++ b), response := v.seal 1 b, sealed := v.sealed + 2 }
      (.next (s.modFw fun w => f { w with spdm := x, lms := if code = 0xE0 then w.lms + 1 else w.lms }).tryResume : Out)
    let requests : List Instr := [.getVersion, .getCapabilities, .negotiateAlgorithms, .getDigests, .getCertificate,
      .challenge, .getMeasurements, .keyExchange, .finish, .keyUpdate, .endSession, .ideKm]
    (s.ev.fn ≠ 0 ∨ s.fw.hostUp = false → ∀ i ∈ requests, exec i s = .next s) ∧
    (∀ (w : Fw) (code : Nat) (req : List Byte),
      let body := Config.spdmBody code w.spdm.transcript req
      (code ≠ 0xE0 → code ≠ 0x83 → w.spdmReply code req = body) ∧
      (code = 0xE0 → w.spdmReply code req = body ++ w.meas.flatten ++
        w.sign (sha256 (w.spdm.transcript ++ req ++ body ++ w.meas.flatten))) ∧
      (code = 0x83 → w.spdmReply code req = body ++ w.sign (sha256 (w.spdm.transcript ++ req ++ body))) ∧
      (1024 ≤ w.lms → w.sign req = [])) ∧
    (s.ev.fn = 0 → s.fw.hostUp = true →
    (∀ x ∈ ([(.getCapabilities, 0xE1, v.stage = 1, { v with stage := 2 }),
        (.negotiateAlgorithms, 0xE3, v.stage = 2, { v with stage := 3 }),
        (.getDigests, 0x81, 3 ≤ v.stage, v), (.getCertificate, 0x82, 3 ≤ v.stage, v),
        (.challenge, 0x83, 3 ≤ v.stage, { v with stage := 4 }),
        (.finish, 0xE5, v.session = 1,
          { v with session := if Config.spdmVerifies v.transcript s.ev.bytes then 2 else 0 })] :
        List (Instr × Nat × Prop × Spdm)),
      (x.2.2.1 → exec x.1 s = answered x.2.1 x.2.2.2) ∧ (¬x.2.2.1 → exec x.1 s = wrong)) ∧
    (v.session ≠ 2 → (3 ≤ v.stage → exec .getMeasurements s = answered 0xE0 { v with measured := true }) ∧
      (v.stage < 3 → exec .getMeasurements s = wrong)) ∧
    (v.session = 2 → v.unseal s.ev.bytes = none → exec .getMeasurements s = .next s) ∧
    (∀ req, v.session = 2 → v.unseal s.ev.bytes = some req → exec .getMeasurements s =
      within 0xE0 req fun w => { w with spdm := { w.spdm with measured := true } }) ∧
    (let x := Machine.beNat ((s.ev.bytes.drop 40).take 48)
     let y := Machine.beNat ((s.ev.bytes.drop 88).take 48)
     let d := 1 + Config.dheSecret s.choice % (ecN - 1)
     (v.stage < 3 ∨ v.session ≠ 0 → exec .keyExchange s = wrong) ∧
     (3 ≤ v.stage → v.session = 0 → 136 ≤ s.ev.bytes.length →
       (ecOn x y = false → exec .keyExchange s = .next (put { v with response := [0x13, 0x7F, 0x01, 0x00] })) ∧
       (ecOn x y = true →
         let b := Config.spdmBody 0xE4 v.transcript s.ev.bytes ++ ecBytes (ecMul d (some ecG) 384)
         let t := sha256 (v.transcript ++ s.ev.bytes ++ b)
         let k := padTo 32 ((Config.sessionKey ((ecBytes (ecMul d (some (x, y)) 384)).take 48) t).take 32)
         exec .keyExchange s =
           .next (put { v with session := 1, transcript := t, key := k, sealed := 0, response := b })))) ∧
    (∃ s1, exec .getVersion s = .next s1 ∧ s1.fw.spdm.stage = 1 ∧ s1.fw.spdm.session = 0 ∧ s1.mem = s.mem ∧
      s1.fw.spdm.transcript = sha256 (s.ev.bytes ++ s1.fw.spdm.response)) ∧
    (∀ x ∈ ([(.keyUpdate, 0xE9, fun w =>
          { w with spdm := { w.spdm with key := padTo 32 ((Config.updatedKey w.spdm.key).take 32), sealed := 0 } }),
        (.endSession, 0xEC, fun w => { w with spdm := { w.spdm with session := 0, key := [], sealed := 0 } }),
        (.ideKm, 0xFE, fun w => { w with ide := true, insecure := [] })] : List (Instr × Nat × (Fw → Fw))),
      (v.session ≠ 2 → exec x.1 s = wrong) ∧
      (v.session = 2 → v.unseal s.ev.bytes = none → exec x.1 s = .next s) ∧
      (∀ req, v.session = 2 → v.unseal s.ev.bytes = some req → exec x.1 s = within x.2.1 req x.2.2))) ∧
    (exec .roustaboutWatchdog s = .next (s.modFw fun w => { w with restarts := w.restarts + 1 })) ∧
    (exec .clockStretch s = .next (s.modDie s.ev.die fun d => { d with stretched := true })) ∧
    (exec .slewSubsides s = .next (s.modDie s.ev.die fun d => { d with stretched := false })) ∧
    (s.ev.on = false → exec .thermalTrip s =
      .next ((s.modDie s.ev.die fun d => { d with temp := max d.temp 105 }).modFw fun w => { w with tripped := true })) ∧
    (s.ev.on = true → ∃ s1, exec .thermalTrip s = .next s1 ∧ s1.fw = { s.fw with rails := s.ev.args.drop 4 } ∧ s1.mem = s.mem ∧
      s1.troupes = s.troupes ∧ ∀ d, d < s.dies.length → d < 4 → d < s.ev.args.length →
        s1.die d = { s.die d with temp := min (s.ev.args.getD d 0) 104 }) ∧
    (exec .thermalPowerOff s =
      .next ((s.modDie s.ev.die fun d => { d with temp := max d.temp 115 }).modFw fun w => { w with powered := false }))

/-- With power on: where one thing may happen, step does it and time passes; where several may, it does one of
them or fills a line of an instruction cache. A scalar side or a stream that acts with a decoded unit at its
pc, in the lines its clause keeps, runs exec of that instruction as the acting party with the unit's length;
a vector side that acts runs exec of its first dispatched instruction; a side whose next instruction is held
begins its wait in a step of its own, which counts no starvation; a device step runs exec of it with its
event.  The model reads or fills in the spec here as log entries 1, 4, 5, 62, 152, 192 say. (R20, R35, R81,
R328) -/
def Obligations.StepRunsTheUnit : Prop :=
  (∀ (s : State) (a : Act), s.fw.powered = true → s.acts = [a] →
    step s = match perform a s.ready with
      | .next s1 => .next s1.catchUp.passTime
      | x => x) ∧
  (∀ (s : State), s.fw.powered = true → 2 ≤ s.acts.length → ∃ a ∈ s.acts ++ s.fillActs,
    step s = match perform a s.ready with
      | .next s1 => .next s1.catchUp.passTime
      | x => x) ∧
  (∀ (s : State), s.fw.powered = true → s.acts = [] → step s = .next s.passTime) ∧
  (∀ (s : State) (t : Troupe) (rdy : List TroupeId) (i : Instr) (n : Nat), s.fetchTroupe t = .unit_ (.ok i n) →
    perform (.scalar t rdy) s = exec i { s.countStarve t rdy with cur := .scalar t.id, len := n }) ∧
  (∀ (s : State) (t : Troupe), t.left = 0 →
    s.fetchTroupe t = s.fetch (s.asidOf t.id.ring) (s.ring t.id.ring).core t.pc.toNat) ∧
  (∀ (s : State) (ring : Nat) (st : Stream) (i : Instr) (n : Nat), s.fetchStream ring st = .unit_ (.ok i n) →
    perform (.stream ring st) s = exec i { s.takeTurn ring st with cur := .stream ring, len := n }) ∧
  (∀ (s : State) (t : Troupe) (rdy : List TroupeId) (e : VEntry) (rest : List VEntry), t.vq = e :: rest →
    perform (.vector t rdy) s = exec e.instr { s.countStarve t rdy with cur := .vside t.id }) ∧
  (∀ (s : State) (t : Troupe), (∀ i n, s.fetchTroupe t = .unit_ (.ok i n) →
      perform (.scalarWait t) s = exec i { s with cur := .scalar t.id, len := n }) ∧
    (∀ e rest, t.vq = e :: rest → perform (.vectorWait t) s = exec e.instr { s with cur := .vside t.id }) ∧
    (.scalarWait t ∈ s.acts → scalarTurn s t = .held ∧ t.wait = none) ∧
    (.vectorWait t ∈ s.acts → vectorTurn s t = .held ∧ t.vwait = none)) ∧
  (∀ (s : State) (i : Instr) (ev : Event), perform (.device i ev) s = exec i { s with ev := ev, cur := .device })

/-- For every instruction that is well formed for a troupe or for a matrix stream, with every field at every
value: where it has an encoding, the decoder reads from its bytes, whatever follows them, that instruction
and the length of its unit; every instruction of code has an encoding. (R26, R27, R33, R37, R39) -/
def Obligations.DecodeEncode : Prop :=
  ∀ i : Instr, i.WellFormed ∨ i.WellFormedStream →
    (∀ bs rest, encode i = some bs → decode (bs ++ rest) = .ok i bs.length) ∧
    ((i.row ≠ none ∨ ∃ h, i = .clauseHeader h) → ∃ bs, encode i = some bs ∧ (bs.length = 13 ∨ bs.length = 4))

/-- The decoder reads the two, four or eight bytes of an S, M or L unit, the four of a clause header and the
thirteen of an F unit as one number whose first byte is the most significant; the bytes of data are one
number whose first byte is the least significant. (R26) -/
def Obligations.CodeUnitsBigEndian : Prop :=
  ∀ (b0 b1 b2 b3 b4 b5 b6 b7 : Byte) (bs rest : List Byte),
    (b0.toNat < 0x80 → decode (b0 :: b1 :: rest) = decodeS (b0.toNat * 2 ^ 8 + b1.toNat)) ∧
    (let w := b0.toNat * 2 ^ 24 + b1.toNat * 2 ^ 16 + b2.toNat * 2 ^ 8 + b3.toNat
     (0x80 ≤ b0.toNat → b0.toNat < 0xC0 → decode (b0 :: b1 :: b2 :: b3 :: rest) = decodeM w) ∧
     (0xF0 ≤ b0.toNat → b0.toNat < 0xF8 →
       decode (b0 :: b1 :: b2 :: b3 :: rest) = .ok (.clauseHeader (Header.ofNat w)) 4)) ∧
    (0xC0 ≤ b0.toNat → b0.toNat < 0xE0 → decode (b0 :: b1 :: b2 :: b3 :: b4 :: b5 :: b6 :: b7 :: rest) =
      decodeL (b0.toNat * 2 ^ 56 + b1.toNat * 2 ^ 48 + b2.toNat * 2 ^ 40 + b3.toNat * 2 ^ 32 + b4.toNat * 2 ^ 24
        + b5.toNat * 2 ^ 16 + b6.toNat * 2 ^ 8 + b7.toNat)) ∧
    (bs.length = 12 → decode ((0xE8 : Byte) :: bs ++ rest) = decodeF (bs.foldl (fun n b => n * 256 + b.toNat) 0)) ∧
    (leNat (b0 :: bs) = b0.toNat + 256 * leNat bs)

/-- The bytes of worked examples of the spec, of every length and of several families, decode to the
instructions the spec writes beside them. (R30, R31, R32, R33, R37) -/
def Obligations.SpecWordsDecode : Prop :=
  decode [0xF2, 0x00, 0x40, 0xF4] = .ok (.clauseHeader { len := 2, wait := 4, seta := 0, setb := 15, mile := 1 }) 4 ∧
  decode [0x76, 0x58] = .ok (.vld { ty := 2, d := 5, a := 8, b := 5, modx := 0xA }) 2 ∧
  decode [0xC1, 0x08, 0x34, 0x60, 0x30, 0x0F, 0xFF, 0xFB] =
    .ok (.sadd { sub := 8, ty := 3, d := 0x46, a := 3, imm := 0xFFFFFFFB }) 8 ∧
  decode [0xC0, 0x22, 0x30, 0x00, 0x50, 0x0F, 0xFF, 0xC0] = .ok (.brc { sub := 2, ty := 3, a := 5, imm := 0xFFFFFFC0 }) 8 ∧
  decode [0xDB, 0xE0, 0x60, 0x20, 0x40, 0x60, 0x71, 0x0A] =
    .ok (.aadd { ty := 6, d := 2, a := 4, b := 6, c := 7, scp := 2, modx := 0xA }) 8 ∧
  decode [0xAB, 0xC0, 0x01, 0x00] = .ok (.mxalias { a := 4 }) 4 ∧
  decode [0xB9, 0x80, 0x02, 0x04] = .ok (.spawn { a := 8, b := 4 }) 4 ∧
  decode [0xE8, 0xD4, 0x10, 0x10, 0x04, 0x06, 0x08, 0x00, 0x20, 0x00, 0x00, 0x00, 0x03] =
    .ok (.ttake { sub := 1, d := 0x10, a := 4, b := 6, c := 8, sel := 2, imm := 3 }) 13

/-- With no active lane the destination keeps its value, shape and grade; with some but not all, it becomes
general, its inactive lanes keep their values, its active lanes take the result's, and its grade is the
higher of its old grade and the result's; with every lane active it takes the shape of the result (an affine
one of stride 0 as uniform), its lanes and its grade; no other register changes. (R85) -/
def Obligations.MaskedWrite : Prop :=
  ∀ (t : Troupe) (w : VWrite), w.d.toNat < 64 → w.d.toNat < t.v.length →
    let old := t.v.getD w.d.toNat {}
    let new := (t.writeV w).v.getD w.d.toNat {}
    (w.mask = 0 → t.writeV w = t) ∧
    (w.mask ≠ 0 → w.mask ≠ BitVec.allOnes 64 → new.sh.code = 2 ∧ new.g = max old.g w.g ∧
      ∀ n < 64, new.sh.lane n = if w.mask.getLsbD n then w.sh.lane n else old.sh.lane n) ∧
    (w.mask = BitVec.allOnes 64 → new.g = w.g ∧ (∀ n, new.sh.lane n = w.sh.lane n) ∧
      new.sh.code = match w.sh with | .affine _ st => if st = 0 then 0 else 1 | sh => sh.code) ∧
    (∀ j, j ≠ w.d.toNat → (t.writeV w).v.getD j {} = t.v.getD j {}) ∧ (t.writeV w).s = t.s ∧ (t.writeV w).k = t.k

/-- What the scalar side's own computing leaves as it was: everything but its destination, its pc and the
counts of its clause. -/
def ScalarFrame (s s1 : State) (t : Troupe) (d : Nat) : Prop :=
  s1.mem = s.mem ∧ (∀ x, s1.readLoc x = s.readLoc x) ∧ s1.ctxs = s.ctxs ∧ s1.queues = s.queues ∧
  s1.slices = s.slices ∧ s1.dies = s.dies ∧ (∀ id, id ≠ t.id → s1.troupe? id = s.troupe? id) ∧
  (∀ r, (s1.ring r).stream = (s.ring r).stream ∧ (s1.ring r).grants = (s.ring r).grants) ∧
  ∃ u, s1.troupe? t.id = some u ∧ u.v = t.v ∧ u.w = t.w ∧ u.ac = t.ac ∧ u.sticky = t.sticky ∧ u.utag = t.utag ∧
    u.up = t.up ∧ u.down = t.down ∧ u.ops = t.ops ∧ u.vq = t.vq ∧ u.stopped = t.stopped ∧ u.age = t.age ∧
    (∀ n, n ≠ d → u.s.getD n {} = t.s.getD n {}) ∧ (∀ n, 0x80 + n ≠ d → u.k.getD n {} = t.k.getD n {})

/-- Where the scalar side stands before it and the troupe has no lane fault to report: a scalar or mask
instruction that computes changes no scalar or mask register but D, the branches, jmp and ret none, call
only s127; each leaves every vector register, flag, counter and queue of its troupe, every other troupe,
every byte of memory and scratchpad and every fault record as they were.  The model reads or fills in the
spec here as log entries 61, 68 say. (R82, R94, R96, R97, R107) -/
def Obligations.ScalarFrames : Prop :=
  ∀ (f : Fields) (t : Troupe) (s s1 : State), t.reports = [] → t.wait = none →
    (∀ c ∈ [Instr.sadd, .ssub, .smul, .smulhi, .sand, .sor, .sxor, .sandn, .smin, .smax, .sabs, .sclz, .spop, .sbrev,
        .sshl, .sshr, .ssra, .srol, .sins, .sxtr, .ssel, .scmp, .smov, .sli, .sliHi, .sadr,
        .kand, .kor, .kxor, .kandn, .knot, .kmov, .kset, .kget, .kpop, .kffs, .klast, .kbcast],
      ScalarMay (c f) t s → exec (c f) s = .next s1 → ScalarFrame s s1 t f.d.toNat) ∧
    (∀ c ∈ [Instr.bra, .brc, .bany, .bnone, .jmp, .ret],
      ScalarMay (c f) t s → exec (c f) s = .next s1 → ScalarFrame s s1 t 0x100) ∧
    (ScalarMay (.call f) t s → exec (.call f) s = .next s1 → ScalarFrame s s1 t 127)

/-- Where the vector side stands before an instruction that computes lane by lane, its budget has room, the slot
it names is ready, and the scalar side is not left stuck on a queue: no vector register but D changes, the
inactive lanes of D keep their values, and every scalar and mask register, every other troupe, every byte of
memory and scratchpad and every fault record stay as they were; the integer forms leave the sticky flags
too.  The model reads or fills in the spec here as log entry 61 says. (R47, R82, R85, R110) -/
def Obligations.VectorFrames : Prop :=
  ∀ (f : Fields) (e : VEntry) (t : Troupe) (s s1 : State),
    t.reports = [] → ({ t with vq := t.vq.tail, vwait := none } : Troupe).stalled = false →
    t.room (s.ring t.id.ring).vgen f.d →
    let frame := s1.mem = s.mem ∧ (∀ x, s1.readLoc x = s.readLoc x) ∧ s1.ctxs = s.ctxs ∧ s1.rings = s.rings ∧
      s1.slices = s.slices ∧ s1.dies = s.dies ∧ (∀ id, id ≠ t.id → s1.troupe? id = s.troupe? id) ∧
      ∃ u, s1.troupe? t.id = some u ∧ u.s = t.s ∧ u.k = t.k ∧ u.w = t.w ∧ u.ac = t.ac ∧ u.utag = t.utag ∧ u.pc = t.pc ∧
        u.up = t.up ∧ u.down = t.down ∧ u.ops = t.ops ∧ u.stopped = t.stopped ∧
        (∀ j, j ≠ f.d.toNat → u.v.getD j {} = t.v.getD j {}) ∧
        (∀ n < 64, e.cap.k0.getLsbD n = false → (u.v.getD f.d.toNat {}).sh.lane n = (t.v.getD f.d.toNat {}).sh.lane n) ∧
        (∀ j < 4, t.sticky.getLsbD j = true → u.sticky.getLsbD j = true)
    (∀ c ∈ [Instr.vadd, .vsub, .vmul, .vmulhi, .vand, .vor, .vxor, .vandn, .vshl, .vshr, .vsra, .vmin, .vmax,
        .vabs, .vneg, .vclz, .vpop, .vmad, .vsel, .vmov, .vbcast, .vsplat],
      VectorMay (c f) e t s → exec (c f) s = .next s1 → frame ∧ ∃ u, s1.troupe? t.id = some u ∧ u.sticky = t.sticky) ∧
    (∀ c ∈ [Instr.fadd, .fsub, .fmul, .fma, .fmin, .fmax, .fabs, .fneg, .fscale],
      s.judgeSlots t.id.ring [f.ty.toNat] = none → VectorMay (c f) e t s → exec (c f) s = .next s1 → frame)

/-- A load changes no byte of memory or scratchpad while its troupe is inside a clause, and at its end where it
is a scalar or scratchpad load whose lanes pass their checks. A scalar store st whose address passes its
checks changes no byte outside the place of its address, computed as LaneAddresses gives it, but in a pooled
line that it takes from another key (log entry 147); a store sts whose lanes all lie in allocations changes
no byte outside their places; neither changes a register.  The model reads or fills in the spec here as log
entries 10, 147 say. (R230, R154, R225) -/
def Obligations.MemoryFrames : Prop :=
  ∀ (f : Fields) (e : VEntry) (t : Troupe) (s s1 : State),
    t.reports = [] → t.scalarStuck = false → t.stopped = [] → (∀ o ∈ t.ops, o.id < t.nextOp) →
    let party := s.ringParty t.id.ring
    let same := s1.mem = s.mem ∧ ∀ x, s1.readLoc x = s.readLoc x
    let regs := ∃ u, s1.troupe? t.id = some u ∧ u.s = t.s ∧ u.k = t.k ∧ u.v = t.v ∧ u.sticky = t.sticky
    let budget := fun (i : Instr) => t.overBudget (s.ring t.id.ring).vgen (loadDests i f e.cap.k0) = false
    (∀ c ∈ [Instr.ld, .ldAc, .vld, .vldAc, .vldw, .lds, .ldsb], VectorMay (c f) e t s → budget (c f) →
      0 < t.left → t.wait = none → exec (c f) s = .next s1 → same) ∧
    (∀ site, ∀ c ∈ [Instr.ld, .ldAc], VectorMay (c f) e t s → budget (c f) →
      s.access party (lanePlace (c f) f e t 0).toNat (accessWant (c f) f 0) = .ok site →
      exec (c f) s = .next s1 → same) ∧
    (∀ place : Nat → Site, VectorMay (.lds f) e t s → budget (.lds f) →
      (∀ n ∈ accessLanes (.lds f) e.cap.k0, s.access party (lanePlace (.lds f) f e t n).toNat
        (accessWant (.lds f) f 0) = .ok (place n)) → exec (.lds f) s = .next s1 → same) ∧
    (∀ site, VectorMay (.st f) e t s →
      s.access party (lanePlace (.st f) f e t 0).toNat (accessWant (.st f) f (dataGrade (.st f) f e t)) = .ok site →
      exec (.st f) s = .next s1 → (∀ x, x ∉ site.locs → ¬Rekeyed s site x → s1.readLoc x = s.readLoc x) ∧ regs) ∧
    (∀ place : Nat → Site, VectorMay (.sts f) e t s →
      (∀ n ∈ accessLanes (.sts f) e.cap.k0, s.access party (lanePlace (.sts f) f e t n).toNat
        (accessWant (.sts f) f (dataGrade (.sts f) f e t)) = .ok (place n)) →
      exec (.sts f) s = .next s1 →
      (∀ x, (∀ n ∈ accessLanes (.sts f) e.cap.k0, x ∉ (place n).locs) → s1.readLoc x = s.readLoc x) ∧ regs)

/-- Writing and wiping keep addresses rising and list no byte that an unlisted address reads as; a byte written
is read back, every other byte is as before; equal contents are equal lists.  The model reads or fills in
the spec here as log entry 2 says. (R4, R225, R387) -/
def Obligations.MemoryOperationsKeepForm : Prop :=
  ∀ (m : List Host.Cell) (a : Nat) (bs : List Byte) (n : Nat), Memory.wf m = true →
    Memory.wf (cellWriteN m a bs) = true ∧ Memory.wf (cellWipe m a n) = true ∧
    (∀ x, cellRead (cellWriteN m a bs) x = if a ≤ x ∧ x < a + bs.length then bs.getD (x - a) 0 else cellRead m x) ∧
    (∀ x, cellRead (cellWipe m a n) x = if a ≤ x ∧ x < a + n then unlisted else cellRead m x) ∧
    (∀ m2, Memory.wf m2 = true → (∀ x, cellRead m2 x = cellRead m x) → m2 = m)

/-- From every state whose memory and scratchpads list their bytes by rising address, none equal to what an
unlisted address reads as, whatever the step does, the next state is of that form.  The model reads or fills
in the spec here as log entry 2 says. (R4, R147, R225, R387) -/
def Obligations.StepKeepsForm : Prop :=
  ∀ (s s1 : State), Inv s → step s = .next s1 → Inv s1

/-- Where every record that a context keeps for a handler is of KIND 0 or 1 with the troupe it names, or of KIND
3, a step that answers a next state leaves it so; and it is so after reset. (R344) -/
def Obligations.PendingRecordsKinds : Prop :=
  RecordsPend State.reset ∧ ∀ (s s1 : State), RecordsPend s → step s = .next s1 → RecordsPend s1

/-- After reset memory and scratchpads are in canonical form, nothing is placed, no launch, context but 0 or key
of an owner exists, every queue is disabled, the power is on, and the host link is down with no command
waiting. Values that the spec does not state are the model's choice (log entry 3).  The model reads or fills
in the spec here as log entries 2, 3 say. (R387, R403, R317) -/
def Obligations.ResetState : Prop :=
  Inv State.reset ∧ State.reset.mem = [] ∧ State.reset.troupes = [] ∧ State.reset.rings = [] ∧
  State.reset.nbhds = [] ∧ State.reset.launches = [] ∧ State.reset.saved = [] ∧ State.reset.fw.owners = [] ∧
  State.reset.fw.powered = true ∧ State.reset.fw.hostUp = false ∧ State.reset.fw.cmdq = [] ∧ (∀ c ∈ State.reset.ctxs, c.asid = 0) ∧
  (∀ q ∈ State.reset.queues, q.en = false ∧ q.state = 0) ∧ State.reset.queues.length = 1024
end

