-- ==== Sys2Proof/Laws/Exec.lean ====
section
/-! SUPPORT. What each frame around an instruction answers: the scalar side, the dispatch to the vector
side, its issue, a matrix stream, and the instructions that only compute. -/

set_option Elab.async false

namespace Sys2Proof.Machine

variable {i : Instr} {f : Fields} {e : VEntry} {t : Troupe} {s s1 : State} {ring : Nat} {st : Stream}

/-! ### The scalar side -/

theorem scalarRun_of_may {eff : Troupe → State → SRes} (h : ScalarMay i t s) :
    scalarRun i t s eff =
      match eff t s with
      | .done s1 => s1.endInstr t.id (t.pc + BitVec.ofNat 64 s.len)
      | .goto s1 pc => s1.endInstr t.id pc
      | .wait w s1 => s1.blockScalar t.id w
      | .fault fi => s.scalarFaultOf i t fi
      | .trap fi =>
          if t.vq.isEmpty then
            (s.endInstr t.id (t.pc + BitVec.ofNat 64 s.len)).takeFault t.id false t.pc t.k0
              { fi with grade := t.gradeOf i.scalarReads }
          else s.blockScalar t.id .drain := by
  obtain ⟨_, _, hl, he, hd, hh, hb⟩ := h
  have hl' : t.left ≠ 0 := by omega
  have he' : (endsClause i && t.left != 1) = false := by
    cases hc : endsClause i
    · rfl
    · simp [he hc]
  simp only [scalarRun, if_neg hl', hd, he', hh, hb, Bool.false_eq_true, if_false]
  all_goals (cases eff t s <;> rfl)

theorem scalarInstr_of_may {eff : Troupe → State → SRes} (h : ScalarMay i t s) :
    scalarInstr i s eff = .next (scalarRun i t s eff) := by
  simp only [scalarInstr, h.1, h.2.1]

theorem scalarInstr_done {eff : Troupe → State → SRes} (h : ScalarMay i t s) (he : eff t s = .done s1) :
    scalarInstr i s eff = .next (s1.endInstr t.id (t.pc + BitVec.ofNat 64 s.len)) := by
  rw [scalarInstr_of_may h, scalarRun_of_may h, he]

theorem scalarInstr_goto {eff : Troupe → State → SRes} {pc : Word} (h : ScalarMay i t s)
    (he : eff t s = .goto s1 pc) : scalarInstr i s eff = .next (s1.endInstr t.id pc) := by
  rw [scalarInstr_of_may h, scalarRun_of_may h, he]

theorem scalarInstr_wait {eff : Troupe → State → SRes} {w : Wait} (h : ScalarMay i t s)
    (he : eff t s = .wait w s1) : scalarInstr i s eff = .next (s1.blockScalar t.id w) := by
  rw [scalarInstr_of_may h, scalarRun_of_may h, he]

theorem scalarInstr_fault {eff : Troupe → State → SRes} {fi : FInfo} (h : ScalarMay i t s)
    (he : eff t s = .fault fi) : scalarInstr i s eff = .next (s.scalarFaultOf i t fi) := by
  rw [scalarInstr_of_may h, scalarRun_of_may h, he]

/-! ### The vector side -/

theorem vectorHead_of_may {issue : VEntry → Troupe → State → VRes} (h : VectorMay i e t s) :
    vectorHead i t.id s issue =
      match issue e t s with
      | .done s1 => s1.vectorEnd t.id
      | .wait w s1 => s1.blockVector t.id w
      | .fault fi => s.vectorFaultOf i t e fi := by
  obtain ⟨_, ht, hv, _, hd, hh, hb, hk⟩ := h
  cases hq : t.vq with
  | nil => simp [hq] at hv
  | cons x xs =>
      simp only [hq, List.head?_cons, Option.some.injEq] at hv
      subst hv
      simp only [vectorHead, ht, hq, hd, hh, hb, hk, Bool.false_eq_true, if_false]
      all_goals (cases issue x t s <;> rfl)

theorem vectorInstr_of_may {issue : VEntry → Troupe → State → VRes} (h : VectorMay i e t s) :
    vectorInstr i s issue = .next (vectorHead i t.id s issue) := by
  simp only [vectorInstr, h.1, h.2.1]

theorem vectorInstr_done {issue : VEntry → Troupe → State → VRes} (h : VectorMay i e t s)
    (he : issue e t s = .done s1) : vectorInstr i s issue = .next (s1.vectorEnd t.id) := by
  rw [vectorInstr_of_may h, vectorHead_of_may h, he]

theorem vectorInstr_wait {issue : VEntry → Troupe → State → VRes} {w : Wait} (h : VectorMay i e t s)
    (he : issue e t s = .wait w s1) : vectorInstr i s issue = .next (s1.blockVector t.id w) := by
  rw [vectorInstr_of_may h, vectorHead_of_may h, he]

theorem vectorInstr_fault {issue : VEntry → Troupe → State → VRes} {fi : FInfo} (h : VectorMay i e t s)
    (he : issue e t s = .fault fi) : vectorInstr i s issue = .next (s.vectorFaultOf i t e fi) := by
  rw [vectorInstr_of_may h, vectorHead_of_may h, he]

/-! ### A matrix stream -/

theorem streamRun_of_may {eff : Stream → State → MRes} (h : StreamMay i f ring st s) :
    streamRun i f ring st s eff =
      match eff st s with
      | .done s1 => s1.streamNext ring (st.pc + BitVec.ofNat 64 s.len)
      | .goto s1 pc => s1.streamNext ring pc
      | .more s1 => s1.modStream ring fun st => { st with state := 2, wait := none }
      | .wait w s1 => s1.modStream ring fun st => { st with state := 3, wait := some w }
      | .park va c l s1 =>
          (s1.park ring (.stream ring) (BitVec.ofNat 64 va) c l kMatrix).modStream ring
            fun st => { st with state := 3, wait := some .parked }
      | .stop code s1 => s1.stopStream ring code (streamGrade i f st)
      | .ended s1 => s1 := by
  obtain ⟨_, _, hl, hr, hd, he, ht, hu⟩ := h
  have hl' : st.left ≠ 0 := by omega
  have he' : (streamEnds i && st.left != 1) = false := by
    cases hc : streamEnds i
    · rfl
    · simp [he hc]
  have ht' : (needsTwo i f && !st.two) = false := by
    cases hc : needsTwo i f
    · rfl
    · simp [ht hc]
  cases hrow : i.row with
  | none => simp [hrow] at hr
  | some r =>
      simp only [hrow] at hr
      simp only [streamRun, hrow, if_neg hl', hr, hd, he', ht', hu, Bool.not_true, Bool.false_eq_true, if_false]
      all_goals (cases eff st s <;> rfl)

theorem streamInstr_of_may {eff : Stream → State → MRes} (h : StreamMay i f ring st s) :
    streamInstr i f s eff = .next (streamRun i f ring st s eff) := by
  simp only [streamInstr, h.1, h.2.1]

theorem streamInstr_done {eff : Stream → State → MRes} (h : StreamMay i f ring st s)
    (he : eff st s = .done s1) :
    streamInstr i f s eff = .next (s1.streamNext ring (st.pc + BitVec.ofNat 64 s.len)) := by
  rw [streamInstr_of_may h, streamRun_of_may h, he]

theorem streamInstr_goto {eff : Stream → State → MRes} {pc : Word} (h : StreamMay i f ring st s)
    (he : eff st s = .goto s1 pc) : streamInstr i f s eff = .next (s1.streamNext ring pc) := by
  rw [streamInstr_of_may h, streamRun_of_may h, he]

end Sys2Proof.Machine
end

