-- ==== Sys2Proof/Laws/State.lean ====
section
/-! SUPPORT. One lemma for each update of a part of the state and each other part, and what finding a part
gives after its update. -/

set_option Elab.async false

namespace Sys2Proof.Machine

variable (s : State)

/-! ### modDie -/

@[simp] theorem State.modDie_cores (d : Nat) (f : Die → Die) : (s.modDie d f).cores = s.cores := rfl
@[simp] theorem State.modDie_slices (d : Nat) (f : Die → Die) : (s.modDie d f).slices = s.slices := rfl
@[simp] theorem State.modDie_troupes (d : Nat) (f : Die → Die) : (s.modDie d f).troupes = s.troupes := rfl
@[simp] theorem State.modDie_rings (d : Nat) (f : Die → Die) : (s.modDie d f).rings = s.rings := rfl
@[simp] theorem State.modDie_nbhds (d : Nat) (f : Die → Die) : (s.modDie d f).nbhds = s.nbhds := rfl
@[simp] theorem State.modDie_launches (d : Nat) (f : Die → Die) : (s.modDie d f).launches = s.launches := rfl
@[simp] theorem State.modDie_queues (d : Nat) (f : Die → Die) : (s.modDie d f).queues = s.queues := rfl
@[simp] theorem State.modDie_ctxs (d : Nat) (f : Die → Die) : (s.modDie d f).ctxs = s.ctxs := rfl
@[simp] theorem State.modDie_saved (d : Nat) (f : Die → Die) : (s.modDie d f).saved = s.saved := rfl
@[simp] theorem State.modDie_fw (d : Nat) (f : Die → Die) : (s.modDie d f).fw = s.fw := rfl
@[simp] theorem State.modDie_mem (d : Nat) (f : Die → Die) : (s.modDie d f).mem = s.mem := rfl
@[simp] theorem State.modDie_poison (d : Nat) (f : Die → Die) : (s.modDie d f).poison = s.poison := rfl
@[simp] theorem State.modDie_symErr (d : Nat) (f : Die → Die) : (s.modDie d f).symErr = s.symErr := rfl
@[simp] theorem State.modDie_pkeys (d : Nat) (f : Die → Die) : (s.modDie d f).pkeys = s.pkeys := rfl
@[simp] theorem State.modDie_extents (d : Nat) (f : Die → Die) : (s.modDie d f).extents = s.extents := rfl
@[simp] theorem State.modDie_cur (d : Nat) (f : Die → Die) : (s.modDie d f).cur = s.cur := rfl
@[simp] theorem State.modDie_agenda (d : Nat) (f : Die → Die) : (s.modDie d f).agenda = s.agenda := rfl
@[simp] theorem State.modDie_ev (d : Nat) (f : Die → Die) : (s.modDie d f).ev = s.ev := rfl
@[simp] theorem State.modDie_len (d : Nat) (f : Die → Die) : (s.modDie d f).len = s.len := rfl
@[simp] theorem State.modDie_choice (d : Nat) (f : Die → Die) : (s.modDie d f).choice = s.choice := rfl
@[simp] theorem State.modDie_lag (d : Nat) (f : Die → Die) : (s.modDie d f).lag = s.lag := rfl
@[simp] theorem State.modDie_fresh (d : Nat) (f : Die → Die) : (s.modDie d f).fresh = s.fresh := rfl

/-! ### modCore -/

@[simp] theorem State.modCore_dies (c : Nat) (f : CoreSt → CoreSt) : (s.modCore c f).dies = s.dies := rfl
@[simp] theorem State.modCore_slices (c : Nat) (f : CoreSt → CoreSt) : (s.modCore c f).slices = s.slices := rfl
@[simp] theorem State.modCore_troupes (c : Nat) (f : CoreSt → CoreSt) : (s.modCore c f).troupes = s.troupes := rfl
@[simp] theorem State.modCore_rings (c : Nat) (f : CoreSt → CoreSt) : (s.modCore c f).rings = s.rings := rfl
@[simp] theorem State.modCore_nbhds (c : Nat) (f : CoreSt → CoreSt) : (s.modCore c f).nbhds = s.nbhds := rfl
@[simp] theorem State.modCore_launches (c : Nat) (f : CoreSt → CoreSt) : (s.modCore c f).launches = s.launches := rfl
@[simp] theorem State.modCore_queues (c : Nat) (f : CoreSt → CoreSt) : (s.modCore c f).queues = s.queues := rfl
@[simp] theorem State.modCore_ctxs (c : Nat) (f : CoreSt → CoreSt) : (s.modCore c f).ctxs = s.ctxs := rfl
@[simp] theorem State.modCore_saved (c : Nat) (f : CoreSt → CoreSt) : (s.modCore c f).saved = s.saved := rfl
@[simp] theorem State.modCore_fw (c : Nat) (f : CoreSt → CoreSt) : (s.modCore c f).fw = s.fw := rfl
@[simp] theorem State.modCore_mem (c : Nat) (f : CoreSt → CoreSt) : (s.modCore c f).mem = s.mem := rfl
@[simp] theorem State.modCore_poison (c : Nat) (f : CoreSt → CoreSt) : (s.modCore c f).poison = s.poison := rfl
@[simp] theorem State.modCore_symErr (c : Nat) (f : CoreSt → CoreSt) : (s.modCore c f).symErr = s.symErr := rfl
@[simp] theorem State.modCore_pkeys (c : Nat) (f : CoreSt → CoreSt) : (s.modCore c f).pkeys = s.pkeys := rfl
@[simp] theorem State.modCore_extents (c : Nat) (f : CoreSt → CoreSt) : (s.modCore c f).extents = s.extents := rfl
@[simp] theorem State.modCore_cur (c : Nat) (f : CoreSt → CoreSt) : (s.modCore c f).cur = s.cur := rfl
@[simp] theorem State.modCore_agenda (c : Nat) (f : CoreSt → CoreSt) : (s.modCore c f).agenda = s.agenda := rfl
@[simp] theorem State.modCore_ev (c : Nat) (f : CoreSt → CoreSt) : (s.modCore c f).ev = s.ev := rfl
@[simp] theorem State.modCore_len (c : Nat) (f : CoreSt → CoreSt) : (s.modCore c f).len = s.len := rfl
@[simp] theorem State.modCore_choice (c : Nat) (f : CoreSt → CoreSt) : (s.modCore c f).choice = s.choice := rfl
@[simp] theorem State.modCore_lag (c : Nat) (f : CoreSt → CoreSt) : (s.modCore c f).lag = s.lag := rfl
@[simp] theorem State.modCore_fresh (c : Nat) (f : CoreSt → CoreSt) : (s.modCore c f).fresh = s.fresh := rfl

/-! ### modSlice -/

@[simp] theorem State.modSlice_dies (n : Nat) (f : Slice → Slice) : (s.modSlice n f).dies = s.dies := rfl
@[simp] theorem State.modSlice_cores (n : Nat) (f : Slice → Slice) : (s.modSlice n f).cores = s.cores := rfl
@[simp] theorem State.modSlice_troupes (n : Nat) (f : Slice → Slice) : (s.modSlice n f).troupes = s.troupes := rfl
@[simp] theorem State.modSlice_rings (n : Nat) (f : Slice → Slice) : (s.modSlice n f).rings = s.rings := rfl
@[simp] theorem State.modSlice_nbhds (n : Nat) (f : Slice → Slice) : (s.modSlice n f).nbhds = s.nbhds := rfl
@[simp] theorem State.modSlice_launches (n : Nat) (f : Slice → Slice) : (s.modSlice n f).launches = s.launches := rfl
@[simp] theorem State.modSlice_queues (n : Nat) (f : Slice → Slice) : (s.modSlice n f).queues = s.queues := rfl
@[simp] theorem State.modSlice_ctxs (n : Nat) (f : Slice → Slice) : (s.modSlice n f).ctxs = s.ctxs := rfl
@[simp] theorem State.modSlice_saved (n : Nat) (f : Slice → Slice) : (s.modSlice n f).saved = s.saved := rfl
@[simp] theorem State.modSlice_fw (n : Nat) (f : Slice → Slice) : (s.modSlice n f).fw = s.fw := rfl
@[simp] theorem State.modSlice_mem (n : Nat) (f : Slice → Slice) : (s.modSlice n f).mem = s.mem := rfl
@[simp] theorem State.modSlice_poison (n : Nat) (f : Slice → Slice) : (s.modSlice n f).poison = s.poison := rfl
@[simp] theorem State.modSlice_symErr (n : Nat) (f : Slice → Slice) : (s.modSlice n f).symErr = s.symErr := rfl
@[simp] theorem State.modSlice_pkeys (n : Nat) (f : Slice → Slice) : (s.modSlice n f).pkeys = s.pkeys := rfl
@[simp] theorem State.modSlice_extents (n : Nat) (f : Slice → Slice) : (s.modSlice n f).extents = s.extents := rfl
@[simp] theorem State.modSlice_cur (n : Nat) (f : Slice → Slice) : (s.modSlice n f).cur = s.cur := rfl
@[simp] theorem State.modSlice_agenda (n : Nat) (f : Slice → Slice) : (s.modSlice n f).agenda = s.agenda := rfl
@[simp] theorem State.modSlice_ev (n : Nat) (f : Slice → Slice) : (s.modSlice n f).ev = s.ev := rfl
@[simp] theorem State.modSlice_len (n : Nat) (f : Slice → Slice) : (s.modSlice n f).len = s.len := rfl
@[simp] theorem State.modSlice_choice (n : Nat) (f : Slice → Slice) : (s.modSlice n f).choice = s.choice := rfl
@[simp] theorem State.modSlice_lag (n : Nat) (f : Slice → Slice) : (s.modSlice n f).lag = s.lag := rfl
@[simp] theorem State.modSlice_fresh (n : Nat) (f : Slice → Slice) : (s.modSlice n f).fresh = s.fresh := rfl

/-! ### modTroupe -/

@[simp] theorem State.modTroupe_dies (t : TroupeId) (f : Troupe → Troupe) : (s.modTroupe t f).dies = s.dies := rfl
@[simp] theorem State.modTroupe_cores (t : TroupeId) (f : Troupe → Troupe) : (s.modTroupe t f).cores = s.cores := rfl
@[simp] theorem State.modTroupe_slices (t : TroupeId) (f : Troupe → Troupe) : (s.modTroupe t f).slices = s.slices := rfl
@[simp] theorem State.modTroupe_rings (t : TroupeId) (f : Troupe → Troupe) : (s.modTroupe t f).rings = s.rings := rfl
@[simp] theorem State.modTroupe_nbhds (t : TroupeId) (f : Troupe → Troupe) : (s.modTroupe t f).nbhds = s.nbhds := rfl
@[simp] theorem State.modTroupe_launches (t : TroupeId) (f : Troupe → Troupe) : (s.modTroupe t f).launches = s.launches := rfl
@[simp] theorem State.modTroupe_queues (t : TroupeId) (f : Troupe → Troupe) : (s.modTroupe t f).queues = s.queues := rfl
@[simp] theorem State.modTroupe_ctxs (t : TroupeId) (f : Troupe → Troupe) : (s.modTroupe t f).ctxs = s.ctxs := rfl
@[simp] theorem State.modTroupe_saved (t : TroupeId) (f : Troupe → Troupe) : (s.modTroupe t f).saved = s.saved := rfl
@[simp] theorem State.modTroupe_fw (t : TroupeId) (f : Troupe → Troupe) : (s.modTroupe t f).fw = s.fw := rfl
@[simp] theorem State.modTroupe_mem (t : TroupeId) (f : Troupe → Troupe) : (s.modTroupe t f).mem = s.mem := rfl
@[simp] theorem State.modTroupe_poison (t : TroupeId) (f : Troupe → Troupe) : (s.modTroupe t f).poison = s.poison := rfl
@[simp] theorem State.modTroupe_symErr (t : TroupeId) (f : Troupe → Troupe) : (s.modTroupe t f).symErr = s.symErr := rfl
@[simp] theorem State.modTroupe_pkeys (t : TroupeId) (f : Troupe → Troupe) : (s.modTroupe t f).pkeys = s.pkeys := rfl
@[simp] theorem State.modTroupe_extents (t : TroupeId) (f : Troupe → Troupe) : (s.modTroupe t f).extents = s.extents := rfl
@[simp] theorem State.modTroupe_cur (t : TroupeId) (f : Troupe → Troupe) : (s.modTroupe t f).cur = s.cur := rfl
@[simp] theorem State.modTroupe_agenda (t : TroupeId) (f : Troupe → Troupe) : (s.modTroupe t f).agenda = s.agenda := rfl
@[simp] theorem State.modTroupe_ev (t : TroupeId) (f : Troupe → Troupe) : (s.modTroupe t f).ev = s.ev := rfl
@[simp] theorem State.modTroupe_len (t : TroupeId) (f : Troupe → Troupe) : (s.modTroupe t f).len = s.len := rfl
@[simp] theorem State.modTroupe_choice (t : TroupeId) (f : Troupe → Troupe) : (s.modTroupe t f).choice = s.choice := rfl
@[simp] theorem State.modTroupe_lag (t : TroupeId) (f : Troupe → Troupe) : (s.modTroupe t f).lag = s.lag := rfl
@[simp] theorem State.modTroupe_fresh (t : TroupeId) (f : Troupe → Troupe) : (s.modTroupe t f).fresh = s.fresh := rfl

/-! ### setTroupe -/

@[simp] theorem State.setTroupe_dies (t : Troupe) : (s.setTroupe t).dies = s.dies := rfl
@[simp] theorem State.setTroupe_cores (t : Troupe) : (s.setTroupe t).cores = s.cores := rfl
@[simp] theorem State.setTroupe_slices (t : Troupe) : (s.setTroupe t).slices = s.slices := rfl
@[simp] theorem State.setTroupe_rings (t : Troupe) : (s.setTroupe t).rings = s.rings := rfl
@[simp] theorem State.setTroupe_nbhds (t : Troupe) : (s.setTroupe t).nbhds = s.nbhds := rfl
@[simp] theorem State.setTroupe_launches (t : Troupe) : (s.setTroupe t).launches = s.launches := rfl
@[simp] theorem State.setTroupe_queues (t : Troupe) : (s.setTroupe t).queues = s.queues := rfl
@[simp] theorem State.setTroupe_ctxs (t : Troupe) : (s.setTroupe t).ctxs = s.ctxs := rfl
@[simp] theorem State.setTroupe_saved (t : Troupe) : (s.setTroupe t).saved = s.saved := rfl
@[simp] theorem State.setTroupe_fw (t : Troupe) : (s.setTroupe t).fw = s.fw := rfl
@[simp] theorem State.setTroupe_mem (t : Troupe) : (s.setTroupe t).mem = s.mem := rfl
@[simp] theorem State.setTroupe_poison (t : Troupe) : (s.setTroupe t).poison = s.poison := rfl
@[simp] theorem State.setTroupe_symErr (t : Troupe) : (s.setTroupe t).symErr = s.symErr := rfl
@[simp] theorem State.setTroupe_pkeys (t : Troupe) : (s.setTroupe t).pkeys = s.pkeys := rfl
@[simp] theorem State.setTroupe_extents (t : Troupe) : (s.setTroupe t).extents = s.extents := rfl
@[simp] theorem State.setTroupe_cur (t : Troupe) : (s.setTroupe t).cur = s.cur := rfl
@[simp] theorem State.setTroupe_agenda (t : Troupe) : (s.setTroupe t).agenda = s.agenda := rfl
@[simp] theorem State.setTroupe_ev (t : Troupe) : (s.setTroupe t).ev = s.ev := rfl
@[simp] theorem State.setTroupe_len (t : Troupe) : (s.setTroupe t).len = s.len := rfl
@[simp] theorem State.setTroupe_choice (t : Troupe) : (s.setTroupe t).choice = s.choice := rfl
@[simp] theorem State.setTroupe_lag (t : Troupe) : (s.setTroupe t).lag = s.lag := rfl
@[simp] theorem State.setTroupe_fresh (t : Troupe) : (s.setTroupe t).fresh = s.fresh := rfl

/-! ### modRing -/

@[simp] theorem State.modRing_dies (r : Nat) (f : Ring → Ring) : (s.modRing r f).dies = s.dies := rfl
@[simp] theorem State.modRing_cores (r : Nat) (f : Ring → Ring) : (s.modRing r f).cores = s.cores := rfl
@[simp] theorem State.modRing_slices (r : Nat) (f : Ring → Ring) : (s.modRing r f).slices = s.slices := rfl
@[simp] theorem State.modRing_troupes (r : Nat) (f : Ring → Ring) : (s.modRing r f).troupes = s.troupes := rfl
@[simp] theorem State.modRing_nbhds (r : Nat) (f : Ring → Ring) : (s.modRing r f).nbhds = s.nbhds := rfl
@[simp] theorem State.modRing_launches (r : Nat) (f : Ring → Ring) : (s.modRing r f).launches = s.launches := rfl
@[simp] theorem State.modRing_queues (r : Nat) (f : Ring → Ring) : (s.modRing r f).queues = s.queues := rfl
@[simp] theorem State.modRing_ctxs (r : Nat) (f : Ring → Ring) : (s.modRing r f).ctxs = s.ctxs := rfl
@[simp] theorem State.modRing_saved (r : Nat) (f : Ring → Ring) : (s.modRing r f).saved = s.saved := rfl
@[simp] theorem State.modRing_fw (r : Nat) (f : Ring → Ring) : (s.modRing r f).fw = s.fw := rfl
@[simp] theorem State.modRing_mem (r : Nat) (f : Ring → Ring) : (s.modRing r f).mem = s.mem := rfl
@[simp] theorem State.modRing_poison (r : Nat) (f : Ring → Ring) : (s.modRing r f).poison = s.poison := rfl
@[simp] theorem State.modRing_symErr (r : Nat) (f : Ring → Ring) : (s.modRing r f).symErr = s.symErr := rfl
@[simp] theorem State.modRing_pkeys (r : Nat) (f : Ring → Ring) : (s.modRing r f).pkeys = s.pkeys := rfl
@[simp] theorem State.modRing_extents (r : Nat) (f : Ring → Ring) : (s.modRing r f).extents = s.extents := rfl
@[simp] theorem State.modRing_cur (r : Nat) (f : Ring → Ring) : (s.modRing r f).cur = s.cur := rfl
@[simp] theorem State.modRing_agenda (r : Nat) (f : Ring → Ring) : (s.modRing r f).agenda = s.agenda := rfl
@[simp] theorem State.modRing_ev (r : Nat) (f : Ring → Ring) : (s.modRing r f).ev = s.ev := rfl
@[simp] theorem State.modRing_len (r : Nat) (f : Ring → Ring) : (s.modRing r f).len = s.len := rfl
@[simp] theorem State.modRing_choice (r : Nat) (f : Ring → Ring) : (s.modRing r f).choice = s.choice := rfl
@[simp] theorem State.modRing_lag (r : Nat) (f : Ring → Ring) : (s.modRing r f).lag = s.lag := rfl
@[simp] theorem State.modRing_fresh (r : Nat) (f : Ring → Ring) : (s.modRing r f).fresh = s.fresh := rfl

/-! ### modNbhd -/

@[simp] theorem State.modNbhd_dies (n : Nat) (f : Nbhd → Nbhd) : (s.modNbhd n f).dies = s.dies := rfl
@[simp] theorem State.modNbhd_cores (n : Nat) (f : Nbhd → Nbhd) : (s.modNbhd n f).cores = s.cores := rfl
@[simp] theorem State.modNbhd_slices (n : Nat) (f : Nbhd → Nbhd) : (s.modNbhd n f).slices = s.slices := rfl
@[simp] theorem State.modNbhd_troupes (n : Nat) (f : Nbhd → Nbhd) : (s.modNbhd n f).troupes = s.troupes := rfl
@[simp] theorem State.modNbhd_rings (n : Nat) (f : Nbhd → Nbhd) : (s.modNbhd n f).rings = s.rings := rfl
@[simp] theorem State.modNbhd_launches (n : Nat) (f : Nbhd → Nbhd) : (s.modNbhd n f).launches = s.launches := rfl
@[simp] theorem State.modNbhd_queues (n : Nat) (f : Nbhd → Nbhd) : (s.modNbhd n f).queues = s.queues := rfl
@[simp] theorem State.modNbhd_ctxs (n : Nat) (f : Nbhd → Nbhd) : (s.modNbhd n f).ctxs = s.ctxs := rfl
@[simp] theorem State.modNbhd_saved (n : Nat) (f : Nbhd → Nbhd) : (s.modNbhd n f).saved = s.saved := rfl
@[simp] theorem State.modNbhd_fw (n : Nat) (f : Nbhd → Nbhd) : (s.modNbhd n f).fw = s.fw := rfl
@[simp] theorem State.modNbhd_mem (n : Nat) (f : Nbhd → Nbhd) : (s.modNbhd n f).mem = s.mem := rfl
@[simp] theorem State.modNbhd_poison (n : Nat) (f : Nbhd → Nbhd) : (s.modNbhd n f).poison = s.poison := rfl
@[simp] theorem State.modNbhd_symErr (n : Nat) (f : Nbhd → Nbhd) : (s.modNbhd n f).symErr = s.symErr := rfl
@[simp] theorem State.modNbhd_pkeys (n : Nat) (f : Nbhd → Nbhd) : (s.modNbhd n f).pkeys = s.pkeys := rfl
@[simp] theorem State.modNbhd_extents (n : Nat) (f : Nbhd → Nbhd) : (s.modNbhd n f).extents = s.extents := rfl
@[simp] theorem State.modNbhd_cur (n : Nat) (f : Nbhd → Nbhd) : (s.modNbhd n f).cur = s.cur := rfl
@[simp] theorem State.modNbhd_agenda (n : Nat) (f : Nbhd → Nbhd) : (s.modNbhd n f).agenda = s.agenda := rfl
@[simp] theorem State.modNbhd_ev (n : Nat) (f : Nbhd → Nbhd) : (s.modNbhd n f).ev = s.ev := rfl
@[simp] theorem State.modNbhd_len (n : Nat) (f : Nbhd → Nbhd) : (s.modNbhd n f).len = s.len := rfl
@[simp] theorem State.modNbhd_choice (n : Nat) (f : Nbhd → Nbhd) : (s.modNbhd n f).choice = s.choice := rfl
@[simp] theorem State.modNbhd_lag (n : Nat) (f : Nbhd → Nbhd) : (s.modNbhd n f).lag = s.lag := rfl
@[simp] theorem State.modNbhd_fresh (n : Nat) (f : Nbhd → Nbhd) : (s.modNbhd n f).fresh = s.fresh := rfl

/-! ### modLaunch -/

@[simp] theorem State.modLaunch_dies (l : Nat) (f : Launch → Launch) : (s.modLaunch l f).dies = s.dies := rfl
@[simp] theorem State.modLaunch_cores (l : Nat) (f : Launch → Launch) : (s.modLaunch l f).cores = s.cores := rfl
@[simp] theorem State.modLaunch_slices (l : Nat) (f : Launch → Launch) : (s.modLaunch l f).slices = s.slices := rfl
@[simp] theorem State.modLaunch_troupes (l : Nat) (f : Launch → Launch) : (s.modLaunch l f).troupes = s.troupes := rfl
@[simp] theorem State.modLaunch_rings (l : Nat) (f : Launch → Launch) : (s.modLaunch l f).rings = s.rings := rfl
@[simp] theorem State.modLaunch_nbhds (l : Nat) (f : Launch → Launch) : (s.modLaunch l f).nbhds = s.nbhds := rfl
@[simp] theorem State.modLaunch_queues (l : Nat) (f : Launch → Launch) : (s.modLaunch l f).queues = s.queues := rfl
@[simp] theorem State.modLaunch_ctxs (l : Nat) (f : Launch → Launch) : (s.modLaunch l f).ctxs = s.ctxs := rfl
@[simp] theorem State.modLaunch_saved (l : Nat) (f : Launch → Launch) : (s.modLaunch l f).saved = s.saved := rfl
@[simp] theorem State.modLaunch_fw (l : Nat) (f : Launch → Launch) : (s.modLaunch l f).fw = s.fw := rfl
@[simp] theorem State.modLaunch_mem (l : Nat) (f : Launch → Launch) : (s.modLaunch l f).mem = s.mem := rfl
@[simp] theorem State.modLaunch_poison (l : Nat) (f : Launch → Launch) : (s.modLaunch l f).poison = s.poison := rfl
@[simp] theorem State.modLaunch_symErr (l : Nat) (f : Launch → Launch) : (s.modLaunch l f).symErr = s.symErr := rfl
@[simp] theorem State.modLaunch_pkeys (l : Nat) (f : Launch → Launch) : (s.modLaunch l f).pkeys = s.pkeys := rfl
@[simp] theorem State.modLaunch_extents (l : Nat) (f : Launch → Launch) : (s.modLaunch l f).extents = s.extents := rfl
@[simp] theorem State.modLaunch_cur (l : Nat) (f : Launch → Launch) : (s.modLaunch l f).cur = s.cur := rfl
@[simp] theorem State.modLaunch_agenda (l : Nat) (f : Launch → Launch) : (s.modLaunch l f).agenda = s.agenda := rfl
@[simp] theorem State.modLaunch_ev (l : Nat) (f : Launch → Launch) : (s.modLaunch l f).ev = s.ev := rfl
@[simp] theorem State.modLaunch_len (l : Nat) (f : Launch → Launch) : (s.modLaunch l f).len = s.len := rfl
@[simp] theorem State.modLaunch_choice (l : Nat) (f : Launch → Launch) : (s.modLaunch l f).choice = s.choice := rfl
@[simp] theorem State.modLaunch_lag (l : Nat) (f : Launch → Launch) : (s.modLaunch l f).lag = s.lag := rfl
@[simp] theorem State.modLaunch_fresh (l : Nat) (f : Launch → Launch) : (s.modLaunch l f).fresh = s.fresh := rfl

/-! ### modQueue -/

@[simp] theorem State.modQueue_dies (q : Nat) (f : LQueue → LQueue) : (s.modQueue q f).dies = s.dies := rfl
@[simp] theorem State.modQueue_cores (q : Nat) (f : LQueue → LQueue) : (s.modQueue q f).cores = s.cores := rfl
@[simp] theorem State.modQueue_slices (q : Nat) (f : LQueue → LQueue) : (s.modQueue q f).slices = s.slices := rfl
@[simp] theorem State.modQueue_troupes (q : Nat) (f : LQueue → LQueue) : (s.modQueue q f).troupes = s.troupes := rfl
@[simp] theorem State.modQueue_rings (q : Nat) (f : LQueue → LQueue) : (s.modQueue q f).rings = s.rings := rfl
@[simp] theorem State.modQueue_nbhds (q : Nat) (f : LQueue → LQueue) : (s.modQueue q f).nbhds = s.nbhds := rfl
@[simp] theorem State.modQueue_launches (q : Nat) (f : LQueue → LQueue) : (s.modQueue q f).launches = s.launches := rfl
@[simp] theorem State.modQueue_ctxs (q : Nat) (f : LQueue → LQueue) : (s.modQueue q f).ctxs = s.ctxs := rfl
@[simp] theorem State.modQueue_saved (q : Nat) (f : LQueue → LQueue) : (s.modQueue q f).saved = s.saved := rfl
@[simp] theorem State.modQueue_fw (q : Nat) (f : LQueue → LQueue) : (s.modQueue q f).fw = s.fw := rfl
@[simp] theorem State.modQueue_mem (q : Nat) (f : LQueue → LQueue) : (s.modQueue q f).mem = s.mem := rfl
@[simp] theorem State.modQueue_poison (q : Nat) (f : LQueue → LQueue) : (s.modQueue q f).poison = s.poison := rfl
@[simp] theorem State.modQueue_symErr (q : Nat) (f : LQueue → LQueue) : (s.modQueue q f).symErr = s.symErr := rfl
@[simp] theorem State.modQueue_pkeys (q : Nat) (f : LQueue → LQueue) : (s.modQueue q f).pkeys = s.pkeys := rfl
@[simp] theorem State.modQueue_extents (q : Nat) (f : LQueue → LQueue) : (s.modQueue q f).extents = s.extents := rfl
@[simp] theorem State.modQueue_cur (q : Nat) (f : LQueue → LQueue) : (s.modQueue q f).cur = s.cur := rfl
@[simp] theorem State.modQueue_agenda (q : Nat) (f : LQueue → LQueue) : (s.modQueue q f).agenda = s.agenda := rfl
@[simp] theorem State.modQueue_ev (q : Nat) (f : LQueue → LQueue) : (s.modQueue q f).ev = s.ev := rfl
@[simp] theorem State.modQueue_len (q : Nat) (f : LQueue → LQueue) : (s.modQueue q f).len = s.len := rfl
@[simp] theorem State.modQueue_choice (q : Nat) (f : LQueue → LQueue) : (s.modQueue q f).choice = s.choice := rfl
@[simp] theorem State.modQueue_lag (q : Nat) (f : LQueue → LQueue) : (s.modQueue q f).lag = s.lag := rfl
@[simp] theorem State.modQueue_fresh (q : Nat) (f : LQueue → LQueue) : (s.modQueue q f).fresh = s.fresh := rfl

/-! ### modCtx -/

@[simp] theorem State.modCtx_dies (a : Nat) (f : Ctx → Ctx) : (s.modCtx a f).dies = s.dies := rfl
@[simp] theorem State.modCtx_cores (a : Nat) (f : Ctx → Ctx) : (s.modCtx a f).cores = s.cores := rfl
@[simp] theorem State.modCtx_slices (a : Nat) (f : Ctx → Ctx) : (s.modCtx a f).slices = s.slices := rfl
@[simp] theorem State.modCtx_troupes (a : Nat) (f : Ctx → Ctx) : (s.modCtx a f).troupes = s.troupes := rfl
@[simp] theorem State.modCtx_rings (a : Nat) (f : Ctx → Ctx) : (s.modCtx a f).rings = s.rings := rfl
@[simp] theorem State.modCtx_nbhds (a : Nat) (f : Ctx → Ctx) : (s.modCtx a f).nbhds = s.nbhds := rfl
@[simp] theorem State.modCtx_launches (a : Nat) (f : Ctx → Ctx) : (s.modCtx a f).launches = s.launches := rfl
@[simp] theorem State.modCtx_queues (a : Nat) (f : Ctx → Ctx) : (s.modCtx a f).queues = s.queues := rfl
@[simp] theorem State.modCtx_saved (a : Nat) (f : Ctx → Ctx) : (s.modCtx a f).saved = s.saved := rfl
@[simp] theorem State.modCtx_fw (a : Nat) (f : Ctx → Ctx) : (s.modCtx a f).fw = s.fw := rfl
@[simp] theorem State.modCtx_mem (a : Nat) (f : Ctx → Ctx) : (s.modCtx a f).mem = s.mem := rfl
@[simp] theorem State.modCtx_poison (a : Nat) (f : Ctx → Ctx) : (s.modCtx a f).poison = s.poison := rfl
@[simp] theorem State.modCtx_symErr (a : Nat) (f : Ctx → Ctx) : (s.modCtx a f).symErr = s.symErr := rfl
@[simp] theorem State.modCtx_pkeys (a : Nat) (f : Ctx → Ctx) : (s.modCtx a f).pkeys = s.pkeys := rfl
@[simp] theorem State.modCtx_extents (a : Nat) (f : Ctx → Ctx) : (s.modCtx a f).extents = s.extents := rfl
@[simp] theorem State.modCtx_cur (a : Nat) (f : Ctx → Ctx) : (s.modCtx a f).cur = s.cur := rfl
@[simp] theorem State.modCtx_agenda (a : Nat) (f : Ctx → Ctx) : (s.modCtx a f).agenda = s.agenda := rfl
@[simp] theorem State.modCtx_ev (a : Nat) (f : Ctx → Ctx) : (s.modCtx a f).ev = s.ev := rfl
@[simp] theorem State.modCtx_len (a : Nat) (f : Ctx → Ctx) : (s.modCtx a f).len = s.len := rfl
@[simp] theorem State.modCtx_choice (a : Nat) (f : Ctx → Ctx) : (s.modCtx a f).choice = s.choice := rfl
@[simp] theorem State.modCtx_lag (a : Nat) (f : Ctx → Ctx) : (s.modCtx a f).lag = s.lag := rfl
@[simp] theorem State.modCtx_fresh (a : Nat) (f : Ctx → Ctx) : (s.modCtx a f).fresh = s.fresh := rfl

/-! ### modFw -/

@[simp] theorem State.modFw_dies (f : Fw → Fw) : (s.modFw f).dies = s.dies := rfl
@[simp] theorem State.modFw_cores (f : Fw → Fw) : (s.modFw f).cores = s.cores := rfl
@[simp] theorem State.modFw_slices (f : Fw → Fw) : (s.modFw f).slices = s.slices := rfl
@[simp] theorem State.modFw_troupes (f : Fw → Fw) : (s.modFw f).troupes = s.troupes := rfl
@[simp] theorem State.modFw_rings (f : Fw → Fw) : (s.modFw f).rings = s.rings := rfl
@[simp] theorem State.modFw_nbhds (f : Fw → Fw) : (s.modFw f).nbhds = s.nbhds := rfl
@[simp] theorem State.modFw_launches (f : Fw → Fw) : (s.modFw f).launches = s.launches := rfl
@[simp] theorem State.modFw_queues (f : Fw → Fw) : (s.modFw f).queues = s.queues := rfl
@[simp] theorem State.modFw_ctxs (f : Fw → Fw) : (s.modFw f).ctxs = s.ctxs := rfl
@[simp] theorem State.modFw_saved (f : Fw → Fw) : (s.modFw f).saved = s.saved := rfl
@[simp] theorem State.modFw_mem (f : Fw → Fw) : (s.modFw f).mem = s.mem := rfl
@[simp] theorem State.modFw_poison (f : Fw → Fw) : (s.modFw f).poison = s.poison := rfl
@[simp] theorem State.modFw_symErr (f : Fw → Fw) : (s.modFw f).symErr = s.symErr := rfl
@[simp] theorem State.modFw_pkeys (f : Fw → Fw) : (s.modFw f).pkeys = s.pkeys := rfl
@[simp] theorem State.modFw_extents (f : Fw → Fw) : (s.modFw f).extents = s.extents := rfl
@[simp] theorem State.modFw_cur (f : Fw → Fw) : (s.modFw f).cur = s.cur := rfl
@[simp] theorem State.modFw_agenda (f : Fw → Fw) : (s.modFw f).agenda = s.agenda := rfl
@[simp] theorem State.modFw_ev (f : Fw → Fw) : (s.modFw f).ev = s.ev := rfl
@[simp] theorem State.modFw_len (f : Fw → Fw) : (s.modFw f).len = s.len := rfl
@[simp] theorem State.modFw_choice (f : Fw → Fw) : (s.modFw f).choice = s.choice := rfl
@[simp] theorem State.modFw_lag (f : Fw → Fw) : (s.modFw f).lag = s.lag := rfl
@[simp] theorem State.modFw_fresh (f : Fw → Fw) : (s.modFw f).fresh = s.fresh := rfl

/-! ### Finding a part after its update -/

theorem find_updWhere {α : Type} (l : List α) (p : α → Bool) (f : α → α) (hf : ∀ x, p (f x) = p x) :
    (updWhere l p f).find? p = (l.find? p).map f := by
  induction l with
  | nil => rfl
  | cons x xs ih =>
      simp only [updWhere, List.map_cons, List.find?_cons] at ih ⊢
      cases h : p x
      · simp [h, ih]
      · simp [h, hf]

theorem find_updWhere_ne {α : Type} (l : List α) (p q : α → Bool) (f : α → α)
    (hf : ∀ x, p x = true → q (f x) = false) (hq : ∀ x, p x = true → q x = false) :
    (updWhere l p f).find? q = l.find? q := by
  induction l with
  | nil => rfl
  | cons x xs ih =>
      simp only [updWhere, List.map_cons, List.find?_cons] at ih ⊢
      cases h : p x
      · simp [ih]
      · simp [hf x h, hq x h, ih]

theorem State.troupe?_modTroupe (t : TroupeId) (f : Troupe → Troupe) (hf : ∀ u, (f u).id = u.id) :
    (s.modTroupe t f).troupe? t = (s.troupe? t).map f :=
  find_updWhere s.troupes (fun u => u.id == t) f fun u => by simp [hf]

theorem State.troupe?_modTroupe_ne {t u : TroupeId} (f : Troupe → Troupe) (hf : ∀ x, (f x).id = x.id)
    (h : u ≠ t) : (s.modTroupe t f).troupe? u = s.troupe? u :=
  find_updWhere_ne s.troupes _ _ f (fun x hx => by rw [beq_iff_eq] at hx; simp [hf, hx, h.symm])
    fun x hx => by rw [beq_iff_eq] at hx; simp [hx, h.symm]

theorem State.troupe?_setTroupe {t u : Troupe} (h : s.troupe? t.id = some u) :
    (s.setTroupe t).troupe? t.id = some t := by
  have : ∀ l : List Troupe, l.find? (fun x => x.id == t.id) = some u →
      (updWhere l (fun x => x.id == t.id) fun _ => t).find? (fun x => x.id == t.id) = some t := by
    intro l
    induction l with
    | nil => simp
    | cons x xs ih =>
        simp only [updWhere, List.map_cons, List.find?_cons] at ih ⊢
        cases hx : x.id == t.id
        · simpa [hx] using ih
        · simp
  exact this _ h

theorem State.troupe?_setTroupe_ne {t : Troupe} {u : TroupeId} (h : u ≠ t.id) :
    (s.setTroupe t).troupe? u = s.troupe? u :=
  find_updWhere_ne s.troupes _ _ _ (fun x _ => by simp [h.symm])
    fun x hx => by rw [beq_iff_eq] at hx; simp [hx, h.symm]

theorem State.ring?_modRing (r : Nat) (f : Ring → Ring) (hf : ∀ x, (f x).id = x.id) :
    (s.modRing r f).ring? r = (s.ring? r).map f :=
  find_updWhere s.rings (fun x => x.id == r) f fun x => by simp [hf]

theorem State.ring?_modRing_ne {r q : Nat} (f : Ring → Ring) (hf : ∀ x, (f x).id = x.id) (h : q ≠ r) :
    (s.modRing r f).ring? q = s.ring? q :=
  find_updWhere_ne s.rings _ _ f (fun x hx => by rw [beq_iff_eq] at hx; simp [hf, hx, h.symm])
    fun x hx => by rw [beq_iff_eq] at hx; simp [hx, h.symm]

theorem State.ctx?_modCtx (a : Nat) (f : Ctx → Ctx) (hf : ∀ x, (f x).asid = x.asid) :
    (s.modCtx a f).ctx? a = (s.ctx? a).map f :=
  find_updWhere s.ctxs (fun x => x.asid == a) f fun x => by simp [hf]

theorem State.ctx?_modCtx_ne {a b : Nat} (f : Ctx → Ctx) (hf : ∀ x, (f x).asid = x.asid) (h : b ≠ a) :
    (s.modCtx a f).ctx? b = s.ctx? b :=
  find_updWhere_ne s.ctxs _ _ f (fun x hx => by rw [beq_iff_eq] at hx; simp [hf, hx, h.symm])
    fun x hx => by rw [beq_iff_eq] at hx; simp [hx, h.symm]

theorem State.launch?_modLaunch (l : Nat) (f : Launch → Launch) (hf : ∀ x, (f x).id = x.id) :
    (s.modLaunch l f).launch? l = (s.launch? l).map f :=
  find_updWhere s.launches (fun x => x.id == l) f fun x => by simp [hf]

theorem State.nbhd?_modNbhd (n : Nat) (f : Nbhd → Nbhd) (hf : ∀ x, (f x).id = x.id) :
    (s.modNbhd n f).nbhd? n = (s.nbhd? n).map f :=
  find_updWhere s.nbhds (fun x => x.id == n) f fun x => by simp [hf]

theorem State.die_modDie {d : Nat} (f : Die → Die) (h : d < s.dies.length) :
    (s.modDie d f).die d = f (s.die d) := by
  simp [State.die, State.modDie, nth, upd, List.getD_eq_getElem?_getD, h]

theorem State.core_modCore {c : Nat} (f : CoreSt → CoreSt) (h : c < s.cores.length) :
    (s.modCore c f).core c = f (s.core c) := by
  simp [State.core, State.modCore, nth, upd, List.getD_eq_getElem?_getD, h]

theorem State.core_modCore_ne {c d : Nat} (f : CoreSt → CoreSt) (h : d ≠ c) :
    (s.modCore c f).core d = s.core d := by
  simp [State.core, State.modCore, nth, upd, List.getD_eq_getElem?_getD, h.symm]

/-! ### Writing a troupe's registers -/

@[simp] theorem Troupe.writeS_id (t : Troupe) (d : BitVec 8) (x : GW) : (t.writeS d x).id = t.id := by
  simp only [Troupe.writeS]; (repeat' split) <;> rfl

@[simp] theorem Troupe.writeS_v (t : Troupe) (d : BitVec 8) (x : GW) : (t.writeS d x).v = t.v := by
  simp only [Troupe.writeS]; (repeat' split) <;> rfl

@[simp] theorem Troupe.writeS_pc (t : Troupe) (d : BitVec 8) (x : GW) : (t.writeS d x).pc = t.pc := by
  simp only [Troupe.writeS]; (repeat' split) <;> rfl

@[simp] theorem Troupe.writeS_left (t : Troupe) (d : BitVec 8) (x : GW) : (t.writeS d x).left = t.left := by
  simp only [Troupe.writeS]; (repeat' split) <;> rfl

theorem Troupe.writeS_zero (t : Troupe) {d : BitVec 8} (x : GW) (h : 0xE0 ≤ d.toNat) : t.writeS d x = t := by
  simp only [Troupe.writeS]; rw [if_neg (by omega), if_neg (by omega)]

@[simp] theorem Troupe.writeV_id (t : Troupe) (w : VWrite) : (t.writeV w).id = t.id := by
  simp only [Troupe.writeV]; (repeat' split) <;> rfl

@[simp] theorem Troupe.writeV_s (t : Troupe) (w : VWrite) : (t.writeV w).s = t.s := by
  simp only [Troupe.writeV]; (repeat' split) <;> rfl

@[simp] theorem Troupe.writeV_k (t : Troupe) (w : VWrite) : (t.writeV w).k = t.k := by
  simp only [Troupe.writeV]; (repeat' split) <;> rfl

theorem Troupe.writeV_none (t : Troupe) (w : VWrite) (h : w.mask = 0) : t.writeV w = t := by
  simp [Troupe.writeV, h]

end Sys2Proof.Machine
end

