-- ==== Sys2Proof/Laws/Memory.lean ====
section
/-! SUPPORT. Every operation over memory keeps the canonical form, and memory after reset has it. -/

set_option Elab.async false

namespace Sys2Proof.Machine

theorem Memory.wf_iff (m : List Host.Cell) :
    Memory.wf m = true ↔ (∀ c ∈ m, c.2 ≠ unlisted) ∧ m.Pairwise fun x y => x.1 < y.1 := by
  simp [Memory.wf]

theorem placed_ge (bs : List Byte) (a : Nat) :
    ∀ c ∈ placed a bs, a ≤ c.1 ∧ c.1 < a + bs.length ∧ c.2 ≠ unlisted := by
  induction bs generalizing a with
  | nil => simp [placed]
  | cons b bs ih =>
      intro c hc
      simp only [placed] at hc
      split at hc
      · obtain ⟨h1, h2, h3⟩ := ih (a + 1) c hc
        simp only [List.length_cons]
        exact ⟨by omega, by omega, h3⟩
      · rename_i hb
        simp only [List.length_cons]
        rcases List.mem_cons.mp hc with rfl | hc
        · exact ⟨Nat.le_refl _, by simp, hb⟩
        · obtain ⟨h1, h2, h3⟩ := ih (a + 1) c hc
          exact ⟨by omega, by omega, h3⟩

theorem placed_rising (bs : List Byte) (a : Nat) : (placed a bs).Pairwise fun x y => x.1 < y.1 := by
  induction bs generalizing a with
  | nil => simp [placed]
  | cons b bs ih =>
      simp only [placed]
      split
      · exact ih _
      · exact List.Pairwise.cons (fun y hy => by have := (placed_ge bs (a + 1) y hy).1; simp; omega) (ih _)

theorem cellWriteN_wf {m : List Host.Cell} (a : Nat) (bs : List Byte) (h : Memory.wf m = true) :
    Memory.wf (cellWriteN m a bs) = true := by
  rw [Memory.wf_iff] at h ⊢
  obtain ⟨hv, hp⟩ := h
  simp only [cellWriteN, List.append_assoc]
  refine ⟨?_, ?_⟩
  · intro c hc
    simp only [List.mem_append, List.mem_filter] at hc
    rcases hc with hc | hc | hc
    · exact hv c hc.1
    · exact (placed_ge bs a c hc).2.2
    · exact hv c hc.1
  · refine List.pairwise_append.mpr ⟨hp.filter _, List.pairwise_append.mpr
      ⟨placed_rising bs a, hp.filter _, ?_⟩, ?_⟩
    · intro x hx y hy
      have := (placed_ge bs a x hx).2.1
      simp only [List.mem_filter, decide_eq_true_eq] at hy
      omega
    · intro x hx y hy
      simp only [List.mem_filter, decide_eq_true_eq] at hx
      rcases List.mem_append.mp hy with hy | hy
      · have := (placed_ge bs a y hy).1
        omega
      · simp only [List.mem_filter, decide_eq_true_eq] at hy
        omega

theorem Memory.wf_filter {m : List Host.Cell} (p : Host.Cell → Bool) (h : Memory.wf m = true) :
    Memory.wf (m.filter p) = true := by
  rw [Memory.wf_iff] at h ⊢
  exact ⟨fun c hc => h.1 c (List.mem_filter.mp hc).1, h.2.filter _⟩

theorem cellWipe_wf {m : List Host.Cell} (a n : Nat) (h : Memory.wf m = true) :
    Memory.wf (cellWipe m a n) = true := Memory.wf_filter _ h

theorem reset_wf : Memory.wf State.reset.mem = true := rfl

/-- Changing a core in a way that keeps its scratchpad's form keeps the state's. -/
theorem Inv.modCore {s : State} (h : Inv s) (c : Nat) (f : CoreSt → CoreSt)
    (hf : ∀ k, Memory.wf k.spad = true → Memory.wf (f k).spad = true) : Inv (s.modCore c f) := by
  refine ⟨h.1, fun k hk => ?_⟩
  simp only [State.modCore, upd] at hk
  obtain ⟨n, hn, rfl⟩ := List.getElem_of_mem hk
  rw [List.getElem_modify]
  have hn' : n < s.cores.length := by simpa using hn
  have hm := h.2 s.cores[n] (List.getElem_mem hn')
  split
  · exact hf _ hm
  · exact hm

theorem Inv.writeLoc {s : State} (h : Inv s) (l : Loc) (b : Byte) (g : Nat) : Inv (s.writeLoc l b g) := by
  cases l with
  | phys a => exact ⟨cellWriteN_wf a [b] h.1, h.2⟩
  | spad c o => exact h.modCore c _ fun k hk => cellWriteN_wf o [b] hk

theorem Inv.writeLocs {s : State} (h : Inv s) (ls : List Loc) (bs : List Byte) (g : Nat) :
    Inv (s.writeLocs ls bs g) := by
  simp only [State.writeLocs]
  induction ls.zip bs generalizing s with
  | nil => exact h
  | cons x xs ih => exact ih (h.writeLoc x.1 x.2 g)

theorem Inv.takeKey {s : State} (h : Inv s) (key : Nat) (locs : List Loc) : Inv (s.takeKey key locs) := by
  refine ⟨?_, h.2⟩
  have hm : ∀ m, Memory.wf m = true → Memory.wf (locs.foldl (fun m x =>
      match x with
      | .phys a =>
          if s.otherKey (some key) x then
            cellWriteN m (a / 128 * 128) (padTo 128 ((s.openedLine key (a / 128)).take 128)) else m
      | .spad .. => m) m) = true := by
    induction locs with
    | nil => exact fun _ hm => hm
    | cons x xs ih =>
        refine fun m hm => ih _ ?_
        cases x with
        | phys a =>
            dsimp only
            split
            · exact cellWriteN_wf _ _ hm
            · exact hm
        | spad c o => exact hm
  exact hm s.mem h.1

theorem Inv.sendFlits {s : State} (h : Inv s) (n : Nat) : Inv (s.sendFlits n) := by
  unfold State.sendFlits
  split
  · exact ⟨h.1, h.2⟩
  · exact h

theorem Inv.writeSite {s : State} (h : Inv s) (site : Site) (bs : List Byte) (g : Nat) :
    Inv (s.writeSite site bs g) := by
  have hk : Inv (s.keySite site) := by
    unfold State.keySite
    split
    · exact h.takeKey _ _
    · exact h
  exact hk.writeLocs _ _ _

theorem Inv.writePhys {s : State} (h : Inv s) (key : Option Nat) (bs : List (Nat × Byte)) :
    Inv (s.writePhys key bs) := by
  unfold State.writePhys
  simp only
  split
  · exact (h.takeKey _ _).writeLocs _ _ _
  · exact h.writeLocs _ _ _

theorem Inv.writeBytes {s s1 : State} (h : Inv s) (p : Party) (va : Nat) (bs : List Byte) (w : Want)
    (hw : s.writeBytes p va bs w = .ok s1) : Inv s1 := by
  simp only [State.writeBytes] at hw
  split at hw
  · cases hw
  · rename_i hnone
    clear hnone
    injection hw with hw
    subst hw
    have hf : ∀ (l : List ((Nat × Acc) × Byte)) {u : State}, Inv u → Inv (l.foldl
        (fun s x => match x.1.2 with | .ok site => s.writeSite site [x.2] w.g | _ => s) u) := by
      intro l
      induction l with
      | nil => exact fun hu => hu
      | cons x xs ih =>
          intro u hu
          simp only [List.foldl_cons]
          refine ih ?_
          split
          · exact hu.writeSite _ _ _
          · exact hu
    split
    · exact (hf _ h).sendFlits _
    · exact hf _ h

end Sys2Proof.Machine
end

