-- ==== Sys2Proof/Laws/PerInstr.lean ====
section
/-! SUPPORT. For every instruction: an internal word with its OP and one of its SUB values stands for it
(R39, R44). -/

set_option Elab.async false

namespace Sys2Proof.Laws.F

/-- The opcode map reads the instruction from its OP, whatever the other fields, for every SUB its row
defines. -/
def Statement (i : Instr) : Prop :=
  ∀ r f, i.row = some r → i.fields = some f → subOk r f = true → ∀ n, ofWord r.op f n = .ok i n

theorem of_row {i : Instr} {r0 : Row} {f0 : Fields} (hr : i.row = some r0) (hf : i.fields = some f0)
    (h : ∀ k ∈ r0.subs, f0.sub.toNat = k → ∀ n, ofWord r0.op f0 n = .ok i n) : Statement i := by
  intro r f hr1 hf1 hs n
  rw [hr] at hr1
  rw [hf] at hf1
  cases hr1
  cases hf1
  exact h _ (by simpa [subOk] using hs) rfl n

theorem clauseHeader (h : Header) : Statement (.clauseHeader h) := by
  intro r f hr; cases hr

theorem nop (f : Fields) : Statement (.nop f) :=
  of_row rfl rfl fun k hk hs _ => by
    obtain rfl := List.mem_singleton.mp hk
    simp only [ofWord, hs]; exact rfl

theorem bra (f : Fields) : Statement (.bra f) :=
  of_row rfl rfl fun k hk hs _ => by
    obtain rfl := List.mem_singleton.mp hk
    simp only [ofWord, hs]; exact rfl

theorem brc (f : Fields) : Statement (.brc f) :=
  of_row rfl rfl fun k hk hs _ => by
    simp only [ofWord, hs]
    simp only [List.mem_cons, List.not_mem_nil, or_false] at hk
    obtain rfl | rfl | rfl | rfl := hk <;> exact rfl

theorem bany (f : Fields) : Statement (.bany f) :=
  of_row rfl rfl fun k hk hs _ => by
    simp only [ofWord, hs]
    simp only [List.mem_cons, List.not_mem_nil, or_false] at hk
    obtain rfl | rfl := hk <;> exact rfl

theorem bnone (f : Fields) : Statement (.bnone f) :=
  of_row rfl rfl fun k hk hs _ => by
    simp only [ofWord, hs]
    simp only [List.mem_cons, List.not_mem_nil, or_false] at hk
    obtain rfl | rfl := hk <;> exact rfl

theorem call (f : Fields) : Statement (.call f) :=
  of_row rfl rfl fun k hk hs _ => by
    simp only [ofWord, hs]
    simp only [List.mem_cons, List.not_mem_nil, or_false] at hk
    obtain rfl | rfl := hk <;> exact rfl

theorem ret (f : Fields) : Statement (.ret f) :=
  of_row rfl rfl fun k hk hs _ => by
    obtain rfl := List.mem_singleton.mp hk
    simp only [ofWord, hs]; exact rfl

theorem jmp (f : Fields) : Statement (.jmp f) :=
  of_row rfl rfl fun k hk hs _ => by
    obtain rfl := List.mem_singleton.mp hk
    simp only [ofWord, hs]; exact rfl

theorem done (f : Fields) : Statement (.done f) :=
  of_row rfl rfl fun k hk hs _ => by
    obtain rfl := List.mem_singleton.mp hk
    simp only [ofWord, hs]; exact rfl

theorem trap (f : Fields) : Statement (.trap f) :=
  of_row rfl rfl fun k hk hs _ => by
    obtain rfl := List.mem_singleton.mp hk
    simp only [ofWord, hs]; exact rfl

theorem sysc (f : Fields) : Statement (.sysc f) :=
  of_row rfl rfl fun k hk hs _ => by
    obtain rfl := List.mem_singleton.mp hk
    simp only [ofWord, hs]; exact rfl

theorem rdsr (f : Fields) : Statement (.rdsr f) :=
  of_row rfl rfl fun k hk hs _ => by
    obtain rfl := List.mem_singleton.mp hk
    simp only [ofWord, hs]; exact rfl

theorem wrsr (f : Fields) : Statement (.wrsr f) :=
  of_row rfl rfl fun k hk hs _ => by
    obtain rfl := List.mem_singleton.mp hk
    simp only [ofWord, hs]; exact rfl

theorem tick (f : Fields) : Statement (.tick f) :=
  of_row rfl rfl fun k hk hs _ => by
    obtain rfl := List.mem_singleton.mp hk
    simp only [ofWord, hs]; exact rfl

theorem yield (f : Fields) : Statement (.yield f) :=
  of_row rfl rfl fun k hk hs _ => by
    obtain rfl := List.mem_singleton.mp hk
    simp only [ofWord, hs]; exact rfl

theorem sleep (f : Fields) : Statement (.sleep f) :=
  of_row rfl rfl fun k hk hs _ => by
    simp only [ofWord, hs]
    simp only [List.mem_cons, List.not_mem_nil, or_false] at hk
    obtain rfl | rfl := hk <;> exact rfl

theorem sadd (f : Fields) : Statement (.sadd f) :=
  of_row rfl rfl fun k hk hs _ => by
    simp only [ofWord, hs]
    simp only [List.mem_cons, List.not_mem_nil, or_false] at hk
    obtain rfl | rfl := hk <;> exact rfl

theorem ssub (f : Fields) : Statement (.ssub f) :=
  of_row rfl rfl fun k hk hs _ => by
    simp only [ofWord, hs]
    simp only [List.mem_cons, List.not_mem_nil, or_false] at hk
    obtain rfl | rfl := hk <;> exact rfl

theorem smul (f : Fields) : Statement (.smul f) :=
  of_row rfl rfl fun k hk hs _ => by
    simp only [ofWord, hs]
    simp only [List.mem_cons, List.not_mem_nil, or_false] at hk
    obtain rfl | rfl := hk <;> exact rfl

theorem smulhi (f : Fields) : Statement (.smulhi f) :=
  of_row rfl rfl fun k hk hs _ => by
    simp only [ofWord, hs]
    simp only [List.mem_cons, List.not_mem_nil, or_false] at hk
    obtain rfl | rfl := hk <;> exact rfl

theorem sdiv (f : Fields) : Statement (.sdiv f) :=
  of_row rfl rfl fun k hk hs _ => by
    simp only [ofWord, hs]
    simp only [List.mem_cons, List.not_mem_nil, or_false] at hk
    obtain rfl | rfl := hk <;> exact rfl

theorem srem (f : Fields) : Statement (.srem f) :=
  of_row rfl rfl fun k hk hs _ => by
    simp only [ofWord, hs]
    simp only [List.mem_cons, List.not_mem_nil, or_false] at hk
    obtain rfl | rfl := hk <;> exact rfl

theorem sand (f : Fields) : Statement (.sand f) :=
  of_row rfl rfl fun k hk hs _ => by
    simp only [ofWord, hs]
    simp only [List.mem_cons, List.not_mem_nil, or_false] at hk
    obtain rfl | rfl := hk <;> exact rfl

theorem sor (f : Fields) : Statement (.sor f) :=
  of_row rfl rfl fun k hk hs _ => by
    simp only [ofWord, hs]
    simp only [List.mem_cons, List.not_mem_nil, or_false] at hk
    obtain rfl | rfl := hk <;> exact rfl

theorem sxor (f : Fields) : Statement (.sxor f) :=
  of_row rfl rfl fun k hk hs _ => by
    simp only [ofWord, hs]
    simp only [List.mem_cons, List.not_mem_nil, or_false] at hk
    obtain rfl | rfl := hk <;> exact rfl

theorem sandn (f : Fields) : Statement (.sandn f) :=
  of_row rfl rfl fun k hk hs _ => by
    simp only [ofWord, hs]
    simp only [List.mem_cons, List.not_mem_nil, or_false] at hk
    obtain rfl | rfl := hk <;> exact rfl

theorem sshl (f : Fields) : Statement (.sshl f) :=
  of_row rfl rfl fun k hk hs _ => by
    simp only [ofWord, hs]
    simp only [List.mem_cons, List.not_mem_nil, or_false] at hk
    obtain rfl | rfl := hk <;> exact rfl

theorem sshr (f : Fields) : Statement (.sshr f) :=
  of_row rfl rfl fun k hk hs _ => by
    simp only [ofWord, hs]
    simp only [List.mem_cons, List.not_mem_nil, or_false] at hk
    obtain rfl | rfl := hk <;> exact rfl

theorem ssra (f : Fields) : Statement (.ssra f) :=
  of_row rfl rfl fun k hk hs _ => by
    simp only [ofWord, hs]
    simp only [List.mem_cons, List.not_mem_nil, or_false] at hk
    obtain rfl | rfl := hk <;> exact rfl

theorem srol (f : Fields) : Statement (.srol f) :=
  of_row rfl rfl fun k hk hs _ => by
    simp only [ofWord, hs]
    simp only [List.mem_cons, List.not_mem_nil, or_false] at hk
    obtain rfl | rfl := hk <;> exact rfl

theorem smin (f : Fields) : Statement (.smin f) :=
  of_row rfl rfl fun k hk hs _ => by
    simp only [ofWord, hs]
    simp only [List.mem_cons, List.not_mem_nil, or_false] at hk
    obtain rfl | rfl := hk <;> exact rfl

theorem smax (f : Fields) : Statement (.smax f) :=
  of_row rfl rfl fun k hk hs _ => by
    simp only [ofWord, hs]
    simp only [List.mem_cons, List.not_mem_nil, or_false] at hk
    obtain rfl | rfl := hk <;> exact rfl

theorem sabs (f : Fields) : Statement (.sabs f) :=
  of_row rfl rfl fun k hk hs _ => by
    obtain rfl := List.mem_singleton.mp hk
    simp only [ofWord, hs]; exact rfl

theorem sclz (f : Fields) : Statement (.sclz f) :=
  of_row rfl rfl fun k hk hs _ => by
    obtain rfl := List.mem_singleton.mp hk
    simp only [ofWord, hs]; exact rfl

theorem spop (f : Fields) : Statement (.spop f) :=
  of_row rfl rfl fun k hk hs _ => by
    obtain rfl := List.mem_singleton.mp hk
    simp only [ofWord, hs]; exact rfl

theorem sbrev (f : Fields) : Statement (.sbrev f) :=
  of_row rfl rfl fun k hk hs _ => by
    obtain rfl := List.mem_singleton.mp hk
    simp only [ofWord, hs]; exact rfl

theorem sins (f : Fields) : Statement (.sins f) :=
  of_row rfl rfl fun k hk hs _ => by
    obtain rfl := List.mem_singleton.mp hk
    simp only [ofWord, hs]; exact rfl

theorem sxtr (f : Fields) : Statement (.sxtr f) :=
  of_row rfl rfl fun k hk hs _ => by
    obtain rfl := List.mem_singleton.mp hk
    simp only [ofWord, hs]; exact rfl

theorem ssel (f : Fields) : Statement (.ssel f) :=
  of_row rfl rfl fun k hk hs _ => by
    obtain rfl := List.mem_singleton.mp hk
    simp only [ofWord, hs]; exact rfl

theorem scmp (f : Fields) : Statement (.scmp f) :=
  of_row rfl rfl fun k hk hs _ => by
    simp only [ofWord, hs]
    simp only [List.mem_cons, List.not_mem_nil, or_false] at hk
    obtain rfl | rfl | rfl | rfl | rfl | rfl | rfl | rfl | rfl | rfl | rfl | rfl := hk <;> exact rfl

theorem smov (f : Fields) : Statement (.smov f) :=
  of_row rfl rfl fun k hk hs _ => by
    obtain rfl := List.mem_singleton.mp hk
    simp only [ofWord, hs]; exact rfl

theorem sli (f : Fields) : Statement (.sli f) :=
  of_row rfl rfl fun k hk hs _ => by
    obtain rfl := List.mem_singleton.mp hk
    simp only [ofWord, hs]; exact rfl

theorem sliHi (f : Fields) : Statement (.sliHi f) :=
  of_row rfl rfl fun k hk hs _ => by
    obtain rfl := List.mem_singleton.mp hk
    simp only [ofWord, hs]; exact rfl

theorem sadr (f : Fields) : Statement (.sadr f) :=
  of_row rfl rfl fun k hk hs _ => by
    obtain rfl := List.mem_singleton.mp hk
    simp only [ofWord, hs]; exact rfl

theorem kand (f : Fields) : Statement (.kand f) :=
  of_row rfl rfl fun k hk hs _ => by
    obtain rfl := List.mem_singleton.mp hk
    simp only [ofWord, hs]; exact rfl

theorem kor (f : Fields) : Statement (.kor f) :=
  of_row rfl rfl fun k hk hs _ => by
    obtain rfl := List.mem_singleton.mp hk
    simp only [ofWord, hs]; exact rfl

theorem kxor (f : Fields) : Statement (.kxor f) :=
  of_row rfl rfl fun k hk hs _ => by
    obtain rfl := List.mem_singleton.mp hk
    simp only [ofWord, hs]; exact rfl

theorem kandn (f : Fields) : Statement (.kandn f) :=
  of_row rfl rfl fun k hk hs _ => by
    obtain rfl := List.mem_singleton.mp hk
    simp only [ofWord, hs]; exact rfl

theorem knot (f : Fields) : Statement (.knot f) :=
  of_row rfl rfl fun k hk hs _ => by
    obtain rfl := List.mem_singleton.mp hk
    simp only [ofWord, hs]; exact rfl

theorem kmov (f : Fields) : Statement (.kmov f) :=
  of_row rfl rfl fun k hk hs _ => by
    obtain rfl := List.mem_singleton.mp hk
    simp only [ofWord, hs]; exact rfl

theorem kset (f : Fields) : Statement (.kset f) :=
  of_row rfl rfl fun k hk hs _ => by
    simp only [ofWord, hs]
    simp only [List.mem_cons, List.not_mem_nil, or_false] at hk
    obtain rfl | rfl := hk <;> exact rfl

theorem kget (f : Fields) : Statement (.kget f) :=
  of_row rfl rfl fun k hk hs _ => by
    simp only [ofWord, hs]
    simp only [List.mem_cons, List.not_mem_nil, or_false] at hk
    obtain rfl | rfl := hk <;> exact rfl

theorem kpop (f : Fields) : Statement (.kpop f) :=
  of_row rfl rfl fun k hk hs _ => by
    obtain rfl := List.mem_singleton.mp hk
    simp only [ofWord, hs]; exact rfl

theorem kffs (f : Fields) : Statement (.kffs f) :=
  of_row rfl rfl fun k hk hs _ => by
    obtain rfl := List.mem_singleton.mp hk
    simp only [ofWord, hs]; exact rfl

theorem klast (f : Fields) : Statement (.klast f) :=
  of_row rfl rfl fun k hk hs _ => by
    obtain rfl := List.mem_singleton.mp hk
    simp only [ofWord, hs]; exact rfl

theorem kbcast (f : Fields) : Statement (.kbcast f) :=
  of_row rfl rfl fun k hk hs _ => by
    obtain rfl := List.mem_singleton.mp hk
    simp only [ofWord, hs]; exact rfl

theorem sqput (f : Fields) : Statement (.sqput f) :=
  of_row rfl rfl fun k hk hs _ => by
    obtain rfl := List.mem_singleton.mp hk
    simp only [ofWord, hs]; exact rfl

theorem vqget (f : Fields) : Statement (.vqget f) :=
  of_row rfl rfl fun k hk hs _ => by
    obtain rfl := List.mem_singleton.mp hk
    simp only [ofWord, hs]; exact rfl

theorem vqput (f : Fields) : Statement (.vqput f) :=
  of_row rfl rfl fun k hk hs _ => by
    obtain rfl := List.mem_singleton.mp hk
    simp only [ofWord, hs]; exact rfl

theorem sqget (f : Fields) : Statement (.sqget f) :=
  of_row rfl rfl fun k hk hs _ => by
    obtain rfl := List.mem_singleton.mp hk
    simp only [ofWord, hs]; exact rfl

theorem vadd (f : Fields) : Statement (.vadd f) :=
  of_row rfl rfl fun k hk hs _ => by
    simp only [ofWord, hs]
    simp only [List.mem_cons, List.not_mem_nil, or_false] at hk
    obtain rfl | rfl := hk <;> exact rfl

theorem vsub (f : Fields) : Statement (.vsub f) :=
  of_row rfl rfl fun k hk hs _ => by
    simp only [ofWord, hs]
    simp only [List.mem_cons, List.not_mem_nil, or_false] at hk
    obtain rfl | rfl := hk <;> exact rfl

theorem vmul (f : Fields) : Statement (.vmul f) :=
  of_row rfl rfl fun k hk hs _ => by
    simp only [ofWord, hs]
    simp only [List.mem_cons, List.not_mem_nil, or_false] at hk
    obtain rfl | rfl := hk <;> exact rfl

theorem vmulhi (f : Fields) : Statement (.vmulhi f) :=
  of_row rfl rfl fun k hk hs _ => by
    simp only [ofWord, hs]
    simp only [List.mem_cons, List.not_mem_nil, or_false] at hk
    obtain rfl | rfl := hk <;> exact rfl

theorem vmad (f : Fields) : Statement (.vmad f) :=
  of_row rfl rfl fun k hk hs _ => by
    obtain rfl := List.mem_singleton.mp hk
    simp only [ofWord, hs]; exact rfl

theorem vand (f : Fields) : Statement (.vand f) :=
  of_row rfl rfl fun k hk hs _ => by
    simp only [ofWord, hs]
    simp only [List.mem_cons, List.not_mem_nil, or_false] at hk
    obtain rfl | rfl := hk <;> exact rfl

theorem vor (f : Fields) : Statement (.vor f) :=
  of_row rfl rfl fun k hk hs _ => by
    simp only [ofWord, hs]
    simp only [List.mem_cons, List.not_mem_nil, or_false] at hk
    obtain rfl | rfl := hk <;> exact rfl

theorem vxor (f : Fields) : Statement (.vxor f) :=
  of_row rfl rfl fun k hk hs _ => by
    simp only [ofWord, hs]
    simp only [List.mem_cons, List.not_mem_nil, or_false] at hk
    obtain rfl | rfl := hk <;> exact rfl

theorem vandn (f : Fields) : Statement (.vandn f) :=
  of_row rfl rfl fun k hk hs _ => by
    simp only [ofWord, hs]
    simp only [List.mem_cons, List.not_mem_nil, or_false] at hk
    obtain rfl | rfl := hk <;> exact rfl

theorem vshl (f : Fields) : Statement (.vshl f) :=
  of_row rfl rfl fun k hk hs _ => by
    simp only [ofWord, hs]
    simp only [List.mem_cons, List.not_mem_nil, or_false] at hk
    obtain rfl | rfl := hk <;> exact rfl

theorem vshr (f : Fields) : Statement (.vshr f) :=
  of_row rfl rfl fun k hk hs _ => by
    simp only [ofWord, hs]
    simp only [List.mem_cons, List.not_mem_nil, or_false] at hk
    obtain rfl | rfl := hk <;> exact rfl

theorem vsra (f : Fields) : Statement (.vsra f) :=
  of_row rfl rfl fun k hk hs _ => by
    simp only [ofWord, hs]
    simp only [List.mem_cons, List.not_mem_nil, or_false] at hk
    obtain rfl | rfl := hk <;> exact rfl

theorem vmin (f : Fields) : Statement (.vmin f) :=
  of_row rfl rfl fun k hk hs _ => by
    simp only [ofWord, hs]
    simp only [List.mem_cons, List.not_mem_nil, or_false] at hk
    obtain rfl | rfl := hk <;> exact rfl

theorem vmax (f : Fields) : Statement (.vmax f) :=
  of_row rfl rfl fun k hk hs _ => by
    simp only [ofWord, hs]
    simp only [List.mem_cons, List.not_mem_nil, or_false] at hk
    obtain rfl | rfl := hk <;> exact rfl

theorem vabs (f : Fields) : Statement (.vabs f) :=
  of_row rfl rfl fun k hk hs _ => by
    obtain rfl := List.mem_singleton.mp hk
    simp only [ofWord, hs]; exact rfl

theorem vneg (f : Fields) : Statement (.vneg f) :=
  of_row rfl rfl fun k hk hs _ => by
    obtain rfl := List.mem_singleton.mp hk
    simp only [ofWord, hs]; exact rfl

theorem vclz (f : Fields) : Statement (.vclz f) :=
  of_row rfl rfl fun k hk hs _ => by
    obtain rfl := List.mem_singleton.mp hk
    simp only [ofWord, hs]; exact rfl

theorem vpop (f : Fields) : Statement (.vpop f) :=
  of_row rfl rfl fun k hk hs _ => by
    obtain rfl := List.mem_singleton.mp hk
    simp only [ofWord, hs]; exact rfl

theorem vcmp (f : Fields) : Statement (.vcmp f) :=
  of_row rfl rfl fun k hk hs _ => by
    simp only [ofWord, hs]
    simp only [List.mem_cons, List.not_mem_nil, or_false] at hk
    obtain rfl | rfl | rfl | rfl | rfl | rfl | rfl | rfl | rfl | rfl | rfl | rfl := hk <;> exact rfl

theorem vsel (f : Fields) : Statement (.vsel f) :=
  of_row rfl rfl fun k hk hs _ => by
    obtain rfl := List.mem_singleton.mp hk
    simp only [ofWord, hs]; exact rfl

theorem vmov (f : Fields) : Statement (.vmov f) :=
  of_row rfl rfl fun k hk hs _ => by
    obtain rfl := List.mem_singleton.mp hk
    simp only [ofWord, hs]; exact rfl

theorem vperm (f : Fields) : Statement (.vperm f) :=
  of_row rfl rfl fun k hk hs _ => by
    simp only [ofWord, hs]
    simp only [List.mem_cons, List.not_mem_nil, or_false] at hk
    obtain rfl | rfl | rfl | rfl | rfl := hk <;> exact rfl

theorem vbcast (f : Fields) : Statement (.vbcast f) :=
  of_row rfl rfl fun k hk hs _ => by
    simp only [ofWord, hs]
    simp only [List.mem_cons, List.not_mem_nil, or_false] at hk
    obtain rfl | rfl := hk <;> exact rfl

theorem vred (f : Fields) : Statement (.vred f) :=
  of_row rfl rfl fun k hk hs _ => by
    simp only [ofWord, hs]
    simp only [List.mem_cons, List.not_mem_nil, or_false] at hk
    obtain rfl | rfl | rfl | rfl | rfl | rfl := hk <;> exact rfl

theorem vscan (f : Fields) : Statement (.vscan f) :=
  of_row rfl rfl fun k hk hs _ => by
    simp only [ofWord, hs]
    simp only [List.mem_cons, List.not_mem_nil, or_false] at hk
    obtain rfl | rfl | rfl | rfl | rfl | rfl := hk <;> exact rfl

theorem vlane (f : Fields) : Statement (.vlane f) :=
  of_row rfl rfl fun k hk hs _ => by
    simp only [ofWord, hs]
    simp only [List.mem_cons, List.not_mem_nil, or_false] at hk
    obtain rfl | rfl := hk <;> exact rfl

theorem vsplat (f : Fields) : Statement (.vsplat f) :=
  of_row rfl rfl fun k hk hs _ => by
    simp only [ofWord, hs]
    simp only [List.mem_cons, List.not_mem_nil, or_false] at hk
    obtain rfl | rfl := hk <;> exact rfl

theorem fadd (f : Fields) : Statement (.fadd f) :=
  of_row rfl rfl fun k hk hs _ => by
    simp only [ofWord, hs]
    simp only [List.mem_cons, List.not_mem_nil, or_false] at hk
    obtain rfl | rfl := hk <;> exact rfl

theorem fsub (f : Fields) : Statement (.fsub f) :=
  of_row rfl rfl fun k hk hs _ => by
    simp only [ofWord, hs]
    simp only [List.mem_cons, List.not_mem_nil, or_false] at hk
    obtain rfl | rfl := hk <;> exact rfl

theorem fmul (f : Fields) : Statement (.fmul f) :=
  of_row rfl rfl fun k hk hs _ => by
    simp only [ofWord, hs]
    simp only [List.mem_cons, List.not_mem_nil, or_false] at hk
    obtain rfl | rfl := hk <;> exact rfl

theorem fma (f : Fields) : Statement (.fma f) :=
  of_row rfl rfl fun k hk hs _ => by
    obtain rfl := List.mem_singleton.mp hk
    simp only [ofWord, hs]; exact rfl

theorem fmin (f : Fields) : Statement (.fmin f) :=
  of_row rfl rfl fun k hk hs _ => by
    simp only [ofWord, hs]
    simp only [List.mem_cons, List.not_mem_nil, or_false] at hk
    obtain rfl | rfl := hk <;> exact rfl

theorem fmax (f : Fields) : Statement (.fmax f) :=
  of_row rfl rfl fun k hk hs _ => by
    simp only [ofWord, hs]
    simp only [List.mem_cons, List.not_mem_nil, or_false] at hk
    obtain rfl | rfl := hk <;> exact rfl

theorem fabs (f : Fields) : Statement (.fabs f) :=
  of_row rfl rfl fun k hk hs _ => by
    obtain rfl := List.mem_singleton.mp hk
    simp only [ofWord, hs]; exact rfl

theorem fneg (f : Fields) : Statement (.fneg f) :=
  of_row rfl rfl fun k hk hs _ => by
    obtain rfl := List.mem_singleton.mp hk
    simp only [ofWord, hs]; exact rfl

theorem fcmp (f : Fields) : Statement (.fcmp f) :=
  of_row rfl rfl fun k hk hs _ => by
    simp only [ofWord, hs]
    simp only [List.mem_cons, List.not_mem_nil, or_false] at hk
    obtain rfl | rfl | rfl | rfl | rfl | rfl | rfl | rfl | rfl | rfl | rfl | rfl | rfl | rfl | rfl | rfl := hk <;> exact rfl

theorem frcp (f : Fields) : Statement (.frcp f) :=
  of_row rfl rfl fun k hk hs _ => by
    obtain rfl := List.mem_singleton.mp hk
    simp only [ofWord, hs]; exact rfl

theorem frsq (f : Fields) : Statement (.frsq f) :=
  of_row rfl rfl fun k hk hs _ => by
    obtain rfl := List.mem_singleton.mp hk
    simp only [ofWord, hs]; exact rfl

theorem fsqrt (f : Fields) : Statement (.fsqrt f) :=
  of_row rfl rfl fun k hk hs _ => by
    obtain rfl := List.mem_singleton.mp hk
    simp only [ofWord, hs]; exact rfl

theorem fexp2 (f : Fields) : Statement (.fexp2 f) :=
  of_row rfl rfl fun k hk hs _ => by
    obtain rfl := List.mem_singleton.mp hk
    simp only [ofWord, hs]; exact rfl

theorem flog2 (f : Fields) : Statement (.flog2 f) :=
  of_row rfl rfl fun k hk hs _ => by
    obtain rfl := List.mem_singleton.mp hk
    simp only [ofWord, hs]; exact rfl

theorem fsin (f : Fields) : Statement (.fsin f) :=
  of_row rfl rfl fun k hk hs _ => by
    obtain rfl := List.mem_singleton.mp hk
    simp only [ofWord, hs]; exact rfl

theorem fcos (f : Fields) : Statement (.fcos f) :=
  of_row rfl rfl fun k hk hs _ => by
    obtain rfl := List.mem_singleton.mp hk
    simp only [ofWord, hs]; exact rfl

theorem ftanh (f : Fields) : Statement (.ftanh f) :=
  of_row rfl rfl fun k hk hs _ => by
    obtain rfl := List.mem_singleton.mp hk
    simp only [ofWord, hs]; exact rfl

theorem fscale (f : Fields) : Statement (.fscale f) :=
  of_row rfl rfl fun k hk hs _ => by
    simp only [ofWord, hs]
    simp only [List.mem_cons, List.not_mem_nil, or_false] at hk
    obtain rfl | rfl := hk <;> exact rfl

theorem fclass (f : Fields) : Statement (.fclass f) :=
  of_row rfl rfl fun k hk hs _ => by
    obtain rfl := List.mem_singleton.mp hk
    simp only [ofWord, hs]; exact rfl

theorem fcvtSlot (f : Fields) : Statement (.fcvtSlot f) :=
  of_row rfl rfl fun k hk hs _ => by
    obtain rfl := List.mem_singleton.mp hk
    simp only [ofWord, hs]; exact rfl

theorem fcvtFromInt (f : Fields) : Statement (.fcvtFromInt f) :=
  of_row rfl rfl fun k hk hs _ => by
    obtain rfl := List.mem_singleton.mp hk
    simp only [ofWord, hs]; exact rfl

theorem fcvtToInt (f : Fields) : Statement (.fcvtToInt f) :=
  of_row rfl rfl fun k hk hs _ => by
    obtain rfl := List.mem_singleton.mp hk
    simp only [ofWord, hs]; exact rfl

theorem fsrnd (f : Fields) : Statement (.fsrnd f) :=
  of_row rfl rfl fun k hk hs _ => by
    obtain rfl := List.mem_singleton.mp hk
    simp only [ofWord, hs]; exact rfl

theorem frnd (f : Fields) : Statement (.frnd f) :=
  of_row rfl rfl fun k hk hs _ => by
    obtain rfl := List.mem_singleton.mp hk
    simp only [ofWord, hs]; exact rfl

theorem fdot (f : Fields) : Statement (.fdot f) :=
  of_row rfl rfl fun k hk hs _ => by
    obtain rfl := List.mem_singleton.mp hk
    simp only [ofWord, hs]; exact rfl

theorem fzpt (f : Fields) : Statement (.fzpt f) :=
  of_row rfl rfl fun k hk hs _ => by
    simp only [ofWord, hs]
    simp only [List.mem_cons, List.not_mem_nil, or_false] at hk
    obtain rfl | rfl := hk <;> exact rfl

theorem lds (f : Fields) : Statement (.lds f) :=
  of_row rfl rfl fun k hk hs _ => by
    simp only [ofWord, hs]
    simp only [List.mem_cons, List.not_mem_nil, or_false] at hk
    obtain rfl | rfl | rfl := hk <;> exact rfl

theorem sts (f : Fields) : Statement (.sts f) :=
  of_row rfl rfl fun k hk hs _ => by
    simp only [ofWord, hs]
    simp only [List.mem_cons, List.not_mem_nil, or_false] at hk
    obtain rfl | rfl | rfl := hk <;> exact rfl

theorem ldsb (f : Fields) : Statement (.ldsb f) :=
  of_row rfl rfl fun k hk hs _ => by
    obtain rfl := List.mem_singleton.mp hk
    simp only [ofWord, hs]; exact rfl

theorem xld (f : Fields) : Statement (.xld f) :=
  of_row rfl rfl fun k hk hs _ => by
    obtain rfl := List.mem_singleton.mp hk
    simp only [ofWord, hs]; exact rfl

theorem xldX24 (f : Fields) : Statement (.xldX24 f) :=
  of_row rfl rfl fun k hk hs _ => by
    obtain rfl := List.mem_singleton.mp hk
    simp only [ofWord, hs]; exact rfl

theorem xldNt (f : Fields) : Statement (.xldNt f) :=
  of_row rfl rfl fun k hk hs _ => by
    obtain rfl := List.mem_singleton.mp hk
    simp only [ofWord, hs]; exact rfl

theorem xst (f : Fields) : Statement (.xst f) :=
  of_row rfl rfl fun k hk hs _ => by
    obtain rfl := List.mem_singleton.mp hk
    simp only [ofWord, hs]; exact rfl

theorem xgat (f : Fields) : Statement (.xgat f) :=
  of_row rfl rfl fun k hk hs _ => by
    obtain rfl := List.mem_singleton.mp hk
    simp only [ofWord, hs]; exact rfl

theorem xsct (f : Fields) : Statement (.xsct f) :=
  of_row rfl rfl fun k hk hs _ => by
    obtain rfl := List.mem_singleton.mp hk
    simp only [ofWord, hs]; exact rfl

theorem xcpy (f : Fields) : Statement (.xcpy f) :=
  of_row rfl rfl fun k hk hs _ => by
    obtain rfl := List.mem_singleton.mp hk
    simp only [ofWord, hs]; exact rfl

theorem xcpyMc (f : Fields) : Statement (.xcpyMc f) :=
  of_row rfl rfl fun k hk hs _ => by
    obtain rfl := List.mem_singleton.mp hk
    simp only [ofWord, hs]; exact rfl

theorem xfill (f : Fields) : Statement (.xfill f) :=
  of_row rfl rfl fun k hk hs _ => by
    obtain rfl := List.mem_singleton.mp hk
    simp only [ofWord, hs]; exact rfl

theorem qjoin (f : Fields) : Statement (.qjoin f) :=
  of_row rfl rfl fun k hk hs _ => by
    obtain rfl := List.mem_singleton.mp hk
    simp only [ofWord, hs]; exact rfl

theorem tgwany (f : Fields) : Statement (.tgwany f) :=
  of_row rfl rfl fun k hk hs _ => by
    obtain rfl := List.mem_singleton.mp hk
    simp only [ofWord, hs]; exact rfl

theorem tgwall (f : Fields) : Statement (.tgwall f) :=
  of_row rfl rfl fun k hk hs _ => by
    obtain rfl := List.mem_singleton.mp hk
    simp only [ofWord, hs]; exact rfl

theorem tgffr (f : Fields) : Statement (.tgffr f) :=
  of_row rfl rfl fun k hk hs _ => by
    obtain rfl := List.mem_singleton.mp hk
    simp only [ofWord, hs]; exact rfl

theorem tgclr (f : Fields) : Statement (.tgclr f) :=
  of_row rfl rfl fun k hk hs _ => by
    obtain rfl := List.mem_singleton.mp hk
    simp only [ofWord, hs]; exact rfl

theorem tgget (f : Fields) : Statement (.tgget f) :=
  of_row rfl rfl fun k hk hs _ => by
    simp only [ofWord, hs]
    simp only [List.mem_cons, List.not_mem_nil, or_false] at hk
    obtain rfl | rfl | rfl := hk <;> exact rfl

theorem bini (f : Fields) : Statement (.bini f) :=
  of_row rfl rfl fun k hk hs _ => by
    obtain rfl := List.mem_singleton.mp hk
    simp only [ofWord, hs]; exact rfl

theorem barr (f : Fields) : Statement (.barr f) :=
  of_row rfl rfl fun k hk hs _ => by
    obtain rfl := List.mem_singleton.mp hk
    simp only [ofWord, hs]; exact rfl

theorem barrN (f : Fields) : Statement (.barrN f) :=
  of_row rfl rfl fun k hk hs _ => by
    obtain rfl := List.mem_singleton.mp hk
    simp only [ofWord, hs]; exact rfl

theorem barrExp (f : Fields) : Statement (.barrExp f) :=
  of_row rfl rfl fun k hk hs _ => by
    obtain rfl := List.mem_singleton.mp hk
    simp only [ofWord, hs]; exact rfl

theorem bexp (f : Fields) : Statement (.bexp f) :=
  of_row rfl rfl fun k hk hs _ => by
    obtain rfl := List.mem_singleton.mp hk
    simp only [ofWord, hs]; exact rfl

theorem bwait (f : Fields) : Statement (.bwait f) :=
  of_row rfl rfl fun k hk hs _ => by
    simp only [ofWord, hs]
    simp only [List.mem_cons, List.not_mem_nil, or_false] at hk
    obtain rfl | rfl := hk <;> exact rfl

theorem btest (f : Fields) : Statement (.btest f) :=
  of_row rfl rfl fun k hk hs _ => by
    simp only [ofWord, hs]
    simp only [List.mem_cons, List.not_mem_nil, or_false] at hk
    obtain rfl | rfl := hk <;> exact rfl

theorem bcan (f : Fields) : Statement (.bcan f) :=
  of_row rfl rfl fun k hk hs _ => by
    obtain rfl := List.mem_singleton.mp hk
    simp only [ofWord, hs]; exact rfl

theorem nqini (f : Fields) : Statement (.nqini f) :=
  of_row rfl rfl fun k hk hs _ => by
    obtain rfl := List.mem_singleton.mp hk
    simp only [ofWord, hs]; exact rfl

theorem nqsend (f : Fields) : Statement (.nqsend f) :=
  of_row rfl rfl fun k hk hs _ => by
    obtain rfl := List.mem_singleton.mp hk
    simp only [ofWord, hs]; exact rfl

theorem nqrecv (f : Fields) : Statement (.nqrecv f) :=
  of_row rfl rfl fun k hk hs _ => by
    obtain rfl := List.mem_singleton.mp hk
    simp only [ofWord, hs]; exact rfl

theorem nqret (f : Fields) : Statement (.nqret f) :=
  of_row rfl rfl fun k hk hs _ => by
    obtain rfl := List.mem_singleton.mp hk
    simp only [ofWord, hs]; exact rfl

theorem nqtry (f : Fields) : Statement (.nqtry f) :=
  of_row rfl rfl fun k hk hs _ => by
    obtain rfl := List.mem_singleton.mp hk
    simp only [ofWord, hs]; exact rfl

theorem nbsync (f : Fields) : Statement (.nbsync f) :=
  of_row rfl rfl fun k hk hs _ => by
    obtain rfl := List.mem_singleton.mp hk
    simp only [ofWord, hs]; exact rfl

theorem nbarv (f : Fields) : Statement (.nbarv f) :=
  of_row rfl rfl fun k hk hs _ => by
    obtain rfl := List.mem_singleton.mp hk
    simp only [ofWord, hs]; exact rfl

theorem tbsync (f : Fields) : Statement (.tbsync f) :=
  of_row rfl rfl fun k hk hs _ => by
    obtain rfl := List.mem_singleton.mp hk
    simp only [ofWord, hs]; exact rfl

theorem tbarv (f : Fields) : Statement (.tbarv f) :=
  of_row rfl rfl fun k hk hs _ => by
    obtain rfl := List.mem_singleton.mp hk
    simp only [ofWord, hs]; exact rfl

theorem mxgo (f : Fields) : Statement (.mxgo f) :=
  of_row rfl rfl fun k hk hs _ => by
    obtain rfl := List.mem_singleton.mp hk
    simp only [ofWord, hs]; exact rfl

theorem mxmul (f : Fields) : Statement (.mxmul f) :=
  of_row rfl rfl fun k hk hs _ => by
    obtain rfl := List.mem_singleton.mp hk
    simp only [ofWord, hs]; exact rfl

theorem mxdual (f : Fields) : Statement (.mxdual f) :=
  of_row rfl rfl fun k hk hs _ => by
    obtain rfl := List.mem_singleton.mp hk
    simp only [ofWord, hs]; exact rfl

theorem mxsp (f : Fields) : Statement (.mxsp f) :=
  of_row rfl rfl fun k hk hs _ => by
    obtain rfl := List.mem_singleton.mp hk
    simp only [ofWord, hs]; exact rfl

theorem mxzero (f : Fields) : Statement (.mxzero f) :=
  of_row rfl rfl fun k hk hs _ => by
    simp only [ofWord, hs]
    simp only [List.mem_cons, List.not_mem_nil, or_false] at hk
    obtain rfl | rfl := hk <;> exact rfl

theorem mxld (f : Fields) : Statement (.mxld f) :=
  of_row rfl rfl fun k hk hs _ => by
    obtain rfl := List.mem_singleton.mp hk
    simp only [ofWord, hs]; exact rfl

theorem mxst (f : Fields) : Statement (.mxst f) :=
  of_row rfl rfl fun k hk hs _ => by
    simp only [ofWord, hs]
    simp only [List.mem_cons, List.not_mem_nil, or_false] at hk
    obtain rfl | rfl | rfl := hk <;> exact rfl

theorem mxadd (f : Fields) : Statement (.mxadd f) :=
  of_row rfl rfl fun k hk hs _ => by
    simp only [ofWord, hs]
    simp only [List.mem_cons, List.not_mem_nil, or_false] at hk
    obtain rfl | rfl := hk <;> exact rfl

theorem mxscl (f : Fields) : Statement (.mxscl f) :=
  of_row rfl rfl fun k hk hs _ => by
    obtain rfl := List.mem_singleton.mp hk
    simp only [ofWord, hs]; exact rfl

theorem mxwaitTg (f : Fields) : Statement (.mxwaitTg f) :=
  of_row rfl rfl fun k hk hs _ => by
    obtain rfl := List.mem_singleton.mp hk
    simp only [ofWord, hs]; exact rfl

theorem mxwaitBo (f : Fields) : Statement (.mxwaitBo f) :=
  of_row rfl rfl fun k hk hs _ => by
    obtain rfl := List.mem_singleton.mp hk
    simp only [ofWord, hs]; exact rfl

theorem mxnb (f : Fields) : Statement (.mxnb f) :=
  of_row rfl rfl fun k hk hs _ => by
    obtain rfl := List.mem_singleton.mp hk
    simp only [ofWord, hs]; exact rfl

theorem mxnbArv (f : Fields) : Statement (.mxnbArv f) :=
  of_row rfl rfl fun k hk hs _ => by
    obtain rfl := List.mem_singleton.mp hk
    simp only [ofWord, hs]; exact rfl

theorem mxloopBegin (f : Fields) : Statement (.mxloopBegin f) :=
  of_row rfl rfl fun k hk hs _ => by
    obtain rfl := List.mem_singleton.mp hk
    simp only [ofWord, hs]; exact rfl

theorem mxloop (f : Fields) : Statement (.mxloop f) :=
  of_row rfl rfl fun k hk hs _ => by
    obtain rfl := List.mem_singleton.mp hk
    simp only [ofWord, hs]; exact rfl

theorem mxend (f : Fields) : Statement (.mxend f) :=
  of_row rfl rfl fun k hk hs _ => by
    obtain rfl := List.mem_singleton.mp hk
    simp only [ofWord, hs]; exact rfl

theorem mxstat (f : Fields) : Statement (.mxstat f) :=
  of_row rfl rfl fun k hk hs _ => by
    simp only [ofWord, hs]
    simp only [List.mem_cons, List.not_mem_nil, or_false] at hk
    obtain rfl | rfl := hk <;> exact rfl

theorem mxnorm (f : Fields) : Statement (.mxnorm f) :=
  of_row rfl rfl fun k hk hs _ => by
    obtain rfl := List.mem_singleton.mp hk
    simp only [ofWord, hs]; exact rfl

theorem mxalias (f : Fields) : Statement (.mxalias f) :=
  of_row rfl rfl fun k hk hs _ => by
    obtain rfl := List.mem_singleton.mp hk
    simp only [ofWord, hs]; exact rfl

theorem mxsamp (f : Fields) : Statement (.mxsamp f) :=
  of_row rfl rfl fun k hk hs _ => by
    obtain rfl := List.mem_singleton.mp hk
    simp only [ofWord, hs]; exact rfl

theorem mxvar (f : Fields) : Statement (.mxvar f) :=
  of_row rfl rfl fun k hk hs _ => by
    simp only [ofWord, hs]
    simp only [List.mem_cons, List.not_mem_nil, or_false] at hk
    obtain rfl | rfl := hk <;> exact rfl

theorem ld (f : Fields) : Statement (.ld f) :=
  of_row rfl rfl fun k hk hs _ => by
    obtain rfl := List.mem_singleton.mp hk
    simp only [ofWord, hs]; exact rfl

theorem ldAc (f : Fields) : Statement (.ldAc f) :=
  of_row rfl rfl fun k hk hs _ => by
    obtain rfl := List.mem_singleton.mp hk
    simp only [ofWord, hs]; exact rfl

theorem st (f : Fields) : Statement (.st f) :=
  of_row rfl rfl fun k hk hs _ => by
    obtain rfl := List.mem_singleton.mp hk
    simp only [ofWord, hs]; exact rfl

theorem vld (f : Fields) : Statement (.vld f) :=
  of_row rfl rfl fun k hk hs _ => by
    obtain rfl := List.mem_singleton.mp hk
    simp only [ofWord, hs]; exact rfl

theorem vldAc (f : Fields) : Statement (.vldAc f) :=
  of_row rfl rfl fun k hk hs _ => by
    obtain rfl := List.mem_singleton.mp hk
    simp only [ofWord, hs]; exact rfl

theorem vst (f : Fields) : Statement (.vst f) :=
  of_row rfl rfl fun k hk hs _ => by
    obtain rfl := List.mem_singleton.mp hk
    simp only [ofWord, hs]; exact rfl

theorem vldw (f : Fields) : Statement (.vldw f) :=
  of_row rfl rfl fun k hk hs _ => by
    simp only [ofWord, hs]
    simp only [List.mem_cons, List.not_mem_nil, or_false] at hk
    obtain rfl | rfl := hk <;> exact rfl

theorem vstw (f : Fields) : Statement (.vstw f) :=
  of_row rfl rfl fun k hk hs _ => by
    obtain rfl := List.mem_singleton.mp hk
    simp only [ofWord, hs]; exact rfl

theorem acwait (f : Fields) : Statement (.acwait f) :=
  of_row rfl rfl fun k hk hs _ => by
    obtain rfl := List.mem_singleton.mp hk
    simp only [ofWord, hs]; exact rfl

theorem acget (f : Fields) : Statement (.acget f) :=
  of_row rfl rfl fun k hk hs _ => by
    obtain rfl := List.mem_singleton.mp hk
    simp only [ofWord, hs]; exact rfl

theorem acclr (f : Fields) : Statement (.acclr f) :=
  of_row rfl rfl fun k hk hs _ => by
    obtain rfl := List.mem_singleton.mp hk
    simp only [ofWord, hs]; exact rfl

theorem pref (f : Fields) : Statement (.pref f) :=
  of_row rfl rfl fun k hk hs _ => by
    simp only [ofWord, hs]
    simp only [List.mem_cons, List.not_mem_nil, or_false] at hk
    obtain rfl | rfl | rfl := hk <;> exact rfl

theorem cfl (f : Fields) : Statement (.cfl f) :=
  of_row rfl rfl fun k hk hs _ => by
    simp only [ofWord, hs]
    simp only [List.mem_cons, List.not_mem_nil, or_false] at hk
    obtain rfl | rfl := hk <;> exact rfl

theorem fence (f : Fields) : Statement (.fence f) :=
  of_row rfl rfl fun k hk hs _ => by
    obtain rfl := List.mem_singleton.mp hk
    simp only [ofWord, hs]; exact rfl

theorem aadd (f : Fields) : Statement (.aadd f) :=
  of_row rfl rfl fun k hk hs _ => by
    obtain rfl := List.mem_singleton.mp hk
    simp only [ofWord, hs]; exact rfl

theorem amin (f : Fields) : Statement (.amin f) :=
  of_row rfl rfl fun k hk hs _ => by
    obtain rfl := List.mem_singleton.mp hk
    simp only [ofWord, hs]; exact rfl

theorem amax (f : Fields) : Statement (.amax f) :=
  of_row rfl rfl fun k hk hs _ => by
    obtain rfl := List.mem_singleton.mp hk
    simp only [ofWord, hs]; exact rfl

theorem aand (f : Fields) : Statement (.aand f) :=
  of_row rfl rfl fun k hk hs _ => by
    obtain rfl := List.mem_singleton.mp hk
    simp only [ofWord, hs]; exact rfl

theorem aor (f : Fields) : Statement (.aor f) :=
  of_row rfl rfl fun k hk hs _ => by
    obtain rfl := List.mem_singleton.mp hk
    simp only [ofWord, hs]; exact rfl

theorem axor (f : Fields) : Statement (.axor f) :=
  of_row rfl rfl fun k hk hs _ => by
    obtain rfl := List.mem_singleton.mp hk
    simp only [ofWord, hs]; exact rfl

theorem axch (f : Fields) : Statement (.axch f) :=
  of_row rfl rfl fun k hk hs _ => by
    obtain rfl := List.mem_singleton.mp hk
    simp only [ofWord, hs]; exact rfl

theorem acas (f : Fields) : Statement (.acas f) :=
  of_row rfl rfl fun k hk hs _ => by
    obtain rfl := List.mem_singleton.mp hk
    simp only [ofWord, hs]; exact rfl

theorem ainb (f : Fields) : Statement (.ainb f) :=
  of_row rfl rfl fun k hk hs _ => by
    obtain rfl := List.mem_singleton.mp hk
    simp only [ofWord, hs]; exact rfl

theorem ainw (f : Fields) : Statement (.ainw f) :=
  of_row rfl rfl fun k hk hs _ => by
    obtain rfl := List.mem_singleton.mp hk
    simp only [ofWord, hs]; exact rfl

theorem adecp (f : Fields) : Statement (.adecp f) :=
  of_row rfl rfl fun k hk hs _ => by
    obtain rfl := List.mem_singleton.mp hk
    simp only [ofWord, hs]; exact rfl

theorem aflim (f : Fields) : Statement (.aflim f) :=
  of_row rfl rfl fun k hk hs _ => by
    obtain rfl := List.mem_singleton.mp hk
    simp only [ofWord, hs]; exact rfl

theorem aaddf (f : Fields) : Statement (.aaddf f) :=
  of_row rfl rfl fun k hk hs _ => by
    obtain rfl := List.mem_singleton.mp hk
    simp only [ofWord, hs]; exact rfl

theorem redadd (f : Fields) : Statement (.redadd f) :=
  of_row rfl rfl fun k hk hs _ => by
    obtain rfl := List.mem_singleton.mp hk
    simp only [ofWord, hs]; exact rfl

theorem redmin (f : Fields) : Statement (.redmin f) :=
  of_row rfl rfl fun k hk hs _ => by
    obtain rfl := List.mem_singleton.mp hk
    simp only [ofWord, hs]; exact rfl

theorem redmax (f : Fields) : Statement (.redmax f) :=
  of_row rfl rfl fun k hk hs _ => by
    obtain rfl := List.mem_singleton.mp hk
    simp only [ofWord, hs]; exact rfl

theorem redand (f : Fields) : Statement (.redand f) :=
  of_row rfl rfl fun k hk hs _ => by
    obtain rfl := List.mem_singleton.mp hk
    simp only [ofWord, hs]; exact rfl

theorem redor (f : Fields) : Statement (.redor f) :=
  of_row rfl rfl fun k hk hs _ => by
    obtain rfl := List.mem_singleton.mp hk
    simp only [ofWord, hs]; exact rfl

theorem redxor (f : Fields) : Statement (.redxor f) :=
  of_row rfl rfl fun k hk hs _ => by
    obtain rfl := List.mem_singleton.mp hk
    simp only [ofWord, hs]; exact rfl

theorem redaddf (f : Fields) : Statement (.redaddf f) :=
  of_row rfl rfl fun k hk hs _ => by
    obtain rfl := List.mem_singleton.mp hk
    simp only [ofWord, hs]; exact rfl

theorem tdep (f : Fields) : Statement (.tdep f) :=
  of_row rfl rfl fun k hk hs _ => by
    simp only [ofWord, hs]
    simp only [List.mem_cons, List.not_mem_nil, or_false] at hk
    obtain rfl | rfl := hk <;> exact rfl

theorem tread (f : Fields) : Statement (.tread f) :=
  of_row rfl rfl fun k hk hs _ => by
    simp only [ofWord, hs]
    simp only [List.mem_cons, List.not_mem_nil, or_false] at hk
    obtain rfl | rfl := hk <;> exact rfl

theorem ttake (f : Fields) : Statement (.ttake f) :=
  of_row rfl rfl fun k hk hs _ => by
    simp only [ofWord, hs]
    simp only [List.mem_cons, List.not_mem_nil, or_false] at hk
    obtain rfl | rfl := hk <;> exact rfl

theorem tcan (f : Fields) : Statement (.tcan f) :=
  of_row rfl rfl fun k hk hs _ => by
    obtain rfl := List.mem_singleton.mp hk
    simp only [ofWord, hs]; exact rfl

theorem tstat (f : Fields) : Statement (.tstat f) :=
  of_row rfl rfl fun k hk hs _ => by
    simp only [ofWord, hs]
    simp only [List.mem_cons, List.not_mem_nil, or_false] at hk
    obtain rfl | rfl := hk <;> exact rfl

theorem slvtab (f : Fields) : Statement (.slvtab f) :=
  of_row rfl rfl fun k hk hs _ => by
    obtain rfl := List.mem_singleton.mp hk
    simp only [ofWord, hs]; exact rfl

theorem slvini (f : Fields) : Statement (.slvini f) :=
  of_row rfl rfl fun k hk hs _ => by
    obtain rfl := List.mem_singleton.mp hk
    simp only [ofWord, hs]; exact rfl

theorem slvstg (f : Fields) : Statement (.slvstg f) :=
  of_row rfl rfl fun k hk hs _ => by
    obtain rfl := List.mem_singleton.mp hk
    simp only [ofWord, hs]; exact rfl

theorem slvend (f : Fields) : Statement (.slvend f) :=
  of_row rfl rfl fun k hk hs _ => by
    obtain rfl := List.mem_singleton.mp hk
    simp only [ofWord, hs]; exact rfl

theorem slvst (f : Fields) : Statement (.slvst f) :=
  of_row rfl rfl fun k hk hs _ => by
    obtain rfl := List.mem_singleton.mp hk
    simp only [ofWord, hs]; exact rfl

theorem slvstRel (f : Fields) : Statement (.slvstRel f) :=
  of_row rfl rfl fun k hk hs _ => by
    obtain rfl := List.mem_singleton.mp hk
    simp only [ofWord, hs]; exact rfl

theorem fmreq (f : Fields) : Statement (.fmreq f) :=
  of_row rfl rfl fun k hk hs _ => by
    obtain rfl := List.mem_singleton.mp hk
    simp only [ofWord, hs]; exact rfl

theorem fmfence (f : Fields) : Statement (.fmfence f) :=
  of_row rfl rfl fun k hk hs _ => by
    simp only [ofWord, hs]
    simp only [List.mem_cons, List.not_mem_nil, or_false] at hk
    obtain rfl | rfl := hk <;> exact rfl

theorem fmq (f : Fields) : Statement (.fmq f) :=
  of_row rfl rfl fun k hk hs _ => by
    obtain rfl := List.mem_singleton.mp hk
    simp only [ofWord, hs]; exact rfl

theorem fmqHash (f : Fields) : Statement (.fmqHash f) :=
  of_row rfl rfl fun k hk hs _ => by
    obtain rfl := List.mem_singleton.mp hk
    simp only [ofWord, hs]; exact rfl

theorem fmrel (f : Fields) : Statement (.fmrel f) :=
  of_row rfl rfl fun k hk hs _ => by
    obtain rfl := List.mem_singleton.mp hk
    simp only [ofWord, hs]; exact rfl

theorem grd (f : Fields) : Statement (.grd f) :=
  of_row rfl rfl fun k hk hs _ => by
    simp only [ofWord, hs]
    simp only [List.mem_cons, List.not_mem_nil, or_false] at hk
    obtain rfl | rfl | rfl := hk <;> exact rfl

theorem grraise (f : Fields) : Statement (.grraise f) :=
  of_row rfl rfl fun k hk hs _ => by
    simp only [ofWord, hs]
    simp only [List.mem_cons, List.not_mem_nil, or_false] at hk
    obtain rfl | rfl := hk <;> exact rfl

theorem grdecl (f : Fields) : Statement (.grdecl f) :=
  of_row rfl rfl fun k hk hs _ => by
    simp only [ofWord, hs]
    simp only [List.mem_cons, List.not_mem_nil, or_false] at hk
    obtain rfl | rfl := hk <;> exact rfl

theorem ticket (f : Fields) : Statement (.ticket f) :=
  of_row rfl rfl fun k hk hs _ => by
    obtain rfl := List.mem_singleton.mp hk
    simp only [ofWord, hs]; exact rfl

theorem tkret (f : Fields) : Statement (.tkret f) :=
  of_row rfl rfl fun k hk hs _ => by
    obtain rfl := List.mem_singleton.mp hk
    simp only [ofWord, hs]; exact rfl

theorem phint (f : Fields) : Statement (.phint f) :=
  of_row rfl rfl fun k hk hs _ => by
    simp only [ofWord, hs]
    simp only [List.mem_cons, List.not_mem_nil, or_false] at hk
    obtain rfl | rfl | rfl := hk <;> exact rfl

theorem spawn (f : Fields) : Statement (.spawn f) :=
  of_row rfl rfl fun k hk hs _ => by
    simp only [ofWord, hs]
    simp only [List.mem_cons, List.not_mem_nil, or_false] at hk
    obtain rfl | rfl := hk <;> exact rfl

theorem binflush (f : Fields) : Statement (.binflush f) :=
  of_row rfl rfl fun k hk hs _ => by
    obtain rfl := List.mem_singleton.mp hk
    simp only [ofWord, hs]; exact rfl

theorem bincfg (f : Fields) : Statement (.bincfg f) :=
  of_row rfl rfl fun k hk hs _ => by
    simp only [ofWord, hs]
    simp only [List.mem_cons, List.not_mem_nil, or_false] at hk
    obtain rfl | rfl := hk <;> exact rfl

theorem frec (f : Fields) : Statement (.frec f) :=
  of_row rfl rfl fun k hk hs _ => by
    simp only [ofWord, hs]
    simp only [List.mem_cons, List.not_mem_nil, or_false] at hk
    obtain rfl | rfl | rfl := hk <;> exact rfl

theorem fres (f : Fields) : Statement (.fres f) :=
  of_row rfl rfl fun k hk hs _ => by
    obtain rfl := List.mem_singleton.mp hk
    simp only [ofWord, hs]; exact rfl

theorem fresM (f : Fields) : Statement (.fresM f) :=
  of_row rfl rfl fun k hk hs _ => by
    obtain rfl := List.mem_singleton.mp hk
    simp only [ofWord, hs]; exact rfl

theorem fresRet (f : Fields) : Statement (.fresRet f) :=
  of_row rfl rfl fun k hk hs _ => by
    obtain rfl := List.mem_singleton.mp hk
    simp only [ofWord, hs]; exact rfl

theorem fdrop (f : Fields) : Statement (.fdrop f) :=
  of_row rfl rfl fun k hk hs _ => by
    obtain rfl := List.mem_singleton.mp hk
    simp only [ofWord, hs]; exact rfl

theorem fdropEnd (f : Fields) : Statement (.fdropEnd f) :=
  of_row rfl rfl fun k hk hs _ => by
    obtain rfl := List.mem_singleton.mp hk
    simp only [ofWord, hs]; exact rfl

theorem nflg (f : Fields) : Statement (.nflg f) :=
  of_row rfl rfl fun k hk hs _ => by
    obtain rfl := List.mem_singleton.mp hk
    simp only [ofWord, hs]; exact rfl

theorem nflgClr (f : Fields) : Statement (.nflgClr f) :=
  of_row rfl rfl fun k hk hs _ => by
    obtain rfl := List.mem_singleton.mp hk
    simp only [ofWord, hs]; exact rfl

theorem nflgSet (f : Fields) : Statement (.nflgSet f) :=
  of_row rfl rfl fun k hk hs _ => by
    obtain rfl := List.mem_singleton.mp hk
    simp only [ofWord, hs]; exact rfl

theorem nflgDef (f : Fields) : Statement (.nflgDef f) :=
  of_row rfl rfl fun k hk hs _ => by
    obtain rfl := List.mem_singleton.mp hk
    simp only [ofWord, hs]; exact rfl

theorem post (f : Fields) : Statement (.post f) :=
  of_row rfl rfl fun k hk hs _ => by
    obtain rfl := List.mem_singleton.mp hk
    simp only [ofWord, hs]; exact rfl

theorem qring (f : Fields) : Statement (.qring f) :=
  of_row rfl rfl fun k hk hs _ => by
    obtain rfl := List.mem_singleton.mp hk
    simp only [ofWord, hs]; exact rfl

theorem treeBarrierRelease : Statement .treeBarrierRelease := by
  intro r f hr; cases hr

theorem matrixContextGrant : Statement .matrixContextGrant := by
  intro r f hr; cases hr

theorem splitLoadReply : Statement .splitLoadReply := by
  intro r f hr; cases hr

theorem longLatencyComplete : Statement .longLatencyComplete := by
  intro r f hr; cases hr

theorem atomicReply : Statement .atomicReply := by
  intro r f hr; cases hr

theorem windowReductionApply : Statement .windowReductionApply := by
  intro r f hr; cases hr

theorem tupleDepositServe : Statement .tupleDepositServe := by
  intro r f hr; cases hr

theorem tupleRefill : Statement .tupleRefill := by
  intro r f hr; cases hr

theorem tupleMatchServe : Statement .tupleMatchServe := by
  intro r f hr; cases hr

theorem tupleCancelServe : Statement .tupleCancelServe := by
  intro r f hr; cases hr

theorem tupleReply : Statement .tupleReply := by
  intro r f hr; cases hr

theorem calliopeGrant : Statement .calliopeGrant := by
  intro r f hr; cases hr

theorem formatCheckComplete : Statement .formatCheckComplete := by
  intro r f hr; cases hr

theorem slotDrainComplete : Statement .slotDrainComplete := by
  intro r f hr; cases hr

theorem frameReady : Statement .frameReady := by
  intro r f hr; cases hr

theorem launchSlotBind : Statement .launchSlotBind := by
  intro r f hr; cases hr

theorem admissionGrant : Statement .admissionGrant := by
  intro r f hr; cases hr

theorem ticketTimeout : Statement .ticketTimeout := by
  intro r f hr; cases hr

theorem binTimerExpiry : Statement .binTimerExpiry := by
  intro r f hr; cases hr

theorem binLaunch : Statement .binLaunch := by
  intro r f hr; cases hr

theorem spawnDrain : Statement .spawnDrain := by
  intro r f hr; cases hr

theorem sleepExpiry : Statement .sleepExpiry := by
  intro r f hr; cases hr

theorem icacheFill : Statement .icacheFill := by
  intro r f hr; cases hr

theorem copyStart : Statement .copyStart := by
  intro r f hr; cases hr

theorem copyBytesLand : Statement .copyBytesLand := by
  intro r f hr; cases hr

theorem copyComplete : Statement .copyComplete := by
  intro r f hr; cases hr

theorem copyFinalFault : Statement .copyFinalFault := by
  intro r f hr; cases hr

theorem troupeRetire : Statement .troupeRetire := by
  intro r f hr; cases hr

theorem ringEnd : Statement .ringEnd := by
  intro r f hr; cases hr

theorem queueTailWrite : Statement .queueTailWrite := by
  intro r f hr; cases hr

theorem qenWrite : Statement .qenWrite := by
  intro r f hr; cases hr

theorem launchRecordAccept : Statement .launchRecordAccept := by
  intro r f hr; cases hr

theorem launchStart : Statement .launchStart := by
  intro r f hr; cases hr

theorem neighbourhoodPlace : Statement .neighbourhoodPlace := by
  intro r f hr; cases hr

theorem preemptionWaitExpiry : Statement .preemptionWaitExpiry := by
  intro r f hr; cases hr

theorem launchCompletionRecord : Statement .launchCompletionRecord := by
  intro r f hr; cases hr

theorem registerWrite : Statement .registerWrite := by
  intro r f hr; cases hr

theorem invalPage : Statement .invalPage := by
  intro r f hr; cases hr

theorem invalAsid : Statement .invalAsid := by
  intro r f hr; cases hr

theorem invalAll : Statement .invalAll := by
  intro r f hr; cases hr

theorem replayAll : Statement .replayAll := by
  intro r f hr; cases hr

theorem cancelAsid : Statement .cancelAsid := by
  intro r f hr; cases hr

theorem mmuInvalidationDone : Statement .mmuInvalidationDone := by
  intro r f hr; cases hr

theorem pageWalkComplete : Statement .pageWalkComplete := by
  intro r f hr; cases hr

theorem extentAdd : Statement .extentAdd := by
  intro r f hr; cases hr

theorem extentRelease : Statement .extentRelease := by
  intro r f hr; cases hr

theorem refreshInterval : Statement .refreshInterval := by
  intro r f hr; cases hr

theorem refreshRetryReissue : Statement .refreshRetryReissue := by
  intro r f hr; cases hr

theorem ctxCreate : Statement .ctxCreate := by
  intro r f hr; cases hr

theorem ctxEnd : Statement .ctxEnd := by
  intro r f hr; cases hr

theorem ownerKey : Statement .ownerKey := by
  intro r f hr; cases hr

theorem regionCreate : Statement .regionCreate := by
  intro r f hr; cases hr

theorem preempt : Statement .preempt := by
  intro r f hr; cases hr

theorem faultActFres : Statement .faultActFres := by
  intro r f hr; cases hr

theorem faultActFresM : Statement .faultActFresM := by
  intro r f hr; cases hr

theorem faultActFresRet : Statement .faultActFresRet := by
  intro r f hr; cases hr

theorem faultActFdrop : Statement .faultActFdrop := by
  intro r f hr; cases hr

theorem faultActFdropEnd : Statement .faultActFdropEnd := by
  intro r f hr; cases hr

theorem roster : Statement .roster := by
  intro r f hr; cases hr

theorem window : Statement .window := by
  intro r f hr; cases hr

theorem queueAssign : Statement .queueAssign := by
  intro r f hr; cases hr

theorem preemptionRequest : Statement .preemptionRequest := by
  intro r f hr; cases hr

theorem drainWaitExpiry : Statement .drainWaitExpiry := by
  intro r f hr; cases hr

theorem neighbourhoodSave : Statement .neighbourhoodSave := by
  intro r f hr; cases hr

theorem neighbourhoodRestore : Statement .neighbourhoodRestore := by
  intro r f hr; cases hr

theorem faultQueueHeadPoll : Statement .faultQueueHeadPoll := by
  intro r f hr; cases hr

theorem coldReset : Statement .coldReset := by
  intro r f hr; cases hr

theorem lifeCycleChange : Statement .lifeCycleChange := by
  intro r f hr; cases hr

theorem pcieHotReset : Statement .pcieHotReset := by
  intro r f hr; cases hr

theorem hostLinkUp : Statement .hostLinkUp := by
  intro r f hr; cases hr

theorem linkDownWithoutReset : Statement .linkDownWithoutReset := by
  intro r f hr; cases hr

theorem vfReset : Statement .vfReset := by
  intro r f hr; cases hr

theorem vfResetDrainExpiry : Statement .vfResetDrainExpiry := by
  intro r f hr; cases hr

theorem ideIntegrityFailure : Statement .ideIntegrityFailure := by
  intro r f hr; cases hr

theorem fabricFlitAuthFailure : Statement .fabricFlitAuthFailure := by
  intro r f hr; cases hr

theorem fabricRekey : Statement .fabricRekey := by
  intro r f hr; cases hr

theorem inboundAccess : Statement .inboundAccess := by
  intro r f hr; cases hr

theorem scrub : Statement .scrub := by
  intro r f hr; cases hr

theorem getVersion : Statement .getVersion := by
  intro r f hr; cases hr

theorem getCapabilities : Statement .getCapabilities := by
  intro r f hr; cases hr

theorem negotiateAlgorithms : Statement .negotiateAlgorithms := by
  intro r f hr; cases hr

theorem getDigests : Statement .getDigests := by
  intro r f hr; cases hr

theorem getCertificate : Statement .getCertificate := by
  intro r f hr; cases hr

theorem challenge : Statement .challenge := by
  intro r f hr; cases hr

theorem getMeasurements : Statement .getMeasurements := by
  intro r f hr; cases hr

theorem keyExchange : Statement .keyExchange := by
  intro r f hr; cases hr

theorem finish : Statement .finish := by
  intro r f hr; cases hr

theorem keyUpdate : Statement .keyUpdate := by
  intro r f hr; cases hr

theorem endSession : Statement .endSession := by
  intro r f hr; cases hr

theorem ideKm : Statement .ideKm := by
  intro r f hr; cases hr

theorem roustaboutWatchdog : Statement .roustaboutWatchdog := by
  intro r f hr; cases hr

theorem clockStretch : Statement .clockStretch := by
  intro r f hr; cases hr

theorem thermalTrip : Statement .thermalTrip := by
  intro r f hr; cases hr

theorem thermalPowerOff : Statement .thermalPowerOff := by
  intro r f hr; cases hr

theorem solverQueueServe : Statement .solverQueueServe := by
  intro r f hr; cases hr

theorem computeBoundIntervalExpiry : Statement .computeBoundIntervalExpiry := by
  intro r f hr; cases hr

theorem slewSubsides : Statement .slewSubsides := by
  intro r f hr; cases hr

theorem grantBudgetChange : Statement .grantBudgetChange := by
  intro r f hr; cases hr

theorem memberWithdrawal : Statement .memberWithdrawal := by
  intro r f hr; cases hr

theorem flitCrcFailure : Statement .flitCrcFailure := by
  intro r f hr; cases hr

theorem linkRetrainComplete : Statement .linkRetrainComplete := by
  intro r f hr; cases hr

end Sys2Proof.Laws.F
end

