-- ==== Sys2Proof/Laws/Seal.lean ====
section
/-! SUPPORT. The lengths of the seal's parts, and that what a session sealed verifies. -/

namespace Sys2Proof.Laws
open Sys2Proof.Machine

@[simp] theorem length_xorBytes (a b : List Byte) : (xorBytes a b).length = min a.length b.length := by simp [xorBytes]
@[simp] theorem length_shiftRows (b : List Byte) : (shiftRows b).length = 16 := by simp [shiftRows]

theorem length_nextKeyWord (i : Nat) (w : List (List Byte)) (h : ∀ x ∈ w, x.length = 4) (h8 : 8 ≤ w.length) :
    (nextKeyWord i w).length = 4 := by
  have hn : ∀ k, k < 8 → (nth w k []).length = 4 := fun k hk => by
    rw [nth, List.getD_eq_getElem _ _ (by omega)]; exact h _ (List.getElem_mem _)
  have h0 := hn 0 (by omega)
  have h7 := hn 7 (by omega)
  simp only [nextKeyWord, length_xorBytes, h7]
  split
  · simp [h0]
  · split <;> simp [h0]

theorem schedule_wf (l : List Nat) (w : List (List Byte)) (h : ∀ x ∈ w, x.length = 4) (h8 : 8 ≤ w.length) :
    let r := l.foldl (fun w i => nextKeyWord (i + 8) w :: w) w
    (∀ x ∈ r, x.length = 4) ∧ r.length = w.length + l.length := by
  induction l generalizing w with
  | nil => exact ⟨h, rfl⟩
  | cons a l ih =>
    have := ih (nextKeyWord (a + 8) w :: w) (by simpa [length_nextKeyWord _ _ h h8] using h) (by simp; omega)
    exact ⟨this.1, by simpa [Nat.add_assoc, Nat.add_comm 1] using this.2⟩

theorem length_roundKey (key : List Byte) (hk : key.length = 32) : (nth (roundKeys key) 14 []).length = 16 := by
  have h := schedule_wf (List.range 52) ((List.range 8).map fun i => (key.drop (4 * i)).take 4).reverse
    (by simp; omega) (by simp)
  simp only [List.length_reverse, List.length_map, List.length_range] at h
  simp only [nth, roundKeys]
  rw [List.getD_eq_getElem _ _ (by simp)]
  simp only [List.getElem_map, List.getElem_range, List.length_flatten]
  generalize hw : List.foldl _ _ _ = w at h
  have h4 : ∀ x ∈ (w.reverse.drop 56).take 4, x.length = 4 := fun x hx =>
    h.1 x (List.mem_reverse.1 (List.mem_of_mem_drop (List.mem_of_mem_take hx)))
  have hl : ((w.reverse.drop 56).take 4).length = 4 := by simp [h.2]
  generalize (w.reverse.drop 56).take 4 = u at h4 hl
  rw [List.map_congr_left h4]; simp [hl]

/-- A GCM tag has 16 bytes. -/
theorem length_gcmTag (key iv aad ct : List Byte) (hk : key.length = 32) : (gcmTag key iv aad ct).length = 16 := by
  simp [gcmTag, aesBlock, length_roundKey key hk, beBytes]

/-- A message a session sealed verifies under the session's key. -/
theorem unseal_seal (v : Spdm) (m : List Byte) (hk : v.key.length = 32) :
    v.unseal (v.seal 0 m) = some (gcmCrypt v.key (v.iv 0) (gcmCrypt v.key (v.iv 0) m)) := by
  simp [Spdm.unseal, Spdm.seal, length_gcmTag _ _ _ _ hk]

/-- No bytes verify as a message. -/
theorem unseal_nil (v : Spdm) (hk : v.key.length = 32) : v.unseal [] = none := by
  have h := length_gcmTag v.key (v.iv 0) [] [] hk
  simp only [Spdm.unseal, List.length_nil, List.take_nil, List.drop_nil]
  rw [if_neg]
  intro h'
  rw [eq_of_beq h'] at h
  simp at h

end Sys2Proof.Laws
end

