-- ==== Sys2Proof/Laws/Troupe.lean ====
section
/-! SUPPORT. What each update of a troupe leaves as it was, and what a troupe that neither stalls nor reports
does after its action. -/

set_option Elab.async false

namespace Sys2Proof.Machine

variable (t : Troupe)

/-! ### writeS -/

@[simp] theorem Troupe.writeS_w (d : BitVec 8) (x : GW) : (t.writeS d x).w = t.w := by
  simp only [Troupe.writeS]; (repeat' split) <;> rfl
@[simp] theorem Troupe.writeS_ac (d : BitVec 8) (x : GW) : (t.writeS d x).ac = t.ac := by
  simp only [Troupe.writeS]; (repeat' split) <;> rfl
@[simp] theorem Troupe.writeS_down (d : BitVec 8) (x : GW) : (t.writeS d x).down = t.down := by
  simp only [Troupe.writeS]; (repeat' split) <;> rfl
@[simp] theorem Troupe.writeS_up (d : BitVec 8) (x : GW) : (t.writeS d x).up = t.up := by
  simp only [Troupe.writeS]; (repeat' split) <;> rfl
@[simp] theorem Troupe.writeS_utag (d : BitVec 8) (x : GW) : (t.writeS d x).utag = t.utag := by
  simp only [Troupe.writeS]; (repeat' split) <;> rfl
@[simp] theorem Troupe.writeS_clause (d : BitVec 8) (x : GW) : (t.writeS d x).clause = t.clause := by
  simp only [Troupe.writeS]; (repeat' split) <;> rfl
@[simp] theorem Troupe.writeS_seta (d : BitVec 8) (x : GW) : (t.writeS d x).seta = t.seta := by
  simp only [Troupe.writeS]; (repeat' split) <;> rfl
@[simp] theorem Troupe.writeS_setb (d : BitVec 8) (x : GW) : (t.writeS d x).setb = t.setb := by
  simp only [Troupe.writeS]; (repeat' split) <;> rfl
@[simp] theorem Troupe.writeS_named (d : BitVec 8) (x : GW) : (t.writeS d x).named = t.named := by
  simp only [Troupe.writeS]; (repeat' split) <;> rfl
@[simp] theorem Troupe.writeS_code (d : BitVec 8) (x : GW) : (t.writeS d x).code = t.code := by
  simp only [Troupe.writeS]; (repeat' split) <;> rfl
@[simp] theorem Troupe.writeS_mile (d : BitVec 8) (x : GW) : (t.writeS d x).mile = t.mile := by
  simp only [Troupe.writeS]; (repeat' split) <;> rfl
@[simp] theorem Troupe.writeS_miles (d : BitVec 8) (x : GW) : (t.writeS d x).miles = t.miles := by
  simp only [Troupe.writeS]; (repeat' split) <;> rfl
@[simp] theorem Troupe.writeS_cno (d : BitVec 8) (x : GW) : (t.writeS d x).cno = t.cno := by
  simp only [Troupe.writeS]; (repeat' split) <;> rfl
@[simp] theorem Troupe.writeS_sticky (d : BitVec 8) (x : GW) : (t.writeS d x).sticky = t.sticky := by
  simp only [Troupe.writeS]; (repeat' split) <;> rfl
@[simp] theorem Troupe.writeS_defl (d : BitVec 8) (x : GW) : (t.writeS d x).defl = t.defl := by
  simp only [Troupe.writeS]; (repeat' split) <;> rfl
@[simp] theorem Troupe.writeS_vq (d : BitVec 8) (x : GW) : (t.writeS d x).vq = t.vq := by
  simp only [Troupe.writeS]; (repeat' split) <;> rfl
@[simp] theorem Troupe.writeS_wait (d : BitVec 8) (x : GW) : (t.writeS d x).wait = t.wait := by
  simp only [Troupe.writeS]; (repeat' split) <;> rfl
@[simp] theorem Troupe.writeS_vwait (d : BitVec 8) (x : GW) : (t.writeS d x).vwait = t.vwait := by
  simp only [Troupe.writeS]; (repeat' split) <;> rfl
@[simp] theorem Troupe.writeS_ops (d : BitVec 8) (x : GW) : (t.writeS d x).ops = t.ops := by
  simp only [Troupe.writeS]; (repeat' split) <;> rfl
@[simp] theorem Troupe.writeS_nextOp (d : BitVec 8) (x : GW) : (t.writeS d x).nextOp = t.nextOp := by
  simp only [Troupe.writeS]; (repeat' split) <;> rfl
@[simp] theorem Troupe.writeS_reports (d : BitVec 8) (x : GW) : (t.writeS d x).reports = t.reports := by
  simp only [Troupe.writeS]; (repeat' split) <;> rfl
@[simp] theorem Troupe.writeS_stopped (d : BitVec 8) (x : GW) : (t.writeS d x).stopped = t.stopped := by
  simp only [Troupe.writeS]; (repeat' split) <;> rfl
@[simp] theorem Troupe.writeS_ending (d : BitVec 8) (x : GW) : (t.writeS d x).ending = t.ending := by
  simp only [Troupe.writeS]; (repeat' split) <;> rfl
@[simp] theorem Troupe.writeS_killed (d : BitVec 8) (x : GW) : (t.writeS d x).killed = t.killed := by
  simp only [Troupe.writeS]; (repeat' split) <;> rfl
@[simp] theorem Troupe.writeS_slot (d : BitVec 8) (x : GW) : (t.writeS d x).slot = t.slot := by
  simp only [Troupe.writeS]; (repeat' split) <;> rfl
@[simp] theorem Troupe.writeS_age (d : BitVec 8) (x : GW) : (t.writeS d x).age = t.age := by
  simp only [Troupe.writeS]; (repeat' split) <;> rfl
@[simp] theorem Troupe.writeS_starve (d : BitVec 8) (x : GW) : (t.writeS d x).starve = t.starve := by
  simp only [Troupe.writeS]; (repeat' split) <;> rfl
@[simp] theorem Troupe.writeS_uid (d : BitVec 8) (x : GW) : (t.writeS d x).uid = t.uid := by
  simp only [Troupe.writeS]; (repeat' split) <;> rfl

/-! ### writeV -/

@[simp] theorem Troupe.writeV_w (w : VWrite) : (t.writeV w).w = t.w := by
  simp only [Troupe.writeV]; (repeat' split) <;> rfl
@[simp] theorem Troupe.writeV_ac (w : VWrite) : (t.writeV w).ac = t.ac := by
  simp only [Troupe.writeV]; (repeat' split) <;> rfl
@[simp] theorem Troupe.writeV_down (w : VWrite) : (t.writeV w).down = t.down := by
  simp only [Troupe.writeV]; (repeat' split) <;> rfl
@[simp] theorem Troupe.writeV_up (w : VWrite) : (t.writeV w).up = t.up := by
  simp only [Troupe.writeV]; (repeat' split) <;> rfl
@[simp] theorem Troupe.writeV_utag (w : VWrite) : (t.writeV w).utag = t.utag := by
  simp only [Troupe.writeV]; (repeat' split) <;> rfl
@[simp] theorem Troupe.writeV_pc (w : VWrite) : (t.writeV w).pc = t.pc := by
  simp only [Troupe.writeV]; (repeat' split) <;> rfl
@[simp] theorem Troupe.writeV_clause (w : VWrite) : (t.writeV w).clause = t.clause := by
  simp only [Troupe.writeV]; (repeat' split) <;> rfl
@[simp] theorem Troupe.writeV_left (w : VWrite) : (t.writeV w).left = t.left := by
  simp only [Troupe.writeV]; (repeat' split) <;> rfl
@[simp] theorem Troupe.writeV_seta (w : VWrite) : (t.writeV w).seta = t.seta := by
  simp only [Troupe.writeV]; (repeat' split) <;> rfl
@[simp] theorem Troupe.writeV_setb (w : VWrite) : (t.writeV w).setb = t.setb := by
  simp only [Troupe.writeV]; (repeat' split) <;> rfl
@[simp] theorem Troupe.writeV_named (w : VWrite) : (t.writeV w).named = t.named := by
  simp only [Troupe.writeV]; (repeat' split) <;> rfl
@[simp] theorem Troupe.writeV_code (w : VWrite) : (t.writeV w).code = t.code := by
  simp only [Troupe.writeV]; (repeat' split) <;> rfl
@[simp] theorem Troupe.writeV_mile (w : VWrite) : (t.writeV w).mile = t.mile := by
  simp only [Troupe.writeV]; (repeat' split) <;> rfl
@[simp] theorem Troupe.writeV_miles (w : VWrite) : (t.writeV w).miles = t.miles := by
  simp only [Troupe.writeV]; (repeat' split) <;> rfl
@[simp] theorem Troupe.writeV_cno (w : VWrite) : (t.writeV w).cno = t.cno := by
  simp only [Troupe.writeV]; (repeat' split) <;> rfl
@[simp] theorem Troupe.writeV_sticky (w : VWrite) : (t.writeV w).sticky = t.sticky := by
  simp only [Troupe.writeV]; (repeat' split) <;> rfl
@[simp] theorem Troupe.writeV_defl (w : VWrite) : (t.writeV w).defl = t.defl := by
  simp only [Troupe.writeV]; (repeat' split) <;> rfl
@[simp] theorem Troupe.writeV_vq (w : VWrite) : (t.writeV w).vq = t.vq := by
  simp only [Troupe.writeV]; (repeat' split) <;> rfl
@[simp] theorem Troupe.writeV_wait (w : VWrite) : (t.writeV w).wait = t.wait := by
  simp only [Troupe.writeV]; (repeat' split) <;> rfl
@[simp] theorem Troupe.writeV_vwait (w : VWrite) : (t.writeV w).vwait = t.vwait := by
  simp only [Troupe.writeV]; (repeat' split) <;> rfl
@[simp] theorem Troupe.writeV_ops (w : VWrite) : (t.writeV w).ops = t.ops := by
  simp only [Troupe.writeV]; (repeat' split) <;> rfl
@[simp] theorem Troupe.writeV_nextOp (w : VWrite) : (t.writeV w).nextOp = t.nextOp := by
  simp only [Troupe.writeV]; (repeat' split) <;> rfl
@[simp] theorem Troupe.writeV_reports (w : VWrite) : (t.writeV w).reports = t.reports := by
  simp only [Troupe.writeV]; (repeat' split) <;> rfl
@[simp] theorem Troupe.writeV_stopped (w : VWrite) : (t.writeV w).stopped = t.stopped := by
  simp only [Troupe.writeV]; (repeat' split) <;> rfl
@[simp] theorem Troupe.writeV_ending (w : VWrite) : (t.writeV w).ending = t.ending := by
  simp only [Troupe.writeV]; (repeat' split) <;> rfl
@[simp] theorem Troupe.writeV_killed (w : VWrite) : (t.writeV w).killed = t.killed := by
  simp only [Troupe.writeV]; (repeat' split) <;> rfl
@[simp] theorem Troupe.writeV_slot (w : VWrite) : (t.writeV w).slot = t.slot := by
  simp only [Troupe.writeV]; (repeat' split) <;> rfl
@[simp] theorem Troupe.writeV_age (w : VWrite) : (t.writeV w).age = t.age := by
  simp only [Troupe.writeV]; (repeat' split) <;> rfl
@[simp] theorem Troupe.writeV_starve (w : VWrite) : (t.writeV w).starve = t.starve := by
  simp only [Troupe.writeV]; (repeat' split) <;> rfl
@[simp] theorem Troupe.writeV_uid (w : VWrite) : (t.writeV w).uid = t.uid := by
  simp only [Troupe.writeV]; (repeat' split) <;> rfl

/-! ### raise -/

@[simp] theorem Troupe.raise_id (f : BitVec 4) : (t.raise f).id = t.id := rfl
@[simp] theorem Troupe.raise_s (f : BitVec 4) : (t.raise f).s = t.s := rfl
@[simp] theorem Troupe.raise_k (f : BitVec 4) : (t.raise f).k = t.k := rfl
@[simp] theorem Troupe.raise_v (f : BitVec 4) : (t.raise f).v = t.v := rfl
@[simp] theorem Troupe.raise_w (f : BitVec 4) : (t.raise f).w = t.w := rfl
@[simp] theorem Troupe.raise_ac (f : BitVec 4) : (t.raise f).ac = t.ac := rfl
@[simp] theorem Troupe.raise_down (f : BitVec 4) : (t.raise f).down = t.down := rfl
@[simp] theorem Troupe.raise_up (f : BitVec 4) : (t.raise f).up = t.up := rfl
@[simp] theorem Troupe.raise_utag (f : BitVec 4) : (t.raise f).utag = t.utag := rfl
@[simp] theorem Troupe.raise_pc (f : BitVec 4) : (t.raise f).pc = t.pc := rfl
@[simp] theorem Troupe.raise_clause (f : BitVec 4) : (t.raise f).clause = t.clause := rfl
@[simp] theorem Troupe.raise_left (f : BitVec 4) : (t.raise f).left = t.left := rfl
@[simp] theorem Troupe.raise_seta (f : BitVec 4) : (t.raise f).seta = t.seta := rfl
@[simp] theorem Troupe.raise_setb (f : BitVec 4) : (t.raise f).setb = t.setb := rfl
@[simp] theorem Troupe.raise_named (f : BitVec 4) : (t.raise f).named = t.named := rfl
@[simp] theorem Troupe.raise_code (f : BitVec 4) : (t.raise f).code = t.code := rfl
@[simp] theorem Troupe.raise_mile (f : BitVec 4) : (t.raise f).mile = t.mile := rfl
@[simp] theorem Troupe.raise_miles (f : BitVec 4) : (t.raise f).miles = t.miles := rfl
@[simp] theorem Troupe.raise_cno (f : BitVec 4) : (t.raise f).cno = t.cno := rfl
@[simp] theorem Troupe.raise_defl (f : BitVec 4) : (t.raise f).defl = t.defl := rfl
@[simp] theorem Troupe.raise_vq (f : BitVec 4) : (t.raise f).vq = t.vq := rfl
@[simp] theorem Troupe.raise_wait (f : BitVec 4) : (t.raise f).wait = t.wait := rfl
@[simp] theorem Troupe.raise_vwait (f : BitVec 4) : (t.raise f).vwait = t.vwait := rfl
@[simp] theorem Troupe.raise_ops (f : BitVec 4) : (t.raise f).ops = t.ops := rfl
@[simp] theorem Troupe.raise_nextOp (f : BitVec 4) : (t.raise f).nextOp = t.nextOp := rfl
@[simp] theorem Troupe.raise_reports (f : BitVec 4) : (t.raise f).reports = t.reports := rfl
@[simp] theorem Troupe.raise_stopped (f : BitVec 4) : (t.raise f).stopped = t.stopped := rfl
@[simp] theorem Troupe.raise_ending (f : BitVec 4) : (t.raise f).ending = t.ending := rfl
@[simp] theorem Troupe.raise_killed (f : BitVec 4) : (t.raise f).killed = t.killed := rfl
@[simp] theorem Troupe.raise_slot (f : BitVec 4) : (t.raise f).slot = t.slot := rfl
@[simp] theorem Troupe.raise_age (f : BitVec 4) : (t.raise f).age = t.age := rfl
@[simp] theorem Troupe.raise_starve (f : BitVec 4) : (t.raise f).starve = t.starve := rfl
@[simp] theorem Troupe.raise_regErr (f : BitVec 4) : (t.raise f).regErr = t.regErr := rfl
@[simp] theorem Troupe.raise_uid (f : BitVec 4) : (t.raise f).uid = t.uid := rfl

/-! ### startOp -/

@[simp] theorem Troupe.startOp_id (e : VEntry) (o : Op) : (t.startOp e o).id = t.id := rfl
@[simp] theorem Troupe.startOp_s (e : VEntry) (o : Op) : (t.startOp e o).s = t.s := rfl
@[simp] theorem Troupe.startOp_k (e : VEntry) (o : Op) : (t.startOp e o).k = t.k := rfl
@[simp] theorem Troupe.startOp_v (e : VEntry) (o : Op) : (t.startOp e o).v = t.v := rfl
@[simp] theorem Troupe.startOp_w (e : VEntry) (o : Op) : (t.startOp e o).w = t.w := rfl
@[simp] theorem Troupe.startOp_ac (e : VEntry) (o : Op) : (t.startOp e o).ac = t.ac := rfl
@[simp] theorem Troupe.startOp_down (e : VEntry) (o : Op) : (t.startOp e o).down = t.down := rfl
@[simp] theorem Troupe.startOp_up (e : VEntry) (o : Op) : (t.startOp e o).up = t.up := rfl
@[simp] theorem Troupe.startOp_utag (e : VEntry) (o : Op) : (t.startOp e o).utag = t.utag := rfl
@[simp] theorem Troupe.startOp_pc (e : VEntry) (o : Op) : (t.startOp e o).pc = t.pc := rfl
@[simp] theorem Troupe.startOp_clause (e : VEntry) (o : Op) : (t.startOp e o).clause = t.clause := rfl
@[simp] theorem Troupe.startOp_left (e : VEntry) (o : Op) : (t.startOp e o).left = t.left := rfl
@[simp] theorem Troupe.startOp_seta (e : VEntry) (o : Op) : (t.startOp e o).seta = t.seta := rfl
@[simp] theorem Troupe.startOp_setb (e : VEntry) (o : Op) : (t.startOp e o).setb = t.setb := rfl
@[simp] theorem Troupe.startOp_named (e : VEntry) (o : Op) : (t.startOp e o).named = t.named := rfl
@[simp] theorem Troupe.startOp_code (e : VEntry) (o : Op) : (t.startOp e o).code = t.code := rfl
@[simp] theorem Troupe.startOp_mile (e : VEntry) (o : Op) : (t.startOp e o).mile = t.mile := rfl
@[simp] theorem Troupe.startOp_miles (e : VEntry) (o : Op) : (t.startOp e o).miles = t.miles := rfl
@[simp] theorem Troupe.startOp_cno (e : VEntry) (o : Op) : (t.startOp e o).cno = t.cno := rfl
@[simp] theorem Troupe.startOp_sticky (e : VEntry) (o : Op) : (t.startOp e o).sticky = t.sticky := rfl
@[simp] theorem Troupe.startOp_defl (e : VEntry) (o : Op) : (t.startOp e o).defl = t.defl := rfl
@[simp] theorem Troupe.startOp_vq (e : VEntry) (o : Op) : (t.startOp e o).vq = t.vq := rfl
@[simp] theorem Troupe.startOp_wait (e : VEntry) (o : Op) : (t.startOp e o).wait = t.wait := rfl
@[simp] theorem Troupe.startOp_vwait (e : VEntry) (o : Op) : (t.startOp e o).vwait = t.vwait := rfl
@[simp] theorem Troupe.startOp_reports (e : VEntry) (o : Op) : (t.startOp e o).reports = t.reports := rfl
@[simp] theorem Troupe.startOp_stopped (e : VEntry) (o : Op) : (t.startOp e o).stopped = t.stopped := rfl
@[simp] theorem Troupe.startOp_ending (e : VEntry) (o : Op) : (t.startOp e o).ending = t.ending := rfl
@[simp] theorem Troupe.startOp_killed (e : VEntry) (o : Op) : (t.startOp e o).killed = t.killed := rfl
@[simp] theorem Troupe.startOp_slot (e : VEntry) (o : Op) : (t.startOp e o).slot = t.slot := rfl
@[simp] theorem Troupe.startOp_age (e : VEntry) (o : Op) : (t.startOp e o).age = t.age := rfl
@[simp] theorem Troupe.startOp_starve (e : VEntry) (o : Op) : (t.startOp e o).starve = t.starve := rfl
@[simp] theorem Troupe.startOp_regErr (e : VEntry) (o : Op) : (t.startOp e o).regErr = t.regErr := rfl
@[simp] theorem Troupe.startOp_uid (e : VEntry) (o : Op) : (t.startOp e o).uid = t.uid := rfl

/-! ### modOp -/

@[simp] theorem Troupe.modOp_id (n : Nat) (f : Op → Op) : (t.modOp n f).id = t.id := rfl
@[simp] theorem Troupe.modOp_s (n : Nat) (f : Op → Op) : (t.modOp n f).s = t.s := rfl
@[simp] theorem Troupe.modOp_k (n : Nat) (f : Op → Op) : (t.modOp n f).k = t.k := rfl
@[simp] theorem Troupe.modOp_v (n : Nat) (f : Op → Op) : (t.modOp n f).v = t.v := rfl
@[simp] theorem Troupe.modOp_w (n : Nat) (f : Op → Op) : (t.modOp n f).w = t.w := rfl
@[simp] theorem Troupe.modOp_ac (n : Nat) (f : Op → Op) : (t.modOp n f).ac = t.ac := rfl
@[simp] theorem Troupe.modOp_down (n : Nat) (f : Op → Op) : (t.modOp n f).down = t.down := rfl
@[simp] theorem Troupe.modOp_up (n : Nat) (f : Op → Op) : (t.modOp n f).up = t.up := rfl
@[simp] theorem Troupe.modOp_utag (n : Nat) (f : Op → Op) : (t.modOp n f).utag = t.utag := rfl
@[simp] theorem Troupe.modOp_pc (n : Nat) (f : Op → Op) : (t.modOp n f).pc = t.pc := rfl
@[simp] theorem Troupe.modOp_clause (n : Nat) (f : Op → Op) : (t.modOp n f).clause = t.clause := rfl
@[simp] theorem Troupe.modOp_left (n : Nat) (f : Op → Op) : (t.modOp n f).left = t.left := rfl
@[simp] theorem Troupe.modOp_seta (n : Nat) (f : Op → Op) : (t.modOp n f).seta = t.seta := rfl
@[simp] theorem Troupe.modOp_setb (n : Nat) (f : Op → Op) : (t.modOp n f).setb = t.setb := rfl
@[simp] theorem Troupe.modOp_named (n : Nat) (f : Op → Op) : (t.modOp n f).named = t.named := rfl
@[simp] theorem Troupe.modOp_code (n : Nat) (f : Op → Op) : (t.modOp n f).code = t.code := rfl
@[simp] theorem Troupe.modOp_mile (n : Nat) (f : Op → Op) : (t.modOp n f).mile = t.mile := rfl
@[simp] theorem Troupe.modOp_miles (n : Nat) (f : Op → Op) : (t.modOp n f).miles = t.miles := rfl
@[simp] theorem Troupe.modOp_cno (n : Nat) (f : Op → Op) : (t.modOp n f).cno = t.cno := rfl
@[simp] theorem Troupe.modOp_sticky (n : Nat) (f : Op → Op) : (t.modOp n f).sticky = t.sticky := rfl
@[simp] theorem Troupe.modOp_defl (n : Nat) (f : Op → Op) : (t.modOp n f).defl = t.defl := rfl
@[simp] theorem Troupe.modOp_vq (n : Nat) (f : Op → Op) : (t.modOp n f).vq = t.vq := rfl
@[simp] theorem Troupe.modOp_wait (n : Nat) (f : Op → Op) : (t.modOp n f).wait = t.wait := rfl
@[simp] theorem Troupe.modOp_vwait (n : Nat) (f : Op → Op) : (t.modOp n f).vwait = t.vwait := rfl
@[simp] theorem Troupe.modOp_nextOp (n : Nat) (f : Op → Op) : (t.modOp n f).nextOp = t.nextOp := rfl
@[simp] theorem Troupe.modOp_reports (n : Nat) (f : Op → Op) : (t.modOp n f).reports = t.reports := rfl
@[simp] theorem Troupe.modOp_stopped (n : Nat) (f : Op → Op) : (t.modOp n f).stopped = t.stopped := rfl
@[simp] theorem Troupe.modOp_ending (n : Nat) (f : Op → Op) : (t.modOp n f).ending = t.ending := rfl
@[simp] theorem Troupe.modOp_killed (n : Nat) (f : Op → Op) : (t.modOp n f).killed = t.killed := rfl
@[simp] theorem Troupe.modOp_slot (n : Nat) (f : Op → Op) : (t.modOp n f).slot = t.slot := rfl
@[simp] theorem Troupe.modOp_age (n : Nat) (f : Op → Op) : (t.modOp n f).age = t.age := rfl
@[simp] theorem Troupe.modOp_starve (n : Nat) (f : Op → Op) : (t.modOp n f).starve = t.starve := rfl
@[simp] theorem Troupe.modOp_regErr (n : Nat) (f : Op → Op) : (t.modOp n f).regErr = t.regErr := rfl
@[simp] theorem Troupe.modOp_uid (n : Nat) (f : Op → Op) : (t.modOp n f).uid = t.uid := rfl

/-! ### endOp -/

@[simp] theorem Troupe.endOp_id (o : Op) : (t.endOp o).id = t.id := by
  simp only [Troupe.endOp, Troupe.lowerFlag]; (repeat' split) <;> rfl
@[simp] theorem Troupe.endOp_s (o : Op) : (t.endOp o).s = t.s := by
  simp only [Troupe.endOp, Troupe.lowerFlag]; (repeat' split) <;> rfl
@[simp] theorem Troupe.endOp_k (o : Op) : (t.endOp o).k = t.k := by
  simp only [Troupe.endOp, Troupe.lowerFlag]; (repeat' split) <;> rfl
@[simp] theorem Troupe.endOp_v (o : Op) : (t.endOp o).v = t.v := by
  simp only [Troupe.endOp, Troupe.lowerFlag]; (repeat' split) <;> rfl
@[simp] theorem Troupe.endOp_ac (o : Op) : (t.endOp o).ac = t.ac := by
  simp only [Troupe.endOp, Troupe.lowerFlag]; (repeat' split) <;> rfl
@[simp] theorem Troupe.endOp_down (o : Op) : (t.endOp o).down = t.down := by
  simp only [Troupe.endOp, Troupe.lowerFlag]; (repeat' split) <;> rfl
@[simp] theorem Troupe.endOp_up (o : Op) : (t.endOp o).up = t.up := by
  simp only [Troupe.endOp, Troupe.lowerFlag]; (repeat' split) <;> rfl
@[simp] theorem Troupe.endOp_utag (o : Op) : (t.endOp o).utag = t.utag := by
  simp only [Troupe.endOp, Troupe.lowerFlag]; (repeat' split) <;> rfl
@[simp] theorem Troupe.endOp_pc (o : Op) : (t.endOp o).pc = t.pc := by
  simp only [Troupe.endOp, Troupe.lowerFlag]; (repeat' split) <;> rfl
@[simp] theorem Troupe.endOp_clause (o : Op) : (t.endOp o).clause = t.clause := by
  simp only [Troupe.endOp, Troupe.lowerFlag]; (repeat' split) <;> rfl
@[simp] theorem Troupe.endOp_left (o : Op) : (t.endOp o).left = t.left := by
  simp only [Troupe.endOp, Troupe.lowerFlag]; (repeat' split) <;> rfl
@[simp] theorem Troupe.endOp_seta (o : Op) : (t.endOp o).seta = t.seta := by
  simp only [Troupe.endOp, Troupe.lowerFlag]; (repeat' split) <;> rfl
@[simp] theorem Troupe.endOp_setb (o : Op) : (t.endOp o).setb = t.setb := by
  simp only [Troupe.endOp, Troupe.lowerFlag]; (repeat' split) <;> rfl
@[simp] theorem Troupe.endOp_named (o : Op) : (t.endOp o).named = t.named := by
  simp only [Troupe.endOp, Troupe.lowerFlag]; (repeat' split) <;> rfl
@[simp] theorem Troupe.endOp_code (o : Op) : (t.endOp o).code = t.code := by
  simp only [Troupe.endOp, Troupe.lowerFlag]; (repeat' split) <;> rfl
@[simp] theorem Troupe.endOp_mile (o : Op) : (t.endOp o).mile = t.mile := by
  simp only [Troupe.endOp, Troupe.lowerFlag]; (repeat' split) <;> rfl
@[simp] theorem Troupe.endOp_miles (o : Op) : (t.endOp o).miles = t.miles := by
  simp only [Troupe.endOp, Troupe.lowerFlag]; (repeat' split) <;> rfl
@[simp] theorem Troupe.endOp_cno (o : Op) : (t.endOp o).cno = t.cno := by
  simp only [Troupe.endOp, Troupe.lowerFlag]; (repeat' split) <;> rfl
@[simp] theorem Troupe.endOp_sticky (o : Op) : (t.endOp o).sticky = t.sticky := by
  simp only [Troupe.endOp, Troupe.lowerFlag]; (repeat' split) <;> rfl
@[simp] theorem Troupe.endOp_defl (o : Op) : (t.endOp o).defl = t.defl := by
  simp only [Troupe.endOp, Troupe.lowerFlag]; (repeat' split) <;> rfl
@[simp] theorem Troupe.endOp_vq (o : Op) : (t.endOp o).vq = t.vq := by
  simp only [Troupe.endOp, Troupe.lowerFlag]; (repeat' split) <;> rfl
@[simp] theorem Troupe.endOp_wait (o : Op) : (t.endOp o).wait = t.wait := by
  simp only [Troupe.endOp, Troupe.lowerFlag]; (repeat' split) <;> rfl
@[simp] theorem Troupe.endOp_vwait (o : Op) : (t.endOp o).vwait = t.vwait := by
  simp only [Troupe.endOp, Troupe.lowerFlag]; (repeat' split) <;> rfl
@[simp] theorem Troupe.endOp_nextOp (o : Op) : (t.endOp o).nextOp = t.nextOp := by
  simp only [Troupe.endOp, Troupe.lowerFlag]; (repeat' split) <;> rfl
@[simp] theorem Troupe.endOp_reports (o : Op) : (t.endOp o).reports = t.reports := by
  simp only [Troupe.endOp, Troupe.lowerFlag]; (repeat' split) <;> rfl
@[simp] theorem Troupe.endOp_stopped (o : Op) : (t.endOp o).stopped = t.stopped := by
  simp only [Troupe.endOp, Troupe.lowerFlag]; (repeat' split) <;> rfl
@[simp] theorem Troupe.endOp_ending (o : Op) : (t.endOp o).ending = t.ending := by
  simp only [Troupe.endOp, Troupe.lowerFlag]; (repeat' split) <;> rfl
@[simp] theorem Troupe.endOp_killed (o : Op) : (t.endOp o).killed = t.killed := by
  simp only [Troupe.endOp, Troupe.lowerFlag]; (repeat' split) <;> rfl
@[simp] theorem Troupe.endOp_slot (o : Op) : (t.endOp o).slot = t.slot := by
  simp only [Troupe.endOp, Troupe.lowerFlag]; (repeat' split) <;> rfl
@[simp] theorem Troupe.endOp_age (o : Op) : (t.endOp o).age = t.age := by
  simp only [Troupe.endOp, Troupe.lowerFlag]; (repeat' split) <;> rfl
@[simp] theorem Troupe.endOp_starve (o : Op) : (t.endOp o).starve = t.starve := by
  simp only [Troupe.endOp, Troupe.lowerFlag]; (repeat' split) <;> rfl
@[simp] theorem Troupe.endOp_regErr (o : Op) : (t.endOp o).regErr = t.regErr := by
  simp only [Troupe.endOp, Troupe.lowerFlag]; (repeat' split) <;> rfl
@[simp] theorem Troupe.endOp_uid (o : Op) : (t.endOp o).uid = t.uid := by
  simp only [Troupe.endOp, Troupe.lowerFlag]; (repeat' split) <;> rfl

/-! ### lowerFlag -/

@[simp] theorem Troupe.lowerFlag_id (w : Option Nat) : (t.lowerFlag w).id = t.id := by
  cases w <;> rfl
@[simp] theorem Troupe.lowerFlag_s (w : Option Nat) : (t.lowerFlag w).s = t.s := by
  cases w <;> rfl
@[simp] theorem Troupe.lowerFlag_k (w : Option Nat) : (t.lowerFlag w).k = t.k := by
  cases w <;> rfl
@[simp] theorem Troupe.lowerFlag_v (w : Option Nat) : (t.lowerFlag w).v = t.v := by
  cases w <;> rfl
@[simp] theorem Troupe.lowerFlag_ac (w : Option Nat) : (t.lowerFlag w).ac = t.ac := by
  cases w <;> rfl
@[simp] theorem Troupe.lowerFlag_down (w : Option Nat) : (t.lowerFlag w).down = t.down := by
  cases w <;> rfl
@[simp] theorem Troupe.lowerFlag_up (w : Option Nat) : (t.lowerFlag w).up = t.up := by
  cases w <;> rfl
@[simp] theorem Troupe.lowerFlag_utag (w : Option Nat) : (t.lowerFlag w).utag = t.utag := by
  cases w <;> rfl
@[simp] theorem Troupe.lowerFlag_pc (w : Option Nat) : (t.lowerFlag w).pc = t.pc := by
  cases w <;> rfl
@[simp] theorem Troupe.lowerFlag_clause (w : Option Nat) : (t.lowerFlag w).clause = t.clause := by
  cases w <;> rfl
@[simp] theorem Troupe.lowerFlag_left (w : Option Nat) : (t.lowerFlag w).left = t.left := by
  cases w <;> rfl
@[simp] theorem Troupe.lowerFlag_seta (w : Option Nat) : (t.lowerFlag w).seta = t.seta := by
  cases w <;> rfl
@[simp] theorem Troupe.lowerFlag_setb (w : Option Nat) : (t.lowerFlag w).setb = t.setb := by
  cases w <;> rfl
@[simp] theorem Troupe.lowerFlag_named (w : Option Nat) : (t.lowerFlag w).named = t.named := by
  cases w <;> rfl
@[simp] theorem Troupe.lowerFlag_code (w : Option Nat) : (t.lowerFlag w).code = t.code := by
  cases w <;> rfl
@[simp] theorem Troupe.lowerFlag_mile (w : Option Nat) : (t.lowerFlag w).mile = t.mile := by
  cases w <;> rfl
@[simp] theorem Troupe.lowerFlag_miles (w : Option Nat) : (t.lowerFlag w).miles = t.miles := by
  cases w <;> rfl
@[simp] theorem Troupe.lowerFlag_cno (w : Option Nat) : (t.lowerFlag w).cno = t.cno := by
  cases w <;> rfl
@[simp] theorem Troupe.lowerFlag_sticky (w : Option Nat) : (t.lowerFlag w).sticky = t.sticky := by
  cases w <;> rfl
@[simp] theorem Troupe.lowerFlag_defl (w : Option Nat) : (t.lowerFlag w).defl = t.defl := by
  cases w <;> rfl
@[simp] theorem Troupe.lowerFlag_vq (w : Option Nat) : (t.lowerFlag w).vq = t.vq := by
  cases w <;> rfl
@[simp] theorem Troupe.lowerFlag_wait (w : Option Nat) : (t.lowerFlag w).wait = t.wait := by
  cases w <;> rfl
@[simp] theorem Troupe.lowerFlag_vwait (w : Option Nat) : (t.lowerFlag w).vwait = t.vwait := by
  cases w <;> rfl
@[simp] theorem Troupe.lowerFlag_ops (w : Option Nat) : (t.lowerFlag w).ops = t.ops := by
  cases w <;> rfl
@[simp] theorem Troupe.lowerFlag_nextOp (w : Option Nat) : (t.lowerFlag w).nextOp = t.nextOp := by
  cases w <;> rfl
@[simp] theorem Troupe.lowerFlag_reports (w : Option Nat) : (t.lowerFlag w).reports = t.reports := by
  cases w <;> rfl
@[simp] theorem Troupe.lowerFlag_stopped (w : Option Nat) : (t.lowerFlag w).stopped = t.stopped := by
  cases w <;> rfl
@[simp] theorem Troupe.lowerFlag_ending (w : Option Nat) : (t.lowerFlag w).ending = t.ending := by
  cases w <;> rfl
@[simp] theorem Troupe.lowerFlag_killed (w : Option Nat) : (t.lowerFlag w).killed = t.killed := by
  cases w <;> rfl
@[simp] theorem Troupe.lowerFlag_slot (w : Option Nat) : (t.lowerFlag w).slot = t.slot := by
  cases w <;> rfl
@[simp] theorem Troupe.lowerFlag_age (w : Option Nat) : (t.lowerFlag w).age = t.age := by
  cases w <;> rfl
@[simp] theorem Troupe.lowerFlag_starve (w : Option Nat) : (t.lowerFlag w).starve = t.starve := by
  cases w <;> rfl
@[simp] theorem Troupe.lowerFlag_regErr (w : Option Nat) : (t.lowerFlag w).regErr = t.regErr := by
  cases w <;> rfl
@[simp] theorem Troupe.lowerFlag_uid (w : Option Nat) : (t.lowerFlag w).uid = t.uid := by
  cases w <;> rfl

/-! ### lowerCounter -/

@[simp] theorem Troupe.lowerCounter_id (j : Option Nat) : (t.lowerCounter j).id = t.id := by
  cases j <;> rfl
@[simp] theorem Troupe.lowerCounter_s (j : Option Nat) : (t.lowerCounter j).s = t.s := by
  cases j <;> rfl
@[simp] theorem Troupe.lowerCounter_k (j : Option Nat) : (t.lowerCounter j).k = t.k := by
  cases j <;> rfl
@[simp] theorem Troupe.lowerCounter_v (j : Option Nat) : (t.lowerCounter j).v = t.v := by
  cases j <;> rfl
@[simp] theorem Troupe.lowerCounter_w (j : Option Nat) : (t.lowerCounter j).w = t.w := by
  cases j <;> rfl
@[simp] theorem Troupe.lowerCounter_down (j : Option Nat) : (t.lowerCounter j).down = t.down := by
  cases j <;> rfl
@[simp] theorem Troupe.lowerCounter_up (j : Option Nat) : (t.lowerCounter j).up = t.up := by
  cases j <;> rfl
@[simp] theorem Troupe.lowerCounter_utag (j : Option Nat) : (t.lowerCounter j).utag = t.utag := by
  cases j <;> rfl
@[simp] theorem Troupe.lowerCounter_pc (j : Option Nat) : (t.lowerCounter j).pc = t.pc := by
  cases j <;> rfl
@[simp] theorem Troupe.lowerCounter_clause (j : Option Nat) : (t.lowerCounter j).clause = t.clause := by
  cases j <;> rfl
@[simp] theorem Troupe.lowerCounter_left (j : Option Nat) : (t.lowerCounter j).left = t.left := by
  cases j <;> rfl
@[simp] theorem Troupe.lowerCounter_seta (j : Option Nat) : (t.lowerCounter j).seta = t.seta := by
  cases j <;> rfl
@[simp] theorem Troupe.lowerCounter_setb (j : Option Nat) : (t.lowerCounter j).setb = t.setb := by
  cases j <;> rfl
@[simp] theorem Troupe.lowerCounter_named (j : Option Nat) : (t.lowerCounter j).named = t.named := by
  cases j <;> rfl
@[simp] theorem Troupe.lowerCounter_code (j : Option Nat) : (t.lowerCounter j).code = t.code := by
  cases j <;> rfl
@[simp] theorem Troupe.lowerCounter_mile (j : Option Nat) : (t.lowerCounter j).mile = t.mile := by
  cases j <;> rfl
@[simp] theorem Troupe.lowerCounter_miles (j : Option Nat) : (t.lowerCounter j).miles = t.miles := by
  cases j <;> rfl
@[simp] theorem Troupe.lowerCounter_cno (j : Option Nat) : (t.lowerCounter j).cno = t.cno := by
  cases j <;> rfl
@[simp] theorem Troupe.lowerCounter_sticky (j : Option Nat) : (t.lowerCounter j).sticky = t.sticky := by
  cases j <;> rfl
@[simp] theorem Troupe.lowerCounter_defl (j : Option Nat) : (t.lowerCounter j).defl = t.defl := by
  cases j <;> rfl
@[simp] theorem Troupe.lowerCounter_vq (j : Option Nat) : (t.lowerCounter j).vq = t.vq := by
  cases j <;> rfl
@[simp] theorem Troupe.lowerCounter_wait (j : Option Nat) : (t.lowerCounter j).wait = t.wait := by
  cases j <;> rfl
@[simp] theorem Troupe.lowerCounter_vwait (j : Option Nat) : (t.lowerCounter j).vwait = t.vwait := by
  cases j <;> rfl
@[simp] theorem Troupe.lowerCounter_ops (j : Option Nat) : (t.lowerCounter j).ops = t.ops := by
  cases j <;> rfl
@[simp] theorem Troupe.lowerCounter_nextOp (j : Option Nat) : (t.lowerCounter j).nextOp = t.nextOp := by
  cases j <;> rfl
@[simp] theorem Troupe.lowerCounter_reports (j : Option Nat) : (t.lowerCounter j).reports = t.reports := by
  cases j <;> rfl
@[simp] theorem Troupe.lowerCounter_stopped (j : Option Nat) : (t.lowerCounter j).stopped = t.stopped := by
  cases j <;> rfl
@[simp] theorem Troupe.lowerCounter_ending (j : Option Nat) : (t.lowerCounter j).ending = t.ending := by
  cases j <;> rfl
@[simp] theorem Troupe.lowerCounter_killed (j : Option Nat) : (t.lowerCounter j).killed = t.killed := by
  cases j <;> rfl
@[simp] theorem Troupe.lowerCounter_slot (j : Option Nat) : (t.lowerCounter j).slot = t.slot := by
  cases j <;> rfl
@[simp] theorem Troupe.lowerCounter_age (j : Option Nat) : (t.lowerCounter j).age = t.age := by
  cases j <;> rfl
@[simp] theorem Troupe.lowerCounter_starve (j : Option Nat) : (t.lowerCounter j).starve = t.starve := by
  cases j <;> rfl
@[simp] theorem Troupe.lowerCounter_regErr (j : Option Nat) : (t.lowerCounter j).regErr = t.regErr := by
  cases j <;> rfl
@[simp] theorem Troupe.lowerCounter_uid (j : Option Nat) : (t.lowerCounter j).uid = t.uid := by
  cases j <;> rfl

/-! ### Registers after a write -/

theorem Troupe.writeS_s (d : BitVec 8) (x : GW) (n : Nat) (h : n ≠ d.toNat) :
    (t.writeS d x).s.getD n {} = t.s.getD n {} := by
  simp only [Troupe.writeS]
  (repeat' split) <;> simp [upd, List.getD_eq_getElem?_getD, Ne.symm h]

theorem Troupe.writeS_s_self (d : BitVec 8) (x : GW) (h : d.toNat < 0x80) (hl : d.toNat < t.s.length) :
    (t.writeS d x).s.getD d.toNat {} = x := by
  simp [Troupe.writeS, h, upd, List.getD_eq_getElem?_getD, hl]

theorem Troupe.writeS_k (d : BitVec 8) (x : GW) (n : Nat) (h : 0x80 + n ≠ d.toNat) :
    (t.writeS d x).k.getD n {} = t.k.getD n {} := by
  simp only [Troupe.writeS]
  split
  · rfl
  · split
    · have : d.toNat - 128 ≠ n := by omega
      simp [upd, List.getD_eq_getElem?_getD, this]
    · rfl

/-! ### After an action -/

theorem State.settle_quiet (s : State) (h : s.troupe? t.id = some t) (hs : t.stalled = false)
    (hr : t.mustReport = false) : s.settle t.id = s := by
  simp [State.settle, h, hs, hr]

theorem State.settle_absent (s : State) (id : TroupeId) (h : s.troupe? id = none) : s.settle id = s := by
  simp [State.settle, h]

end Sys2Proof.Machine
end

