-- ==== Sys2Proof/Tests/Slice0.lean ====
section
/-! SUPPORT. Tests: words of the spec's encodings, the decode faults, worked examples, and for every statement
a state and operands that meet its hypotheses. -/

set_option Elab.async false

namespace Sys2Proof.Tests

open Sys2Proof Sys2Proof.Machine

/-! ### A small state -/

/-- One ring of one launch in context 1, with a scratchpad of 4 KiB, every tag and a budget of 64. -/
def demoRing : Ring := { id := 0, nb := 0, spLen := 4096, vgen := 64, tags := 64 }

/-- Its troupe, about to execute the last instruction of a clause that names w0 and w1. -/
def demoT : Troupe :=
  { id := ⟨0, 0⟩, left := 1, seta := some 0, setb := some 1, k := List.replicate 96 { v := allLanes } }

/-- The package with that ring, a page of memory at virtual address 0, and the party `cur` about to act. -/
def demo (cur : Agent) (t : Troupe) : State :=
  { State.reset with
    cur := cur, len := 8, troupes := [t], rings := [demoRing], nbhds := [{ id := 0, launch := 0, n := 0, die := 0 }],
    launches := [{ id := 0, queue := 0, asid := 1, lr := {} }], ctxs := [{ asid := 1, root := 0x10000 }],
    mem := cellWriteN (hostTables []) 0x40000 [1, 2, 3, 4, 5, 6, 7, 8],
    fw := { State.reset.fw with hostUp := true } }

/-- The same before the scalar side of `t`. -/
def onScalar (t : Troupe) : State := demo (.scalar t.id) t

/-- A troupe whose one dispatched instruction is `i`. -/
def withHead (t : Troupe) (i : Instr) (cap : Cap) : Troupe := { t with vq := [{ instr := i, cap := cap }] }

/-- Every lane active, k0 all ones. -/
def allOn : Cap := { k0 := allLanes }

/-- The same package before the vector side of `t`. -/
def onVector (t : Troupe) : State := demo (.vside t.id) t

/-- A running stream of the ring with its contexts and the alias unit. -/
def demoSt : Stream := { state := 2, left := 1, two := true, smp := true, ctx := true, loaded := true }

/-- The package before the ring's stream. -/
def onStream (st : Stream) : State :=
  { demo (.stream 0) demoT with rings := [{ demoRing with stream := some st }] }

/-! ### A word of every instruction -/

def scalarSamples0 : List Instr :=
  [.nop {},
   .bra {},
   .brc {},
   .bany {},
   .bnone {},
   .call {},
   .ret {},
   .jmp {},
   .done {},
   .trap {},
   .sysc {},
   .rdsr {},
   .wrsr { imm := 16 },
   .tick {},
   .yield {},
   .sleep {},
   .sadd {},
   .ssub {},
   .smul {},
   .smulhi {},
   .sdiv {},
   .srem {},
   .sand {},
   .sor {},
   .sxor {},
   .sandn {},
   .sshl {},
   .sshr {},
   .ssra {},
   .srol {},
   .smin {},
   .smax {},
   .sabs {},
   .sclz {},
   .spop {},
   .sbrev {},
   .sins { ty := 3, imm := 256 },
   .sxtr { ty := 3, imm := 256 },
   .ssel { ty := 3 },
   .scmp {}]

def scalarSamples1 : List Instr :=
  [.smov {},
   .sli {},
   .sliHi { sub := 1, ty := 3 },
   .sadr {},
   .kand {},
   .kor {},
   .kxor {},
   .kandn {},
   .knot {},
   .kmov {},
   .kset {},
   .kget {},
   .kpop {},
   .kffs {},
   .klast {},
   .kbcast {},
   .sqput {},
   .sqget {},
   .fmreq { ty := 8 },
   .fmq {},
   .fmqHash { sub := 1 },
   .fmrel { ty := 8 },
   .ticket { imm := 1 },
   .tkret { imm := 1 },
   .phint { imm := 1 },
   .grd {},
   .grraise {},
   .grdecl {}]

/-- A legal word of every instruction of the scalar side. -/
def scalarSamples : List Instr := scalarSamples0 ++ scalarSamples1

def vectorSamples0 : List Instr :=
  [.vqget {},
   .vqput {},
   .vadd {},
   .vsub {},
   .vmul {},
   .vmulhi {},
   .vmad {},
   .vand {},
   .vor {},
   .vxor {},
   .vandn {},
   .vshl {},
   .vshr {},
   .vsra {},
   .vmin {},
   .vmax {},
   .vabs {},
   .vneg {},
   .vclz {},
   .vpop {},
   .vcmp {},
   .vsel { ty := 2 },
   .vmov { ty := 2 },
   .vperm { ty := 2 },
   .vbcast { ty := 2 },
   .vred {},
   .vscan {},
   .vlane {},
   .vsplat { ty := 2 },
   .fadd {},
   .fsub {},
   .fmul {},
   .fma {},
   .fmin {},
   .fmax {},
   .fabs {},
   .fneg {},
   .fcmp {},
   .frcp {},
   .frsq {}]

def vectorSamples1 : List Instr :=
  [.fsqrt {},
   .fexp2 {},
   .flog2 {},
   .fsin {},
   .fcos {},
   .ftanh {},
   .fscale {},
   .fclass {},
   .fcvtSlot {},
   .fcvtFromInt { sub := 1 },
   .fcvtToInt { sub := 2 },
   .fsrnd {},
   .frnd {},
   .fdot {},
   .fzpt {},
   .lds {},
   .sts {},
   .ldsb {},
   .xld {},
   .xldX24 { sub := 1 },
   .xldNt { sub := 2 },
   .xst {},
   .xgat {},
   .xsct {},
   .xcpy {},
   .xcpyMc { sub := 1 },
   .xfill {},
   .qjoin { sel := 1 },
   .tgwany {},
   .tgwall {},
   .tgffr {},
   .tgclr {},
   .tgget {},
   .bini {},
   .barr {},
   .barrN { sub := 1 },
   .barrExp { sub := 2 },
   .bexp {},
   .bwait {},
   .btest {}]

def vectorSamples2 : List Instr :=
  [.bcan {},
   .nqini {},
   .nqsend {},
   .nqrecv {},
   .nqret {},
   .nqtry {},
   .nbsync {},
   .nbarv {},
   .tbsync {},
   .tbarv {},
   .mxgo {},
   .mxstat {},
   .mxvar {},
   .ld {},
   .ldAc { sub := 1 },
   .st {},
   .vld {},
   .vldAc { sub := 1 },
   .vst {},
   .vldw {},
   .vstw {},
   .acwait {},
   .acget {},
   .acclr {},
   .pref {},
   .cfl {},
   .fence { ord := 3 },
   .aadd { ty := 2 },
   .amin { ty := 2 },
   .amax { ty := 2 },
   .aand { ty := 2 },
   .aor { ty := 2 },
   .axor { ty := 2 },
   .axch { ty := 2 },
   .acas { ty := 2 },
   .ainb { ty := 2 },
   .ainw { ty := 2 },
   .adecp { ty := 2 },
   .aflim { ty := 2, sel := 1 },
   .aaddf {}]

def vectorSamples3 : List Instr :=
  [.redadd { ty := 2 },
   .redmin { ty := 2 },
   .redmax { ty := 2 },
   .redand { ty := 2 },
   .redor { ty := 2 },
   .redxor { ty := 2 },
   .redaddf {},
   .tdep { imm := 1 },
   .tread { imm := 1 },
   .ttake { imm := 1 },
   .tcan {},
   .tstat {},
   .slvtab {},
   .slvini {},
   .slvstg {},
   .slvend {},
   .slvst {},
   .slvstRel { sub := 1 },
   .fmfence { ty := 8 },
   .spawn {},
   .binflush {},
   .bincfg { imm := 1 },
   .frec {},
   .fres {},
   .fresM { sub := 1 },
   .fresRet { sub := 2 },
   .fdrop {},
   .fdropEnd { sub := 1 },
   .nflg {},
   .nflgClr { sub := 1 },
   .nflgSet { sub := 2 },
   .nflgDef { sub := 3 },
   .post {},
   .qring {},
   .grd { sub := 1 },
   .grd { sub := 2 },
   .grraise { sub := 1 },
   .grdecl { sub := 1 }]

/-- A legal word of every instruction of the vector side. -/
def vectorSamples : List Instr := vectorSamples0 ++ vectorSamples1 ++ vectorSamples2 ++ vectorSamples3

def streamSamples0 : List Instr :=
  [.nop {},
   .mxmul {},
   .mxdual {},
   .mxsp {},
   .mxzero {},
   .mxld {},
   .mxst {},
   .mxadd {},
   .mxscl {},
   .mxwaitTg {},
   .mxwaitBo { sub := 1 },
   .mxnb { imm := 1 },
   .mxnbArv { sub := 1, imm := 1 },
   .mxloopBegin { imm := 1 },
   .mxloop { sub := 1 },
   .mxend {},
   .mxnorm {},
   .mxalias {},
   .mxsamp {},
   .mxvar {}]

/-- A legal word of every instruction a stream may hold. -/
def streamSamples : List Instr := streamSamples0

/-! ### Before every instruction's effect -/

theorem test_scalar_may : ∀ i ∈ scalarSamples, ScalarMay i demoT (onScalar demoT) := by
  unfold ScalarMay; decide +kernel

theorem test_vector_may :
    ∀ i ∈ vectorSamples, VectorMay i { instr := i, cap := allOn } (withHead demoT i allOn) (onVector (withHead demoT i allOn)) := by
  unfold VectorMay; decide +kernel

theorem test_dispatch_may : ∀ i ∈ vectorSamples, DispatchMay i demoT (onScalar demoT) := by
  unfold DispatchMay; decide +kernel

theorem test_stream_may : ∀ i ∈ streamSamples, StreamMay i (i.fields.getD {}) 0 demoSt (onStream demoSt) := by
  have h : ∀ i ∈ streamSamples, i.row.any Row.inStream = true ∧ decodeFault true i = none := by decide +kernel
  have hs : (onStream demoSt).stream? 0 = some demoSt := by decide +kernel
  have hb : ∀ i ∈ streamSamples, usesBad i (i.fields.getD {}) demoSt ((onStream demoSt).core ((onStream demoSt).ring 0).core).au = false := by
    decide +kernel
  intro i hi
  refine ⟨rfl, hs, by decide, ?_, (h i hi).2, fun _ => rfl, fun _ => rfl, hb i hi⟩
  have hr := (h i hi).1
  cases hrow : i.row <;> simp_all

/-! ### A step fetches, decodes and runs -/

theorem test_step_after_reset : (match step State.reset with | .next _ => true | _ => false) = true := by
  decide +kernel

theorem test_step_runs_a_header :
    (match step (State.reset.withFetchWord 32 0xF0000000) with | .next _ => true | _ => false) = true := by
  decide +kernel

theorem test_unit_fetched_where_placed :
    (State.reset.withFetchWord 104 0xE810830405000000000000002A).fetch 1 0 0
      = .unit_ (.ok (.sadd { sub := 8, ty := 3, d := 4, a := 5, imm := 0x2A }) 13) := by
  decide +kernel

/-! ### Hypotheses of the statements about the scalar side -/

theorem test_flag_can_be_named : ∀ c ∈ [Instr.sdiv, .srem, .fmreq, .fmq, .fmqHash],
    ∃ t, demoT.nameFlag (c {}) = .named 0 t := by
  intro c hc
  simp only [List.mem_cons, List.not_mem_nil, or_false] at hc
  obtain rfl | rfl | rfl | rfl | rfl := hc <;> exact ⟨_, rfl⟩

theorem test_scalar_not_waiting : demoT.vq = [] ∧ demoT.reports = [] ∧ demoT.wait = none ∧ demoT.stopped = [] ∧
    demoT.pending.filter (256 ≤ ·) = [] ∧ demoT.quiet = true := by decide +kernel

theorem test_sleep_under_way : ScalarMay (.sleep {}) { demoT with wait := some (.sleep 16) }
    (onScalar { demoT with wait := some (.sleep 16) }) := by unfold ScalarMay; decide +kernel

theorem test_sleep_forms : ScalarMay (.sleep { imm := 0xFFFFF }) demoT (onScalar demoT) ∧
    ScalarMay (.sleep { sub := 1, a := 3 }) demoT (onScalar demoT) := by unfold ScalarMay; decide +kernel

theorem test_rdsr_every_number : ∀ i ∈ [Instr.rdsr { imm := 0 }, .rdsr { imm := 1 }, .rdsr { imm := 2 },
    .rdsr { imm := 3 }, .rdsr { imm := 4 }, .rdsr { imm := 5 }, .rdsr { imm := 6 }, .rdsr { imm := 7 }, .rdsr { imm := 0x10 }],
    ScalarMay i demoT (onScalar demoT) := by unfold ScalarMay; decide +kernel

theorem test_ticket_waits : ∀ w ∈ [Wait.ticket 1, .ticketed 0, .ticketed 1], ScalarMay (.ticket { imm := 1 })
    { demoT with wait := some w } (onScalar { demoT with wait := some w }) := by unfold ScalarMay; decide +kernel

theorem test_context_of_the_ring : (onScalar demoT).ctx? ((onScalar demoT).asidOf 0) = some { asid := 1, root := 0x10000 } ∧
    (onScalar demoT).troupe? demoT.id = some demoT ∧ (onScalar demoT).ring? 0 = some demoRing := by decide +kernel

theorem test_down_queue_at_its_ends : ∀ n ∈ [15, 16], ScalarMay (.sqput {}) { demoT with down := List.replicate n {} }
    (onScalar { demoT with down := List.replicate n {} }) := by unfold ScalarMay; decide +kernel

theorem test_up_queue_holds_one : ScalarMay (.sqget {}) { demoT with up := [{}] } (onScalar { demoT with up := [{}] }) := by
  unfold ScalarMay; decide +kernel

theorem test_vqget_finds_one : VectorMay (.vqget {}) { instr := .vqget {}, cap := allOn }
    { withHead demoT (.vqget {}) allOn with down := [{}] } (onVector { withHead demoT (.vqget {}) allOn with down := [{}] }) := by
  unfold VectorMay; decide +kernel

theorem test_header_at_a_boundary :
    (∀ z : BitVec 1, z = 1 → demoT.scalarHolds [128] = [] ∧ demoT.readsBad [128] = false) ∧
    ({} : Header).wait &&& demoT.wflags = 0 ∧ (onScalar { demoT with left := 0 }).troupe? demoT.id = some { demoT with left := 0 } := by
  decide +kernel

theorem test_header_scan_of_legal_units :
    (State.reset.withFetchWord 104 0xF000000000000000000000000 |>.scanUnits 1 0 1 4).1 = none := by decide +kernel

theorem test_advance_at_both_ends : ∀ n ∈ [1, 2], (onScalar { demoT with left := n }).troupe? demoT.id = some { demoT with left := n }
    ∧ ({ demoT with left := n - 1, mile := true } : Troupe).quiet = true := by decide +kernel

theorem test_dispatch_behind_another : (withHead demoT (.nop {}) {}).vq ≠ [] ∧
    ∀ i ∈ [Instr.vadd {}, .vld {}], DispatchMay i (withHead demoT (.vmov {}) {}) (onScalar (withHead demoT (.vmov {}) {})) := by
  unfold DispatchMay; decide +kernel

theorem test_flags_run_out : ({ demoT with named := 2 } : Troupe).nameFlag (.frcp {}) = .noFlag ∧
    ({ demoT with seta := none } : Troupe).nameFlag (.frcp {}) = .noFlag ∧
    ({ demoT with w := List.replicate 12 63 } : Troupe).nameFlag (.frcp {}) = .full ∧
    (Instr.frcp {}).longLatency = true ∧ (Instr.vadd {}).longLatency = false := by decide +kernel

/-! ### Hypotheses of the statements about computing on the vector side -/

theorem test_budget_has_room : demoT.room demoRing.vgen 0 ∧ demoT.room 0 0xC0 ∧ demoT.room 1 63 := by
  unfold Troupe.room; decide +kernel

theorem test_slots_ready : ∀ n < 8, (onVector demoT).judgeSlots 0 [n, 7 - n] = none := by decide +kernel

theorem test_vector_not_stalled : ({ withHead demoT (.vadd {}) allOn with vq := [], vwait := none } : Troupe).stalled = false := by
  decide +kernel

theorem test_no_active_lane : VectorMay (.frcp {}) { instr := .frcp {} } (withHead demoT (.frcp {}) {})
    (onVector (withHead demoT (.frcp {}) {})) := by unfold VectorMay; decide +kernel

theorem test_slot_reductions : ∀ i ∈ [Instr.vred { modx := 1 }, .vscan { modx := 1 }, .vscan { modx := 2 }],
    VectorMay i { instr := i, cap := allOn } (withHead demoT i allOn) (onVector (withHead demoT i allOn)) := by
  unfold VectorMay; decide +kernel

/-! ### Hypotheses of the statements about memory -/

/-- The place of an access that passes its checks. -/
def siteOf : Acc → Site
  | .ok x => x
  | _ => { locs := [], g := 0 }

/-- The access passes its checks, at places that are distinct and in cores the package has. -/
def passes (s : State) (a : Acc) : Bool :=
  a == .ok (siteOf a) && decide (siteOf a).locs.Nodup && (siteOf a).locs.all fun
    | .phys _ => true
    | .spad c _ => decide (c < s.cores.length)

theorem test_access_passes : ∀ i ∈ [Instr.st {}, .vst {}, .vstw {}, .ld {}, .vld {}, .vldw {}, .ldAc { sub := 1 }, .vldAc { sub := 1 },
      .aadd { ty := 2 }, .acas { ty := 2 }, .aflim { ty := 2, sel := 1 }, .redadd { ty := 2 }],
    passes (onVector demoT) ((onVector demoT).access ((onVector demoT).ringParty 0) 0
      (accessWant i (i.fields.getD {}) 0)) = true := by decide +kernel

theorem test_scratchpad_access_passes : ∀ i ∈ [Instr.lds {}, .sts {}, .ldsb {}],
    passes (onVector demoT) ((onVector demoT).access ((onVector demoT).ringParty 0) (ringWin + 4092)
      (accessWant i (i.fields.getD {}) 7)) = true := by decide +kernel

theorem test_access_faults : (onVector demoT).access ((onVector demoT).ringParty 0) 2
      (accessWant (.aadd { ty := 2 }) { ty := 2 } 0) = .final .misalign 0 ∧
    (onVector demoT).access ((onVector demoT).ringParty 0) (ringWin + 4096) (accessWant (.lds {}) {} 0) = .final .sprange 0 := by
  decide +kernel

theorem test_memory_instructions_may_perform : ∀ i ∈ [Instr.lds {}, .sts {}, .ldsb {}, .ld {}, .ldAc { sub := 1 }, .st {}, .vld {},
      .vldAc { sub := 1 }, .vst {}, .vldw {}, .vstw {}, .pref {}, .cfl {}, .aadd { ty := 2 }, .amin { ty := 2 }, .amax { ty := 2 },
      .aand { ty := 2 }, .aor { ty := 2 }, .axor { ty := 2 }, .axch { ty := 2 }, .acas { ty := 2 }, .ainb { ty := 2 },
      .ainw { ty := 2 }, .adecp { ty := 2 }, .aflim { ty := 2, sel := 1 }, .aaddf {}, .redadd { ty := 2 },
      .redmin { ty := 2 }, .redmax { ty := 2 }, .redand { ty := 2 }, .redor { ty := 2 }, .redxor { ty := 2 }, .redaddf {}],
    let f := i.fields.getD {}
    let t := withHead demoT i allOn
    let e : VEntry := { instr := i, cap := allOn }
    t.overBudget 64 (loadDests i f allLanes) = false ∧ accessLanes i allLanes ≠ [] ∧
      (onVector t).windowWaits t.uid 0 0 (· == 0) = false ∧ t.freeSlot ≠ none ∧
      counterFull i t (accessLanes i allLanes).length = false ∧ t.behind (onVector t) (memOp f e t) = false := by decide +kernel

theorem test_no_lane_accesses : ∀ i ∈ [Instr.vld {}, .sts {}, .aadd { ty := 2 }, .redadd { ty := 2 }],
    accessLanes i 0 = [] := by decide +kernel

/-- A troupe with an acquire fence not yet passed, and `i` next. -/
def behindFence (i : Instr) : Troupe :=
  { withHead demoT i allOn with ops := [{ id := 0, instr := .fence { ord := 1 }, held := false }], nextOp := 1 }

theorem test_behind_a_fence : ∀ i ∈ [Instr.ld {}, .st {}, .vld {}, .vst {}, .lds {}, .sts {}, .aadd { ty := 2 }],
    VectorMay i { instr := i, cap := allOn } (behindFence i) (onVector (behindFence i)) ∧
      (behindFence i).behind (onVector (behindFence i)) (memOp (i.fields.getD {}) { instr := i, cap := allOn } (behindFence i)) = true ∧
      (∀ o ∈ (behindFence i).ops, o.id < (behindFence i).nextOp) := by
  unfold VectorMay; decide +kernel

/-- A troupe with one outstanding operation of `i`, whose lane 5 has its reply on the way. -/
def waiting (i : Instr) (held : Bool) : Troupe :=
  { demoT with ops := [{ id := 0, instr := i, held := held, ac := some 0, lanes := [{ lane := 5, st := .reply [7, 0, 0] }] }],
               nextOp := 1, ac := List.replicate 16 1 }

/-- The package with an event of that operation. -/
def onReply (t : Troupe) : State := { demo .device t with ev := { lane := 5 } }

theorem test_replies_on_their_way : ∀ i ∈ [Instr.vld {}, .vldAc { sub := 1 }, .aadd { ty := 2 }],
    (waiting i true).op? 0 = (waiting i true).ops.head? ∧ (onReply (waiting i true)).troupe? ⟨0, 0⟩ = some (waiting i true) ∧
      ∀ o ∈ (waiting i false).ops, o.lanes.find? (fun l => l.lane == 5) = some { lane := 5, st := .reply [7, 0, 0] } := by
  decide +kernel

theorem test_long_operation_outstanding :
    let t := demoT.startOp { instr := .frcp {} } { id := 0, instr := .frcp {}, vres := [{ d := 0, mask := allLanes, sh := .uniform 0, g := 0 }] }
    ∃ o, t.op? 0 = some o ∧ o.lanes = [] ∧ o.vres ≠ [] ∧ isLoad o.instr = false := by
  exact ⟨_, rfl, by decide, by decide, rfl⟩

theorem test_acwait_at_its_bound : VectorMay (.acwait { imm := 1 }) { instr := .acwait { imm := 1 } }
    (withHead (waiting (.vldAc { sub := 1 }) false) (.acwait { imm := 1 }) {})
    (onVector (withHead (waiting (.vldAc { sub := 1 }) false) (.acwait { imm := 1 }) {})) := by unfold VectorMay; decide +kernel

theorem test_fence_passes_and_waits :
    VectorMay (.fence { ord := 3, scp := 3, imm := 1 }) { instr := .fence { ord := 3, scp := 3, imm := 1 } }
      (withHead demoT (.fence { ord := 3, scp := 3, imm := 1 }) {}) (onVector (withHead demoT (.fence { ord := 3, scp := 3, imm := 1 }) {})) ∧
    (onVector demoT).windowWaits demoT.uid 3 3 (fun c => (1#32).getLsbD c) = false ∧
    (waiting (.vld {}) true).behind (onVector (waiting (.vld {}) true)) { id := 1, instr := .fence { ord := 3 }, held := false } = false := by
  unfold VectorMay; decide +kernel

/-- The package before a tag instruction on tag mask `a`, with TAGMAP `m`. -/
def onTags (i : Instr) (m a : Word) : State :=
  { onVector (withHead demoT i { a := { v := a } }) with rings := [{ demoRing with tagmap := m }] }

theorem test_tag_states : ∀ i ∈ [Instr.tgwany {}, .tgwall {}, .tgffr {}, .tgclr {}, .tgget {}],
    VectorMay i { instr := i, cap := { a := { v := 0 } } } (withHead demoT i { a := { v := 0 } }) (onTags i 0 0) ∧
    VectorMay i { instr := i, cap := { a := { v := 2 } } } (withHead demoT i { a := { v := 2 } }) (onTags i 1 2) := by
  unfold VectorMay; decide +kernel

/-! ### Hypotheses of the statements about copies, barriers and queues -/

/-- The operands of a copy of 64 bytes between the scratchpad and the page at 0. -/
def copyCap : Instr → Cap
  | .xst _ => { a := { v := 0x01F0000000000000 }, b := { v := 0 }, c := { v := 64 } }
  | .xcpy _ => { a := { v := 0x01F0000000000000 }, b := { v := 0x01F0000000000040 }, c := { v := 64 } }
  | .xldX24 _ => { a := { v := 0x01F0000000000000 }, c := { v := 0x1000000080 } }
  | .xcpyMc _ => { a := { v := 0x40 }, b := { v := 0x01F0000000000000 }, c := { v := 0x10000000040 } }
  | _ => { a := { v := 0x01F0000000000000 }, b := { v := 0 }, c := { v := 64 } }

theorem test_copies_enter : ∀ i ∈ [Instr.xld {}, .xldX24 { sub := 1 }, .xst {}, .xgat {}, .xsct {}, .xcpy {}, .xcpyMc { sub := 1 }, .xfill {}, .xldNt { sub := 2 }],
    VectorMay i { instr := i, cap := copyCap i } (withHead demoT i (copyCap i)) (onVector (withHead demoT i (copyCap i))) ∧
    copyFault i (i.fields.getD {}) { instr := i, cap := copyCap i } (onVector (withHead demoT i (copyCap i))) 0 = none := by
  unfold VectorMay; decide +kernel

theorem test_join_enters : completionFault { sel := 3, imm := 63 } (onVector demoT) 0 [0] false false = none := by
  decide +kernel

theorem test_named_slot_of_a_tile : (onVector demoT).ntSlot 0 0 = some 0 ∧ (onVector demoT).slotView 0 0 ≠ .stall := by
  decide +kernel

/-- A copy of the ring at the head of queue 0 of core 0. -/
def demoCopy (i : Instr) : CopyEnt := { id := 9, instr := i, ring := 0, troupe := 0, cap := copyCap i }

/-- The package with that copy, and an event that names it. -/
def onCopy (x : CopyEnt) : State :=
  { (demo .device demoT).modCore 0 (fun c => { c with cq0 := [x] }) with ev := { op := 9 } }

theorem test_copy_may_start : (onCopy (demoCopy (.xfill {}))).copy? 0 0 9 = some (demoCopy (.xfill {})) ∧
    (onCopy (demoCopy (.xfill {}))).copyMayStart 0 0 (demoCopy (.xfill {})) {} = true ∧
    (onCopy (demoCopy (.xfill {}))).copyFirst 0 9 = true := by decide +kernel

/-- One word of it still to land. -/
def demoWord : CWord := { ring := 0, va := 0x01F0000000000000, bytes := [{ val := 1 }, { val := 2 }], g := 0, counts := 2, prog := 2 }

/-- The copy with that word still to land. -/
def landing : CopyEnt := { demoCopy (.xfill {}) with started := true, words := [demoWord] }

theorem test_copy_may_land : (onCopy landing).copyMayLand 0 0 landing = true ∧ (onCopy landing).copy? 0 0 9 = some landing ∧
    passes (onCopy landing) ((onCopy landing).access { asid := 1, ring := some 0, core := some 0 } ringWin
      { n := 2, wr := true, g := 0 }) = true := by decide +kernel

theorem test_copy_is_over : ({ landing with words := [] } : CopyEnt).over_ = true ∧
    ({ demoCopy (.xfill {}) with fault := some (.page, 1, 0) } : CopyEnt).fseq = none := by decide +kernel

/-- The package before the vector side with a barrier object or queue header at the head of the scratchpad. -/
def onObject (i : Instr) (cap : Cap) (w : Nat) : State :=
  { (onVector (withHead demoT i cap)).modCore 0 fun c => { c with spad := cellWriteN [] 0 (leBytes w 16) } with len := 8 }

/-- Operands at that object. -/
def objCap (b : Word) : Cap := { a := { v := 0x01F0000000000000 }, b := { v := b }, k0 := allLanes }

theorem test_object_in_the_scratchpad : (onObject (.barr {}) (objCap 1) 0).objectAt 0 ringWin 16 = some (0, 0) ∧
    ringWin % 16 = 0 := by decide +kernel

theorem test_barrier_instructions_may_run : ∀ i ∈ [Instr.bini {}, .barr {}, .barrN { sub := 1 }, .barrExp { sub := 2 }, .bexp {}, .bwait {}, .btest {}, .bcan {}],
    VectorMay i { instr := i, cap := objCap 1 } (withHead demoT i (objCap 1))
      (onObject i (objCap 1) ({ penda := 1, expa := 1 } : BObj).toNat) := by unfold VectorMay; decide +kernel

theorem test_barrier_object_states : (BObj.ofNat ({ penda := 4095, expa := 4095, valid := true } : BObj).toNat).valid = true ∧
    ({ phase := 5 } : BObj).ready false 4 = true ∧ ({ phase := 5 } : BObj).ready false 5 = false := by decide +kernel

theorem test_queue_header : let w := leNat (cellReadN ((onObject (.nqsend {}) (objCap 1) 0x101000002).core 0).spad 0 8)
    bitsOf w 32 32 = 1 ∧ bitsOf w 31 24 = 1 ∧ bitsOf w 23 16 < bitsOf w 7 0 ∧
    (onObject (.nqsend {}) (objCap 1) 0x101000002).objectAt 0 (ringWin + 16) 8 = some (0, 16) := by decide +kernel

theorem test_queue_instructions_may_run : ∀ i ∈ [Instr.nqini {}, .nqsend {}, .nqrecv {}, .nqret {}, .nqtry {}],
    VectorMay i { instr := i, cap := objCap 1 } (withHead demoT i (objCap 1)) (onObject i (objCap 1) 0x101010002) ∧
      (onObject i (objCap 1) 0x101010002).nqBehind (withHead demoT i (objCap 1)) true (0, 0) = false := by
  unfold VectorMay; decide +kernel

theorem test_arrivals : ({} : NB).arrive 2 5 (some 0) ≠ none ∧ ({ fixed := true, count := 2, arrived := 1 } : NB).arrive 3 5 (some 0) = none ∧
    ({ fixed := true, count := 2, arrived := 1 } : NB).arrive 2 5 (some 1) = some { phase := 1 } := by decide +kernel

theorem test_arrival_is_legal : ((onVector demoT).nbArrive 0 false 3 33 (some 0)).isSome = true ∧
    ((onVector demoT).nbArrive 0 true 3 0 (some 0)).isSome = true := by decide +kernel

theorem test_waiting_at_a_barrier : ∀ x ∈ [(Instr.nbsync {}, Wait.nb 0 0), (.tbsync {}, .tb 0 0)],
    VectorMay x.1 { instr := x.1 } { withHead demoT x.1 {} with vwait := some x.2 } (onVector { withHead demoT x.1 {} with vwait := some x.2 }) := by
  unfold VectorMay; decide +kernel

theorem test_tree_barrier_complete : ({ id := 0, launch := 0, n := 0, die := 0, release := [(3, 40)] } : Nbhd).release.find?
    (fun x => x.1 == 3) = some (3, 40) := by decide +kernel

/-! ### Hypotheses of the statements about matrix streams -/

theorem ok_of {ε α : Type} {x : Except ε α} (h : x.isOk = true) : ∃ a, x = .ok a := by
  cases x
  · simp [Except.isOk, Except.toBool] at h
  · exact ⟨_, rfl⟩

/-- A header of an operand whose elements all stand in the first bytes of the scratchpad. -/
def hdrBytes (slot flags : Nat) : List Byte :=
  leBytes ringWin 8 ++ leBytes 0 8 ++ leBytes slot 1 ++ leBytes flags 1 ++ leBytes 0 14

/-- A stream whose m0 names a dense header, m1 a seeded one, m2 a size of 32 and m3 the sample limits. -/
def matSt : Stream :=
  { demoSt with m := [{ v := 0x01F0000000000040 }, { v := 0x01F0000000000060 }, { v := 0x01F0000000000080 },
      { v := 0x1000000010 }, {}, {}, {}, {}] }

/-- The package with that stream and what its registers name. -/
def onMatrix (zero : Bool) : State :=
  { (demo (.stream 0) demoT).modCore 0 fun c => { c with
      spad := cellWriteN [] 0 ([0x38, 0x40] ++ List.replicate 62 0 ++ hdrBytes 3 0 ++ hdrBytes 3 2 ++ leBytes 32 4),
      au := { holder := some 0, k := 32, zero := zero } } with
    rings := [{ demoRing with stream := some matSt }] }

/-- What a header check gives, or an empty use. -/
def useOf (x : Except OpStop HdrUse) : HdrUse :=
  match x with
  | .ok u => u
  | .error _ => { h := {}, fmt := .offset, g := 0 }

/-- The dense operand header as used. -/
def dense : HdrUse := useOf (useHdr (onMatrix false) 0 matSt 0)

/-- The seeded one. -/
def seeded : HdrUse := useOf (useHdr (onMatrix false) 0 matSt 1)

theorem test_headers_are_used : (useHdr (onMatrix false) 0 matSt 0).isOk = true ∧ (useHdr (onMatrix true) 0 matSt 0).isOk = true ∧
    (useHdr (onMatrix false) 0 matSt 1).isOk = true := by decide +kernel

theorem test_headers_pair : pairOk dense.h dense.h = true ∧ pairOk seeded.h dense.h = true ∧ dense.h.spar = 0 ∧ seeded.h.spar ≠ 0 ∧
    seeded.h.tr = false ∧ dense.h.narrow = false ∧ inWindows dense.h.base = true ∧ dense.h.aux = 0 ∧
    shapeOk (max (cellClass dense.h dense.fmt) (cellClass dense.h dense.fmt)) 26 = true ∧ originOk 0x6060 32 32 = true ∧
    cellClass dense.h dense.fmt ≤ 1 := by decide +kernel

theorem test_dense_group_is_readable :
    (({ h := dense.h, fmt := dense.fmt, p := 32, k := 32 } : Operand).group (onMatrix false)
      ((onMatrix false).ringParty 0) 0 32).isOk = true := by decide +kernel

theorem test_seeded_group_is_readable :
    (({ h := seeded.h, fmt := seeded.fmt, p := 4, k := 32 } : Operand).group (onMatrix false)
      ((onMatrix false).ringParty 0) 0 32).isOk = true := by decide +kernel

theorem test_matrix_instructions_may_run :
    ∀ i ∈ [Instr.mxmul {}, .mxsp { a := 1 }, .mxdual {}, .mxzero {}, .mxld {}, .mxst {}, .mxadd {}, .mxscl {}, .mxnorm { c := 2 },
      .mxalias { a := 2 }, .mxsamp { c := 3 }],
    decodeFault true i = none ∧ (onMatrix false).stream? 0 = some matSt ∧ matSt.row = 0 := by decide +kernel

theorem test_tile_is_readable :
    (readTile {} 0 matSt (onMatrix false)).isOk = true := by decide +kernel

theorem test_size_is_read : ((onMatrix false).fetchData ((onMatrix false).ringParty 0) 0x01F0000000000080 4).toOption =
    some (leBytes 32 4, 0) := by decide +kernel

theorem test_stream_not_started : demoRing.stream = none ∧ ((onVector demoT).ring 0).stream = none := by decide +kernel

/-- The package with a stream that waits for its contexts. -/
def onGrant : State :=
  { (demo .device demoT).modCore 0 (fun c => { c with mxq := [0] }) with
    rings := [{ demoRing with stream := some { state := 1, args := 0x01F0000000000000 } }] }

theorem test_contexts_are_free : onGrant.stream? 0 = some { state := 1, args := 0x01F0000000000000 } ∧ (onGrant.core 0).mxq = [0] ∧
    onGrant.ctxFree 0 { state := 1, args := 0x01F0000000000000 } = true ∧ (readArgs onGrant 0 { state := 1, args := 0x01F0000000000000 }).isOk = true := by decide +kernel

theorem test_stream_waits_at_a_barrier :
    ({ demoSt with wait := some (.nb 0 0) } : Stream).wait = some (.nb 0 0) ∧
    ((onStream demoSt).nbArrive 0 false 0 1 none).isSome = true ∧ (onStream demoSt).nbOver 0 false 0 0 = false ∧
    ({ onStream demoSt with rings := [{ demoRing with nbs := [{ phase := 1 }] }] } : State).nbOver 0 false 0 0 = true := by decide +kernel

theorem test_stream_loops : ({ demoSt with loops := [1, 5] } : Stream).loops = 1 :: [5] ∧ demoSt.loops.length < 4 := by decide

theorem test_norms_are_read :
    (operandNorms { h := dense.h, fmt := dense.fmt, p := 32, k := 32 } 0 32 (onMatrix false) ((onMatrix false).ringParty 0)).isOk = true := by
  decide +kernel

/-- The operation is done. -/
def isDone : MRes → Bool
  | .done _ => true
  | _ => false

theorem test_tile_is_stored : isDone (storeElems {} dense { h := dense.h, fmt := dense.fmt, p := 32, k := 32 } 0 0
    [(0, 0), (0, 1), (31, 31)] (onMatrix false)) = true := by decide +kernel

/-- The dense operand with 32 rows of 32. -/
def denseOp : Operand := { h := dense.h, fmt := dense.fmt, p := 32, k := 32 }

/-- A run of 16 samples into bank za. -/
def demoSamp : SampRun :=
  { d := 0, row := 0, col := 0, oa := denseOp, ob := denseOp, smin := 16, smax := 16, seed := 0, thr := fmtF32.decode 0, g := 0 }

theorem test_samples_are_read : (sampGroup demoSamp 0 (onMatrix false)).isOk = true := by decide +kernel

theorem test_norms_of_the_table_are_read : (Rd.all (fun i => (onMatrix false).fetchData ((onMatrix false).ringParty 0)
    (ringWin + 128 + 16 + 8 * i) 8) (List.range 32)).isOk = true := by decide +kernel

/-! ### Hypotheses of the statements about tuples, the solver and formats -/

/-- A region at virtual address 0x40000, with its frame at physical 0x80000. -/
def demoRegion : Region := { rid := 3, base := 0x40000, quota := 1, scap := 0, frames := [0x80000] }

/-- The package before the vector side, with that region and its KIND 1 page. -/
def onRegion (i : Instr) (cap : Cap) : State :=
  let s := onVector (withHead demoT i cap)
  { s with
    mem := cellWriteN (cellWriteN s.mem 0x30008 (leBytes (2 ^ 58 + 0x80000 + 0x1B) 8)) 0x80000 demoRegion.descriptor,
    ctxs := [{ asid := 1, root := 0x10000, regions := [demoRegion] }] }

/-- Operands of a tuple instruction on it: every lane, a pattern of one field of any value. -/
def tupleCap : Cap := { a := { v := 0x40000 }, b := { v := 1 }, k0 := allLanes }

theorem test_region_is_found : ∀ i ∈ [Instr.tdep { imm := 14 }, .tread { imm := 1 }, .ttake { imm := 1 }, .tstat {}],
    VectorMay i { instr := i, cap := tupleCap } (withHead demoT i tupleCap) (onRegion i tupleCap) ∧
    passes (onRegion i tupleCap) ((onRegion i tupleCap).access ((onRegion i tupleCap).ringParty 0) 0x40000 (tupleWant i)) = true ∧
    (onRegion i tupleCap).regionAt 1 0x40000 = some demoRegion := by unfold VectorMay; decide +kernel

theorem test_pattern_is_legal : patBad 1 = false ∧ patMasked 1 = false ∧ 62 + (1 + patM 1) ≤ 64 ∧ patMasked 0x20 = true ∧
    demoT.freeSlot = some 0 ∧ demoT.overBudget 64 ((resultBlock { imm := 1 }).map (BitVec.ofNat 8)) = false := by decide +kernel

/-- A deposit of one tuple into the region. -/
def demoReq (k : TKind) : TReq := { kind := k, t := ⟨0, 0⟩, op := 0, asid := 1, rid := 3, tag := some 5 }

/-- The package with a request at the first port of slice 0. -/
def onSlice (q : TReq) : State :=
  { (demo .device demoT).modSlice 0 (fun c => { c with ports := [[q], [], [], []] }) with
    ctxs := [{ asid := 1, root := 0x10000, regions := [demoRegion] }] }

theorem test_requests_at_a_slice : ∀ k ∈ [TKind.dep, .read, .take, .cancel, .stat],
    ((onSlice (demoReq k)).slice 0).next? = some (demoReq k) ∧
      (onSlice (demoReq k)).region? 1 3 = some demoRegion := by decide +kernel

/-- A slice that stores one tuple of the region, and one that has none. -/
def fullSlice : Slice := { regs := [{ asid := 1, rid := 3, store := [{ tag := 5, arity := 0, grade := 0, seq := 0, f := [] }] }] }

theorem test_region_full_and_empty : ((fullSlice.region 1 3).live = 1) ∧ (({} : Slice).region 1 3).live = 0 ∧
    (fullSlice.region 1 3).all.find? (demoReq .take).matches ≠ none ∧ (({} : Slice).region 1 3).all.find? (demoReq .take).matches = none := by
  decide +kernel

theorem test_refill_possible : canRefill
    { (onSlice (demoReq .dep)).modSlice 0 (fun _ => { regs := [{ asid := 1, rid := 3, spill := [{ tag := 5, arity := 0, grade := 0, seq := 0, f := [] }] }] })
      with fresh := 1 } 0 1 3 = true := by decide +kernel

/-- A reply for lane 5 of operation 0. -/
def demoReply : TReply := { t := ⟨0, 0⟩, op := 0, lane := 5, status := 0 }

theorem test_reply_arrives : takeReply ⟨0, 0⟩ 0 5 [demoReply] = some (demoReply, []) ∧
    replyReady (demo .device demoT) demoReply = true ∧ (demo .device demoT).savedOf 0 = none := by decide +kernel

/-- The package with an operation at the head of the ring's solver queue. -/
def onSolver (i : Instr) (v : Solver) : State :=
  let s := demo .device demoT
  { s with
    rings := [{ demoRing with solver := { v with queue := [{ instr := i, a := { v := 0x1000 }, by_ := ⟨0, 0⟩ }] } }],
    mem := cellWriteN s.mem 0x41000 (leBytes 0x000101 8 ++ leBytes 0 32) }

theorem test_solver_turn : ∀ i ∈ [Instr.slvst {}, .slvtab {}, .slvini {}, .slvstg {}, .slvend {}],
    (onSolver i { state := 2, tab := some (leBytes 1 384) }).solverTurn 0 = some 0 := by decide +kernel

theorem test_method_table_is_valid : tabValid (leBytes 0x000101 384) = true := by decide +kernel

theorem test_descriptor_is_legal : descBad (leBytes 1 4 ++ leBytes 1 4 ++ leBytes 0x3F800000 4 ++ leBytes 0x3F800000 4 ++ leBytes 0 112) none = false := by
  decide +kernel

theorem test_batch_of_dead_samples : (match (repeatStep (nextSample 0 (stageSample 0)) 1
    (onSolver (.slvstg {}) { state := 2, samples := [{ status := 4 }] })).2 with | none => true | some _ => false) = true ∧
    (match (repeatStep (nextSample 0 endSample) 0 (onSolver (.slvend {}) { state := 2 })).2 with | none => true | some _ => false) = true := by
  decide +kernel

theorem test_batch_claims_its_slots : (onSolver (.slvini {}) { state := 1, granted := true }).calliopeHead 0 = some 0 ∧
    (onSolver (.slvini {}) { state := 1, granted := true }).calliopeFits 0 0 = true := by decide +kernel

theorem test_solver_queue_has_room : ((onVector demoT).solver 0).queue.length = 0 ∧
    (List.replicate 15 ({ instr := .slvend {}, by_ := ⟨0, 0⟩ } : SolvOp)).length < 16 := by decide +kernel

/-- A request of the format manager. -/
def demoFm (going : Bool) : FmReq := { asid := 1, slot := 9, addr := 1, grade := 0, by_ := none, ring := 0, going := going }

/-- The package with that request and slot 9 as given. -/
def onFormats (going : Bool) (e : SlotEnt) : State :=
  ({ demo .device demoT with
     ctxs := [{ asid := 1, root := 0x10000, slots := [{}, e] }], ev := { asid := 1, num := 9 } }).modFw fun w =>
    { w with fm := [demoFm going] }

theorem test_request_is_checked : (onFormats false {}).nextRequest = some (demoFm false) ∧
    (match (onFormats false {}).checkPackage 1 1 0 with | .error 1 => true | _ => false) = true := by decide +kernel

theorem test_slot_drains_and_loads : (onFormats true { state := 1 }).slotBusy 1 9 = false ∧
    (onFormats true { state := 2, next := some ([], .offset, []) }).slotEnt 1 9 = { state := 2, next := some ([], .offset, []) } ∧
    (onFormats true { state := 2 }).fw.fm.find? (fun r => r.going && r.asid == 1 && r.slot == 9) = some (demoFm true) := by
  decide +kernel

theorem test_frames_chosen_on_a_core :
    (onFormats false {}).chooseAll [1] {} [0] = some [(0, 8, .free)] := by decide +kernel

theorem test_no_operation_names_the_slot : (∀ o ∈ demoT.ops, 9 ∉ o.instr.slots) ∧ ((onVector demoT).ring 0).streamUses 9 = false := by
  decide +kernel

theorem test_release_of_a_slot : ∀ e ∈ [({} : SlotEnt), { state := 3 }, { state := 3, rel := true }],
    (onFormats false e).slotEnt 1 9 = e := by decide +kernel

/-! ### Hypotheses of the statements about grades, spawn bins, admission and faults -/

theorem test_grade_at_an_address : passes (onVector demoT) ((onVector demoT).gradeAt ((onVector demoT).ringParty 0) 0x3FFFF) = true ∧
    passes (onVector demoT) ((onVector demoT).gradeAt ((onVector demoT).ringParty 0) (ringWin + 4095)) = true := by decide +kernel

theorem test_context_of_the_firmware : ({ onScalar demoT with launches := [{ id := 0, queue := 0, asid := 0, lr := {} }] } : State).asidOf 0 = 0 ∧
    (onScalar demoT).asidOf 0 ≠ 0 := by decide +kernel

theorem test_no_flags_outstanding : ∀ o ∈ demoT.ops, o.fl = 0 ∧ isAtomic o.instr = false := by decide +kernel

theorem test_bincfg_at_its_ends : ∀ i ∈ [Instr.bincfg { imm := 65536 }, .bincfg { sub := 1 }],
    VectorMay i { instr := i, cap := { a := { v := 65536 } } } (withHead demoT i { a := { v := 65536 } })
      (onVector (withHead demoT i { a := { v := 65536 } })) := by unfold VectorMay; decide +kernel

/-- The package with a bin of one record, ready or counting down. -/
def onBin (ready : Option Nat) : State :=
  (demo .device demoT).modCore 0 fun c => { c with
    bins := { key := some (0, 0x100), recs := [{ p := [1, 2, 3, 4], g := 0 }], deadline := 9, ready := ready } :: List.replicate 7 {} }

theorem test_bin_states : (onBin (some 4)).readyBins 0 = [(4, 0)] ∧ ((onBin (some 4)).troupesOf 0).length < 2 ∧
    ((onBin none).core 0).bins.length = 8 ∧ ({ onBin none with rings := [{ demoRing with draining := true }] } : State).canDrain 0 = true := by
  decide +kernel

theorem test_grants_and_waits : ({ demoRing with grants := [4], solver := { granted := true } } : Ring).reliesOn 4 = true ∧
    ({ demoRing with grants := [1] } : Ring).reliesOn 1 = false ∧ (onScalar demoT).heldCost 0 + 40 ≤ ((onScalar demoT).die 0).budget ∧
    ((onScalar demoT).die 0).grantq = [] := by decide +kernel

theorem test_ticket_deadline : (({ demo .device { demoT with wait := some (.ticket 1) } with cur := .device } : State).modDie 0 fun d =>
    { d with grantq := [{ who := .ticket ⟨0, 0⟩ (some 7), cls := 1 }] }).ticketDeadline ⟨0, 0⟩ = some 7 := by decide +kernel

/-- A record of the troupe's fault. -/
def demoRec (kind : Nat) : FRec := { fseq := 1, cause := .trap, kind := kind, troupe := some ⟨0, 0⟩, ents := [(3, 4)] }

/-- The package with that record pending and the troupe stopped on it. -/
def onRecord (kind : Nat) : State :=
  { demo .device { demoT with stopped := [1] } with
    ctxs := [{ asid := 1, root := 0x10000, fseq := 1, recs := [demoRec kind] }], ev := { asid := 1, num := 1 } }

theorem test_record_is_pending : ∀ k ∈ [0, 1, 2, 3, 4],
    ((onRecord k).ctx 1).recs.find? (fun r => r.fseq == 1) = some (demoRec k) ∧
    (onRecord k).ctxOf? 1 0 = some { asid := 1, root := 0x10000, fseq := 1, recs := [demoRec k] } ∧
    (onRecord k).savedOf 0 = none ∧ (demoRec k).ents[0]? = some (3, 4) ∧ (demoRec k).ents[63]? = none := by decide +kernel

theorem test_table_is_read :
    ((onSolver (.slvtab {}) {}).fetchData ((onSolver (.slvtab {}) {}).solverParty 0) ringWin 384).isOk = true := by decide +kernel

/-! ### Hypotheses of the statements about launches and placement -/

/-- A record with SEQ 0 of a launch of one ring of one troupe in context 1. -/
def demoRecord : List Byte :=
  leBytes 0 4 ++ leBytes 1 2 ++ leBytes 0 2 ++ leBytes 0 16 ++ leBytes 1 4 ++ leBytes 1 4 ++ leBytes 1 4 ++ leBytes 0 220

/-- The package with launch queue 5 enabled on a ring of records at 0x1000, under one 2 GiB page. -/
def onQueue : State :=
  let s := demo .device demoT
  { s with queues := List.replicate 5 {} ++ [{ base := 0x1000, asid := 1, log := 4, en := true, state := 1, tail := 1 }],
           mem := cellWriteN (cellWriteN (cellWriteN [] 0x10000 (leBytes 0x20001 8)) 0x20000 (leBytes 0x3B 8)) 0x1000 demoRecord, ev := { queue := 5, val := 0x20 } }

theorem test_record_is_accepted_next : onQueue.nextQueue = some 5 ∧ onQueue.ctx? 1 = some { asid := 1, root := 0x10000 } ∧
    (onQueue.readBytes { asid := 1 } (0x1000 + 256 * 0) 256).toOption = some (demoRecord, 0) ∧
    leNat (demoRecord.take 4) = ((0xFFFFFFFF : BitVec 32) + 1).toNat := by decide +kernel

theorem test_queue_may_start : onQueue.queueCfgOk { asid := 1, log := 16 } = true ∧
    (onQueue.queue 5).fn = 0 ∧ (0x20#64).getLsbD 5 = true ∧ (onQueue.queue 4).en = false := by decide +kernel

/-- A launch at a stage. -/
def demoLaunch (st : LStage) : Launch := { id := 3, queue := 5, asid := 1, lr := {}, stage := st }

/-- The package with that launch and nothing placed. -/
def onLaunch (l : Launch) : State :=
  { onQueue with launches := [l], rings := [], nbhds := [], troupes := [], ev := { obj := 3 } }

theorem test_launch_stages : (onLaunch (demoLaunch .binding)).launch? 3 = some (demoLaunch .binding) ∧
    (∀ j ∈ (demoLaunch .binding).lr.listed, j ∈ (demoLaunch .binding).bound) ∧
    ({ slotpkg := [0, 0x40, 0, 0, 0, 0, 0, 0] } : LRec).listed.find? (fun n => !([] : List Nat).contains n) = some 9 ∧
    (onLaunch (demoLaunch .ready)).mayStart (demoLaunch .ready) = true ∧
    (onLaunch (demoLaunch .ended)).launchWrites (demoLaunch .ended) = false := by decide +kernel

theorem test_package_of_a_listed_slot_fails : (match (onLaunch (demoLaunch .binding)).checkPackage 1 0x20 0 with
    | .error 1 => true | _ => false) = true := by decide +kernel

/-- A launch that runs with its one neighbourhood still to place, of a class or none. -/
def toPlace (cls : Nat) : Launch := { demoLaunch .running with lr := { tclass := cls }, range := [(0, 1), (0, 0), (0, 0), (0, 0)] }

theorem test_dispatcher_acts : (onLaunch (toPlace 0)).placeAct 0 = some (.place (toPlace 0) 0 0) ∧
    (onLaunch (toPlace 0)).headOf (toPlace 0) 0 = some (.fresh 0) ∧
    (onLaunch (toPlace 2)).placeAct 0 = some (.ask (toPlace 2)) := by decide +kernel

theorem test_reservation_stands : (({ onQueue with launches := [toPlace 0] } : State).modDie 0 fun d =>
    { d with resv := some { launch := 3, row0 := 0, col0 := 0, since := 5 } }).launch? 3 = some (toPlace 0) := by decide +kernel

theorem test_troupe_and_ring_may_end : (demo .device { demoT with ending := true }).canRetire { demoT with ending := true } = true ∧
    ({ demo .device demoT with troupes := [] } : State).canEnd demoRing = true := by decide +kernel

/-- The package with its neighbourhood in a state of pre-emption. -/
def onPre (p : PreSt) : State := { demo .device demoT with nbhds := [{ id := 0, launch := 0, n := 0, die := 0, pre := p }] }

theorem test_preemption_states : (∀ p ∈ [PreSt.asked 7 0, .drain 9 0, .flush 0, .save 0],
      (onPre p).nbhd? 0 = some { id := 0, launch := 0, n := 0, die := 0, pre := p }) ∧
    (onPre (.flush 0)).flushOver 0 = true ∧ ({ onPre (.save 0) with troupes := [{ demoT with left := 0 }] } : State).canSave 0 = true := by decide +kernel

theorem test_modes_qualify : preMode { mest := 10 } [{ demoRing with miles := 9 }] 1 = .drain ∧
    preMode { mest := 8, idem := true } [{ demoRing with miles := 1 }] 2 = .flush ∧
    preMode { mest := 8, idem := true } [{ demoRing with miles := 2 }] 7 = .save := by decide +kernel

theorem test_post_and_ring_doorbell : passes (onVector demoT) ((onVector demoT).access ((onVector demoT).ringParty 0) 0x3FFC0
      { n := 64, wr := true, align := 64 }) = true ∧
    (∀ c ∈ (onVector demoT).fw.contribs, ∀ w ∈ c.who, w.uid ≠ demoT.uid) ∧ (onQueue.queue 5).en = true ∧
    ((16 : Word).setWidth 32 - (onQueue.queue 5).head).toNat ≤ 2 ^ (onQueue.queue 5).log := by decide +kernel

/-! ### Hypotheses of the statements about memory management, commands and links -/

theorem test_die_is_not_busy : ((demo .device demoT).die 0).busy = false ∧ (demo .device demoT).ev.fn = 0 := by decide +kernel

theorem test_parked_access_marked : let s := (demo .device demoT).modDie 0 fun d =>
      { d with parked := [{ who := .stream 0, asid := 0, vpage := 0, cause := .page, marked := true }] }
    (s.die 0).parked = [{ who := .stream 0, asid := 0, vpage := 0, cause := .page, marked := true }] ∧ s.ev.asid = 0 ∧ s.ev.addr = 0 := by
  decide +kernel

theorem test_extents_and_registers : (262143 : Nat) < 262144 ∧ (demo .device demoT).extents = [] ∧
    (5 * 64 + 0x18) % 64 = 0x18 ∧ (5 * 64 + 0x18) / 64 = 5 ∧ (onQueue.queue 5).fn = onQueue.ev.fn := by decide +kernel

theorem test_line_of_code_is_readable : passes (demo .device demoT)
    ((demo .device demoT).access { asid := 1, core := some 0 } 0x80 { n := 128, ex := true }) = true := by decide +kernel

/-- A window of the package and a contribution to its word. -/
def onWindow : State :=
  (demo .device demoT).modFw fun w => { w with
    wins := [{ num := 0, home := w.pkg, base := 0x50000, pages := 1, red := true, acc := true, members := 2 }],
    contribs := [{ id := 0, instr := .redadd { ty := 2 }, addr := 0x50000, c := 1, who := [] }] }

theorem test_contribution_stands_alone : (onWindow.fw.contribs.find? fun c => c.id == onWindow.ev.op).isSome = true ∧
    (∀ c ∈ onWindow.fw.contribs, onWindow.mergeWith c = none) ∧
    ∀ w ∈ onWindow.fw.wins, w.home = onWindow.fw.pkg ∧ w.num = onWindow.ev.num := by decide +kernel

theorem test_context_may_be_created : (demo .device demoT).ctx? 0 = none ∧
    (demo .device demoT).mappedWritable 0x10000 0x1000 (fqSize 4) = true ∧ 0x1000 + fqSize 12 < 2 ^ 57 := by decide +kernel

theorem test_region_may_be_created : (onRegion (.tdep {}) {}).regionFrames 0x10000 0x40000 0 = some [0x80000] ∧
    sumOf ((onRegion (.tdep {}) {}).ctxs.flatMap fun c => c.regions.map (·.quota)) + 32767 ≤ 32768 := by decide +kernel

theorem test_owner_key_may_change : (∀ c ∈ (demo .device demoT).ctxs, c.fn = 0 → ∀ e ∈ c.slots, e.state = 0) ∧
    ∃ c ∈ (onFormats false { state := 3 }).ctxs, c.fn = 0 ∧ ∃ e ∈ c.slots, e.state ≠ 0 := by decide +kernel

theorem test_launch_to_preempt : (onLaunch (demoLaunch .running)).launches.find?
    (fun l => l.queue == 5 && l.lr.seq == 0 && ((onLaunch (demoLaunch .running)).queue 5).fn == 0) = some (demoLaunch .running) := by
  decide +kernel

theorem test_queues_to_assign : (1023 : Nat) + 1 ≤ 1024 ∧ (State.reset.queue 1023).en = false := by decide +kernel

theorem test_inbound_limits : ((demo .device demoT).modFw fun w => { w with
    fwins := [{ base := 0x40000, len := 64, ceil := 0, domain := 0 }] }).admits true 0x4003F = true ∧
    (demo .device demoT).admits false 0x40000 = false ∧ poolBase ≤ 2 ^ 46 := by decide +kernel

theorem test_vf_in_reset : let s := (demo .device demoT).modFw fun w => { w with vfReset := [(7, 100)] }
    s.fw.vfReset.find? (fun v => v.1 == 7) = some (7, 100) ∧ (∀ v ∈ s.fw.vfReset, v.1 ≠ 8) := by decide +kernel

theorem test_symbol_errors_within_reach : ({ demo .device demoT with symErr := [(0x400, 8)] } : State).symErr.find?
    (fun e => e.1 == 0x20000 / 128) = some (0x400, 8) := by decide +kernel

theorem test_attestation_states : ({ stage := 1 } : Spdm).stage = 1 ∧ ({ session := 1 } : Spdm).session = 1 ∧
    ({ session := 2 } : Spdm).session = 2 ∧ (State.reset.fw.spdm).session ≠ 2 := by decide +kernel

/-! ### Hypotheses of the statements about steps and encodings -/

theorem test_one_act_is_possible : (State.reset.withFetchWord 104 0xE810830405000000000000002A).acts.length = 1 ∧
    State.reset.acts = [] ∧ State.reset.fw.powered = true ∧ 2 ≤ onWindow.acts.length := by decide +kernel

theorem test_reset_is_in_form : Memory.wf State.reset.mem = true ∧ ∀ c ∈ State.reset.cores, Memory.wf c.spad = true := by
  decide +kernel

theorem test_memory_in_form : Memory.wf (demo .device demoT).mem = true := by decide +kernel

theorem test_bytes_of_every_length : 0x7F < 0x80 ∧ (0xBF : Byte).toNat < 0xC0 ∧ (0xDF : Byte).toNat < 0xE0 ∧
    (0xF7 : Byte).toNat < 0xF8 := by decide

/-! ### A word of every instruction, written from R39 and the opcode map R44 -/

/-- SUB as given, TY 2, D 1, A 2, B 3, C 4, COL 5, SCP 1, ORD 2, SAT 1, SEL 6, MODX 9 and IMM 0x12345678. -/
def fieldsOf (sub : BitVec 4) : Fields :=
  { sub := sub, ty := 2, d := 1, a := 2, b := 3, c := 4, col := 5, scp := 1, ord := 2, sat := 1, sel := 6, modx := 9, imm := 0x12345678 }

def words0 : List (Nat × Instr) :=
  [(0x000201020304AD6912345678, .nop (fieldsOf 0)),
   (0x010201020304AD6912345678, .bra (fieldsOf 0)),
   (0x023201020304AD6912345678, .brc (fieldsOf 3)),
   (0x031201020304AD6912345678, .bany (fieldsOf 1)),
   (0x041201020304AD6912345678, .bnone (fieldsOf 1)),
   (0x051201020304AD6912345678, .call (fieldsOf 1)),
   (0x060201020304AD6912345678, .ret (fieldsOf 0)),
   (0x070201020304AD6912345678, .jmp (fieldsOf 0)),
   (0x080201020304AD6912345678, .done (fieldsOf 0)),
   (0x090201020304AD6912345678, .trap (fieldsOf 0)),
   (0x0A0201020304AD6912345678, .sysc (fieldsOf 0)),
   (0x0B0201020304AD6912345678, .rdsr (fieldsOf 0)),
   (0x0C0201020304AD6912345678, .wrsr (fieldsOf 0)),
   (0x0D0201020304AD6912345678, .tick (fieldsOf 0)),
   (0x0E0201020304AD6912345678, .yield (fieldsOf 0)),
   (0x0F1201020304AD6912345678, .sleep (fieldsOf 1)),
   (0x108201020304AD6912345678, .sadd (fieldsOf 8)),
   (0x118201020304AD6912345678, .ssub (fieldsOf 8)),
   (0x128201020304AD6912345678, .smul (fieldsOf 8)),
   (0x138201020304AD6912345678, .smulhi (fieldsOf 8)),
   (0x148201020304AD6912345678, .sdiv (fieldsOf 8)),
   (0x158201020304AD6912345678, .srem (fieldsOf 8)),
   (0x168201020304AD6912345678, .sand (fieldsOf 8)),
   (0x178201020304AD6912345678, .sor (fieldsOf 8)),
   (0x188201020304AD6912345678, .sxor (fieldsOf 8)),
   (0x198201020304AD6912345678, .sandn (fieldsOf 8)),
   (0x1A8201020304AD6912345678, .sshl (fieldsOf 8)),
   (0x1B8201020304AD6912345678, .sshr (fieldsOf 8)),
   (0x1C8201020304AD6912345678, .ssra (fieldsOf 8)),
   (0x1D8201020304AD6912345678, .srol (fieldsOf 8)),
   (0x1E8201020304AD6912345678, .smin (fieldsOf 8)),
   (0x1F8201020304AD6912345678, .smax (fieldsOf 8)),
   (0x200201020304AD6912345678, .sabs (fieldsOf 0)),
   (0x210201020304AD6912345678, .sclz (fieldsOf 0)),
   (0x220201020304AD6912345678, .spop (fieldsOf 0)),
   (0x230201020304AD6912345678, .sbrev (fieldsOf 0)),
   (0x240201020304AD6912345678, .sins (fieldsOf 0)),
   (0x250201020304AD6912345678, .sxtr (fieldsOf 0)),
   (0x260201020304AD6912345678, .ssel (fieldsOf 0)),
   (0x27D201020304AD6912345678, .scmp (fieldsOf 13))]

def words1 : List (Nat × Instr) :=
  [(0x280201020304AD6912345678, .smov (fieldsOf 0)),
   (0x290201020304AD6912345678, .sli (fieldsOf 0)),
   (0x291201020304AD6912345678, .sliHi (fieldsOf 1)),
   (0x2A0201020304AD6912345678, .sadr (fieldsOf 0)),
   (0x300201020304AD6912345678, .kand (fieldsOf 0)),
   (0x310201020304AD6912345678, .kor (fieldsOf 0)),
   (0x320201020304AD6912345678, .kxor (fieldsOf 0)),
   (0x330201020304AD6912345678, .kandn (fieldsOf 0)),
   (0x340201020304AD6912345678, .knot (fieldsOf 0)),
   (0x350201020304AD6912345678, .kmov (fieldsOf 0)),
   (0x361201020304AD6912345678, .kset (fieldsOf 1)),
   (0x378201020304AD6912345678, .kget (fieldsOf 8)),
   (0x380201020304AD6912345678, .kpop (fieldsOf 0)),
   (0x390201020304AD6912345678, .kffs (fieldsOf 0)),
   (0x3A0201020304AD6912345678, .klast (fieldsOf 0)),
   (0x3B0201020304AD6912345678, .kbcast (fieldsOf 0)),
   (0x3C0201020304AD6912345678, .sqput (fieldsOf 0)),
   (0x3D0201020304AD6912345678, .vqget (fieldsOf 0)),
   (0x3E0201020304AD6912345678, .vqput (fieldsOf 0)),
   (0x3F0201020304AD6912345678, .sqget (fieldsOf 0)),
   (0x408201020304AD6912345678, .vadd (fieldsOf 8)),
   (0x418201020304AD6912345678, .vsub (fieldsOf 8)),
   (0x428201020304AD6912345678, .vmul (fieldsOf 8)),
   (0x438201020304AD6912345678, .vmulhi (fieldsOf 8)),
   (0x440201020304AD6912345678, .vmad (fieldsOf 0)),
   (0x458201020304AD6912345678, .vand (fieldsOf 8)),
   (0x468201020304AD6912345678, .vor (fieldsOf 8)),
   (0x478201020304AD6912345678, .vxor (fieldsOf 8)),
   (0x488201020304AD6912345678, .vandn (fieldsOf 8)),
   (0x498201020304AD6912345678, .vshl (fieldsOf 8)),
   (0x4A8201020304AD6912345678, .vshr (fieldsOf 8)),
   (0x4B8201020304AD6912345678, .vsra (fieldsOf 8)),
   (0x4C8201020304AD6912345678, .vmin (fieldsOf 8)),
   (0x4D8201020304AD6912345678, .vmax (fieldsOf 8)),
   (0x4E0201020304AD6912345678, .vabs (fieldsOf 0)),
   (0x4F0201020304AD6912345678, .vneg (fieldsOf 0)),
   (0x500201020304AD6912345678, .vclz (fieldsOf 0)),
   (0x510201020304AD6912345678, .vpop (fieldsOf 0)),
   (0x52D201020304AD6912345678, .vcmp (fieldsOf 13)),
   (0x530201020304AD6912345678, .vsel (fieldsOf 0))]

def words2 : List (Nat × Instr) :=
  [(0x540201020304AD6912345678, .vmov (fieldsOf 0)),
   (0x55A201020304AD6912345678, .vperm (fieldsOf 10)),
   (0x568201020304AD6912345678, .vbcast (fieldsOf 8)),
   (0x575201020304AD6912345678, .vred (fieldsOf 5)),
   (0x585201020304AD6912345678, .vscan (fieldsOf 5)),
   (0x598201020304AD6912345678, .vlane (fieldsOf 8)),
   (0x5A8201020304AD6912345678, .vsplat (fieldsOf 8)),
   (0x608201020304AD6912345678, .fadd (fieldsOf 8)),
   (0x618201020304AD6912345678, .fsub (fieldsOf 8)),
   (0x628201020304AD6912345678, .fmul (fieldsOf 8)),
   (0x630201020304AD6912345678, .fma (fieldsOf 0)),
   (0x648201020304AD6912345678, .fmin (fieldsOf 8)),
   (0x658201020304AD6912345678, .fmax (fieldsOf 8)),
   (0x660201020304AD6912345678, .fabs (fieldsOf 0)),
   (0x670201020304AD6912345678, .fneg (fieldsOf 0)),
   (0x68F201020304AD6912345678, .fcmp (fieldsOf 15)),
   (0x690201020304AD6912345678, .frcp (fieldsOf 0)),
   (0x6A0201020304AD6912345678, .frsq (fieldsOf 0)),
   (0x6B0201020304AD6912345678, .fsqrt (fieldsOf 0)),
   (0x6C0201020304AD6912345678, .fexp2 (fieldsOf 0)),
   (0x6D0201020304AD6912345678, .flog2 (fieldsOf 0)),
   (0x6E0201020304AD6912345678, .fsin (fieldsOf 0)),
   (0x6F0201020304AD6912345678, .fcos (fieldsOf 0)),
   (0x700201020304AD6912345678, .ftanh (fieldsOf 0)),
   (0x718201020304AD6912345678, .fscale (fieldsOf 8)),
   (0x720201020304AD6912345678, .fclass (fieldsOf 0)),
   (0x730201020304AD6912345678, .fcvtSlot (fieldsOf 0)),
   (0x731201020304AD6912345678, .fcvtFromInt (fieldsOf 1)),
   (0x732201020304AD6912345678, .fcvtToInt (fieldsOf 2)),
   (0x740201020304AD6912345678, .fsrnd (fieldsOf 0)),
   (0x750201020304AD6912345678, .frnd (fieldsOf 0)),
   (0x760201020304AD6912345678, .fdot (fieldsOf 0)),
   (0x771201020304AD6912345678, .fzpt (fieldsOf 1)),
   (0x803201020304AD6912345678, .lds (fieldsOf 3)),
   (0x813201020304AD6912345678, .sts (fieldsOf 3)),
   (0x820201020304AD6912345678, .ldsb (fieldsOf 0)),
   (0x830201020304AD6912345678, .xld (fieldsOf 0)),
   (0x831201020304AD6912345678, .xldX24 (fieldsOf 1)),
   (0x832201020304AD6912345678, .xldNt (fieldsOf 2)),
   (0x840201020304AD6912345678, .xst (fieldsOf 0))]

def words3 : List (Nat × Instr) :=
  [(0x850201020304AD6912345678, .xgat (fieldsOf 0)),
   (0x860201020304AD6912345678, .xsct (fieldsOf 0)),
   (0x870201020304AD6912345678, .xcpy (fieldsOf 0)),
   (0x871201020304AD6912345678, .xcpyMc (fieldsOf 1)),
   (0x880201020304AD6912345678, .xfill (fieldsOf 0)),
   (0x890201020304AD6912345678, .qjoin (fieldsOf 0)),
   (0x8A0201020304AD6912345678, .tgwany (fieldsOf 0)),
   (0x8B0201020304AD6912345678, .tgwall (fieldsOf 0)),
   (0x8C0201020304AD6912345678, .tgffr (fieldsOf 0)),
   (0x8D0201020304AD6912345678, .tgclr (fieldsOf 0)),
   (0x8E2201020304AD6912345678, .tgget (fieldsOf 2)),
   (0x8F0201020304AD6912345678, .bini (fieldsOf 0)),
   (0x900201020304AD6912345678, .barr (fieldsOf 0)),
   (0x901201020304AD6912345678, .barrN (fieldsOf 1)),
   (0x902201020304AD6912345678, .barrExp (fieldsOf 2)),
   (0x910201020304AD6912345678, .bexp (fieldsOf 0)),
   (0x921201020304AD6912345678, .bwait (fieldsOf 1)),
   (0x931201020304AD6912345678, .btest (fieldsOf 1)),
   (0x940201020304AD6912345678, .bcan (fieldsOf 0)),
   (0x950201020304AD6912345678, .nqini (fieldsOf 0)),
   (0x960201020304AD6912345678, .nqsend (fieldsOf 0)),
   (0x970201020304AD6912345678, .nqrecv (fieldsOf 0)),
   (0x980201020304AD6912345678, .nqret (fieldsOf 0)),
   (0x990201020304AD6912345678, .nqtry (fieldsOf 0)),
   (0x9A0201020304AD6912345678, .nbsync (fieldsOf 0)),
   (0x9B0201020304AD6912345678, .nbarv (fieldsOf 0)),
   (0x9C0201020304AD6912345678, .tbsync (fieldsOf 0)),
   (0x9D0201020304AD6912345678, .tbarv (fieldsOf 0)),
   (0xA00201020304AD6912345678, .mxgo (fieldsOf 0)),
   (0xA10201020304AD6912345678, .mxmul (fieldsOf 0)),
   (0xA20201020304AD6912345678, .mxdual (fieldsOf 0)),
   (0xA30201020304AD6912345678, .mxsp (fieldsOf 0)),
   (0xA41201020304AD6912345678, .mxzero (fieldsOf 1)),
   (0xA50201020304AD6912345678, .mxld (fieldsOf 0)),
   (0xA62201020304AD6912345678, .mxst (fieldsOf 2)),
   (0xA71201020304AD6912345678, .mxadd (fieldsOf 1)),
   (0xA80201020304AD6912345678, .mxscl (fieldsOf 0)),
   (0xA90201020304AD6912345678, .mxwaitTg (fieldsOf 0)),
   (0xA91201020304AD6912345678, .mxwaitBo (fieldsOf 1)),
   (0xAA0201020304AD6912345678, .mxnb (fieldsOf 0))]

def words4 : List (Nat × Instr) :=
  [(0xAA1201020304AD6912345678, .mxnbArv (fieldsOf 1)),
   (0xAB0201020304AD6912345678, .mxloopBegin (fieldsOf 0)),
   (0xAB1201020304AD6912345678, .mxloop (fieldsOf 1)),
   (0xAC0201020304AD6912345678, .mxend (fieldsOf 0)),
   (0xAD1201020304AD6912345678, .mxstat (fieldsOf 1)),
   (0xAE0201020304AD6912345678, .mxnorm (fieldsOf 0)),
   (0xAF0201020304AD6912345678, .mxalias (fieldsOf 0)),
   (0xB00201020304AD6912345678, .mxsamp (fieldsOf 0)),
   (0xB11201020304AD6912345678, .mxvar (fieldsOf 1)),
   (0xB20201020304AD6912345678, .ld (fieldsOf 0)),
   (0xB21201020304AD6912345678, .ldAc (fieldsOf 1)),
   (0xB30201020304AD6912345678, .st (fieldsOf 0)),
   (0xB40201020304AD6912345678, .vld (fieldsOf 0)),
   (0xB41201020304AD6912345678, .vldAc (fieldsOf 1)),
   (0xB50201020304AD6912345678, .vst (fieldsOf 0)),
   (0xB61201020304AD6912345678, .vldw (fieldsOf 1)),
   (0xB70201020304AD6912345678, .vstw (fieldsOf 0)),
   (0xB80201020304AD6912345678, .acwait (fieldsOf 0)),
   (0xB90201020304AD6912345678, .acget (fieldsOf 0)),
   (0xBA0201020304AD6912345678, .acclr (fieldsOf 0)),
   (0xBB2201020304AD6912345678, .pref (fieldsOf 2)),
   (0xBC1201020304AD6912345678, .cfl (fieldsOf 1)),
   (0xBD0201020304AD6912345678, .fence (fieldsOf 0)),
   (0xBE0201020304AD6912345678, .aadd (fieldsOf 0)),
   (0xBF0201020304AD6912345678, .amin (fieldsOf 0)),
   (0xC00201020304AD6912345678, .amax (fieldsOf 0)),
   (0xC10201020304AD6912345678, .aand (fieldsOf 0)),
   (0xC20201020304AD6912345678, .aor (fieldsOf 0)),
   (0xC30201020304AD6912345678, .axor (fieldsOf 0)),
   (0xC40201020304AD6912345678, .axch (fieldsOf 0)),
   (0xC50201020304AD6912345678, .acas (fieldsOf 0)),
   (0xC60201020304AD6912345678, .ainb (fieldsOf 0)),
   (0xC70201020304AD6912345678, .ainw (fieldsOf 0)),
   (0xC80201020304AD6912345678, .adecp (fieldsOf 0)),
   (0xC90201020304AD6912345678, .aflim (fieldsOf 0)),
   (0xCA0201020304AD6912345678, .aaddf (fieldsOf 0)),
   (0xCB0201020304AD6912345678, .redadd (fieldsOf 0)),
   (0xCC0201020304AD6912345678, .redmin (fieldsOf 0)),
   (0xCD0201020304AD6912345678, .redmax (fieldsOf 0)),
   (0xCE0201020304AD6912345678, .redand (fieldsOf 0))]

def words5 : List (Nat × Instr) :=
  [(0xCF0201020304AD6912345678, .redor (fieldsOf 0)),
   (0xD00201020304AD6912345678, .redxor (fieldsOf 0)),
   (0xD10201020304AD6912345678, .redaddf (fieldsOf 0)),
   (0xD21201020304AD6912345678, .tdep (fieldsOf 1)),
   (0xD31201020304AD6912345678, .tread (fieldsOf 1)),
   (0xD41201020304AD6912345678, .ttake (fieldsOf 1)),
   (0xD50201020304AD6912345678, .tcan (fieldsOf 0)),
   (0xD61201020304AD6912345678, .tstat (fieldsOf 1)),
   (0xD70201020304AD6912345678, .slvtab (fieldsOf 0)),
   (0xD80201020304AD6912345678, .slvini (fieldsOf 0)),
   (0xD90201020304AD6912345678, .slvstg (fieldsOf 0)),
   (0xDA0201020304AD6912345678, .slvend (fieldsOf 0)),
   (0xDB0201020304AD6912345678, .slvst (fieldsOf 0)),
   (0xDB1201020304AD6912345678, .slvstRel (fieldsOf 1)),
   (0xDC0201020304AD6912345678, .fmreq (fieldsOf 0)),
   (0xDD1201020304AD6912345678, .fmfence (fieldsOf 1)),
   (0xDE0201020304AD6912345678, .fmq (fieldsOf 0)),
   (0xDE1201020304AD6912345678, .fmqHash (fieldsOf 1)),
   (0xDF0201020304AD6912345678, .fmrel (fieldsOf 0)),
   (0xE02201020304AD6912345678, .grd (fieldsOf 2)),
   (0xE11201020304AD6912345678, .grraise (fieldsOf 1)),
   (0xE21201020304AD6912345678, .grdecl (fieldsOf 1)),
   (0xE30201020304AD6912345678, .ticket (fieldsOf 0)),
   (0xE40201020304AD6912345678, .tkret (fieldsOf 0)),
   (0xE52201020304AD6912345678, .phint (fieldsOf 2)),
   (0xE61201020304AD6912345678, .spawn (fieldsOf 1)),
   (0xE70201020304AD6912345678, .binflush (fieldsOf 0)),
   (0xE81201020304AD6912345678, .bincfg (fieldsOf 1)),
   (0xE92201020304AD6912345678, .frec (fieldsOf 2)),
   (0xEA0201020304AD6912345678, .fres (fieldsOf 0)),
   (0xEA1201020304AD6912345678, .fresM (fieldsOf 1)),
   (0xEA2201020304AD6912345678, .fresRet (fieldsOf 2)),
   (0xEB0201020304AD6912345678, .fdrop (fieldsOf 0)),
   (0xEB1201020304AD6912345678, .fdropEnd (fieldsOf 1)),
   (0xEC0201020304AD6912345678, .nflg (fieldsOf 0)),
   (0xEC1201020304AD6912345678, .nflgClr (fieldsOf 1)),
   (0xEC2201020304AD6912345678, .nflgSet (fieldsOf 2)),
   (0xEC3201020304AD6912345678, .nflgDef (fieldsOf 3)),
   (0xED0201020304AD6912345678, .post (fieldsOf 0)),
   (0xEE0201020304AD6912345678, .qring (fieldsOf 0))]

theorem test_every_word_decodes : ∀ x ∈ words0 ++ words1 ++ words2 ++ words3 ++ words4 ++ words5,
    decode ((0xE8 : Byte) :: beBytes 12 x.1) = .ok x.2 13 := by decide +kernel

/-! ### Units of the spec's worked examples -/

theorem test_examples_of_M_and_S_units :
    decode [0xB6, 0xC0, 0xA0, 0x00] = .ok (.slvst { d := 10 }) 4 ∧
    decode [0xBA, 0xC0, 0x30, 0x80] = .ok (.fdrop { d := 3, a := 2 }) 4 ∧
    decode [0xBB, 0x80, 0x01, 0x05] = .ok (.qring { a := 4, b := 5 }) 4 ∧
    decode [0xB6, 0x80, 0x00, 0x00] = .ok (.slvend {}) 4 ∧
    decode [0xA8, 0x40, 0x00, 0x42] = .ok (.mxmul { a := 1, b := 2 }) 4 := by decide +kernel

theorem test_examples_of_L_units :
    decode [0xCE, 0x10, 0x00, 0x50, 0x40, 0x00, 0x00, 0x03] = .ok (.grraise { d := 5, a := 4, imm := 3 }) 8 ∧
    decode [0xCE, 0x90, 0x00, 0xB0, 0xA0, 0x00, 0x00, 0x02] = .ok (.frec { d := 11, a := 10, imm := 2 }) 8 ∧
    decode [0xDB, 0xF0, 0x21, 0x41, 0x20, 0x04, 0xB0, 0x00] =
      .ok (.amin { ty := 2, d := 20, a := 18, b := 0, c := 75 }) 8 ∧
    decode [0xDD, 0x10, 0x00, 0x01, 0x30, 0x10, 0x20, 0x08] =
      .ok (.redaddf { a := 19, b := 1, c := 2, modx := 8 }) 8 := by decide +kernel

theorem test_examples_of_F_units :
    decode [0xE8, 0xBD, 0, 0, 0, 0, 0, 0x14, 0, 0, 0, 0, 1] = .ok (.fence { scp := 2, ord := 2, imm := 1 }) 13 ∧
    decode [0xE8, 0xA2, 0, 0, 1, 2, 3, 0, 0x1A, 0, 0, 0, 0] =
      .ok (.mxdual { a := 1, b := 2, c := 3, sel := 1, modx := 10 }) 13 ∧
    decode [0xE8, 0xA1, 0, 0, 1, 2, 0, 0, 0x16, 0, 0, 0, 0x40] =
      .ok (.mxmul { a := 1, b := 2, sel := 1, modx := 6, imm := 0x40 }) 13 := by decide +kernel

theorem test_rejected_bytes : decode [0xE0] = .bad .firstByte 1 0 ∧ decode [0xF8, 0, 0, 0] = .bad .firstByte 1 0 ∧
    decode [] = .bad .truncated 1 0 ∧ decode [0xC1, 0x00] = .bad .truncated 8 0 ∧
    decode (0xE8 :: 0x2B :: List.replicate 11 0) = .bad .opcode 13 0x2B ∧
    decode (0xE8 :: 0xFF :: List.replicate 11 0) = .bad .poison 13 0xFF ∧
    decode (0xE8 :: 0x00 :: 0x10 :: List.replicate 10 0) = .bad .variant 13 0 := by decide +kernel

theorem test_encode_is_read_back : ∀ i ∈ scalarSamples ++ vectorSamples ++ streamSamples ++ [.clauseHeader { len := 7, wait := 0xFFF, z := 1 }],
    (match encode i with | some bs => decode bs == .ok i bs.length | none => false) = true := by decide +kernel

/-! ### Every check of well-formedness refuses something (R46, R38, R179) -/

theorem test_headers_refused : ∀ h ∈ [({ seta := 0xC } : Header), { seta := 0, setb := 0xE }, { seta := 0xF, setb := 0 },
      { seta := 3, setb := 3 }, { seta := 0xF, setb := 0xF, rsv := 1 }],
    decodeFault false (.clauseHeader h) = some .illop := by decide +kernel

theorem test_stream_headers_refused : ∀ h ∈ [({ seta := 0xF, setb := 0xF, wait := 1 } : Header), { seta := 0, setb := 0xF },
      { seta := 0xF, setb := 0xF, z := 1 }], decodeFault true (.clauseHeader h) = some .illop := by decide +kernel

theorem test_specifiers_refused : ∀ i ∈ [Instr.smov { ty := 3, a := 0xEA }, .smov { ty := 3, d := 0xE1 }, .sadd { sub := 8, b := 1 },
      .vadd { a := 0xCB }, .vadd { d := 0x40 }, .vadd { sub := 8, b := 1 }, .vadd { c := 1 }, .ld { b := 1 }, .vld { b := 1 },
      .call { a := 1 }, .tdep { imm := 1, c := 0x40 }, .tread { imm := 1, d := 0xC1 }, .spawn { b := 0x3D }, .spawn { c := 1 },
      .fresRet { sub := 2, b := 0x7D }, .lds { b := 1 }, .grd { sub := 1, a := 0xCB }, .grraise { sub := 1, d := 0x41 }],
    decodeFault false i = some .illop := by decide +kernel

theorem test_unused_fields_refused : ∀ i ∈ [Instr.smov { ty := 3, imm := 1 }, .sabs { sat := 1, imm := 1 }, .smov { ty := 3, modx := 1 },
      .smov { ty := 3, sel := 1 }, .smov { ty := 3, col := 1 }, .smov { ty := 3, scp := 1 }, .smov { ty := 3, ord := 1 },
      .sadd { imm := 1 }, .vadd { imm := 1 }, .nop { sub := 1 }, .mxmul {}],
    decodeFault false i = some .illop := by decide +kernel

theorem test_forms_refused : ∀ i ∈ [Instr.trap { imm := 0x10000 }, .rdsr { imm := 8 }, .wrsr { imm := 0 }, .sleep { imm := 0x100000 },
      .sins { ty := 3, imm := 0 }, .sxtr { ty := 3, imm := 0x4100 }, .ld { modx := 4 }, .st { col := 7 }, .kset { imm := 0x4101 }, .kget { sub := 8, imm := 64 },
      .vbcast { sub := 8, ty := 2, imm := 64 }, .vred { modx := 2 }, .vscan { modx := 8 }, .frnd { modx := 4 }, .fadd { modx := 2 },
      .fsrnd { imm := 25 }, .fzpt { imm := 4 }, .lds { ord := 2 }, .sts { ord := 1 }, .ldsb { scp := 2 }, .xld { ord := 1 }, .xld { imm := 64 },
      .qjoin { sel := 0 }, .nbsync { imm := 34 }, .tbsync { sel := 4 }, .vldw { modx := 7 }, .aflim { ty := 2 }, .fence {},
      .tdep { imm := 15 }, .ttake { imm := 1, sel := 1 }, .grd { imm := 1 }, .ticket { imm := 6 }, .phint {}, .bincfg {},
      .frec { imm := 8 }, .post { imm := 0x10000 }, .vstw { ord := 1 }], decodeFault false i = some .illop := by decide +kernel

theorem test_stream_forms_refused : ∀ i ∈ [Instr.mxmul { a := 8 }, .mxmul { d := 2 }, .mxmul { modx := 11, sel := 1 }, .mxzero { modx := 9 },
      .mxzero { sub := 1, imm := 1 }, .mxld { imm := 0x10000 }, .mxst { sub := 2, imm := 0x190000 }, .mxadd { sub := 1, a := 8 },
      .mxadd { a := 2 }, .mxnb {}, .mxloopBegin { imm := 0x100001 }, .mxscl { sel := 1 }, .mxsamp { c := 7 }, .mxvar { d := 8 }],
    decodeFault true i = some .illop := by decide +kernel

theorem test_types_refused : ∀ i ∈ [Instr.nop { ty := 1 }, .sadd { ty := 8 }, .vadd { ty := 3 }, .vadd { ty := 7 }, .fmreq { ty := 7 },
      .lds { sub := 2, ty := 0 }, .vred { ty := 7 }, .fcvtFromInt { sub := 1, sel := 3 }, .aadd { ty := 0 }],
    decodeFault false i = some .illtype := by decide +kernel

/-! ### Results worked out by hand from the rules -/

/-- Register s n of the troupe after an instruction. -/
def sAfter (o : Out) (n : Nat) : GW :=
  match o with
  | .next s => match s.troupe? ⟨0, 0⟩ with | some t => t.s.getD n {} | none => {}
  | _ => {}

/-- Register v n of the troupe after an instruction. -/
def vAfter (o : Out) (n : Nat) : VReg :=
  match o with
  | .next s => match s.troupe? ⟨0, 0⟩ with | some t => t.v.getD n {} | none => {}
  | _ => {}

/-- The pc of the troupe after an instruction. -/
def pcAfter (o : Out) : Word :=
  match o with
  | .next s => match s.troupe? ⟨0, 0⟩ with | some t => t.pc | none => 0
  | _ => 0

/-- The sticky flags of the troupe after an instruction. -/
def flAfter (o : Out) : BitVec 4 :=
  match o with
  | .next s => match s.troupe? ⟨0, 0⟩ with | some t => t.sticky | none => 0
  | _ => 0

/-- The scalar side runs `i` with s1 and s2 as given. -/
def runS (i : Instr) (a b : GW) : Out := exec i (onScalar { demoT with s := [{}, a, b] ++ List.replicate 125 {} })

/-- The vector side runs `i` with v1 and v2 as given, under a mask. -/
def runV (i : Instr) (a b : VReg) (k0 : Word) : Out :=
  let t := { withHead demoT i { k0 := k0 } with v := [{}, a, b] ++ List.replicate 61 {} }
  exec i (onVector t)

/-- A uniform register. -/
def uni (x : Lane) : VReg := { sh := .uniform x }

theorem test_add_wraps : (sAfter (runS (.sadd { d := 3, a := 1, b := 2 }) { v := 127, g := 2 } { v := 1, g := 5 }) 3) =
    { v := 0xFFFFFFFFFFFFFF80, g := 5 } := by decide +kernel

theorem test_add_clamps : (sAfter (runS (.sadd { sat := 1, d := 3, a := 1, b := 2 }) { v := 127 } { v := 1 }) 3).v = 127 := by
  decide +kernel

theorem test_unsigned_subtract_wraps : (sAfter (runS (.ssub { ty := 6, d := 3, a := 1, b := 2 }) {} { v := 1 }) 3).v = 0xFFFFFFFF := by
  decide +kernel

theorem test_high_product_rounds_down :
    (sAfter (runS (.smulhi { ty := 3, d := 3, a := 1, b := 2 }) { v := BitVec.allOnes 64 } { v := 1 }) 3).v = BitVec.allOnes 64 := by
  decide +kernel

theorem test_leading_zeros : (sAfter (runS (.sclz { ty := 2, d := 3, a := 1 }) { v := 1 } {}) 3).v = 31 := by decide +kernel

theorem test_reverse_bits : (sAfter (runS (.sbrev { ty := 4, d := 3, a := 1 }) { v := 1 } {}) 3).v = 0x80 := by decide +kernel

theorem test_shift_by_the_width : (sAfter (runS (.sshl { ty := 3, d := 3, a := 1, b := 2 }) { v := 1 } { v := 64 }) 3).v = 0 := by
  decide +kernel

theorem test_arithmetic_shift_beyond_the_width :
    (sAfter (runS (.ssra { ty := 0, d := 3, a := 1, b := 2 }) { v := 0x80 } { v := 100 }) 3).v = BitVec.allOnes 64 := by
  decide +kernel

theorem test_rotate : (sAfter (runS (.srol { ty := 4, d := 3, a := 1, b := 2 }) { v := 0x81 } { v := 9 }) 3).v = 3 := by decide +kernel

theorem test_extract_signed : (sAfter (runS (.sxtr { ty := 3, d := 3, a := 1, imm := 0x804 }) { v := 0xFF0 } {}) 3).v =
    BitVec.allOnes 64 := by decide +kernel

theorem test_first_set_of_none : (sAfter (runS (.kffs { d := 3, a := 1 }) {} {}) 3).v = 64 := by decide +kernel

theorem test_zero_destination_discards : sAfter (runS (.sadd { d := 0xE0, a := 1, b := 2 }) { v := 1 } { v := 1 }) 1 = { v := 1 } := by
  decide +kernel

theorem test_branch_backwards : pcAfter (runS (.bra { imm := 0xFFFFFFC0 }) {} {}) = 0xFFFFFFFFFFFFFFC0 := by decide +kernel

theorem test_branch_not_taken : pcAfter (runS (.brc { ty := 3, a := 1, imm := 0x40 }) {} {}) = 8 := by decide +kernel

theorem test_call_links : (sAfter (runS (.call { imm := 0x100 }) {} {}) 127).v = 8 ∧ pcAfter (runS (.call { imm := 0x100 }) {} {}) = 0x100 := by
  decide +kernel

theorem test_affine_plus_uniform : (vAfter (runV (.vadd { ty := 2, d := 3, a := 1, b := 2 })
    { sh := .affine 10 4, g := 1 } { sh := .uniform 5, g := 3 } allLanes) 3) = { sh := .affine 15 4, g := 3 } := by decide +kernel

theorem test_stride_zero_is_uniform : (vAfter (runV (.vsub { ty := 2, d := 3, a := 1, b := 2 })
    { sh := .affine 10 4 } { sh := .affine 3 4 } allLanes) 3).sh = .uniform 7 := by decide +kernel

theorem test_masked_lanes_keep : ((vAfter (runV (.vadd { ty := 2, d := 1, a := 1, b := 2 }) (uni 7) (uni 1) 1) 1).sh.lane 0,
    (vAfter (runV (.vadd { ty := 2, d := 1, a := 1, b := 2 }) (uni 7) (uni 1) 1) 1).sh.lane 1) = (8, 7) := by decide +kernel

theorem test_no_lane_changes_nothing : vAfter (runV (.vmov { ty := 2, d := 1, a := 2 }) (uni 7) { sh := .uniform 1, g := 7 } 0) 1 = uni 7 := by
  decide +kernel

theorem test_vector_shift_of_bytes : (vAfter (runV (.vshr { ty := 4, d := 3, a := 1, b := 2 }) (uni 0xF0) (uni 4) allLanes) 3).sh.lane 9 = 0xF := by
  decide +kernel

theorem test_one_plus_one : (vAfter (runV (.fadd { d := 3, a := 1, b := 2 }) (uni 0x3F800000) (uni 0x3F800000) allLanes) 3).sh.lane 63 =
    0x40000000 := by decide +kernel

theorem test_third_is_inexact : let o := runV (.fmul { d := 3, a := 1, b := 2 }) (uni 0x3F800001) (uni 0x3F800001) allLanes
    ((vAfter o 3).sh.lane 0, flAfter o) = (0x3F800002, 4) := by decide +kernel

theorem test_product_overflows : let o := runV (.fmul { d := 3, a := 1, b := 2 }) (uni 0x7F000000) (uni 0x7F000000) allLanes
    ((vAfter o 3).sh.lane 0, (flAfter o).getLsbD 1) = (0x7F800000, true) := by decide +kernel

theorem test_infinity_minus_itself_is_invalid : (flAfter (runV (.fsub { d := 3, a := 1, b := 2 }) (uni 0x7F800000) (uni 0x7F800000) allLanes)).getLsbD 0 = true := by
  decide +kernel

theorem test_bf16_ties_to_even : (vAfter (runV (.fcvtSlot { ty := 1, sel := 0, d := 3, a := 1 }) (uni 0x3F808000) (uni 0) allLanes) 3).sh.lane 0 = 0x3F80 := by
  decide +kernel

theorem test_integer_conversion_saturates : let o := runV (.fcvtToInt { sub := 2, ty := 0, sel := 0, d := 3, a := 1 }) (uni 0x43800000) (uni 0) allLanes
    ((vAfter o 3).sh.lane 0, flAfter o) = (127, 1) := by decide +kernel

theorem test_lane_index_of_splat : (vAfter (runV (.vsplat { ty := 2, d := 3, a := 1, b := 2 }) (uni 5) (uni 3) allLanes) 3).sh.lane 10 = 35 := by
  decide +kernel

theorem test_store_is_little_endian : (match exec (.st { ty := 2, c := 0 }) (onVector (withHead demoT (.st { ty := 2, c := 0 })
      { a := { v := 0x20 }, c := { v := 0x11223344 } })) with
    | .next s => cellReadN s.mem 0x40020 4 | _ => []) = [0x44, 0x33, 0x22, 0x11] := by decide +kernel

/-- The scalar side runs `i` at 0x40 in a context whose fault queue is not mapped, so that a record stays held. -/
def runHeld (i : Instr) : Out :=
  exec i { onScalar { demoT with pc := 0x40 } with ctxs := [{ asid := 1, root := 0x10000, fqbase := 0x40000000 }] }

theorem test_trap_stops_behind_its_unit : (match runHeld (.trap { imm := 0x1234 }) with
    | .next s => (s.troupe? ⟨0, 0⟩).map fun t => (t.stopped, t.pc) | _ => none) = some ([1], 0x48) := by decide +kernel

theorem test_trap_saves_its_address : (match runHeld (.trap { imm := 0x1234 }) with
    | .next s => (s.ctx 1).recs.map fun r => (r.cause, r.code, r.iaddr, r.fseq) | _ => []) = [(.trap, 0x1234, 0x40, 1)] := by decide +kernel

theorem test_privileged_declaration_faults : (match runHeld (.grdecl {}) with
    | .next s => (s.ctx 1).recs.map (·.cause) | _ => []) = [.priv] := by decide +kernel
/-! ### Every hypothesis of the statements on completion -/

/-- The memory instructions, each with lane 0 alone. -/
def memSamples : List Instr :=
  [.lds {}, .ldsb {}, .sts {}, .ld {}, .ldAc { sub := 1 }, .vld {}, .vldAc { sub := 1 }, .vldw {}, .st {}, .vst {}, .vstw {},
   .aadd { ty := 2 }, .amin { ty := 2 }, .amax { ty := 2 }, .aand { ty := 2 }, .aor { ty := 2 }, .axor { ty := 2 }, .axch { ty := 2 },
   .acas { ty := 2 }, .ainb { ty := 2 }, .ainw { ty := 2 }, .adecp { ty := 2 }, .aflim { ty := 2, sel := 1 }, .aaddf {},
   .redadd { ty := 2 }, .redmin { ty := 2 }, .redmax { ty := 2 }, .redand { ty := 2 }, .redor { ty := 2 }, .redxor { ty := 2 },
   .redaddf {}, .pref {}, .cfl {}]

/-- Operands of a memory instruction: lane 0, at 0 or in the scratchpad. -/
def laneCap (i : Instr) : Cap :=
  { k0 := 1, a := { v := match i with | .lds _ => 0x01F0000000000000 | .sts _ => 0x01F0000000000000 | .ldsb _ => 0x01F0000000000000 | _ => 0 } }

/-- The package before that instruction. -/
def onLane (i : Instr) : State := onVector (withHead demoT i (laneCap i))

/-- Where its lane goes. -/
def laneAcc (i : Instr) : Acc :=
  (onLane i).access ((onLane i).ringParty 0)
    (lanePlace i (i.fields.getD {}) { instr := i, cap := laneCap i } (withHead demoT i (laneCap i)) 0).toNat
    (accessWant i (i.fields.getD {}) (dataGrade i (i.fields.getD {}) { instr := i, cap := laneCap i } (withHead demoT i (laneCap i))))

theorem test_memory_may : ∀ i ∈ memSamples,
    MemoryMay i (i.fields.getD {}) { instr := i, cap := laneCap i } (withHead demoT i (laneCap i)) (onLane i) := by
  unfold MemoryMay VectorMay Troupe.calm; decide +kernel

theorem test_one_lane_reaches : ∀ i ∈ memSamples, accessLanes i 1 = [0] ∧ passes (onLane i) (laneAcc i) = true ∧
    (onLane i).cutOff (siteOf (laneAcc i)) (isReduction i) = false ∧ (siteOf (laneAcc i)).win = none := by decide +kernel

theorem test_memory_accesses_may_complete : ∀ i ∈ memSamples,
    let e : VEntry := { instr := i, cap := laneCap i }
    let t := withHead demoT i (laneCap i)
    let site := fun _ => siteOf (laneAcc i)
    MemoryMay i (i.fields.getD {}) e t (onLane i) ∧ Steady i (i.fields.getD {}) e t (onLane i) site ∧
      Reaches i (i.fields.getD {}) e t (onLane i) 0 (site 0) ∧ Apart i e site := by
  intro i hi
  obtain ⟨h1, h2, h3, -⟩ := test_one_lane_reaches i hi
  have hm := test_memory_may i hi
  simp only [passes, Bool.and_eq_true, beq_iff_eq, decide_eq_true_eq, List.all_eq_true] at h2
  refine ⟨hm, .inl ⟨0, h1⟩, ⟨h2.1.1, h3, h2.1.2, fun c a h => ?_⟩, fun n hn m hm hne => ?_⟩
  · simpa using h2.2 _ h
  · rw [show accessLanes i (laneCap i).k0 = [0] from h1, List.mem_singleton] at hn hm
    exact absurd (hn.trans hm.symm) hne

/-- A row of the scratchpad, one place for each lane. -/
def rowSite (n : Nat) : Site :=
  siteOf ((onVector demoT).access ((onVector demoT).ringParty 0) (ringWin + 4 * n) (accessWant (.sts { sub := 2, ty := 2 }) { sub := 2, ty := 2 } 0))

theorem test_row_of_places_apart :
    (∀ n ∈ List.range 64, (rowSite n).scratch = true ∧ (rowSite n).locs = (List.range 4).map fun k => .spad 0 (4 * n + k)) := by
  decide +kernel

/-- The package with window 0 of its own mapped at 0x40000, and `i` next. -/
def onWindowPage (i : Instr) (cap : Cap) : State :=
  let s := onVector (withHead demoT i cap)
  { s with mem := cellWriteN s.mem 0x30008 (leBytes (3 * 2 ^ 58 + 0x1B) 8) }.modFw fun w => { w with
    wins := [{ num := 0, home := w.pkg, base := 0x50000, pages := 1, red := true, acc := true, members := 2 }] }

theorem test_reduction_into_a_window :
    let cap : Cap := { k0 := 1, a := { v := 0x40000 } }
    let i := Instr.redadd { ty := 2 }
    let s := onWindowPage i cap
    let x := s.access (s.ringParty 0) 0x40000 (accessWant i { ty := 2 } 0)
    passes s x = true ∧ s.cutOff (siteOf x) true = false ∧ (siteOf x).win ≠ none ∧ (siteOf x).locs.head? = some (.phys 0x50000) := by
  decide +kernel

theorem test_place_stays_reachable :
    let s := (onVector demoT).touch ((onVector demoT).ringParty 0) 0
      (siteOf ((onVector demoT).access ((onVector demoT).ringParty 0) 0 (accessWant (.st {}) {} 0)))
    (s.core 0).tlb.any (fun x => x.covers 1 0) = true := by decide +kernel

/-- Every copy and the join, each with legal operands on tag 0. -/
def copySamples : List Instr :=
  [.xld {}, .xldX24 { sub := 1 }, .xst {}, .xgat {}, .xsct {}, .xcpy {}, .xcpyMc { sub := 1 }, .xfill {}, .xldNt { sub := 2 }]

/-- The package before that copy. -/
def onCopying (i : Instr) : State := onVector (withHead demoT i (copyCap i))

theorem test_copies_have_room : ∀ i ∈ copySamples,
    ((onCopying i).ring 0).tagcnt.getD 0 0 < 255 ∧ ((onCopying i).core 0).cq0.length < 32 ∧ 0 < ((onCopying i).ring 0).tags ∧
      (onCopying i).spadDest 0 (copyCap i).a.v.toNat 1 = some (0, (copyCap i).a.v.toNat) ∨ i = .xcpyMc { sub := 1 } := by
  decide +kernel

theorem test_runs_in_the_ring :
    (∀ x ∈ [(0x01F0000000000000, 64), (0x01F0000000000040, 64), (0x01F0000000000000, 0x80 * 16 / 8)],
      ((onVector demoT).spadDest 0 x.1 x.2).map (·.1) = some 0) ∧
    (∃ x, (onVector demoT).peerRing 0 0 = some x ∧ 0x40 + 0x40 ≤ x.spLen) ∧
    (onCopying (.xgat {})).peekRank 0 0 ≤ 127 ∧ inWindows 0 = false ∧ inWindows 0x7FF = false := by
  refine ⟨by decide +kernel, ⟨demoRing, by decide +kernel, by decide⟩, by decide +kernel⟩

theorem test_bound_object_of_a_copy :
    let i := Instr.xld { modx := 8, imm := 0x100 }
    let s := (onVector (withHead demoT i (copyCap i))).modCore 0 fun c => { c with
      spad := cellWriteN [] 0x100 (leBytes ({ penda := 1, expa := 1, pendb := 64, valid := true } : BObj).toNat 16) }
    VectorMay i { instr := i, cap := copyCap i } (withHead demoT i (copyCap i)) s ∧ s.boundObj 0 0x100 = some (0, 0x100) ∧
      (s.barrierObj (0, 0x100)).valid = true ∧ (s.barrierObj (0, 0x100)).faulted = false ∧
      (s.barrierObj (0, 0x100)).pendb = 64 := by unfold VectorMay; decide +kernel

theorem test_tile_copy_of_a_slot : (onCopying (.xldNt { sub := 2 })).ntSlot 0 0 = some 0 ∧
    (match (onCopying (.xldNt { sub := 2 })).slotView 0 0 with | .ready _ => true | _ => false) = true := by decide +kernel

theorem test_source_words_are_read : ∀ k ∈ List.range 16,
    ((onCopy (demoCopy (.xld {}))).fetchData ((onCopy (demoCopy (.xld {}))).ringParty 0) (4 * k) 4).isOk = true ∧
    (onCopy (demoCopy (.xld {}))).copyMayStart 0 0 (demoCopy (.xld {})) {} = true := by decide +kernel

theorem test_copies_end : let x : CopyEnt := { landing with words := [] }
    let y : CopyEnt := { demoCopy (.xfill {}) with fault := some (.page, 1, 0), posted := true }
    (onCopy x).copyFirst 0 9 = true ∧ (onCopy x).copyHeld x = false ∧ (onCopy x).ring? 0 = some demoRing ∧
    (onCopy y).copyFirst 0 9 = true ∧ (onCopy y).copyHeld y = false ∧ (onCopy y).ctx? 1 ≠ none := by decide +kernel

theorem test_waiter_at_an_object :
    let cap := objCap 0
    let o : BObj := { phase := 1, valid := true }
    (onObject (.bwait {}) cap 0).objectAt 0 (cap.a.v + ({} : Fields).imm.signExtend 64).toNat 16 = some (0, 0) ∧
      o.ready false 0 = true ∧ (onObject (.bwait {}) cap 0).troupe? ⟨0, 0⟩ = some (withHead demoT (.bwait {}) cap) := by
  decide +kernel

theorem test_arrival_completes_a_phase :
    ∀ i ∈ [Instr.nbsync { imm := 1 }, .nbarv { imm := 33 }, .tbsync { imm := 1 }, .tbarv {}],
      VectorMay i { instr := i } (withHead demoT i {}) (onVector (withHead demoT i {})) ∧
        ((onVector demoT).ring 0).bts.length = 4 ∧ ((onVector demoT).ring 0).nbs.length = 16 ∧
        (((onVector demoT).ring 0).bts.getD 0 {}).fixed = false ∧ (onVector demoT).multiRing 0 = false ∧
        ((onVector demoT).activeTroupes 0).length = 1 := by unfold VectorMay; decide +kernel

/-! ### The same for streams -/

theorem test_stream_may_start : ∀ st ∈ [({ state := 0 } : Stream), { state := 4 }],
    let s := { onVector (withHead demoT (.mxgo {}) {}) with rings := [{ demoRing with stream := some st }] }
    VectorMay (.mxgo {}) { instr := .mxgo {} } (withHead demoT (.mxgo {}) {}) s ∧ (s.ring 0).stream = some st := by
  unfold VectorMay; decide +kernel

theorem test_restored_stream_waits : ∀ st ∈ [({ state := 1, args := 0x01F0000000000000 } : Stream), { state := 3, loaded := true, unit_ := some {} }, { state := 5 }],
    let s := { onGrant with rings := [{ demoRing with stream := some st }] }
    s.stream? s.ev.ring = some st ∧ (s.core 0).mxq = [0] ∧ s.ctxFree 0 st = true ∧ st.ctx = false := by decide +kernel

theorem test_stream_waits_for_tags :
    let s := { onStream demoSt with rings := [{ demoRing with stream := some demoSt, tagcnt := [1], tagmap := 2 }] }
    (s.ring 0).tagcnt.getD 0 0 = 1 ∧ (s.ring 0).tagmap.getLsbD 1 = true ∧ (s.ring 0).tagerr = 0 ∧ s.stream? 0 = some demoSt := by
  decide +kernel

theorem test_stream_waits_at_an_object :
    let o : BObj := { phase := 1, valid := true }
    let s := (onStream demoSt).modCore 0 fun c => { c with spad := cellWriteN [] 0 (leBytes o.toNat 16) }
    s.objectAt 0 ringWin 16 = some (0, 0) ∧ BObj.ofNat (leNat (cellReadN (s.core 0).spad 0 16)) = o ∧
      ({ demoSt with wait := some (.barrierOver false) } : Stream).wait = some (.barrierOver false) := by decide +kernel

theorem test_elements_are_readable : ∀ o ∈ [0, 31], ∀ j ∈ [0, 31],
    (denseOp.elem (onMatrix false) ((onMatrix false).ringParty 0) j o).isOk = true ∧
    (({ denseOp with p := 4, k := 32 } : Operand).raw (onMatrix false) ((onMatrix false).ringParty 0) 3 o o).isOk = true := by
  decide +kernel

theorem test_bytes_of_a_tile_are_writable : ∀ i ∈ [0, 31], ∀ j ∈ [0, 31],
    let x := (onMatrix false).access ((onMatrix false).ringParty 0) (denseOp.bitAt i j j / 8) { n := 1, wr := true }
    passes (onMatrix false) x = true ∧ (siteOf x).scratch = true := by decide +kernel

theorem test_norm_vector_in_an_allocation :
    (match (onMatrix false).scratchAt (some 0) (ringWin + 0x80 + 5) 9 with | some x => decide (x.1 < 512) | none => false) = true ∧
    leNat (leBytes 32 4) % 32 = 0 ∧ (matSt.row.toNat % 2 ^ 16) + 1 = 32 / 32 ∧
    (operandNorms denseOp (32 * 0) 32 (onMatrix false) ((onMatrix false).ringParty 0)).isOk = true ∧
    (normGroups denseOp denseOp (ringWin + 0x100) 0 [0, 1, 2, 3] (onMatrix false)).isOk = true := by decide +kernel

theorem test_sampled_columns_are_read :
    (Rd.all (fun q => Rd.all (fun k => denseOp.value (onMatrix false) ((onMatrix false).ringParty 0) q k)
      ((List.range 16).map fun i => drawAt ((onMatrix false).core 0).au 0 i)) (List.range 2)).isOk = true := by decide +kernel

/-! ### The same for tuples, the solver, formats, bins and faults -/

theorem test_tuple_instructions_start : ∀ i ∈ [Instr.tdep { imm := 14 }, .tread { imm := 1 }, .ttake { imm := 1 }, .tstat {}],
    let t := withHead demoT i tupleCap
    t.calm ∧ (∀ o ∈ t.ops, o.id < t.nextOp) ∧ t.freeSlot = some 0 ∧ t.vwait ≠ some .parked ∧
      maxOf ((List.range 15).map fun j => (t.vreg j).g) ≤
        (siteOf ((onRegion i tupleCap).access ((onRegion i tupleCap).ringParty 0) 0x40000 (tupleWant i))).g := by
  unfold Troupe.calm; decide +kernel

theorem test_region_has_no_spilled_tuple : (((onSlice (demoReq .dep)).slice 0).region 1 3).spill = [] := by decide +kernel

/-- A descriptor of one sample with one element. -/
def demoDesc : List Byte := leBytes 1 4 ++ leBytes 1 4 ++ leBytes 0x3F800000 4 ++ leBytes 0x3F800000 4 ++ leBytes 0 112

/-- A method table of one stage. -/
def demoTab : List Byte := leBytes 0x000101 384

theorem test_solver_states : ∀ x ∈ [(Instr.slvst {}, ({ state := 2 } : Solver)), (.slvtab {}, { claimed := true, state := 2, desc := demoDesc }),
      (.slvini {}, {}), (.slvstg {}, { state := 2, tab := some demoTab, samples := [{ status := 4 }] }),
      (.slvend {}, { state := 2, tab := some demoTab, samples := [{ status := 8 }] }),
      (.slvini {}, { state := 1, claimed := true, desc := demoDesc, samples := [{}] })],
    let s := onSolver x.1 x.2
    s.solverTurn 0 = some 0 ∧ (s.solver 0).queue.length = 1 ∧ (s.solver 0).reload = 0 ∧ (s.solver 0).state = x.2.state ∧
      descN (s.solver 0).desc ≤ 1 ∧ ∀ y ∈ (s.solver 0).samples, y.live = false ∨ x.1 = .slvini {} := by decide +kernel

theorem test_table_suits_a_descriptor : tabBesideBad demoDesc demoTab = false ∧ 0 < tabSigma demoTab ∧ descN demoDesc = 1 := by
  decide +kernel

theorem test_restored_batch_is_granted : let s := onSolver (.slvst {}) { state := 2, granted := true }
    s.calliopeHead 0 = some 0 ∧ s.calliopeFits 0 0 = true ∧ (s.solver 0).state ≠ 1 := by decide +kernel

theorem test_fence_of_a_slot : ∀ w ∈ [none, some (Wait.fmfence 5 none)],
    let t := { withHead demoT (.fmfence { sub := 1, ty := 9 }) {} with vwait := w }
    VectorMay (.fmfence { sub := 1, ty := 9 }) { instr := .fmfence { sub := 1, ty := 9 } } t (onVector t) ∧
      ((onVector t).core 0).cq0 = [] ∧ ((onVector t).core 0).cq1 = [] := by unfold VectorMay; decide +kernel

theorem test_requests_in_flight : (∃ r ∈ (onFormats false {}).fw.fm, r.asid = 1 ∧ r.slot = 9) ∧
    (∀ r ∈ (onFormats false {}).fw.fm, r.asid = 1 → r.slot ≠ 8) := by decide +kernel

theorem test_frames_are_ready : let s := (onFormats true { state := 2, next := some ([], .offset, [(0, 8)]) }).modFrame 0 8 fun _ => { state := 3 }
    s.ev.on = false ∧ ((s.core 0).frames.getD 8 {}).state = 3 ∧ ((s.core 0).frames.getD 8 {}).pend = false ∧
      (s.slotEnt 1 9).state = 2 := by decide +kernel

theorem test_spawn_has_a_bin : let i := Instr.spawn { b := 4 }
    let cap : Cap := { k0 := 1, a := { v := 0x100 } }
    let s := onVector (withHead demoT i cap)
    VectorMay i { instr := i, cap := cap } (withHead demoT i cap) s ∧ s.windowOwes 0 (fun _ => true) = false ∧
      s.filling 0 = [] ∧ s.binFor 0 (0, 0x100) = some 0 ∧ lanesOf cap.k0 = [0] ∧ 0 < (s.core 0).bins.length ∧
      ((s.core 0).bins.getD 0 {}).recs.length + 1 < 64 ∧ (s.ring 0).vgen = 64 := by unfold VectorMay; decide +kernel

theorem test_countdowns_of_a_core : (onBin none).filling 0 = [(9, 0)] ∧ (onBin none).ev.op = 0 ∧
    (∀ y ∈ (onBin none).filling 0, (9, 0).1 < y.1 ∨ ((9, 0).1 = y.1 ∧ (9, 0).2 ≤ y.2)) := by decide +kernel

theorem test_no_norms_owed : (onVector demoT).normsOwed demoT = false := by decide +kernel

theorem test_head_of_the_grant_queue : let s := (demo .device demoT).modDie 0 fun d => { d with grantq := [{ who := .ring 0, cls := 1 }] }
    s.heldCost 0 + s.requestCost { who := .ring 0, cls := 1 } ≤ (s.die 0).total - (s.die 0).base := by decide +kernel

theorem test_record_of_a_system_call : let r : FRec := { fseq := 1, cause := .sysc, kind := 0, troupe := some ⟨0, 0⟩ }
    ({ onRecord 0 with ctxs := [{ asid := 1, root := 0x10000, recs := [r] }] } : State).ctx 1 |>.recs.find? (fun r => r.fseq == 1) |> (· = some r) := by
  decide +kernel

/-! ### The same for the device -/

/-- The request of a launch for slot 9. -/
def launchReq : FmReq := { asid := 1, slot := 9, addr := 0x40, grade := 0, by_ := none, ring := 0, launch := some 3 }

theorem test_turn_of_a_launch :
    let l : Launch := { demoLaunch .binding with lr := { slotpkg := [0, 0x20, 0, 0, 0, 0, 0, 0] } }
    let s := (onLaunch l).modFw fun w => { w with fm := [launchReq] }
    s.launch? 3 = some l ∧ 9 ∈ l.lr.listed ∧ 9 ∉ l.bound ∧ s.fw.fm.find? (fun r => !r.going) = some launchReq ∧
      (match s.checkPackage 1 0x20 0 with | .error _ => true | .ok _ => false) = true ∧ (s.slotEnt 1 9).state = 0 := by decide +kernel

theorem test_frames_to_reserve :
    let l : Launch := { toPlace 0 with lr := { slotpkg := [0x40, 0, 0, 0, 0, 0, 0, 0] }, bound := [8] }
    (match ({ onLaunch l with ctxs := [{ asid := 1, root := 0x10000, slots := [{ state := 3, ihash := [1], fmt := some .offset }] }] } : State).placeAct 0 with
      | some (.frames x r c) => decide (x.id = 3 ∧ r = 0 ∧ c = 0) | _ => false) = true := by decide +kernel

theorem test_pre_emption_asked_by_the_policy : let s := { onPre .none with ev := { on := true, num := 7, addr := 64 } }
    s.nbhd? s.ev.obj = some { id := 0, launch := 0, n := 0, die := 0, pre := .none } ∧ s.ev.addr.toNat % 64 = 0 := by decide +kernel

theorem test_invalidation_and_extents : (∀ c ∈ onWindow.fw.contribs, ∀ w ∈ c.who, w.die = 0 → (onWindow.die 0).mmuopc ≠ 3 ∧ w.asid ≠ 0) ∧
    (∀ c ∈ onWindow.fw.contribs, poolBase ≤ c.addr → (c.addr - poolBase) / 2 ^ 28 ≠ 0) ∧
    (∃ c ∈ [({ id := 0, instr := .redadd { ty := 2 }, addr := poolBase + 2 ^ 28, c := 1, who := [] } : Contrib)],
      poolBase ≤ c.addr ∧ (c.addr - poolBase) / 2 ^ 28 = 1) := by decide +kernel

theorem test_refresh_allowance : ((demo .device demoT).die 0).allow = [0, 0, 0, 0] ∧ (demo .device demoT).computeBound 0 = false ∧
    ({ demo .device demoT with rings := [{ demoRing with phint := some 9 }] } : State).computeBound 0 = true := by decide +kernel

theorem test_inbound_traffic : let s := (demo .device demoT).modFw fun w => { w with
      fwins := [{ base := 0x40000, len := 64, ceil := 0, domain := 0 }] }
    s.portOpen 18 0 = true ∧ s.admits true 0x40000 = true ∧ s.lineLost (s.inboundKey 0x40000) (.phys 0x40000) = false ∧
      s.poisoned (.phys 0x40000) = false ∧
      (s.modFw fun w => { w with insecure := [(18, 0)] }).portOpen 18 0 = false := by decide +kernel

theorem test_session_messages : let v : Spdm := { session := 2, key := List.replicate 32 7 }
    v.unseal [] = none ∧ v.unseal (v.seal 0 []) = some [] :=
  ⟨Laws.unseal_nil _ (by decide), Laws.unseal_seal _ [] (by decide)⟩

/-- A launch whose one neighbourhood was saved, its record with no ring at address 0; the context holds the kept
values given. -/
def onSaved (kept : List ((Nat × Nat × Nat) × Nat)) : State :=
  let l := { toPlace 0 with range := [(0, 0), (0, 0), (0, 0), (0, 0)] }
  { onLaunch l with
    ctxs := [{ asid := 1, root := 0x10000, kept := kept }],
    saved := [{ nb := { id := 7, launch := 3, n := 0, die := 0 }, rings := [], addr := 0x4000000, ctr := 0, len := 192 }] }

theorem test_restore_of_a_record : (match (onSaved [((0, 0, 0), 0)]).placeAct 0 with
      | some (.restore l v 0 0 0) => decide (l.id = 3 ∧ v.nb.id = 7) | _ => false) = true ∧
    (match (onSaved []).placeAct 0 with
      | some (.restore l v 19 0 0) => decide (l.id = 3 ∧ v.nb.id = 7) | _ => false) = true := by decide +kernel
/-! ### Hypotheses that the statements gained -/

theorem test_values_on_both_sides_of_the_largest :
    let last := floatMag 10 15 (maxCode 5 10 .ieee)
    let next := floatMag 10 15 (maxCode 5 10 .ieee + 1)
    (1 : Nat) ≤ 5 ∧ 5 + 10 ≤ 31 ∧ scaleTo last.1 last.2 0 = 65504 ∧ scaleTo next.1 next.2 0 = 65536 ∧
      ¬(65504 + 65536 < 2 * 65519) ∧ 65504 + 65536 = 2 * 65520 ∧ maxCode 5 10 .ieee % 2 = 1 := by decide +kernel

theorem test_budget_without_room : ¬demoT.room 0 5 ∧ (1 : Word) ≠ 0 ∧ (1 : Word) ≠ allLanes ∧
    ({ sh := .affine 0 1 } : VReg).sh.code = 1 := by
  unfold Troupe.room; decide +kernel

/-- The package with a pooled page mapped at 0x40000, its first line written under a key. -/
def onPool (key : Nat) : State :=
  let s := onVector (withHead demoT (.st {}) {})
  ({ s with mem := cellWriteN s.mem 0x30008 (leBytes (poolBase + 0x1B) 8), extents := [0],
            pkeys := [(poolBase / 128, key)] }).modFw fun w => { w with poolKey := 98 }

theorem test_pooled_line :
    let x := (onPool 98).access ((onPool 98).ringParty 0) 0x40000 { n := 4, wr := true }
    passes (onPool 98) x = true ∧ (siteOf x).key = some 98 ∧ (siteOf x).locs.head? = some (.phys poolBase) ∧
      (onPool 98).otherKey (siteOf x).key (.phys poolBase) = false ∧ (onPool 99).otherKey (siteOf x).key (.phys poolBase) = true := by
  decide +kernel

theorem test_object_in_error :
    let s := onObject (.barr {}) (objCap 1) 0
    s.spadBad (0, 0) 16 = false ∧ (s.modCore 0 fun c => { c with spBad := [15] }).spadBad (0, 0) 16 = true := by decide +kernel

theorem test_final_fault_to_post :
    let x : CopyEnt := { demoCopy (.xfill {}) with fault := some (.page, 1, 0) }
    let y : CopyEnt := { demoCopy (.xfill { modx := 8, imm := 0x100 }) with fault := some (.page, 1, 0) }
    let s := (onCopy y).modCore 0 fun c => { c with
      spad := cellWriteN [] 0x100 (leBytes ({ penda := 1, expa := 1, valid := true } : BObj).toNat 16) }
    (onCopy x).copyFirst 0 9 = true ∧ (onCopy x).copyHeld x = false ∧ x.posted = false ∧ x.fl = 0 ∧ (onCopy x).ctx? 1 ≠ none ∧
      s.copyFirst 0 9 = true ∧ s.receivers y.instr 0 (copyCap y.instr).a.v.toNat 64 = [0] ∧ s.boundObj 0 0x100 = some (0, 0x100) ∧
      (s.barrierObj (0, 0x100)).valid = true ∧ (s.barrierObj (0, 0x100)).faulted = false := by decide +kernel

theorem test_variance_without_spread :
    (sampVariance (.fin false 0 0) (.fin false 0 0) 16).1 = .inf false ∧ (FV.inf false).le (fmtF32.decode 0x7F800000) = true ∧
      (fmtF32.decode 0x7FC00000).isNan = true ∧ (0x2000000020 : Word).toNat = 32 + 32 * 2 ^ 32 ∧ 16 < 32 := by decide +kernel

theorem test_tuples_at_their_limits :
    let dep := demoReq .dep
    let tup : Tup := { tag := 5, arity := 0, grade := 0, seq := 0, f := List.replicate 14 0 }
    let c : Slice := { parked := [(0, { demoReq .take with park := some 3 })] }
    ((c.parked.map (·.2)).find? fun x => x.asid == dep.asid && x.rid == dep.rid && x.matches tup && x.kind == .take) ≠ none ∧
      1 + 0 ≤ (fullSlice.region 1 3).live ∧ (demoReq .take).park = none ∧ (∀ p ∈ c.parked, p.1 ≠ 1) ∧
      (let r : RegSt := { asid := 1, rid := 3, spill := [tup] }
       r.places = [] ∧ r.spill.filter (fun u => !r.places.any fun p => p.1 == u.seq) = [tup]) ∧
      (let r : RegSt := { asid := 1, rid := 3, spill := [tup], places := [(0, 0)] }
       ∀ t ∈ r.spill, ∃ p ∈ r.places, p.1 = t.seq) := by decide +kernel

theorem test_idle_batch :
    let s := { onSolver (.slvst {}) {} with troupes := [], rings := [{ demoRing with solver := { claimed := true } }] }
    s.troupesOf 0 = [] ∧ (s.solver 0).queue = [] ∧ (s.solver 0).claimed = true ∧ (s.solver 0).implicit = false ∧
      4 ∉ (s.ring 0).returns := by decide +kernel
/-- The package with one record in the overflow area of its ring at 0x1000, to be drained. -/
def onDrain : State :=
  let s := demo .device demoT
  { s with
    launches := [{ id := 0, queue := 0, asid := 1, lr := { sova := 0x1000, sovcap := 1 } }],
    rings := [{ demoRing with draining := true }],
    mem := cellWriteN (cellWriteN s.mem 0x41000 (leBytes 1 4)) 0x41040 (overBytes 0x100 [1, 2, 3, 4] 7 0 0) }

theorem test_oldest_record_drains :
    let p : Party := { asid := 1 }
    onDrain.canDrain 0 = true ∧
      (match onDrain.overflow 0 with | .ok [r] => decide (r.slot = 0 ∧ r.entry = 0x100 ∧ r.p = [1, 2, 3, 4]) | _ => false) = true ∧
      onDrain.filling 0 = [] ∧ onDrain.binFor 0 (0, 0x100) = some 0 ∧ onDrain.remoteAt p 0x1000 = false ∧
      (onDrain.readBytes p 0x1000 4).isOk = true ∧
      (onDrain.writeBytes p (0x1000 + 64 + 0x29) [0] { n := 1, wr := true, gradeChk := false }).isOk = true := by
  decide +kernel

theorem test_bin_at_the_limit :
    (onBin none).filling 0 = [(9, 0)] ∧ ((onBin none).die 0).tick < 9 ∧ (demoRing.limit ≤ ((onBin none).troupesOf 0).length) ∧
      (((onBin none).core 0).bins.getD 0 {}).ready = none ∧ (((onBin none).core 0).bins.getD 0 {}).recs ≠ [] ∧
      (onBin none).readyBins 0 = [] ∧ (({ onBin none with troupes := [] } : State).troupesOf 0).length < demoRing.limit := by
  decide +kernel

/-- An operation with lane 3 recorded in record 1. -/
def demoOp : Op :=
  { id := 0, instr := .vld {}, lanes := [{ lane := 3, addr := 0, st := .faulted .page 1 (some 1) }, { lane := 4, addr := 0, st := .parked }] }

theorem test_records_that_pend :
    RecordsPend (onRecord 0) ∧ RecordsPend (onRecord 1) ∧ RecordsPend (onRecord 3) ∧ RecordsPend State.reset ∧
      (({ demoT with ops := [demoOp] } : Troupe).op? 0 = some demoOp) ∧
      maskOf ((demoOp.lanes.filter fun l => l.recordedIn 1).map (·.lane)) = 8 ∧ (8 : Word) &&& 7 = 0 ∧ (8 : Word) &&& 9 ≠ 0 ∧
      (24 : Word) &&& ~~~8 ≠ 0 ∧ (8 : Word) &&& ~~~9 = 0 ∧
      (onRecord 0).troupe? ⟨0, 0⟩ = some { demoT with stopped := [1] } ∧ ((onRecord 0).launch? ((onRecord 0).launchOf 0).id).isSome = true := by
  unfold RecordsPend; decide +kernel

theorem test_record_of_a_stream : ∀ st ∈ [({ state := 5, loaded := true } : Stream), { state := 5 }],
    let s := { onRecord 3 with rings := [{ demoRing with stream := some st }] }
    s.stream? 0 = some st ∧ s.savedOf 0 = none ∧ (demoRec 3).ring = 0 ∧ (st.loaded = false → st.ctx = false) := by decide +kernel

/-- A saved ring. -/
def savedRing : SavedRing := { ring := demoRing, troupes := [demoT], spad := [], spgr := [], copies := [], bins := [], au := none }

/-- Its neighbourhood. -/
def savedNbhd : Saved := { nb := { id := 0, launch := 0, n := 0, die := 0 }, rings := [savedRing], addr := 0x40000, ctr := 0, len := 192 }

theorem test_record_of_a_saved_ring :
    let s := { onRecord 1 with troupes := [], rings := [], nbhds := [], saved := [savedNbhd] }
    s.savedOf 0 ≠ none ∧ s.troupe? ⟨0, 0⟩ = none ∧ ((s.ctx 1).recs.find? fun r => r.fseq == 1) = some (demoRec 1) ∧
      savedNbhd.mail = [] ∧ (∀ t ∈ savedRing.troupes, t.ops = [] ∧ t.killed = false ∧ ∀ u ∈ s.troupes, u.id ≠ t.id) ∧
      (rectCores 0 0 0 1 1).getD 0 0 < s.cores.length ∧ Memory.wf savedRing.spad = true := by decide +kernel

/-- The package with a command that waits in the block of function `fn`. -/
def onCommand (fn opc : Nat) (words : List Word) : State :=
  (demo .device demoT).modFw fun w => { w with
    cmdq := [fn], blocks := [{ fn := fn, opc := opc, words := words ++ List.replicate (31 - words.length) 0 }] }

theorem test_fault_action_waits : ∀ k ∈ [0, 1, 2, 3, 4],
    let s := { onCommand 0 6 [1, 1, BitVec.ofNat 64 k] with ctxs := [{ asid := 1, root := 0x10000, fseq := 1, recs := [demoRec 1] }] }
    s.fw.cmdq = [0] ∧ (s.block 0).opc = 6 ∧ ((s.block 0).words.getD 2 0).toNat = k ∧ s.ctxOf? 1 0 ≠ none ∧ s.ctxOf? 7 0 = none := by
  decide +kernel

theorem test_commands_that_wait :
    (onCommand 0 1 [0x10000, 0, 1, 0x1000, 4, 0, 7]).ctx? 0 = none ∧
      (onCommand 0 1 []).mappedWritable 0x10000 0x1000 (fqSize 4) = true ∧ (onCommand 0 1 []).mappedWritable 0x10000 0x40000 (fqSize 4) = false ∧
      (onCommand 0 2 [1]).ctxOf? 1 0 ≠ none ∧ (onCommand 0 2 [7]).ctxOf? 7 0 = none ∧
      (∀ opc ∈ List.range 10, ((onCommand 3 opc []).block 3).known = decide (1 ≤ opc)) ∧ ((onCommand 3 10 []).block 3).known = false ∧
      ((onCommand 0 7 [0, 112]).block 0).words.length = 31 ∧ (onCommand 0 7 []).fw.staged = none ∧
      (onCommand 0 4 [1, 2, 1]).regionFrames 0x10000 1 0 = none ∧ 32768 < 0 + 32769 ∧
      ((onCommand 0 9 [0, 1024, 63]).queue 1023).en = false ∧ (onQueue.queue 5).en = true ∧
      ((Loc.phys 0x50000).pooled = false ∧ reservedPA 0x50007 = false ∧ reservedPA lpEnd = true) := by decide +kernel

theorem test_record_of_a_launch_is_writable : ∀ i ∈ [0, 63],
    let l := { demoLaunch .ended with lr := { crec := 0x2000000 } }
    let x := (onLaunch l).access { asid := 1 } (0x2000000 + i) { n := 1, wr := true, gradeChk := false }
    passes (onLaunch l) x = true ∧ (siteOf x).locs = [.phys (0x2000000 + i)] ∧ (onLaunch l).cutOff (siteOf x) = false ∧
      (onLaunch l).leaves (siteOf x) false = false ∧ reservedPA (0x2000000 + i) = false ∧ (onLaunch l).crecCut l = false := by
  decide +kernel

theorem test_done_sequence : let q : LQueue := {}
    (q.doneseq + 1).toNat = 0 ∧ (q.doneseq + 2).toNat ∉ q.doneSet ∧ (q.doneseq + 1).toNat ∉ q.doneSet ++ [5] ∧
      5 < onQueue.queues.length := by decide +kernel
theorem test_neighbourhood_acts_leave :
    let s := onLaunch (toPlace 0)
    s.launch? 3 = some (toPlace 0) ∧ s.rings = [] ∧ s.nbhds = [] ∧
      (onPre (.save 0)).nbhd? 0 ≠ none ∧ (onPre (.save 0)).ctx? 1 ≠ none ∧
      (let s := { demo .device demoT with troupes := [], launches := [{ id := 0, queue := 0, asid := 1, lr := {}, stage := .running, todo := [[], [], [], []] }] }
       s.ring? 0 = some (s.ring 0) ∧ (s.nbhd (s.ring 0).nb).pre = .none ∧ (∀ y ∈ s.ringsOf 0, y.id = 0 ∨ y.ended = true) ∧
         (s.launch? 0).isSome = true ∧ (s.launch 0).todo.length = 4 ∧ (s.launch 0).lr.total ≤ 0 + 1) ∧
      (let s := { demo .device demoT with rings := [demoRing, { demoRing with id := 1 }] }
       ∃ y ∈ s.ringsOf 0, y.id ≠ 0 ∧ y.ended = false) := by decide +kernel

/-- The package with a record held back from a fault queue of 16 at 0x1000. -/
def onHeld (tail : BitVec 32) : State :=
  { demo .device demoT with
    ctxs := [{ asid := 1, root := 0x10000, fqbase := 0x1000, fqlog := 4, fqtail := tail, held := [demoRec 0] }] }

theorem test_held_record_of_a_queue :
    ((onHeld 0).ctx 1).held = [demoRec 0] ∧ ((onHeld 0).readBytes { asid := 1 } (0x1000 + 4) 4).isOk = true ∧
      ((0 : BitVec 32) - BitVec.ofNat 32 (leNat [0, 0, 0, 0])).toNat ≠ 2 ^ 4 ∧
      ((16 : BitVec 32) - BitVec.ofNat 32 (leNat [0, 0, 0, 0])).toNat = 2 ^ 4 := by decide +kernel

theorem test_bytes_of_a_context_are_writable :
    ((onHeld 0).writeBytes { asid := 1 } 64 (List.replicate 4 0) { n := 1, wr := true, gradeChk := false }).isOk = true ∧
      ∀ a ∈ [64 + 63, 0x1040, 0x1040 + 1087],
        passes (onHeld 0) ((onHeld 0).access { asid := 1 } a { n := 1, wr := true, gradeChk := false }) = true := by decide +kernel

theorem test_registers_of_the_host :
    (demo .device demoT).fw.hostUp = true ∧ State.reset.fw.hostUp = false ∧ sumOf [2048] ≤ 2048 ∧ 2048 < sumOf [2000, 49] ∧
      (2 ^ 36 : Nat) = 2 ^ (30 + 6) ∧ (∀ k < 7, (3 : Nat) ≠ 2 ^ (30 + k)) := by decide +kernel

theorem test_reduction_may_be_applied :
    onWindow.fabricPort ≠ none ∧ (onWindow.modFw fun w => { w with links := List.replicate 19 { state := 2 } }).fabricPort = none ∧
      (∀ i < 4, (Loc.phys (0x50000 + i)).pooled = false ∧ reservedPA (0x50000 + i) = false ∧ onWindow.reused (0x50000 + i) = false) ∧
      (∀ i < 8, lpEnd + i < physEnd ∧ reservedPA (lpEnd + i) = true) ∧ (∀ w ∈ onWindow.fw.wins, w.num = 1 → w.home ≠ onWindow.fw.pkg) := by
  decide +kernel

theorem test_vf_whose_pages_go :
    let s := { demo .device demoT with ctxs := [{ asid := 1, root := 0x10000, fn := 7 }], ev := { fn := 7 } }.modFw fun w =>
      { w with vfReset := [(7, 100)], hostUp := false }
    s.fw.vfReset.find? (fun v => v.1 == s.ev.fn) = some (7, 100) ∧ s.fw.hostUp = false ∧
      (∀ c ∈ s.ctxs, c.fn = 7 ∧ c.asid ≠ 0) ∧ (∃ r ∈ s.contextRanges 1, r.1 ≤ 0x40000 ∧ 0x40000 < r.1 + r.2) := by decide +kernel

theorem test_inbound_bytes :
    let s := { demo .device demoT with ev := { unit_ := 18, num := 2, addr := 0x10 } }.modFw fun w => { w with
      fwins := [{ base := 0x40000, len := 64, ceil := 0, domain := 0, bar2 := 0x10 }] }
    s.inboundAt 18 0x11 = some 0x40001 ∧ s.inboundAt 3 0x11 = some 0x11 ∧ s.inboundAt 18 0x50 = none ∧
      (∀ a ∈ [0x40000, 0x40001], s.admits false a = true ∧ s.lineLost (s.inboundKey a) (.phys a) = false ∧ s.poisoned (.phys a) = false) ∧
      s.admits false 0x11 = false ∧ ({ s with poison := [0x40000 / 128] } : State).poisoned (.phys 0x40001) = true := by decide +kernel

theorem test_errors_of_lines : ({ demo .device demoT with symErr := [(0x400, 9)] } : State).symErr.find? (fun e => e.1 == 0x20000 / 128) = some (0x400, 9) ∧
    (∀ e ∈ (demo .device demoT).symErr, e.1 ≠ 0) ∧ (demo .device demoT).troupe? ⟨0, 0⟩ = some demoT := by decide +kernel

theorem test_points_of_the_curve : (match ecG with | (x, y) => ecOn x y) = true ∧ ecOn 0 0 = false ∧
    Machine.beNat ((List.replicate 136 (0 : Byte)).drop 40 |>.take 48) = 0 := by decide +kernel
/-- A program of one header that waits for flag 0, which is set. -/
def onHeldHeader : State :=
  let s := State.reset.withFetchWord 32 0xF0001FF0
  { s with troupes := s.troupes.map fun t => { t with w := [1] ++ List.replicate 11 0 } }

theorem test_header_held_by_a_flag :
    (match onHeldHeader.troupes with | [t] => decide (scalarTurn onHeldHeader t = .held ∧ t.wait = none) | _ => false) = true := by
  decide +kernel

/-! ### Results worked out by hand, once more -/

theorem test_immediate_of_the_type : (sAfter (runS (.smin { sub := 8, ty := 0, d := 3, a := 1, imm := 300 }) { v := 100 } {}) 3).v = 44 := by
  decide +kernel

theorem test_reserved_bits_before_the_type : decodeFault false (.rdsr { ty := 1, imm := 0x1000 }) = some .illop ∧
    decodeFault false (.ticket { ty := 7, imm := 0 }) = some .illtype := by decide +kernel

end Sys2Proof.Tests
end

section
/-! PROOF. What reading a memory in canonical form gives after a write or a wipe, and that its contents
determine it (R4, R225, R387). -/

namespace Sys2Proof.Machine

variable {m m2 l1 l2 : List Host.Cell} {a x : Nat} {bs : List Byte} {b : Byte}

theorem cellRead_of_forall_ne (h : ∀ c ∈ m, c.1 ≠ x) : cellRead m x = unlisted := by
  simp only [cellRead]
  rw [List.find?_eq_none.mpr fun c hc => by simp [h c hc]]

theorem cellRead_append_left (h : ∀ c ∈ l2, c.1 ≠ x) : cellRead (l1 ++ l2) x = cellRead l1 x := by
  have h2 : l2.find? (fun c => c.1 == x) = none := List.find?_eq_none.mpr fun c hc => by simp [h c hc]
  simp [cellRead, List.find?_append, h2]

theorem cellRead_append_right (h : ∀ c ∈ l1, c.1 ≠ x) : cellRead (l1 ++ l2) x = cellRead l2 x := by
  have h1 : l1.find? (fun c => c.1 == x) = none := List.find?_eq_none.mpr fun c hc => by simp [h c hc]
  simp [cellRead, List.find?_append, h1]

theorem cellRead_filter (p : Nat → Bool) :
    cellRead (m.filter fun c => p c.1) x = if p x then cellRead m x else unlisted := by
  split
  · rename_i hp
    have hq : (fun c : Host.Cell => decide (p c.1 = true ∧ (c.1 == x) = true)) = fun c => c.1 == x := by
      funext c
      by_cases hc : c.1 = x <;> simp [hc, hp]
    simp only [cellRead, List.find?_filter, hq]
  · rename_i hp
    exact cellRead_of_forall_ne fun c hc hx => hp (hx ▸ (List.mem_filter.mp hc).2)

theorem cellRead_cons_of_ne {c : Host.Cell} (h : c.1 ≠ x) : cellRead (c :: m) x = cellRead m x := by
  simp [cellRead, h]

@[simp] theorem cellRead_cons_self : cellRead ((x, b) :: m) x = b := by simp [cellRead]

theorem cellRead_placed (bs : List Byte) (h1 : a ≤ x) (h2 : x < a + bs.length) :
    cellRead (placed a bs) x = bs.getD (x - a) 0 := by
  induction bs generalizing a with
  | nil => simp at h2; omega
  | cons b bs ih =>
      rcases Nat.eq_or_lt_of_le h1 with rfl | hlt
      · simp only [placed, Nat.sub_self, List.getD_cons_zero]
        split
        · rename_i hb
          rw [hb]
          exact cellRead_of_forall_ne fun c hc => by have := (placed_ge bs _ c hc).1; omega
        · simp
      · have hx : x - a = (x - (a + 1)) + 1 := by omega
        rw [hx, List.getD_cons_succ, ← ih hlt (by simp at h2; omega)]
        simp only [placed]
        split
        · rfl
        · exact cellRead_cons_of_ne (by simp; omega)

theorem cellRead_cellWriteN (m : List Host.Cell) (a : Nat) (bs : List Byte) (x : Nat) :
    cellRead (cellWriteN m a bs) x = if a ≤ x ∧ x < a + bs.length then bs.getD (x - a) 0 else cellRead m x := by
  have below : ∀ c ∈ m.filter fun c => decide (c.1 < a), c.1 < a := fun c hc => by
    simpa using (List.mem_filter.mp hc).2
  have above : ∀ c ∈ m.filter fun c => decide (a + bs.length ≤ c.1), a + bs.length ≤ c.1 := fun c hc => by
    simpa using (List.mem_filter.mp hc).2
  have within := placed_ge bs a
  simp only [cellWriteN]
  rcases Nat.lt_or_ge x a with hlo | hlo
  · rw [if_neg (by omega), List.append_assoc, cellRead_append_left, cellRead_filter (fun y => decide (y < a))]
    · simp [hlo]
    · intro c hc
      rcases List.mem_append.mp hc with hc | hc
      · have := within c hc; omega
      · have := above c hc; omega
  rcases Nat.lt_or_ge x (a + bs.length) with hhi | hhi
  · rw [if_pos ⟨hlo, hhi⟩, cellRead_append_left, cellRead_append_right, cellRead_placed bs hlo hhi]
    · exact fun c hc => by have := below c hc; omega
    · exact fun c hc => by have := above c hc; omega
  · rw [if_neg (by omega), cellRead_append_right, cellRead_filter (fun y => decide (a + bs.length ≤ y))]
    · simp [hhi]
    · intro c hc
      rcases List.mem_append.mp hc with hc | hc
      · have := below c hc; omega
      · have := within c hc; omega

theorem cellRead_cellWipe (m : List Host.Cell) (a n x : Nat) :
    cellRead (cellWipe m a n) x = if a ≤ x ∧ x < a + n then unlisted else cellRead m x := by
  rw [cellWipe, cellRead_filter (fun y => decide (y < a) || decide (a + n ≤ y))]
  by_cases h : a ≤ x ∧ x < a + n
  · rw [if_pos h, if_neg (by simp; omega)]
  · rw [if_neg h, if_pos (by simp; omega)]

theorem mem_iff_cellRead (h : Memory.wf m = true) (c : Host.Cell) :
    c ∈ m ↔ cellRead m c.1 = c.2 ∧ c.2 ≠ unlisted := by
  obtain ⟨hv, hp⟩ := (Memory.wf_iff m).mp h
  constructor
  · intro hc
    refine ⟨?_, hv c hc⟩
    obtain ⟨l1, l2, rfl⟩ := List.append_of_mem hc
    have hl1 := (List.pairwise_append.mp hp).2.2
    rw [cellRead_append_right fun d hd => Nat.ne_of_lt (hl1 d hd c (by simp)), cellRead_cons_self]
  · rintro ⟨hr, hne⟩
    cases hf : m.find? (fun d => d.1 == c.1) with
    | none => simp [cellRead, hf] at hr; exact absurd hr.symm hne
    | some d =>
        have hd : d.1 = c.1 := by simpa using List.find?_some hf
        simp only [cellRead, hf] at hr
        exact (Prod.ext hd hr : d = c) ▸ List.mem_of_find?_eq_some hf

theorem Memory.wf_nodup (h : Memory.wf m = true) : m.Nodup :=
  ((Memory.wf_iff m).mp h).2.imp fun hlt he => Nat.ne_of_lt hlt (congrArg Prod.fst he)

/-- Memories in canonical form with the same contents are the same list. -/
theorem Memory.ext_of_wf (h2 : Memory.wf m2 = true) (h : Memory.wf m = true)
    (he : ∀ x, cellRead m2 x = cellRead m x) : m2 = m := by
  have hperm : m2.Perm m := (List.perm_ext_iff_of_nodup (wf_nodup h2) (wf_nodup h)).mpr fun c => by
    rw [mem_iff_cellRead h2, mem_iff_cellRead h, he]
  exact hperm.eq_of_pairwise (fun _ _ _ _ hab hba => absurd hab (Nat.lt_asymm hba))
    ((Memory.wf_iff m2).mp h2).2 ((Memory.wf_iff m).mp h).2

/-- Settles O57: the form is kept by `cellWriteN_wf` and `cellWipe_wf`, the reads are split at the bounds of the range,
and a list in canonical form is what its reads say, in the only rising order. -/
theorem memoryOperationsKeepForm : Obligations.MemoryOperationsKeepForm := fun m a bs n h =>
  ⟨cellWriteN_wf a bs h, cellWipe_wf a n h, cellRead_cellWriteN m a bs, cellRead_cellWipe m a n,
    fun _ h2 he => Memory.ext_of_wf h2 h he⟩

end Sys2Proof.Machine
end

section
/-! PROOF. Every operation of the model keeps memory and every scratchpad in canonical form (R4, R147, R225,
R387): one lemma for each function over the state, in the model's order, up to the step. -/

namespace Sys2Proof.Machine

-- The proofs are elaborated one after the other: side by side they need more threads than the limit on Lean's
-- memory has room for.
set_option Elab.async false

/-! ### Results that hold states -/

/-- Every state that a scalar-side effect answers is in canonical form. -/
def SRes.Keeps : SRes → Prop
  | .done s => Inv s
  | .goto s _ => Inv s
  | .wait _ s => Inv s
  | .fault _ => True
  | .trap _ => True

/-- Every state that a vector-side effect answers is in canonical form. -/
def VRes.Keeps : VRes → Prop
  | .done s => Inv s
  | .wait _ s => Inv s
  | .fault _ => True

/-- Every state that a stream's effect answers is in canonical form. -/
def MRes.Keeps : MRes → Prop
  | .done s => Inv s
  | .goto s _ => Inv s
  | .more s => Inv s
  | .wait _ s => Inv s
  | .park _ _ _ s => Inv s
  | .stop _ s => Inv s
  | .ended s => Inv s

/-- The next state that a step answers, if any, is in canonical form. -/
def OutKeeps : Out → Prop
  | .next s => Inv s
  | .fault _ => True
  | .refused _ => True

variable {s : State}

theorem Inv.of_done {r : MRes} (hr : r.Keeps) (he : r = .done s) : Inv s := by
  subst he
  exact hr

theorem Inv.ite {c : Prop} {_ : Decidable c} {a b : State} (ha : Inv a) (hb : Inv b) :
    Inv (if c then a else b) := by
  split
  · exact ha
  · exact hb

theorem Inv.update {s1 : State} (h : Inv s) (hm : s1.mem = s.mem := by rfl) (hc : s1.cores = s.cores := by rfl) :
    Inv s1 := by
  rw [Inv, hm, hc]
  exact h

theorem Inv.foldl {α : Type} {f : State → α → State} {l : List α} (h : Inv s)
    (hf : ∀ s a, Inv s → Inv (f s a)) : Inv (l.foldl f s) :=
  List.foldlRecOn (motive := Inv) l f h fun s hs a _ => hf s a hs

/-! ### Parts of the state other than memory and scratchpads -/

theorem Inv.modDie {d f} (h : Inv s) : Inv (s.modDie d f) := h
theorem Inv.modSlice {n f} (h : Inv s) : Inv (s.modSlice n f) := h
theorem Inv.modTroupe {t f} (h : Inv s) : Inv (s.modTroupe t f) := h
theorem Inv.setTroupe {t} (h : Inv s) : Inv (s.setTroupe t) := h
theorem Inv.modRing {r f} (h : Inv s) : Inv (s.modRing r f) := h
theorem Inv.modNbhd {n f} (h : Inv s) : Inv (s.modNbhd n f) := h
theorem Inv.modLaunch {l f} (h : Inv s) : Inv (s.modLaunch l f) := h
theorem Inv.modCtx {a f} (h : Inv s) : Inv (s.modCtx a f) := h
theorem Inv.modQueue {q f} (h : Inv s) : Inv (s.modQueue q f) := h
theorem Inv.modFw {f} (h : Inv s) : Inv (s.modFw f) := h

theorem Inv.modCoreElse {c f} (h : Inv s) (hf : ∀ k, (f k).spad = k.spad := by intro _; rfl) :
    Inv (s.modCore c f) :=
  h.modCore c f fun k hk => by rwa [hf k]

theorem Inv.withLen {n} (h : Inv s) : Inv { s with len := n } := h

theorem Inv.mapCores {s1 f} (h : Inv s) (hm : s1.mem = s.mem) (hc : s1.cores = s.cores.map f)
    (hf : ∀ k, (f k).spad = k.spad) : Inv s1 := by
  refine ⟨hm ▸ h.1, fun k hk => ?_⟩
  rw [hc] at hk
  obtain ⟨c, hcs, rfl⟩ := List.mem_map.mp hk
  rw [hf c]
  exact h.2 c hcs

theorem Inv.writeMem {a bs} (h : Inv s) :
    Inv { s with mem := cellWriteN s.mem a bs } := ⟨cellWriteN_wf a bs h.1, h.2⟩

/-! ### Interrupts -/

theorem Inv.irq {fn vec} (h : Inv s) : Inv (s.irq fn vec) := .ite h h.modFw

/-! ### Accesses and links -/

theorem Inv.tlbFill {asid core va l} (h : Inv s) : Inv (s.tlbFill asid core va l) := h.modCoreElse.modDie

theorem Inv.modLink {n f} (h : Inv s) : Inv (s.modLink n f) := h.modFw

theorem Inv.sendTo {site red} (h : Inv s) : Inv (s.sendTo site red) := .ite (h.sendFlits _) h

theorem Inv.touch {p va site} (h : Inv s) : Inv (s.touch p va site) := by
  simp only [State.touch]
  split
  · exact .ite h h.tlbFill
  · exact h

theorem Inv.keySite {site} (h : Inv s) : Inv (s.keySite site) := by
  simp only [State.keySite]
  split
  · exact h.takeKey _ _
  · exact h

theorem Inv.countFlits {p va n} (h : Inv s) : Inv (s.countFlits p va n) := .ite (h.sendFlits _) h

/-! ### Faults, the frames around an instruction, parked accesses -/

theorem Inv.retireClause {id} (h : Inv s) : Inv (s.retireClause id) := by
  simp only [State.retireClause]
  split
  · exact h
  · exact .ite h.setTroupe.modRing h.setTroupe

theorem Inv.fqWrite {c r s1} (h : Inv s) (he : s.fqWrite c r = some s1) : Inv s1 := by
  simp only [State.fqWrite] at he
  split at he
  · cases he
  split at he
  · cases he
  split at he
  · cases he
  rename_i hw
  split at he
  · cases he
  rename_i hw2
  injection he with he
  subst he
  exact ((h.writeBytes _ _ _ _ hw).writeBytes _ _ _ _ hw2).modCtx.irq

theorem Inv.fqFlush {asid rs} (h : Inv s) : Inv (fqFlush asid rs s) := by
  induction rs generalizing s with
  | nil => exact h
  | cons r rs ih =>
      simp only [Machine.fqFlush]
      split
      · rename_i hw
        exact ih (h.fqWrite hw)
      · exact h.modCtx

theorem Inv.fqRetry {asid} (h : Inv s) : Inv (s.fqRetry asid) := h.fqFlush

theorem Inv.postRecord {asid r} (h : Inv s) : Inv (s.postRecord asid r) := h.modCtx.fqRetry

theorem Inv.reportOp {id op} (h : Inv s) : Inv (State.reportOp id s op) := by
  simp only [State.reportOp]
  split
  · exact h
  split
  · exact h
  · exact .ite h h.postRecord.modTroupe

theorem Inv.reportAll {id} (h : Inv s) : Inv (s.reportAll id) := by
  simp only [State.reportAll]
  split
  · exact h
  · exact (h.foldl fun _ _ hs => hs.reportOp).modTroupe

theorem Inv.takeFault {id vside iaddr k0 fi} (h : Inv s) : Inv (s.takeFault id vside iaddr k0 fi) :=
  h.reportAll.postRecord.update

theorem Inv.settle {id} (h : Inv s) : Inv (s.settle id) := by
  simp only [State.settle]
  split
  · exact h
  · exact .ite h.withLen.takeFault.withLen <| .ite h.reportAll h

theorem Inv.blockScalar {id w} (h : Inv s) : Inv (s.blockScalar id w) := h.modTroupe.settle

theorem Inv.scalarFault {t fi} (h : Inv s) : Inv (s.scalarFault t fi) :=
  .ite h.modTroupe.takeFault h.blockScalar

theorem Inv.endInstr {id pc} (h : Inv s) : Inv (s.endInstr id pc) := by
  simp only [State.endInstr]
  split
  · exact h
  · exact (Inv.ite h.setTroupe.retireClause h.setTroupe).settle

theorem Inv.scalarFaultOf {i t fi} (h : Inv s) : Inv (s.scalarFaultOf i t fi) := h.scalarFault

theorem Inv.scalarRun {i t eff} (h : Inv s) (he : (eff t s).Keeps) : Inv (scalarRun i t s eff) := by
  simp only [Machine.scalarRun]
  split
  · exact h.scalarFaultOf
  split
  · exact h.scalarFaultOf
  split
  · exact h.scalarFaultOf
  split
  · exact h.blockScalar
  split
  · exact h.scalarFaultOf
  generalize eff t s = r at he ⊢
  cases r with
  | done s1 => exact Inv.endInstr he
  | goto s1 pc => exact Inv.endInstr he
  | wait w s1 => exact Inv.blockScalar he
  | fault fi => exact h.scalarFaultOf
  | trap fi => exact .ite h.endInstr.takeFault h.blockScalar

theorem Inv.blockVector {id w} (h : Inv s) : Inv (s.blockVector id w) := h.modTroupe.settle

theorem Inv.vectorFault {id e fi} (h : Inv s) : Inv (s.vectorFault id e fi) := h.modTroupe.takeFault

theorem Inv.vectorFaultOf {i t e fi} (h : Inv s) : Inv (s.vectorFaultOf i t e fi) := h.vectorFault

theorem Inv.vectorEnd {id} (h : Inv s) : Inv (s.vectorEnd id) := h.modTroupe.settle

theorem Inv.vectorHead {i id issue} (h : Inv s) (hi : ∀ e t, (issue e t s).Keeps) :
    Inv (vectorHead i id s issue) := by
  simp only [Machine.vectorHead]
  split
  · exact h
  rename_i t _
  split
  · exact h
  rename_i e _ _
  split
  · exact h.vectorFaultOf
  split
  · exact h.blockVector
  split
  · exact h.vectorFaultOf
  split
  · exact h.blockVector
  have hr := hi e t
  generalize issue e t s = r at hr ⊢
  cases r with
  | done s1 => exact Inv.vectorEnd hr
  | wait w s1 => exact Inv.blockVector hr
  | fault fi => exact h.vectorFaultOf

theorem Inv.vectorDispatch {i t issue} (h : Inv s) (hi : ∀ s, Inv s → ∀ e t, (issue e t s).Keeps) :
    Inv (vectorDispatch i t s issue) := by
  simp only [Machine.vectorDispatch]
  split
  · exact h.scalarFaultOf
  split
  · exact h.scalarFaultOf
  split
  · exact h.scalarFaultOf
  split
  · exact h.blockScalar
  split
  · exact h.scalarFaultOf
  split
  · exact h.blockScalar
  split
  · exact h.scalarFaultOf
  · exact h.blockScalar
  · exact Inv.ite (h.setTroupe.endInstr.vectorHead (hi _ h.setTroupe.endInstr)) h.setTroupe.endInstr

theorem Inv.modStream {ring f} (h : Inv s) : Inv (s.modStream ring f) := h.modRing

theorem Inv.stopStream {ring code grade} (h : Inv s) : Inv (s.stopStream ring code grade) := by
  simp only [State.stopStream]
  split
  · exact h
  · exact h.postRecord.modStream

theorem Inv.foreign {ring} (h : Inv s) : Inv (s.foreign ring) := by
  simp only [State.foreign]
  split
  · exact h.stopStream
  · exact h

theorem Inv.scalarInstr {i eff} (h : Inv s) (he : ∀ t, (eff t s).Keeps) : OutKeeps (scalarInstr i s eff) := by
  simp only [Machine.scalarInstr]
  split
  · split
    · exact h.scalarRun (he _)
    · trivial
  · exact h.foreign
  · trivial

theorem Inv.vectorInstr {i issue} (h : Inv s) (hi : ∀ s, Inv s → ∀ e t, (issue e t s).Keeps) :
    OutKeeps (vectorInstr i s issue) := by
  simp only [Machine.vectorInstr]
  split
  · split
    · exact h.vectorDispatch hi
    · trivial
  · split
    · exact h.vectorHead (hi s h)
    · trivial
  · exact h.foreign
  · trivial

theorem Inv.recordPark {die core asid vpage c level kind again} (h : Inv s) :
    Inv (s.recordPark die core asid vpage c level kind again) := by
  simp only [State.recordPark]
  split
  · exact h.modDie
  · exact .ite (.ite h.modDie h.modDie.irq) <| .ite h.modDie.irq h.modDie

theorem Inv.park {ring who va c level kind} (h : Inv s) : Inv (s.park ring who va c level kind) :=
  h.recordPark.modDie

theorem Inv.unpark {p} (h : Inv s) : Inv (s.unpark p) := h.update

/-! ### Completing a vector instruction -/

theorem Inv.computeIssue {out e t} (h : Inv s) : (computeIssue out e t s).Keeps := by
  simp only [Machine.computeIssue]
  split
  · trivial
  split
  · exact h
  · trivial
  split
  · split <;> exact h.setTroupe
  · exact h.setTroupe

/-! ### Lanes of memory instructions -/

theorem Inv.doAccess {i f id dg l site} (h : Inv s) : Inv (doAccess i f id dg l site s).1 := by
  simp only [Machine.doAccess]
  split
  · exact h
  split
  · exact h
  split
  · split
    · exact h.update
    · exact h
  · split
    · exact .ite h (h.writeSite _ _ _)
    · exact h.writeSite _ _ _

theorem Inv.faultLane {id op lane c r} (h : Inv s) : Inv (s.faultLane id op lane c r) := h.modTroupe

theorem Inv.parkLane {id op lane va c level kind} (h : Inv s) : Inv (s.parkLane id op lane va c level kind) :=
  h.park.modTroupe

theorem Inv.performLane {id o f l} (h : Inv s) : Inv (performLane id o f s l) := by
  simp only [Machine.performLane]
  split
  · exact .ite h.modTroupe h.faultLane
  · exact .ite h.modTroupe h.parkLane
  · exact .ite h.modTroupe h.touch.sendTo.doAccess.modTroupe

theorem Inv.tidyOp {id op} (h : Inv s) : Inv (s.tidyOp id op) := by
  simp only [State.tidyOp]
  split
  · exact h
  split
  · exact h
  · exact .ite h.setTroupe h

theorem Inv.performOp {id op} (h : Inv s) : Inv (performOp id op s) := by
  simp only [Machine.performOp]
  split
  · exact h
  split
  · exact h
  split
  · exact h
  · exact (h.foldl fun _ _ hs => hs.performLane).tidyOp

theorem Inv.deliverOp {id op} (h : Inv s) : Inv (deliverOp id op s) := by
  simp only [Machine.deliverOp]
  split
  · exact h
  split
  · exact h
  split
  · exact h
  · exact h.setTroupe.tidyOp

theorem Inv.memIssue {f e t} (h : Inv s) : (memIssue f e t s).Keeps := by
  simp only [Machine.memIssue]
  split
  · trivial
  split
  · exact h.setTroupe
  split
  · exact h
  split
  · exact h
  split
  · exact h.setTroupe
  · exact h.setTroupe.performOp

theorem Inv.completeLong {id op} (h : Inv s) : Inv (completeLong id op s) := by
  simp only [Machine.completeLong]
  split
  · exact h
  split
  · exact h
  · exact .ite (.ite h.setTroupe.deliverOp h) <| .ite h.setTroupe h

theorem Inv.splitReply {id op lane} (h : Inv s) : Inv (splitReply id op lane s) := by
  simp only [Machine.splitReply]
  split
  · exact h
  split
  · split
    · exact .ite h h.setTroupe.tidyOp
    · exact h
  · exact h

theorem Inv.atomicReply {id op lane} (h : Inv s) : Inv (atomicReply id op lane s) := by
  simp only [Machine.atomicReply]
  split
  · exact h
  split
  · exact h
  split
  · exact .ite (.ite h.setTroupe h.setTroupe.deliverOp) h
  · exact h

/-! ### Tags, barriers and queues -/

theorem Inv.scalarResult {e t d v} (h : Inv s) : Inv (scalarResult e t s d v) := by
  simp only [Machine.scalarResult]
  exact .ite h.setTroupe h.setTroupe

theorem Inv.tagWait {cond f e t} (h : Inv s) : (tagWait cond f e t s).Keeps := by
  simp only [Machine.tagWait]
  split
  · exact h.scalarResult
  · exact h

theorem Inv.spadPut {core off n v g} (h : Inv s) : Inv (s.spadPut core off n v g) := h.writeLocs _ _ _

theorem Inv.putBarrier {p o g} (h : Inv s) : Inv (s.putBarrier p o g) := by
  simp only [State.putBarrier]
  exact h.spadPut.update

theorem objectInstr_keeps {f e t eff} (he : ∀ p, (eff p).Keeps) : (objectInstr f e t s eff).Keeps := by
  simp only [objectInstr]
  split
  · trivial
  · split
    · trivial
    · exact he _

theorem barrierInstr_keeps {f e t eff} (he : ∀ p o g, (eff p o g).Keeps) : (barrierInstr f e t s eff).Keeps :=
  objectInstr_keeps fun p => by
    split
    · trivial
    · dsimp only
      split
      · trivial
      · exact he _ _ _

theorem Inv.barrierPut {e t p o g d} (h : Inv s) : (barrierPut e t s p o g d).Keeps := by
  simp only [Machine.barrierPut]
  split
  · exact h.putBarrier.scalarResult
  · exact h.putBarrier

theorem Inv.execBini {f} (h : Inv s) : OutKeeps (execBini f s) := by
  simp only [Machine.execBini]
  exact h.vectorInstr fun _ hs _ _ => objectInstr_keeps fun _ => by
    split
    · trivial
    · exact hs.barrierPut

theorem Inv.arriveAt {f e t ok n b} (h : Inv s) : (arriveAt f e t s ok n b).Keeps := by
  simp only [Machine.arriveAt]
  exact barrierInstr_keeps fun _ _ _ => by
    split
    · trivial
    · exact h.barrierPut

theorem Inv.execBexp {f} (h : Inv s) : OutKeeps (execBexp f s) := by
  simp only [Machine.execBexp]
  exact h.vectorInstr fun _ hs _ _ => barrierInstr_keeps fun _ _ _ => by
    split
    · trivial
    · exact hs.barrierPut

theorem Inv.execBwait {f} (h : Inv s) : OutKeeps (execBwait f s) := by
  simp only [Machine.execBwait]
  exact h.vectorInstr fun _ hs _ _ => barrierInstr_keeps fun _ _ _ => by
    split
    · exact hs.scalarResult
    split
    · exact hs.scalarResult
    · exact hs

theorem Inv.execNqini {f} (h : Inv s) : OutKeeps (execNqini f s) := by
  simp only [Machine.execNqini]
  exact h.vectorInstr fun _ hs _ _ => by
    split
    · trivial
    · exact objectInstr_keeps fun _ => by
        split
        · trivial
        · exact hs.spadPut

theorem queueInstr_keeps {f e t eff} (he : ∀ p q, (eff p q).Keeps) : (queueInstr f e t s eff).Keeps :=
  objectInstr_keeps fun p => by
    split
    · trivial
    · dsimp only
      split
      · trivial
      · exact he _ _

theorem Inv.blockNq {t} (h : Inv s) : (blockNq t s).Keeps := by
  simp only [Machine.blockNq]
  split
  · exact h
  · exact h.update

theorem Inv.execNqsend {f} (h : Inv s) : OutKeeps (execNqsend f s) := by
  simp only [Machine.execNqsend]
  exact h.vectorInstr fun _ hs _ _ => queueInstr_keeps fun _ _ => by
    split
    · trivial
    split
    · exact hs.blockNq
    split
    · trivial
    · exact hs.spadPut.spadPut

theorem Inv.nqTake {f e t p q} (h : Inv s) : (nqTake f e t s p q).Keeps := by
  simp only [Machine.nqTake]
  split
  · trivial
  split
  · trivial
  · exact h.spadPut.scalarResult

theorem Inv.execNqrecv {f} (h : Inv s) : OutKeeps (execNqrecv f s) := by
  simp only [Machine.execNqrecv]
  exact h.vectorInstr fun _ hs _ _ => queueInstr_keeps fun _ _ => by
    split
    · exact hs.blockNq
    · exact hs.nqTake

theorem Inv.execNqret {f} (h : Inv s) : OutKeeps (execNqret f s) := by
  simp only [Machine.execNqret]
  exact h.vectorInstr fun _ hs _ _ => queueInstr_keeps fun _ _ => by
    split
    · trivial
    · exact hs.spadPut

theorem Inv.execNqtry {f} (h : Inv s) : OutKeeps (execNqtry f s) := by
  simp only [Machine.execNqtry]
  exact h.vectorInstr fun _ hs _ _ => queueInstr_keeps fun _ _ => by
    split
    · exact hs.scalarResult
    · exact hs.nqTake

theorem Inv.treeCheck {nb} (h : Inv s) : Inv (s.treeCheck nb) := .ite (.ite h h.modNbhd) h

theorem Inv.nbArrive {ring tree j n who} {k s1} (h : Inv s) (he : s.nbArrive ring tree j n who = some (k, s1)) :
    Inv s1 := by
  simp only [State.nbArrive] at he
  split at he
  · cases he
  cases he
  exact .ite h.modRing.treeCheck h.modRing

theorem Inv.nbInstr {tree sync f x3 t} (h : Inv s) : (nbInstr tree sync f x3 t s).Keeps := by
  simp only [Machine.nbInstr]
  split
  · split <;> exact h
  split
  · trivial
  · split <;> exact h.nbArrive ‹_›

theorem Inv.execTreeBarrierRelease (h : Inv s) : OutKeeps (execTreeBarrierRelease s) := by
  simp only [Machine.execTreeBarrierRelease]
  split
  · exact h
  · exact h.modDie.modNbhd.treeCheck

/-! ### Copies -/

theorem Inv.modQueueOf {core q f} (h : Inv s) : Inv (s.modQueueOf core q f) := by
  simp only [State.modQueueOf]
  split <;> exact h.modCoreElse

theorem Inv.modCopy {core q id f} (h : Inv s) : Inv (s.modCopy core q id f) := h.modQueueOf

theorem Inv.enterCopy {f e t qs fmt nslot} (h : Inv s) : (enterCopy f e t s qs fmt nslot).Keeps := by
  simp only [Machine.enterCopy]
  split
  · exact h
  · exact (Inv.ite (h.foldl fun _ _ hs => hs.modQueueOf) (h.foldl fun _ _ hs => hs.modQueueOf).modRing).update

theorem Inv.copyIssue {f e t} (h : Inv s) : (copyIssue f e t s).Keeps := by
  simp only [Machine.copyIssue]
  split
  · trivial
  split
  · exact h.enterCopy
  split
  · exact h.enterCopy
  · exact h.enterCopy
  · trivial

theorem Inv.joinIssue {f e t} (h : Inv s) : (joinIssue f e t s).Keeps := by
  simp only [Machine.joinIssue]
  split
  · trivial
  · exact h.enterCopy

theorem Inv.parkCopy {core q e va c level} (h : Inv s) : Inv (s.parkCopy core q e va c level) := h.park.modCopy

theorem Inv.startCopy {core q id} (h : Inv s) : Inv (startCopy core q id s) := by
  simp only [Machine.startCopy]
  split
  · exact h
  split
  · exact h
  split
  · split
    · exact h.countFlits.modCopy
    · exact h.parkCopy
    · exact h
    · exact h.modCopy
  · exact h

theorem Inv.landCount {e ring n va} (h : Inv s) : Inv (landCount e ring n va s) := by
  simp only [Machine.landCount]
  split
  · exact h
  · exact .ite h.postRecord.putBarrier h.putBarrier

theorem Inv.landWord {core q id} (h : Inv s) : Inv (landWord core q id s) := by
  simp only [Machine.landWord]
  split
  · exact h
  split
  · exact h
  split
  · exact h
  split
  · exact h.modCopy
  · exact h.parkCopy
  · exact .ite h (h.touch.sendTo.writeSite _ _ _).landCount.modCopy

theorem Inv.landWords {core q id n} (h : Inv s) : Inv (landWords core q id n s) := by
  induction n generalizing s with
  | zero => exact h
  | succ n ih => exact ih h.landWord

theorem Inv.execCopyBytesLand (h : Inv s) : OutKeeps (execCopyBytesLand s) := by
  simp only [Machine.execCopyBytesLand]
  split
  · exact Inv.ite h.landWords h
  · exact h

theorem Inv.lostFlags {e} (h : Inv s) : Inv (lostFlags e s) := by
  simp only [Machine.lostFlags]
  exact h.postRecord

theorem Inv.reportCopyFlags {e} (h : Inv s) : Inv (reportCopyFlags e s) := by
  simp only [Machine.reportCopyFlags]
  split
  · exact h
  split
  · exact .ite h.modTroupe h.lostFlags
  · exact h.lostFlags

theorem Inv.faultBarrier {off fs ring} (h : Inv s) : Inv (faultBarrier off fs s ring) := by
  simp only [Machine.faultBarrier]
  split
  · exact h
  · exact .ite h.putBarrier h

theorem Inv.signalCopy {e} (h : Inv s) : Inv (signalCopy e s) := by
  simp only [Machine.signalCopy]
  split
  · split
    · exact h.foldl fun _ _ hs => hs.faultBarrier
    · exact h
  · exact h.modRing

theorem Inv.finishCopy {core e} (h : Inv s) : Inv (s.finishCopy core e) :=
  (h.foldl fun _ _ hs => hs.modQueueOf).signalCopy.reportCopyFlags

theorem Inv.execCopyComplete (h : Inv s) : OutKeeps (execCopyComplete s) := by
  simp only [Machine.execCopyComplete]
  split
  · exact Inv.ite h.finishCopy h
  · exact h

theorem Inv.execCopyFinalFault (h : Inv s) : OutKeeps (execCopyFinalFault s) := by
  simp only [Machine.execCopyFinalFault]
  split
  · split
    · exact h
    split
    · split
      · exact Inv.ite (.ite h h.postRecord.modCopy) (Inv.ite h h.postRecord.modCopy).finishCopy
      · exact Inv.ite h h.postRecord.modCopy
    · exact h
  · exact h

/-! ### Matrix streams -/

theorem Inv.streamNext {ring pc} (h : Inv s) : Inv (s.streamNext ring pc) := by
  simp only [State.streamNext]
  split
  · exact h
  · exact .ite h.modStream.modRing h.modStream

theorem Inv.streamRun {i f ring st eff} (h : Inv s) (he : (eff st s).Keeps) :
    Inv (streamRun i f ring st s eff) := by
  simp only [Machine.streamRun]
  split
  · exact h.stopStream
  split
  · exact h.stopStream
  split
  · exact h.stopStream
  split
  · exact h.stopStream
  · exact h.stopStream
  split
  · exact h.stopStream
  split
  · exact h.stopStream
  split
  · exact h.stopStream
  generalize eff st s = r at he ⊢
  cases r with
  | done s1 => exact Inv.streamNext he
  | goto s1 pc => exact Inv.streamNext he
  | more s1 => exact Inv.modStream he
  | wait w s1 => exact Inv.modStream he
  | park va c l s1 => exact (Inv.park he).modStream
  | stop code s1 => exact Inv.stopStream he
  | ended s1 => exact he

theorem Inv.streamInstr {i f eff} (h : Inv s) (he : ∀ st, (eff st s).Keeps) : OutKeeps (streamInstr i f s eff) := by
  simp only [Machine.streamInstr]
  split
  · split
    · exact h.streamRun (he _)
    · trivial
  · split
    · exact h.scalarFaultOf
    · trivial
  · trivial

theorem Inv.returnGrant {ring cls} (h : Inv s) : Inv (s.returnGrant ring cls) := h.modRing

theorem Inv.askContexts {ring} (h : Inv s) : Inv (s.askContexts ring) := h.modCoreElse

theorem Inv.askGrant {ring two smp} (h : Inv s) : Inv (s.askGrant ring two smp) := by
  simp only [State.askGrant]
  split
  · exact h.modStream.askContexts
  · exact h.modDie

theorem Inv.execMxgo {f} (h : Inv s) : OutKeeps (execMxgo f s) := by
  simp only [Machine.execMxgo]
  exact h.vectorInstr fun _ hs _ _ => by
    split
    · trivial
    · exact hs.modRing.askGrant

theorem Inv.startStream {ring} (h : Inv s) : Inv (startStream ring s) := by
  simp only [Machine.startStream]
  split
  · exact h
  split
  · exact h.modStream
  · exact h.park.modStream
  · exact h.modStream
  · exact h.stopStream

theorem Inv.giveContexts {ring} (h : Inv s) : Inv (giveContexts ring s) := by
  simp only [Machine.giveContexts]
  split
  · exact h
  · exact .ite h.modCoreElse.modStream h.modCoreElse.modStream.startStream

theorem Inv.execMatrixContextGrant (h : Inv s) : OutKeeps (execMatrixContextGrant s) := by
  simp only [Machine.execMatrixContextGrant]
  split
  · exact h
  split
  · exact Inv.ite h.startStream h
  split
  · exact Inv.ite h.giveContexts h
  · exact h

theorem Inv.leaveContexts {ring} (h : Inv s) : Inv (s.leaveContexts ring) := by
  simp only [State.leaveContexts]
  split
  · exact h
  · exact ((Inv.ite h.modCoreElse h.modCoreElse.returnGrant).foldl fun _ _ hs => hs.returnGrant).modStream

theorem Inv.endStream {ring} (h : Inv s) : Inv (s.endStream ring) := h.leaveContexts.modRing.modStream

theorem Inv.execMxend {f} (h : Inv s) : OutKeeps (execMxend f s) := by
  simp only [Machine.execMxend]
  exact h.streamInstr fun _ => by
    split
    · exact (Inv.ite h.modRing h).endStream
    · exact h

theorem Inv.execMxvar {f} (h : Inv s) : OutKeeps (execMxvar f s) := by
  simp only [Machine.execMxvar]
  split
  · exact h.streamInstr fun _ => h.modStream
  · exact h.vectorInstr fun _ hs _ _ => hs.scalarResult

theorem Inv.execMxwaitTg {f} (h : Inv s) : OutKeeps (execMxwaitTg f s) := by
  simp only [Machine.execMxwaitTg]
  exact h.streamInstr fun _ => by
    split
    · split <;> exact h
    · exact h

theorem Inv.execMxwaitBo {f} (h : Inv s) : OutKeeps (execMxwaitBo f s) := by
  simp only [Machine.execMxwaitBo]
  exact h.streamInstr fun _ => by
    split
    · exact h
    split
    · exact h
    split
    · exact h
    split
    · exact h.modStream
    split
    · exact h.modStream
    split
    · exact h.modStream
    split
    · exact h
    · split <;> exact h.modStream

theorem Inv.mxnbEffect {sync f st} (h : Inv s) : (mxnbEffect sync f st s).Keeps := by
  simp only [Machine.mxnbEffect]
  split
  · split <;> exact h
  split
  · exact h
  · split <;> exact h.nbArrive ‹_›

theorem Inv.execMxloopBegin {f} (h : Inv s) : OutKeeps (execMxloopBegin f s) := by
  simp only [Machine.execMxloopBegin]
  exact h.streamInstr fun _ => by
    split
    · exact h
    · exact h.modStream

theorem Inv.execMxloop {f} (h : Inv s) : OutKeeps (execMxloop f s) := by
  simp only [Machine.execMxloop]
  exact h.streamInstr fun _ => by
    split
    · exact h
    · split <;> exact h.modStream

/-! ### Matrix operations -/

theorem Inv.res {x} (h : Inv s) : (OpStop.res x s).Keeps := by
  simp only [Machine.OpStop.res]
  split <;> exact h

theorem Inv.keepFmts {l} (h : Inv s) : Inv (s.keepFmts l) := h.modStream

theorem Inv.keepAt {e l} (h : Inv s) : Inv (s.keepAt e l) := by
  simp only [State.keepAt]
  split
  · exact h
  · exact .ite h h.modStream
  · exact h.modStream

theorem Inv.onStream {f} (h : Inv s) : Inv (s.onStream f) := h.modStream

theorem Inv.countHdrs {l n} (h : Inv s) : Inv (s.countHdrs l n) := h.foldl fun _ _ hs => hs.countFlits

theorem Inv.addGroup {oa ob d row col g gr} {s1} (h : Inv s) (he : addGroup oa ob d row col g gr s = .ok s1) :
    Inv s1 := by
  simp only [Machine.addGroup] at he
  split at he
  · cases he
  split at he
  · cases he
  cases he
  exact h.countHdrs.onStream

theorem Inv.addGroups {oa ob d row col gr step l} (h : Inv s) : (addGroups oa ob d row col gr step l s).Keeps := by
  induction l generalizing s with
  | nil => exact h
  | cons g gs ih =>
      simp only [Machine.addGroups]
      split
      · exact h.res
      · exact ih (h.addGroup ‹_›).onStream

theorem opDone_keeps {r} (hr : r.Keeps) : (opDone r).Keeps := by
  cases r <;> exact hr

theorem Inv.mulOp {sparse f st} (h : Inv s) : (mulOp sparse f st s).Keeps := by
  unfold Machine.mulOp
  extract_lets
  split
  · exact h.res
  split
  · exact h.keepAt.res
  extract_lets
  split
  · exact h.keepFmts
  · exact opDone_keeps h.keepFmts.addGroups

theorem Inv.dualGroup {ox oy g gr} {s1} (h : Inv s) (he : dualGroup ox oy g gr s = .ok s1) : Inv s1 := by
  simp only [Machine.dualGroup] at he
  split at he
  · cases he
  split at he
  · cases he
  cases he
  exact h.countHdrs.onStream

theorem Inv.dualGroups {ox oy gr l} (h : Inv s) : (dualGroups ox oy gr l s).Keeps := by
  induction l generalizing s with
  | nil => exact h
  | cons g gs ih =>
      simp only [Machine.dualGroups]
      split
      · exact h.res
      · exact ih (h.dualGroup ‹_›)

theorem Inv.dualOp {f st} (h : Inv s) : (dualOp f st s).Keeps := by
  unfold Machine.dualOp
  extract_lets
  split
  · exact h.res
  split
  · exact h.keepAt.res
  split
  · exact h.keepAt.res
  extract_lets
  split
  · exact h.keepFmts
  split
  · have h2 := Inv.of_done h.onStream.addGroups ‹_›
    extract_lets
    apply opDone_keeps
    split
    · exact (Inv.of_done h2.onStream.dualGroups ‹_›).onStream
    · exact h2.onStream.dualGroups
  · exact h.onStream.addGroups

theorem Inv.execMxzero {f} (h : Inv s) : OutKeeps (execMxzero f s) := by
  simp only [Machine.execMxzero]
  exact h.streamInstr fun _ => by
    split
    · exact h.onStream
    split
    · exact h
    · exact h.onStream

theorem Inv.tileStop {st x e} (h : Inv s) : (tileStop st x s e).Keeps := by
  unfold Machine.tileStop
  split
  · exact h.keepFmts.res
  · exact h.res

theorem Inv.execMxld {f} (h : Inv s) : OutKeeps (execMxld f s) := by
  simp only [Machine.execMxld]
  exact h.streamInstr fun _ => by
    split
    · exact h.tileStop
    · exact h.countHdrs.onStream

theorem Inv.execMxadd {f} (h : Inv s) : OutKeeps (execMxadd f s) := by
  simp only [Machine.execMxadd]
  exact h.streamInstr fun _ => by
    split
    · split
      · exact h
      · exact h.onStream
    · split
      · exact h.tileStop
      · exact h.countHdrs.onStream

theorem Inv.execMxscl {f} (h : Inv s) : OutKeeps (execMxscl f s) := by
  simp only [Machine.execMxscl]
  exact h.streamInstr fun _ => by
    split
    · exact h
    · exact h.onStream

theorem Inv.storeBytes {g va bs} {s1} (h : Inv s) (he : storeBytes g va bs s = .ok s1) : Inv s1 := by
  simp only [Machine.storeBytes] at he
  split at he
  · split at he <;> cases he
  cases he
  exact h.foldl fun _ _ hs => by
    split
    · exact (hs.writeSite _ _ _).sendTo
    · exact hs

theorem Inv.storeElem {f u o d g i j} {s1} (h : Inv s) (he : storeElem f u o d g s i j = .ok s1) : Inv s1 := by
  simp only [Machine.storeElem] at he
  split at he
  · cases he
  cases he
  exact (h.storeBytes ‹_›).onStream

theorem Inv.storeElems {f u o d g l} (h : Inv s) : (storeElems f u o d g l s).Keeps := by
  induction l generalizing s with
  | nil => exact h
  | cons x xs ih =>
      simp only [Machine.storeElems]
      split
      · exact h.res
      · exact ih (h.storeElem ‹_›)

theorem Inv.execMxst {f} (h : Inv s) : OutKeeps (execMxst f s) := by
  simp only [Machine.execMxst]
  exact h.streamInstr fun _ => by
    split
    · exact h.res
    split
    · exact h.keepFmts
    · exact h.keepFmts.storeElems

/-! ### Sampled products -/

theorem Inv.writeWords {g l s1} (h : Inv s) (he : writeWords g l s = .ok s1) : Inv s1 := by
  induction l generalizing s with
  | nil => cases he; exact h
  | cons x xs ih =>
      simp only [Machine.writeWords] at he
      split at he
      · cases he
      · cases he
      split at he
      · cases he
      · exact ih (h.writeSite _ _ _).sendTo he

theorem Inv.normGroup {oa ob va gr g} {s1} (h : Inv s) (he : normGroup oa ob va gr g s = .ok s1) : Inv s1 := by
  simp only [Machine.normGroup] at he
  split at he
  · cases he
  split at he
  · cases he
  split at he
  · cases he
  cases he
  exact (h.writeWords ‹_›).countHdrs.onStream

theorem Inv.normGroups {oa ob va gr l s1} (h : Inv s) (he : normGroups oa ob va gr l s = .ok s1) : Inv s1 := by
  induction l generalizing s with
  | nil => cases he; exact h
  | cons g gs ih =>
      simp only [Machine.normGroups] at he
      split at he
      · cases he
      · exact ih (h.normGroup ‹_›) he

theorem Inv.normEnd {va k gr} (h : Inv s) : (normEnd va k gr s).Keeps := by
  simp only [Machine.normEnd]
  split
  · exact h.res
  split
  · exact h.res
  · exact (h.writeWords ‹_›).onStream

theorem Inv.normOp {f st} (h : Inv s) : (normOp f st s).Keeps := by
  unfold Machine.normOp
  extract_lets
  split
  · exact h.res
  split
  · exact h.keepAt.res
  extract_lets
  split
  · exact h.keepFmts
  split
  · exact h.keepFmts.res
  extract_lets
  split
  · exact h.keepFmts
  split
  · exact h.keepFmts.res
  split
  · exact h.keepFmts.normGroups ‹_›
  · exact (h.keepFmts.normGroups ‹_›).normEnd

theorem Inv.onAlias {f} (h : Inv s) : Inv (s.onAlias f) := h.modCoreElse

theorem Inv.aliasFail {fl} (h : Inv s) : (aliasFail fl s).Keeps := by
  simp only [Machine.aliasFail]
  exact h.onAlias.onStream

theorem Inv.aliasStop {e} (h : Inv s) : (aliasStop e s).Keeps := by
  simp only [Machine.aliasStop]
  split
  · exact h.onAlias.res
  · exact h.res

theorem Inv.aliasOp {f st} (h : Inv s) : (aliasOp f st s).Keeps := by
  simp only [Machine.aliasOp]
  split
  · exact h
  split
  · exact h.aliasStop
  split
  · exact h.aliasFail
  split
  · exact h.aliasStop
  split
  · exact h.aliasFail
  · split <;> exact h.onAlias.onStream

theorem Inv.sampGroup {r c} {s1} (h : Inv s) (he : sampGroup r c s = .ok s1) : Inv s1 := by
  simp only [Machine.sampGroup] at he
  split at he
  · cases he
  split at he
  · cases he
  cases he
  exact h.countHdrs.onStream

theorem Inv.onRing {f} (h : Inv s) : Inv (s.onRing f) := h.modRing

theorem Inv.sampCheck {r n} (h : Inv s) : Inv (sampCheck r n s).2 := by
  simp only [Machine.sampCheck]
  exact h.onStream.onRing

theorem Inv.sampEnd {r reason n} (h : Inv s) : (sampEnd r reason n s).Keeps := by
  simp only [Machine.sampEnd]
  exact h.onStream.onRing

theorem Inv.sampTurn {r c} (h : Inv s) : (sampTurn r c s).Keeps := by
  simp only [Machine.sampTurn]
  split
  · exact h.res
  split
  · exact (h.sampGroup ‹_›).onRing
  split
  · exact (h.sampGroup ‹_›).onRing.sampCheck
  · exact (h.sampGroup ‹_›).onRing.sampCheck.sampEnd

theorem Inv.sampOp {f st} (h : Inv s) : (sampOp f st s).Keeps := by
  simp only [Machine.sampOp]
  split
  · exact h
  split
  · exact h.res
  split
  · exact h.keepAt.res
  split
  · exact h.keepFmts
  split
  · exact (Inv.ite h.keepFmts.onStream.onRing h.keepFmts).onRing
  · exact opDone_keeps (Inv.ite h.keepFmts.onStream.onRing h.keepFmts).sampTurn

/-! ### Clauses -/

theorem Inv.headerRun {hd t} (h : Inv s) : Inv (headerRun hd t s) := by
  simp only [Machine.headerRun]
  split
  · exact h.scalarFault
  split
  · exact h.blockScalar
  split
  · exact h.blockScalar
  split
  · exact h.scalarFault
  split
  · exact h.setTroupe.endInstr
  split
  · exact h.setTroupe.scalarFault
  · exact h.setTroupe.settle

theorem Inv.streamHeader {hd ring st} (h : Inv s) : Inv (streamHeader hd ring st s) := by
  simp only [Machine.streamHeader]
  split
  · exact h.stopStream
  split
  · exact h.modStream.stopStream
  · exact h.modStream

theorem Inv.execClauseHeader {hd} (h : Inv s) : OutKeeps (execClauseHeader hd s) := by
  simp only [Machine.execClauseHeader]
  split
  · split
    · exact h.headerRun
    · trivial
  · split
    · exact h.streamHeader
    · trivial
  · trivial

theorem Inv.execNop {f} (h : Inv s) : OutKeeps (execNop f s) := by
  simp only [Machine.execNop]
  split
  · exact h.streamInstr fun _ => h
  · exact h.scalarInstr fun _ => h

theorem Inv.toSlices {die r} (h : Inv s) : Inv (s.toSlices die r) := h.update

theorem Inv.beginEnd {t} (h : Inv s) : Inv (s.beginEnd t) := h.setTroupe.modRing.treeCheck.toSlices

theorem Inv.execDone {f} (h : Inv s) : OutKeeps (execDone f s) := by
  simp only [Machine.execDone]
  exact h.scalarInstr fun _ => by
    split
    · exact h.beginEnd
    · exact h

/-! ### Save records -/

theorem Inv.putRecord {v} (h : Inv s) : Inv (s.putRecord v) := ⟨cellWriteN_wf _ _ h.1, h.2⟩

/-! ### Reading a save record back -/

theorem Inv.modSaved {nb f} (h : Inv s) : Inv (s.modSaved nb f) := by
  simp only [State.modSaved]
  split
  · exact h
  split
  · exact h.update.putRecord
  · exact h.update

/-! ### Tuple space -/

theorem Inv.withRegion {e t bad k} (h : Inv s) (hk : ∀ r g s, Inv s → (k r g s).Keeps) :
    (withRegion e t s bad k).Keeps := by
  simp only [Machine.withRegion]
  split
  · exact h
  split
  · trivial
  · exact h.park
  split
  · trivial
  split
  · trivial
  · exact hk _ _ _ h.touch

theorem Inv.toSlice {die slice r} (h : Inv s) : Inv (s.toSlice die slice r) := h.modSlice

theorem Inv.sendLane {id o r l} (h : Inv s) : Inv (sendLane id o r s l) := by
  simp only [Machine.sendLane]
  split
  · exact h
  · exact h.toSlice.modTroupe

theorem Inv.startLane {id o r pg l} (h : Inv s) : Inv (startLane id o r pg s l) := by
  simp only [Machine.startLane]
  split
  · exact .ite h.faultLane h.sendLane
  · exact h.sendLane

theorem Inv.performTuple {id op} (h : Inv s) : Inv (performTuple id op s) := by
  simp only [Machine.performTuple]
  split
  · exact h
  split
  · exact h
  split
  · exact h
  · exact h.foldl fun _ _ hs => hs.startLane

theorem Inv.depIssue {f e t} (h : Inv s) : (depIssue f e t s).Keeps := by
  simp only [Machine.depIssue]
  split
  · exact h
  · exact h.withRegion fun _ _ _ hs => by
      split
      · exact hs
      · exact hs.setTroupe.foldl fun _ _ hs => hs.startLane

theorem Inv.matchIssue {f e t} (h : Inv s) : (matchIssue f e t s).Keeps := by
  simp only [Machine.matchIssue]
  split
  · trivial
  split
  · exact h.setTroupe
  · exact h.withRegion fun _ _ _ hs => by
      split
      · exact hs
      · exact hs.setTroupe.foldl fun _ _ hs => hs.startLane

theorem Inv.execTcan {f} (h : Inv s) : OutKeeps (execTcan f s) := by
  simp only [Machine.execTcan]
  exact h.vectorInstr fun _ hs _ _ => by
    split
    · exact hs
    · exact hs.setTroupe.toSlices

theorem Inv.loadSpill {n asid rid} (h : Inv s) : Inv (s.loadSpill n asid rid) := by
  simp only [State.loadSpill]
  split
  · exact .ite h h.modSlice
  · exact h

theorem Inv.storeSpill {n asid rid} (h : Inv s) : Inv (s.storeSpill n asid rid) := by
  simp only [State.storeSpill]
  split
  · split
    · exact h
    · refine ⟨?_, h.2⟩
      refine List.foldlRecOn (motive := fun a : List Host.Cell × _ => Memory.wf a.1 = true) _ _ h.1 fun a ha t _ => ?_
      split
      · exact cellWriteN_wf _ _ ha
      · exact ha
  · exact h

theorem Inv.execTupleDepositServe (h : Inv s) : OutKeeps (execTupleDepositServe s) := by
  simp only [Machine.execTupleDepositServe]
  split
  · split
    · split
      · exact h.loadSpill.modSlice.storeSpill
      · exact h.modSlice
    · exact h
  · exact h

theorem Inv.matchServe {n q} (h : Inv s) : Inv (s.matchServe n q) := .ite h.modSlice.modTroupe h.modSlice

theorem Inv.execTupleMatchServe (h : Inv s) : OutKeeps (execTupleMatchServe s) := by
  simp only [Machine.execTupleMatchServe]
  split
  · split
    · exact h.loadSpill.matchServe.storeSpill
    · exact h.loadSpill.matchServe.storeSpill
    · exact h.loadSpill.modSlice
    · exact h
    · exact h
  · exact h

theorem Inv.execTupleCancelServe (h : Inv s) : OutKeeps (execTupleCancelServe s) := by
  simp only [Machine.execTupleCancelServe]
  split
  · exact Inv.ite h.modSlice h
  · exact h

theorem Inv.finishMatch {id o f} (h : Inv s) : Inv (finishMatch id o f s) := by
  simp only [Machine.finishMatch]
  exact h.modTroupe.tidyOp

theorem Inv.tidyDep {id op} (h : Inv s) : Inv (s.tidyDep id op) := by
  simp only [State.tidyDep]
  split
  · exact h
  split
  · exact h
  · exact .ite h.setTroupe h

theorem Inv.depReply {o r} (h : Inv s) : Inv (depReply o r s) := by
  simp only [Machine.depReply]
  exact .ite h.modTroupe.faultLane h.modTroupe.tidyDep

theorem Inv.badReply {o f r} (h : Inv s) : Inv (badReply o f r s) := by
  simp only [Machine.badReply]
  split
  · exact h.faultLane.modTroupe
  split
  · exact .ite h.faultLane h.faultLane.finishMatch
  · exact h.faultLane

theorem Inv.applyReply {r} (h : Inv s) : Inv (applyReply r s) := by
  simp only [Machine.applyReply]
  split
  · exact h
  split
  · exact h
  split
  · exact h.depReply
  · split
    · exact h
    · exact .ite h.setTroupe h.setTroupe
  · split
    · exact h
    split
    · exact h.badReply
    split
    · exact h.setTroupe.tidyOp
    split
    · exact .ite h.setTroupe h.setTroupe.finishMatch
    · exact h.setTroupe

theorem Inv.execTupleReply (h : Inv s) : OutKeeps (execTupleReply s) := by
  simp only [Machine.execTupleReply]
  split
  · exact h
  split
  · split
    · exact h.modSlice.modSaved
    · exact h.modSlice.applyReply.settle
  · exact h

/-! ### The solver sequencer -/

theorem Inv.modSolver {ring f} (h : Inv s) : Inv (s.modSolver ring f) := h.modRing

theorem Inv.solverPop {ring} (h : Inv s) : Inv (s.solverPop ring) := h.modSolver

theorem Inv.solverFail {ring err o} (h : Inv s) : Inv (s.solverFail ring err o) :=
  h.postRecord.solverPop.modSolver

theorem Inv.releaseBatch {ring} (h : Inv s) : Inv (s.releaseBatch ring) := (Inv.ite h.returnGrant h).modSolver

theorem Inv.releaseIdle {ring} (h : Inv s) : Inv (s.releaseIdle ring) := .ite h.releaseBatch h

theorem Inv.parkSolver {ring va c level kind} (h : Inv s) : Inv (s.parkSolver ring va c level kind) :=
  h.park.modSolver

theorem Inv.solverStop {ring o st} (h : Inv s) : Inv (s.solverStop ring o st) := by
  simp only [State.solverStop]
  split
  · exact h.parkSolver
  · exact h.solverFail
  · exact h

/-- A run of the sequencer's accesses leaves memory and scratchpads in canonical form. -/
def Sq.Keeps {α : Type} (x : Sq α) : Prop := ∀ ⦃s g a s1⦄, Inv s → (x s g).1 = .ok (a, s1) → Inv s1

theorem Sq.keeps_done {α : Type} {a : α} : (Sq.done a).Keeps := by
  intro s g a s1 h he
  cases he
  exact h

theorem Sq.keeps_error {α : Type} {e} : Sq.Keeps (fun _ g => (.error e, g) : Sq α) := by
  intro s g a s1 _ he
  cases he

theorem Sq.keeps_andThen {α β : Type} {x : Sq α} {f : α → Sq β} (hx : x.Keeps) (hf : ∀ a, (f a).Keeps) :
    (x.andThen f).Keeps := by
  intro s g b s2 h he
  simp only [Sq.andThen] at he
  split at he
  · cases he
  · rename_i hr
    exact hf _ (hx h (by rw [hr])) he

theorem Sq.keeps_each {α β : Type} {f : α → Sq β} {l : List α} (hf : ∀ a, (f a).Keeps) : (Sq.each f l).Keeps := by
  induction l with
  | nil => exact keeps_done
  | cons x xs ih => exact keeps_andThen (hf x) fun _ => keeps_andThen ih fun _ => keeps_done

theorem Sq.keeps_load {ring va} : (Sq.load ring va).Keeps := by
  intro s g a s1 h he
  simp only [Sq.load] at he
  split at he
  · cases he
  · cases he
    exact h.countFlits

theorem Sq.keeps_store {ring va x} : (Sq.store ring va x).Keeps := by
  intro s g a s1 h he
  simp only [Sq.store] at he
  split at he
  · split at he
    · cases he
    · cases he
      exact h.sendTo.writeSite _ _ _
  · cases he
  · cases he

theorem Sq.keeps_loads {ring va n} : (Sq.loads ring va n).Keeps := keeps_each fun _ => keeps_load

theorem Sq.keeps_stores {ring ws} : (Sq.stores ring ws).Keeps :=
  keeps_andThen (keeps_each fun _ => keeps_store) fun _ => keeps_done

theorem Inv.run {α : Type} {x : Sq α} {ring f} (h : Inv s) (hx : x.Keeps) : Inv (x.run ring f s).1 := by
  simp only [Sq.run]
  split
  · exact h.modSolver
  · rename_i hr
    exact (show Inv _ from hx h (by rw [hr])).modSolver

theorem Inv.raiseBatch {ring g} (h : Inv s) : Inv (s.raiseBatch ring g) := h.modSolver

theorem Inv.doSlvtab {ring o} (h : Inv s) : Inv (doSlvtab ring o s) := by
  simp only [Machine.doSlvtab]
  split
  · exact h.raiseBatch.solverFail
  split
  · exact h.raiseBatch.solverStop
  · exact .ite h.raiseBatch.raiseBatch.countFlits.solverFail h.raiseBatch.raiseBatch.countFlits.modSolver.solverPop

theorem Inv.askCalliope {ring} (h : Inv s) : Inv (s.askCalliope ring) := .ite h.update h.modSolver.modDie

theorem Inv.initSample {ring} (h : Inv s) : Inv (initSample ring s).1 :=
  h.run (Sq.keeps_andThen Sq.keeps_loads fun w => by
    split
    · exact Sq.keeps_error
    · exact Sq.keeps_andThen Sq.keeps_stores fun _ => Sq.keeps_done)

theorem Inv.repeatStep {f n} (h : Inv s) (hf : ∀ s, Inv s → Inv (f s).1) : Inv (repeatStep f n s).1 := by
  induction n generalizing s with
  | zero => exact h
  | succ n ih =>
      simp only [Machine.repeatStep]
      have h1 := hf s h
      split <;> rename_i hr <;> rw [hr] at h1
      · exact h1
      · exact ih h1

theorem Inv.readRecords {ring o} (h : Inv s) : Inv (readRecords ring o s) := by
  simp only [Machine.readRecords]
  split
  · exact (h.repeatStep fun _ hs => hs.initSample).solverStop
  · exact (h.repeatStep fun _ hs => hs.initSample).modSolver.solverPop

theorem Inv.doSlvini {ring o} (h : Inv s) : Inv (doSlvini ring o s) := by
  simp only [Machine.doSlvini]
  split
  · exact h.readRecords
  split
  · exact h.modSolver.raiseBatch.solverFail
  split
  · exact h.modSolver.solverStop
  · exact .ite h.modSolver.solverFail h.modSolver.countFlits.modSolver.askCalliope

theorem Sq.keeps_foldl {α β : Type} {f : Sq β → α → Sq β} {l : List α} {x : Sq β} (hx : x.Keeps)
    (hf : ∀ x a, x.Keeps → (f x a).Keeps) : (l.foldl f x).Keeps :=
  List.foldlRecOn (motive := Sq.Keeps) l f hx fun x hx a _ => hf x a hx

theorem Sq.keeps_ite {α : Type} {c : Prop} {_ : Decidable c} {x y : Sq α} (hx : x.Keeps) (hy : y.Keeps) :
    (if c then x else y).Keeps := by
  split
  · exact hx
  · exact hy

theorem Sq.keeps_stageSum {ring tab d n i l} : (stageSum ring tab d n i l).Keeps :=
  keeps_foldl keeps_done fun _ _ hx => keeps_andThen hx fun _ =>
    keeps_ite keeps_done (keeps_andThen keeps_load fun _ => keeps_done)

theorem Sq.keeps_stageElem {ring tab d x n i l} : (stageElem ring tab d x n i l).Keeps :=
  keeps_andThen keeps_load fun _ =>
    keeps_andThen (keeps_ite keeps_done (keeps_andThen keeps_stageSum fun _ => keeps_done)) fun _ =>
      keeps_andThen keeps_store fun _ => keeps_done

theorem Sq.keeps_stageSample {i v ring n x} : (stageSample i v ring n x).Keeps :=
  keeps_andThen (keeps_each fun _ => keeps_stageElem) fun _ => keeps_andThen keeps_store fun _ => keeps_done

theorem Sq.keeps_endSums {ring tab d n l} : (endSums ring tab d n l).Keeps :=
  keeps_foldl keeps_done fun _ _ hx => keeps_andThen hx fun _ =>
    keeps_ite keeps_done (keeps_andThen keeps_load fun _ => keeps_done)

theorem Sq.keeps_histSum {ring tab d st n l u} : (histSum ring tab d st n l u).Keeps :=
  keeps_foldl keeps_done fun _ _ hx => keeps_andThen hx fun _ =>
    keeps_ite keeps_done (keeps_andThen keeps_load fun _ => keeps_done)

theorem Sq.keeps_endElem {ring tab d x n a l} : (endElem ring tab d x n a l).Keeps :=
  keeps_andThen keeps_load fun _ => keeps_andThen keeps_endSums fun _ =>
    keeps_andThen keeps_histSum fun _ => keeps_done

theorem Sq.keeps_keepStep {ring tab d st n yhi} : (keepStep ring tab d st n yhi).Keeps :=
  keeps_andThen keeps_stores fun _ =>
    keeps_ite keeps_done (keeps_andThen keeps_loads fun _ => keeps_stores)

theorem Sq.keeps_endSample {v ring n x} : (endSample v ring n x).Keeps :=
  keeps_andThen (keeps_foldl keeps_done fun _ _ hx => keeps_andThen hx fun _ => keeps_endElem) fun _ =>
    keeps_andThen (keeps_ite keeps_keepStep keeps_done) fun _ => keeps_andThen keeps_stores fun _ => keeps_done

theorem Inv.nextSample {ring f} (h : Inv s) (hf : ∀ v ring n x, (f v ring n x).Keeps) :
    Inv (nextSample ring f s).1 := by
  simp only [Machine.nextSample]
  split
  · exact h.modSolver
  · exact h.run (hf _ _ _ _)

theorem Inv.everySample {ring o f} (h : Inv s) (hf : ∀ v ring n x, (f v ring n x).Keeps) :
    Inv (everySample ring o f s) := by
  have hr : Inv (Machine.repeatStep (Machine.nextSample ring f)
      ((s.solver ring).samples.length - (s.solver ring).pos) s).1 := h.repeatStep fun _ hs => hs.nextSample hf
  simp only [Machine.everySample]
  split
  · exact h.solverFail
  split
  · exact hr.solverStop
  · exact hr.solverPop

theorem Inv.doSlvst {ring rel d o} (h : Inv s) : Inv (doSlvst ring rel d o s) := by
  simp only [Machine.doSlvst]
  exact (Inv.ite h.modTroupe.solverPop.releaseBatch h.modTroupe.solverPop).settle

theorem Inv.solverHead {ring} (h : Inv s) : Inv (solverHead ring s) := by
  simp only [Machine.solverHead]
  split
  · exact h
  split
  · exact h.doSlvst
  · exact h.doSlvst
  split
  · exact h.solverPop
  split
  · exact h.doSlvtab
  · exact h.doSlvini
  · exact .ite h.solverFail (h.everySample fun _ _ _ _ => Sq.keeps_stageSample)
  · exact h.everySample fun _ _ _ _ => Sq.keeps_endSample
  · exact h.solverPop

theorem Inv.writeRecord {ring n} (h : Inv s) : Inv (writeRecord ring s n) := h.run Sq.keeps_stores

theorem Inv.writeRecords {ring} (h : Inv s) : Inv (s.writeRecords ring) :=
  .ite (h.foldl fun _ _ hs => hs.writeRecord) h

theorem Inv.reloadSample {ring} (h : Inv s) : Inv (reloadSample ring s).1 := h.run Sq.keeps_loads

theorem Inv.reloadFail {ring err} (h : Inv s) : Inv (s.reloadFail ring err) := h.postRecord.modSolver

theorem Inv.reloadSamples {ring} (h : Inv s) : Inv (reloadSamples ring s) := by
  simp only [Machine.reloadSamples]
  split
  · exact (h.repeatStep fun _ hs => hs.reloadSample).parkSolver
  · exact (h.repeatStep fun _ hs => hs.reloadSample).reloadFail
  · exact h.repeatStep fun _ hs => hs.reloadSample
  · exact h.repeatStep fun _ hs => hs.reloadSample

theorem Inv.performSolver {ring} (h : Inv s) : Inv (performSolver ring s) := by
  simp only [Machine.performSolver]
  exact .ite h.solverHead <| .ite h.reloadSamples h.reloadSamples.solverHead

theorem Inv.execSolverQueueServe (h : Inv s) : OutKeeps (execSolverQueueServe s) := by
  simp only [Machine.execSolverQueueServe]
  split
  · exact h.modDie.performSolver.releaseIdle
  · exact h

theorem Inv.execCalliopeGrant (h : Inv s) : OutKeeps (execCalliopeGrant s) := by
  simp only [Machine.execCalliopeGrant]
  split
  · exact Inv.ite (Inv.ite h.modSolver.performSolver h.modSolver.reloadSamples).releaseIdle h
  · exact h

theorem Inv.solverIssue {e t op} {s1} (h : Inv s) (he : solverIssue e t s op = some s1) : Inv s1 := by
  simp only [Machine.solverIssue] at he
  split at he
  · cases he
  cases he
  exact h.modSolver

theorem Inv.solverJoin {e t} (h : Inv s) : (solverJoin e t s).Keeps := by
  simp only [Machine.solverJoin]
  split
  · exact h.solverIssue ‹_›
  · exact h

theorem Inv.slvstIssue {f e t} (h : Inv s) : (slvstIssue f e t s).Keeps := by
  simp only [Machine.slvstIssue]
  split
  · exact (h.solverIssue ‹_›).setTroupe
  · exact h

/-! ### Formats and their frames -/

theorem Inv.modFrame {core j f} (h : Inv s) : Inv (s.modFrame core j f) := h.modCoreElse

theorem Inv.takeFrame {hash x} (h : Inv s) : Inv (State.takeFrame hash s x) := h.modFrame

theorem Inv.leaveFrame {x} (h : Inv s) : Inv (s.leaveFrame x) := h.modFrame

theorem Inv.modSlot {asid slot f} (h : Inv s) : Inv (s.modSlot asid slot f) := h.modCtx

theorem Inv.endRequest {r status} (h : Inv s) : Inv (s.endRequest r status) := by
  simp only [State.endRequest]
  split
  · exact h
  · exact h.modTroupe.settle

theorem Inv.makeAvail {ring slot} (h : Inv s) : Inv (s.makeAvail ring slot) := by
  simp only [State.makeAvail]
  split
  · exact h
  · exact h.modLaunch

theorem Inv.dropRequest {r} (h : Inv s) : Inv (s.dropRequest r) := h.modFw

theorem Inv.takeFrames {hash} {l : List _} (h : Inv s) : Inv (l.foldl (State.takeFrame hash) s) :=
  h.foldl fun _ _ hs => hs.takeFrame

theorem Inv.beginRequest {r hash f} (h : Inv s) : Inv (s.beginRequest r hash f) := by
  simp only [State.beginRequest]
  split
  · exact h.dropRequest.endRequest
  · exact .ite (h.takeFrames.foldl fun _ _ hs => hs.modFrame).modSlot.makeAvail.dropRequest.endRequest
      h.takeFrames.modSlot.modFw

theorem Inv.execFormatCheckComplete (h : Inv s) : OutKeeps (execFormatCheckComplete s) := by
  simp only [Machine.execFormatCheckComplete]
  split
  · exact h
  split
  · exact h.dropRequest.endRequest
  · exact h.beginRequest

theorem Inv.execSlotDrainComplete (h : Inv s) : OutKeeps (execSlotDrainComplete s) := by
  simp only [Machine.execSlotDrainComplete]
  split
  · split
    · exact h.modSlot.foldl fun _ _ hs => hs.modFrame
    · exact h.modSlot
  · exact h

theorem Inv.giveFormat {asid slot f} (h : Inv s) : Inv (s.giveFormat asid slot f) :=
  h.mapCores rfl rfl fun _ => rfl

theorem Inv.leaveFrames {l : List _} (h : Inv s) : Inv (l.foldl State.leaveFrame s) :=
  h.foldl fun _ _ hs => hs.leaveFrame

theorem Inv.bindSlot {asid slot} (h : Inv s) : Inv (s.bindSlot asid slot) := by
  unfold State.bindSlot
  extract_lets e new old s1 s2
  have h2 : Inv s2 := Inv.modSlot h.leaveFrames
  split
  · extract_lets s3
    have h3 : Inv s3 := .ite h2 h2.makeAvail
    apply Inv.endRequest
    apply Inv.dropRequest
    split
    · exact .ite h3 h3.giveFormat
    · exact h3
  · exact h2

theorem Inv.execFrameReady (h : Inv s) : OutKeeps (execFrameReady s) := by
  simp only [Machine.execFrameReady]
  split
  · exact h.modFrame
  · exact Inv.ite h.bindSlot h

theorem Inv.execFmreq {f} (h : Inv s) : OutKeeps (execFmreq f s) := by
  simp only [Machine.execFmreq]
  exact h.scalarInstr fun _ => by
    split
    · exact h.setTroupe.modFw
    · exact h
    · trivial

theorem Inv.execFmfence {f} (h : Inv s) : OutKeeps (execFmfence f s) := by
  simp only [Machine.execFmfence]
  exact h.vectorInstr fun _ hs _ _ => by
    split <;> split <;> exact hs

theorem Inv.scalarQuery {i f v t} (h : Inv s) : (scalarQuery i f v t s).Keeps := by
  simp only [Machine.scalarQuery]
  split
  · exact h.setTroupe
  · exact h
  · trivial

theorem Inv.execFmrel {f} (h : Inv s) : OutKeeps (execFmrel f s) := by
  simp only [Machine.execFmrel]
  exact h.scalarInstr fun _ => by
    split
    · exact h.modTroupe
    split
    · exact h.modTroupe
    · exact h.modSlot.modTroupe

/-! ### Grades -/

theorem Inv.gradeOfMemory {f e t} (h : Inv s) : (gradeOfMemory f e t s).Keeps := by
  simp only [Machine.gradeOfMemory]
  split
  · exact h
  split
  · trivial
  · exact h.park
  · exact h.touch.modTroupe

theorem Inv.execGrd {f} (h : Inv s) : OutKeeps (execGrd f s) := by
  simp only [Machine.execGrd]
  split
  · exact h.vectorInstr fun _ hs _ _ => hs.setTroupe
  split
  · exact h.vectorInstr fun _ hs _ _ => hs.gradeOfMemory
  · exact h.scalarInstr fun _ => h.setTroupe

theorem Inv.execGrraise {f} (h : Inv s) : OutKeeps (execGrraise f s) := by
  simp only [Machine.execGrraise]
  split
  · exact h.vectorInstr fun _ hs _ _ => hs.computeIssue
  · exact h.scalarInstr fun _ => h.setTroupe

theorem Inv.declassify {g f e t} (h : Inv s) : (declassify g f e t s).Keeps := by
  simp only [Machine.declassify]
  split
  · trivial
  split
  · trivial
  · exact h.computeIssue

theorem Inv.execGrdecl {f} (h : Inv s) : OutKeeps (execGrdecl f s) := by
  simp only [Machine.execGrdecl]
  split
  · exact h.vectorInstr fun _ hs _ _ => hs.declassify
  · exact h.scalarInstr fun _ => by
      split
      · trivial
      · exact h.setTroupe

/-! ### Making troupes, bins and tickets -/

theorem Inv.addTroupe {t} (h : Inv s) : Inv (s.addTroupe t) := h.update

theorem Inv.spawnTroupe {ring entry recs} (h : Inv s) : Inv (s.spawnTroupe ring entry recs) := by
  have ha : ∀ t, Inv (s.addTroupe t) := fun _ => h.addTroupe
  simp only [State.spawnTroupe]
  split
  · exact (ha _).withLen.takeFault.withLen
  · exact ha _

theorem Inv.modBin {core j f} (h : Inv s) : Inv (s.modBin core j f) := h.modCoreElse

theorem Inv.launchBin {ring} (h : Inv s) : Inv (s.launchBin ring) := by
  simp only [State.launchBin]
  split
  · split
    · split
      · exact h.modBin.spawnTroupe
      · exact h
    · exact h
  · exact h

theorem Inv.readyBin {core j} (h : Inv s) : Inv (s.readyBin core j) := by
  simp only [State.readyBin]
  split
  · exact .ite h h.modBin.update.launchBin
  · exact h

theorem Inv.expireBins {core} (h : Inv s) : Inv (s.expireBins core) := h.foldl fun _ _ hs => hs.readyBin

theorem Inv.binPut {core j key r} (h : Inv s) : Inv (s.binPut core j key r) := .ite h.modBin.readyBin h.modBin

theorem Inv.unspill {ring j s1} (h : Inv s) (he : s.unspill ring j = .ok s1) : Inv s1 := by
  simp only [State.unspill] at he
  split at he
  · cases he
  split at he
  · cases he
  · rename_i hw
    exact (h.writeBytes _ _ _ _ hw).writeBytes _ _ _ _ he

theorem Inv.drainStep {ring} (h : Inv s) : Inv (s.drainStep ring) := by
  unfold State.drainStep
  extract_lets
  split
  · exact h.park
  · exact h
  · exact h.modRing
  split
  · exact h.expireBins.countFlits
  split
  · exact h.expireBins.countFlits.park
  · exact h.expireBins.countFlits
  · have hs := h.expireBins.countFlits.unspill ‹_›
    exact .ite hs.binPut hs.binPut.readyBin

theorem Inv.flushBins {ring} (h : Inv s) : Inv (s.flushBins ring) := by
  simp only [State.flushBins]
  exact (h.expireBins.foldl fun _ _ hs => by
    split
    · exact .ite hs.readyBin hs
    · exact hs).modRing

theorem Inv.spill {ring entry r s1} (h : Inv s) (he : s.spill ring entry r = .ok s1) : Inv s1 := by
  have ofAcc : ∀ a, Placed.ofAcc a ≠ .ok s1 := by
    intro a ha
    simp only [Placed.ofAcc] at ha
    split at ha <;> cases ha
  simp only [State.spill] at he
  split at he
  · cases he
  split at he
  · exact absurd he (ofAcc _)
  split at he
  · cases he
  split at he
  · exact absurd he (ofAcc _)
  · cases he
  split at he
  · exact absurd he (ofAcc _)
  · rename_i hw
    split at he
    · exact absurd he (ofAcc _)
    · cases he
      exact ((h.writeBytes _ _ _ _ hw).writeBytes _ _ _ _ ‹_›).countFlits

theorem Inv.placeRecord {ring entry r s1} (h : Inv s) (he : s.placeRecord ring entry r = .ok s1) : Inv s1 := by
  simp only [State.placeRecord] at he
  split at he
  · cases he
    exact h.expireBins.binPut
  · exact h.expireBins.spill he

theorem Inv.spawnLane {id o l} (h : Inv s) : Inv (spawnLane id o s l) := by
  simp only [Machine.spawnLane]
  split
  · exact (h.placeRecord ‹_›).modTroupe
  · exact h.faultLane
  · exact h.parkLane
  · exact h.modTroupe

theorem Inv.performSpawn {id op} (h : Inv s) : Inv (performSpawn id op s) := by
  simp only [Machine.performSpawn]
  split
  · exact h
  split
  · exact h
  · exact (h.foldl fun _ _ hs => hs.spawnLane).tidyOp

theorem Inv.spawnIssue {f e t} (h : Inv s) : (spawnIssue f e t s).Keeps := by
  simp only [Machine.spawnIssue]
  split
  · exact h
  split
  · exact h
  · exact h.setTroupe.performSpawn

theorem Inv.execBincfg {f} (h : Inv s) : OutKeeps (execBincfg f s) := by
  simp only [Machine.execBincfg]
  exact h.vectorInstr fun _ hs _ _ => by
    split
    · split
      · trivial
      · exact hs.modRing
    · split
      · trivial
      · exact hs.modRing

theorem Inv.execBinTimerExpiry (h : Inv s) : OutKeeps (execBinTimerExpiry s) := by
  simp only [Machine.execBinTimerExpiry]
  split
  · exact Inv.ite h.modDie.readyBin h
  · exact h

theorem Inv.takeGrant {ring cls} (h : Inv s) : Inv (s.takeGrant ring cls) := h.modRing

theorem Inv.endTicket {t status} (h : Inv s) : Inv (s.endTicket t status) := h.modTroupe

theorem Inv.grantRequest {die r} (h : Inv s) : Inv (s.grantRequest die r) := by
  simp only [State.grantRequest]
  split
  · exact .ite h.endTicket h.takeGrant.endTicket
  · split
    · exact h.modStream.askContexts
    · exact h.takeGrant.modStream.askContexts
  · exact (Inv.ite h h.takeGrant).update
  · exact h.modLaunch
  · exact .ite h h.takeGrant

theorem Inv.execAdmissionGrant (h : Inv s) : OutKeeps (execAdmissionGrant s) := by
  simp only [Machine.execAdmissionGrant]
  split
  · exact Inv.ite h.modDie.grantRequest h
  · exact h

theorem Inv.dropTicket {t} (h : Inv s) : Inv (s.dropTicket t) := h.update

theorem Inv.execTicketTimeout (h : Inv s) : OutKeeps (execTicketTimeout s) := by
  simp only [Machine.execTicketTimeout]
  split
  · exact h.modDie.dropTicket.endTicket
  · exact h

theorem Inv.execTicket {f} (h : Inv s) : OutKeeps (execTicket f s) := by
  simp only [Machine.execTicket]
  exact h.scalarInstr fun _ => by
    split
    · exact h.modTroupe
    · exact h
    split
    · exact h.modTroupe
    split
    · split
      · exact h.takeGrant.modTroupe
      · exact h.modTroupe
    · exact h.modDie

theorem Inv.execTkret {f} (h : Inv s) : OutKeeps (execTkret f s) := by
  simp only [Machine.execTkret]
  exact h.scalarInstr fun _ => by
    split
    · exact h
    split
    · exact h.modRing
    · exact h.returnGrant

theorem Inv.execPhint {f} (h : Inv s) : OutKeeps (execPhint f s) := by
  simp only [Machine.execPhint]
  exact h.scalarInstr fun _ => by
    split
    · exact h.modRing
    split
    · split
      · trivial
      · exact h.modRing
    · exact h.modRing

theorem Inv.execComputeBoundIntervalExpiry (h : Inv s) : OutKeeps (execComputeBoundIntervalExpiry s) := by
  simp only [Machine.execComputeBoundIntervalExpiry]
  split
  · exact h.modDie.modRing
  · exact h

/-! ### Fault handlers -/

theorem Inv.resolveRecord {asid fseq} (h : Inv s) : Inv (s.resolveRecord asid fseq) := h.modCtx

theorem Inv.modEither {id f} (h : Inv s) : Inv (s.modEither id f) := by
  simp only [State.modEither]
  split
  · exact h.modSaved
  · exact h.modTroupe

theorem Inv.modRingEither {ring f} (h : Inv s) : Inv (s.modRingEither ring f) := by
  simp only [State.modRingEither]
  split
  · exact h.modSaved
  · exact h.modRing

theorem Inv.skipMile {id r} (h : Inv s) : Inv (s.skipMile id r) := by
  simp only [State.skipMile]
  split
  · exact .ite h.modRingEither h
  · exact h

theorem Inv.reissue {id op} (h : Inv s) : Inv (s.reissue id op) := by
  simp only [State.reissue]
  split
  · exact h
  split
  · exact h.performTuple
  · exact h.performTuple
  · exact h.performTuple
  · exact h.performSpawn
  · exact h.performOp

theorem Inv.tidyAny {id op} (h : Inv s) : Inv (s.tidyAny id op) := by
  simp only [State.tidyAny]
  split
  · exact h
  split
  · exact h.tidyDep
  · exact h.tidyOp

theorem Inv.catchOp {id op} (h : Inv s) : Inv (catchOp id s op) := by
  simp only [Machine.catchOp]
  split
  · exact h
  split
  · exact h
  · exact .ite h <| .ite h.setTroupe.settle h.setTroupe.reissue.tidyAny.settle

theorem Inv.catchUp (h : Inv s) : Inv s.catchUp :=
  h.foldl fun _ _ hs => .ite (hs.foldl fun _ _ hs => hs.catchOp) hs

theorem Inv.endFault {id} (h : Inv s) : Inv (s.endFault id) := by
  simp only [State.endFault]
  split
  · exact h.modLaunch.modEither
  split
  · exact h.modLaunch
  · exact h.modLaunch.unpark.dropTicket.setTroupe.beginEnd.foldl fun _ _ hs => hs.tidyAny

theorem Inv.act0 {asid r id act} (h : Inv s) : Inv (s.act0 asid r id act).1 := by
  simp only [State.act0]
  split
  · exact h.resolveRecord.modEither.settle
  · split
    · exact h.resolveRecord.modEither.settle
    · exact h.skipMile.resolveRecord.modEither.settle
  · exact h.resolveRecord.modEither.endFault
  · split
    · exact h.resolveRecord.modEither.settle
    · exact h
  · exact h

theorem Inv.act1 {asid r id act} (h : Inv s) : Inv (s.act1 asid r id act).1 := by
  simp only [State.act1]
  split
  · exact h.modEither.resolveRecord.modEither.reissue.tidyAny.settle
  · split
    · exact h
    · exact (Inv.ite h.modEither.resolveRecord.modEither h.modEither).reissue.tidyAny.settle
  · exact h.modEither.resolveRecord.modEither.tidyAny.settle
  · exact h.modEither.resolveRecord.modEither.tidyAny.endFault
  · exact h

theorem Inv.resumeStream {ring} (h : Inv s) : Inv (s.resumeStream ring) := by
  simp only [State.resumeStream]
  split
  · exact h
  · exact .ite h.modStream <| .ite h.modStream.startStream h.modStream

theorem Inv.fst {α : Type} {a : α} (h : Inv s) : Inv (s, a).1 := h

theorem Inv.act3 {asid r act} (h : Inv s) : Inv (s.act3 asid r act).1 := by
  have h1 : Inv (s.resolveRecord asid r.fseq) := h.resolveRecord
  unfold State.act3
  cases act with
  | res =>
      cases s.savedOf r.ring with
      | some _ => exact Inv.fst h1.modRingEither
      | none => exact Inv.fst h1.resumeStream
  | dropEnd =>
      cases s.savedOf r.ring with
      | some _ => exact Inv.fst h1.modRingEither
      | none => exact Inv.fst h1.modStream.endStream
  | _ => exact h

theorem Inv.resolve {asid fseq act} (h : Inv s) : Inv (s.resolve asid fseq act).1 := by
  simp only [State.resolve]
  split
  · exact h
  split
  · exact h.act0
  · exact h.act1
  · exact h.act3
  · exact h

theorem Inv.actIssue {f act e t} (h : Inv s) : (actIssue f act e t s).Keeps := by
  simp only [Machine.actIssue]
  exact h.resolve.modTroupe

theorem Inv.modBlock {fn f} (h : Inv s) : Inv (s.modBlock fn f) := h.modFw

theorem Inv.popCommand {code result} (h : Inv s) : Inv (s.popCommand code result) := by
  simp only [State.popCommand]
  split
  · exact h
  · exact h.modBlock.modFw

theorem Inv.endUnknown (h : Inv s) : Inv s.endUnknown := by
  simp only [State.endUnknown]
  exact h.foldl fun _ _ hs => by
    split
    · exact hs
    · exact .ite hs hs.popCommand

theorem Inv.endCommand {code result} (h : Inv s) : Inv (s.endCommand code result) := h.popCommand.endUnknown

theorem Inv.command {opc f} (h : Inv s) (hf : ∀ s, Inv s → Inv (f s)) : Inv (State.command opc f s) := by
  simp only [State.command]
  split
  · exact h
  · exact .ite (hf _ h.update) h

theorem Inv.faultAct {n act} (h : Inv s) : Inv (faultAct n act s) := by
  simp only [Machine.faultAct]
  exact h.command fun _ hs => by
    split
    · exact .ite hs hs.endCommand
    split
    · exact hs.endCommand
    · exact hs.resolve.endCommand

theorem Inv.nflgIssue {f keep value t} (h : Inv s) : (nflgIssue f keep value t s).Keeps := by
  simp only [Machine.nflgIssue]
  split
  · exact h.setTroupe
  · exact h

theorem Inv.execNflgSet {f} (h : Inv s) : OutKeeps (execNflgSet f s) := by
  simp only [Machine.execNflgSet]
  exact h.vectorInstr fun _ hs _ _ => by
    split
    · exact hs.setTroupe
    · exact hs

/-! ### Launches and placement -/

theorem Inv.writeQen {n en prio} (h : Inv s) : Inv (s.writeQen n en prio) := h.modQueue

theorem Inv.acceptRecord {n b} (h : Inv s) : Inv (s.acceptRecord n b) := h.update

theorem Inv.execLaunchRecordAccept (h : Inv s) : OutKeeps (execLaunchRecordAccept s) := by
  simp only [Machine.execLaunchRecordAccept]
  split
  · exact h
  split
  · exact h.modFw.modQueue
  split
  · exact h.modFw.modQueue
  · exact Inv.ite h.modFw.modQueue h.modFw.acceptRecord

theorem Inv.dropLaunchReqs {l} (h : Inv s) : Inv (s.dropLaunchReqs l) := h.modFw

theorem Inv.failLaunch {l code} (h : Inv s) : Inv (s.failLaunch l code) := h.dropLaunchReqs.modLaunch

theorem Inv.bindRequest {l r} (h : Inv s) : Inv (s.bindRequest l r) := by
  simp only [State.bindRequest]
  split
  · exact h.failLaunch
  split
  · exact h.failLaunch
  · exact .ite h.failLaunch (Inv.ite h h.modSlot).dropRequest.modLaunch

theorem Inv.bindNext {l} (h : Inv s) : Inv (s.bindNext l) := by
  simp only [State.bindNext]
  split
  · exact h.modLaunch
  split
  · exact h.bindRequest
  · exact h

theorem Inv.execLaunchSlotBind (h : Inv s) : OutKeeps (execLaunchSlotBind s) := by
  simp only [Machine.execLaunchSlotBind]
  split
  · exact Inv.ite h.bindNext h
  · exact h

theorem Inv.execLaunchStart (h : Inv s) : OutKeeps (Machine.execLaunchStart s) := by
  simp only [Machine.execLaunchStart]
  split
  · exact h
  · exact Inv.ite (h.mapCores rfl rfl fun _ => rfl) h

theorem Inv.mapSlots {l core} (h : Inv s) : Inv (s.mapSlots l core) := by
  simp only [State.mapSlots]
  split
  · exact h
  · exact h.foldl fun _ _ hs => hs.takeFrame.modSlot

theorem Inv.wipeSpad {core base n} (h : Inv s) : Inv (s.wipeSpad core base n) :=
  h.modCore _ _ fun _ hk => cellWipe_wf _ _ hk

theorem Inv.addRing {l nb x} (h : Inv s) : Inv (State.addRing l nb s x) := h.wipeSpad.update

theorem Inv.initTroupes {n ring} (h : Inv s) : Inv (State.initTroupes n s ring) :=
  h.foldl fun _ _ hs => hs.addTroupe

theorem Inv.dropResv {d l} (h : Inv s) : Inv (s.dropResv d l) := h.modDie

theorem Inv.placeNew {l d n row col} (h : Inv s) : Inv (s.placeNew l d n row col) :=
  (h.update.modDie.modLaunch.foldl fun _ _ hs => hs.addRing).dropResv.foldl fun _ _ hs => hs.initTroupes

theorem Inv.execPreemptionWaitExpiry (h : Inv s) : OutKeeps (execPreemptionWaitExpiry s) := by
  simp only [Machine.execPreemptionWaitExpiry]
  split
  · exact h.modDie
  split
  · exact h
  split
  · exact h
  · exact (h.foldl fun _ _ hs => hs.modNbhd).modDie

theorem Inv.leaveBehind {t} (h : Inv s) : Inv (s.leaveBehind t) := h.update

theorem Inv.forgetNbhd {nb} (h : Inv s) : Inv (s.forgetNbhd nb) := .ite h.update h

theorem Inv.execTroupeRetire (h : Inv s) : OutKeeps (execTroupeRetire s) := by
  simp only [Machine.execTroupeRetire]
  split
  · exact Inv.ite h <| .ite h.leaveBehind.releaseIdle h.update.forgetNbhd
  · exact h

theorem Inv.endNbhd {nb} (h : Inv s) : Inv (s.endNbhd nb) := h.update.forgetNbhd.modDie.modLaunch

theorem Inv.notice {nb at_ status rec_ ctr} (h : Inv s) : Inv (s.notice nb at_ status rec_ ctr) := by
  simp only [State.notice]
  split
  · exact h
  split
  · exact h.writeBytes _ _ _ _ ‹_›
  · exact h

theorem Inv.dropRingRequests {ring} (h : Inv s) : Inv (s.dropRingRequests ring) := h.update

theorem Inv.endRing {ring} (h : Inv s) : Inv (s.endRing ring) := by
  unfold State.endRing
  extract_lets r s1 s2 x s3
  have h1 : Inv s1 := .ite h.releaseBatch h
  have h2 : Inv s2 := h1.dropRingRequests.modRing
  split
  · have h3 : Inv s3 := h2.endNbhd
    split
    · exact h3.notice
    · exact h3
  · exact h2.treeCheck

theorem Inv.execRingEnd (h : Inv s) : OutKeeps (execRingEnd s) := by
  simp only [Machine.execRingEnd]
  split
  · exact Inv.ite (.ite h.flushBins h.endRing) h
  · exact h

theorem Inv.finishLaunch {l} (h : Inv s) : Inv (s.finishLaunch l) := by
  simp only [State.finishLaunch]
  split
  · exact ((h.writePhys _ _).modQueue.irq.foldl fun _ _ hs => hs.dropResv).update
  split
  · exact ((h.writeBytes _ _ _ _ ‹_›).modQueue.irq.foldl fun _ _ hs => hs.dropResv).update
  · exact (h.modQueue.irq.foldl fun _ _ hs => hs.dropResv).update

theorem Inv.execLaunchCompletionRecord (h : Inv s) : OutKeeps (execLaunchCompletionRecord s) := by
  simp only [Machine.execLaunchCompletionRecord]
  split
  · exact Inv.ite h.finishLaunch h
  · exact h

/-! ### Contexts, management registers and commands -/

theorem Inv.discardRings {rs} (h : Inv s) : Inv (s.discardRings rs) :=
  (show Inv _ from h.unpark).mapCores rfl rfl fun _ => rfl

theorem Inv.removeNbhd {nb} (h : Inv s) : Inv (s.removeNbhd nb) := h.update.modDie

theorem Inv.dropNbhd {nb} (h : Inv s) : Inv (s.dropNbhd nb) := h.discardRings.removeNbhd

theorem Inv.wipePhys {r} (h : Inv s) : Inv (s.wipePhys r) := ⟨cellWipe_wf _ _ h.1, h.2⟩

theorem Inv.wipePage {r} (h : Inv s) : Inv (s.wipePage r) :=
  .ite h.wipePhys <| h.foldl fun _ _ hs => .ite hs hs.wipePhys

theorem Inv.applyContrib {c} (h : Inv s) : Inv (s.applyContrib c) := (h.writePhys _ _).modFw

theorem Inv.landContribs {asids} (h : Inv s) : Inv (s.landContribs asids) :=
  h.foldl fun _ _ hs => .ite hs.modFw hs.applyContrib

theorem Inv.tearLaunches {asid} (h : Inv s) : Inv (s.tearLaunches asid) :=
  (h.foldl fun _ _ hs => hs.dropNbhd).update

theorem Inv.dropContext {asid} (h : Inv s) : Inv (s.dropContext asid) := by
  unfold State.dropContext
  extract_lets s1 slots kept maps s2
  have h2 : Inv s2 := Inv.foldl (Inv.foldl h.tearLaunches fun _ _ hs => hs.modFrame) fun _ _ hs => hs.leaveFrame
  exact h2.mapCores rfl rfl fun _ => rfl

theorem Inv.dropContexts {asids} (h : Inv s) : Inv (s.dropContexts asids) :=
  h.landContribs.foldl fun _ _ hs => hs.dropContext

theorem Inv.wipeRanges {rs} (h : Inv s) : Inv (s.wipeRanges rs) := h.foldl fun _ _ hs => hs.wipePage

theorem Inv.endContext {asid} (h : Inv s) : Inv (s.endContext asid) := h.dropContexts.wipeRanges

theorem Inv.tlbDrop {die p} (h : Inv s) : Inv (s.tlbDrop die p) := h.modDie.foldl fun _ _ hs => hs.modCoreElse

theorem Inv.invalidate {die opc asid p} (h : Inv s) : Inv (s.invalidate die opc asid p) := h.tlbDrop.modDie

theorem Inv.replayAll {die asid} (h : Inv s) : Inv (s.replayAll die asid) := h.modDie

theorem Inv.cancelParked {p} (h : Inv s) : Inv (s.cancelParked p) := by
  simp only [State.cancelParked]
  split
  · exact h.faultLane
  · split
    · exact h
    split
    · exact h
    · exact h.vectorFaultOf
  · exact h.modCopy
  · split
    · exact h
    split
    · exact h.modCoreElse.stopStream
    · exact h.stopStream
  · split
    · exact h.reloadFail
    split
    · exact h.solverFail
    · exact h
  · exact h.modRing

theorem Inv.cancelAsid {die asid} (h : Inv s) : Inv (s.cancelAsid die asid) :=
  (h.modDie.foldl fun _ _ hs => hs.cancelParked).foldl fun _ _ hs => hs.settle

theorem Inv.mmuCommand {die opc asid} (h : Inv s) : Inv (s.mmuCommand die opc asid) :=
  .ite h <| .ite h.invalidate <| .ite h.invalidate <| .ite h.invalidate <| .ite h.replayAll <| .ite h.cancelAsid h

theorem Inv.mmuWrite {opc} (h : Inv s) : Inv (mmuWrite opc s) := by
  simp only [Machine.mmuWrite]
  exact .ite h.mmuCommand h

theorem Inv.wake {p} (h : Inv s) : Inv (s.wake p) := by
  simp only [State.wake]
  split
  · exact h.modTroupe
  · exact h.modTroupe
  · exact h.modCopy
  · exact h.modStream
  · exact h.modSolver
  · exact h

theorem Inv.queueWrite {n o v} (h : Inv s) : Inv (s.queueWrite n o v) :=
  .ite h.modQueue <| .ite h.modQueue <| .ite h.writeQen <| .ite h.modQueue <| .ite h.modQueue h

theorem Inv.writeOpc {fn opc} (h : Inv s) : Inv (s.writeOpc fn opc) := .ite h h.modBlock.modFw.endUnknown

theorem Inv.windowWrite {fn a v} (h : Inv s) : Inv (s.windowWrite fn a v) :=
  .ite (.ite h.queueWrite h) <|
    .ite (.ite h <| .ite h.modDie <| .ite h.mmuCommand <| .ite h.modDie h) <| .ite h.writeOpc <| .ite h.modBlock h

theorem Inv.assignVectors {l} (h : Inv s) : Inv (s.assignVectors l) := .ite h.modFw h

theorem Inv.resizeBar {n} (h : Inv s) : Inv (s.resizeBar n) := .ite h.modFw h

theorem Inv.mapWindow {base len ceil domain bar2} (h : Inv s) : Inv (s.mapWindow base len ceil domain bar2) :=
  h.modFw

theorem Inv.execRegisterWrite (h : Inv s) : OutKeeps (execRegisterWrite s) := by
  simp only [Machine.execRegisterWrite]
  exact Inv.ite h.mapWindow <| .ite h <| .ite (.ite h.modFw h.windowWrite) <| .ite h <| .ite h.assignVectors <|
    .ite h.resizeBar <| .ite h.modFw h

theorem Inv.execRefreshInterval (h : Inv s) : OutKeeps (execRefreshInterval s) := by
  simp only [Machine.execRefreshInterval]
  split
  · exact h
  split
  · exact h.modDie
  split
  · exact h.modDie
  split
  · exact h.modSlice
  · exact h

theorem Inv.execIcacheFill (h : Inv s) : OutKeeps (execIcacheFill s) := by
  simp only [Machine.execIcacheFill]
  split
  · exact h
  · split <;> exact h.modCoreElse

theorem Inv.makeDomainKey {prot domain} (h : Inv s) : Inv (s.makeDomainKey prot domain) := .ite h.modFw h

theorem Inv.ctxCreate (h : Inv s) : Inv (Machine.ctxCreate s) := by
  unfold Machine.ctxCreate
  extract_lets root fqbase fqlog prot domain st hdr
  split
  · exact h.endCommand
  extract_lets c s1 s2 s3
  split
  · exact h.endCommand
  have h1 : Inv s1 := h.foldl fun _ _ hs => hs.tlbDrop
  clear_value s1
  have h2 : Inv s2 := Inv.makeDomainKey h1
  have h3 : Inv s3 := by
    clear_value s2
    unfold s3
    split
    · exact h2.writeBytes _ _ _ _ ‹_›
    · exact h2
  exact h3.endCommand

theorem Inv.ctxEnd (h : Inv s) : Inv (ctxEnd s) := by
  simp only [Machine.ctxEnd]
  split
  · exact h.endCommand
  · exact h.endContext.endCommand

theorem Inv.ownerKey (h : Inv s) : Inv (ownerKey s) := by
  simp only [Machine.ownerKey]
  exact .ite h.endCommand h.modFw.endCommand

theorem Inv.regionCreate (h : Inv s) : Inv (Machine.regionCreate s) := by
  unfold Machine.regionCreate
  extract_lets rid base quota scap
  split
  · exact h.endCommand
  split
  · exact h.endCommand
  split
  · exact h.endCommand
  split
  · exact h.endCommand
  extract_lets r s1
  have h1 : Inv s1 := h.modCtx
  clear_value s1
  exact h1.writeMem.endCommand

theorem Inv.askPreempt {l n modes at_} (h : Inv s) : Inv (s.askPreempt l n modes at_) := h.update

theorem Inv.preemptCommand (h : Inv s) : Inv (preemptCommand s) := by
  simp only [Machine.preemptCommand]
  split
  · exact h.endCommand
  · exact .ite h.endCommand h.askPreempt.endCommand

theorem Inv.rosterCommand (h : Inv s) : Inv (rosterCommand s) := by
  simp only [Machine.rosterCommand]
  split
  · exact h.endCommand
  split
  · exact h.modFw.endCommand
  split
  · exact .ite h.modFw.endCommand h.modFw.endCommand
  split
  · exact .ite (.ite h.modFw.endCommand h.modFw.endCommand) h.modFw.endCommand
  · exact h.modFw.endCommand

theorem Inv.putWindowHeader {w v} (h : Inv s) : Inv (s.putWindowHeader w v) := h.writePhys _ _

theorem Inv.windowCommand (h : Inv s) : Inv (windowCommand s) := by
  simp only [Machine.windowCommand]
  exact .ite h.endCommand (Inv.ite h.modFw.putWindowHeader h.modFw).endCommand

theorem Inv.queueAssign (h : Inv s) : Inv (queueAssign s) := by
  simp only [Machine.queueAssign]
  exact .ite h.endCommand <| .ite h.endCommand <| .ite h.endCommand h.update.endCommand

theorem Inv.execWindowReductionApply (h : Inv s) : OutKeeps (execWindowReductionApply s) := by
  simp only [Machine.execWindowReductionApply]
  split
  · exact h
  split
  · exact h
  split
  · exact h.applyContrib
  · exact Inv.ite h.modFw h.applyContrib

theorem Inv.execMemberWithdrawal (h : Inv s) : OutKeeps (execMemberWithdrawal s) := by
  simp only [Machine.execMemberWithdrawal]
  split
  · exact Inv.ite h.putWindowHeader h
  · exact h

/-! ### Scalar instructions -/

theorem Inv.setD {value f t} (h : Inv s) : (setD value f t s).Keeps := by
  simp only [Machine.setD]
  exact h.setTroupe

theorem Inv.divide {i op f t} (h : Inv s) : (divide i op f t s).Keeps := by
  simp only [Machine.divide]
  split
  · exact h.setTroupe
  · exact h
  · trivial

/-! ### Control instructions -/

theorem Inv.branch {taken f t} (h : Inv s) : (branch taken f t s).Keeps := by
  simp only [Machine.branch]
  split <;> exact h

theorem Inv.execRdsr {f} (h : Inv s) : OutKeeps (execRdsr f s) := by
  simp only [Machine.execRdsr]
  exact h.scalarInstr fun _ => by
    split
    · exact h
    split
    · exact h
    · exact h.setTroupe

theorem Inv.execSleep {f} (h : Inv s) : OutKeeps (execSleep f s) := by
  simp only [Machine.execSleep]
  exact h.scalarInstr fun _ => by
    split
    · split <;> exact h
    · exact h

theorem Inv.execSleepExpiry (h : Inv s) : OutKeeps (execSleepExpiry s) := by
  simp only [Machine.execSleepExpiry]
  split
  · split
    · exact h.modDie.modTroupe
    · exact h
  · exact h

theorem Inv.execSqput {f} (h : Inv s) : OutKeeps (execSqput f s) := by
  simp only [Machine.execSqput]
  exact h.scalarInstr fun _ => by
    split
    · exact h
    · exact h.setTroupe

theorem Inv.execSqget {f} (h : Inv s) : OutKeeps (execSqget f s) := by
  simp only [Machine.execSqget]
  exact h.scalarInstr fun _ => by
    split
    · exact h
    · exact h.setTroupe

/-! ### Flush, save and restore -/

theorem Inv.flushStart {nb at_} (h : Inv s) : Inv (s.flushStart nb at_) := by
  have hd : Inv (s.discardRings ((s.ringsOf nb).map (·.id))) := h.discardRings
  refine ⟨hd.1, fun k hk => ?_⟩
  obtain ⟨x, hx, rfl⟩ := List.mem_map.mp hk
  exact hd.2 x.1 (List.of_mem_zip hx).1

theorem Inv.flushEnd {nb at_} (h : Inv s) : Inv (s.flushEnd nb at_) := h.dropNbhd.modLaunch.notice

theorem Inv.cancelFlushed {nb} (h : Inv s) : Inv (s.cancelFlushed nb) :=
  (show Inv _ from h.unpark).mapCores rfl rfl fun _ => rfl

theorem Inv.execPreemptionRequest (h : Inv s) : OutKeeps (execPreemptionRequest s) := by
  simp only [Machine.execPreemptionRequest]
  split
  · exact h
  split
  · split
    · exact h.modNbhd
    · exact h.flushStart
    · exact h.modNbhd
  · exact Inv.ite h.cancelFlushed.flushEnd h.cancelFlushed
  · exact Inv.ite h.modNbhd h
  · exact h

theorem Inv.execDrainWaitExpiry (h : Inv s) : OutKeeps (execDrainWaitExpiry s) := by
  simp only [Machine.execDrainWaitExpiry]
  split
  · exact h.modDie
  split
  · exact h
  split
  · exact h.modDie.modNbhd
  · exact h

theorem Inv.deferReply {id op lane} (h : Inv s) : Inv (State.deferReply id op s lane) := by
  simp only [State.deferReply]
  split
  · exact h
  · exact h.setTroupe.atomicReply.modTroupe

theorem Inv.deferReplies {t} (h : Inv s) : Inv (s.deferReplies t) :=
  h.modTroupe.foldl fun _ _ hs => hs.deferReply

theorem Inv.deferCopy {core e} (h : Inv s) : Inv (State.deferCopy core s e) := by
  simp only [State.deferCopy]
  split
  · exact .ite h.finishCopy.modTroupe h.finishCopy
  · exact h.finishCopy

theorem Inv.deferFlags {r} (h : Inv s) : Inv (s.deferFlags r) :=
  (h.foldl fun _ _ hs => hs.deferReplies).foldl fun _ _ hs => hs.deferCopy

theorem Inv.saveNbhd {nb at_} (h : Inv s) : Inv (s.saveNbhd nb at_) := by
  unfold State.saveNbhd
  extract_lets s0 x l c ctr rs v s1 s2 key s3
  have h0 : Inv s0 := Inv.foldl (h.foldl fun _ _ hs => hs.deferFlags) fun _ _ hs => hs.writeRecords
  clear_value s0
  have h1 : Inv s1 := h0.discardRings
  clear_value s1
  have h3 : Inv s3 := h1
  clear_value s3
  exact Inv.notice (Inv.putRecord h3)

theorem Inv.execNeighbourhoodSave (h : Inv s) : OutKeeps (execNeighbourhoodSave s) := by
  simp only [Machine.execNeighbourhoodSave]
  split
  · exact h
  split
  · exact Inv.ite h.saveNbhd h
  · exact h

theorem Inv.dropSaved {v code} (h : Inv s) : Inv (s.dropSaved v code) := h.update

theorem Inv.refillBins {core ring bins} (h : Inv s) : Inv (s.refillBins core ring bins) := by
  simp only [State.refillBins]
  exact h.foldl fun _ _ hs => by
    split
    · exact hs.modBin.update
    · exact hs

theorem Inv.requestAgain {tclass r} (h : Inv s) : Inv (s.requestAgain tclass r) := by
  unfold State.requestAgain
  extract_lets x die implicit cls s1 s2
  have h1 : Inv s1 := h.foldl fun _ _ hs => hs.modDie
  have h2 : Inv s2 := by
    unfold s2
    split
    · exact .ite h1.askGrant h1
    · exact h1
  exact .ite h2.askCalliope h2

theorem Inv.restoreRing {l y} (h : Inv s) : Inv (State.restoreRing l s y) := by
  unfold State.restoreRing
  extract_lets core r base ring0 ring s1 s2 s3 s4 s5
  have h1 : Inv s1 := h.wipeSpad
  clear_value s1
  have h3 : Inv s3 := Inv.foldl (s := s2) h1 fun _ c hs =>
    hs.modCore core _ fun k hk => cellWriteN_wf (base + c.1) [c.2] hk
  clear_value s3
  have h4 : Inv s4 := h3.modCoreElse
  clear_value s4
  exact Inv.foldl h4.refillBins.requestAgain fun _ _ hs => hs

theorem Inv.mailObject {ring m} (h : Inv s) : Inv (s.mailObject ring m) := by
  simp only [State.mailObject]
  split
  · exact h
  · exact .ite h <| .ite h.putBarrier <| .ite h.postRecord.putBarrier h.putBarrier

theorem Inv.mailArrivals {ring m} (h : Inv s) : Inv (s.mailArrivals ring m) :=
  h.foldl fun s _ hs => by
    split
    · exact hs.nbArrive ‹_›
    · exact hs

theorem Inv.mailDelivery {ring m} (h : Inv s) : Inv (s.mailDelivery ring m) := by
  simp only [State.mailDelivery]
  split
  · exact h
  · exact h.applyReply

theorem Inv.applyMail {v m} (h : Inv s) : Inv (State.applyMail v s m) := by
  simp only [State.applyMail]
  split
  · exact h
  · exact .ite h.mailDelivery <| .ite h.mailObject <| .ite h.mailArrivals h

theorem Inv.dropRestored {id op} (h : Inv s) : Inv (State.dropRestored id s op) := h.modTroupe.tidyAny.settle

theorem Inv.redoTroupe {id} (h : Inv s) : Inv (s.redoTroupe id) := by
  unfold State.redoTroupe
  split
  · exact h
  extract_lets with_ s1 s2
  have h1 : Inv s1 := h.foldl fun _ _ hs => hs.dropRestored
  have h2 : Inv s2 := h1.foldl fun _ _ hs => hs.reissue.tidyAny.settle
  exact (Inv.ite h2.endFault h2).modTroupe

theorem Inv.restoreAt {l v row col} (h : Inv s) : Inv (s.restoreAt l v row col) :=
  ((h.update.modDie.modLaunch.modCtx.dropResv.foldl fun _ _ hs => hs.restoreRing).foldl
    fun _ _ hs => hs.applyMail).foldl fun _ _ hs => hs.redoTroupe

theorem Inv.execNeighbourhoodPlace (h : Inv s) : OutKeeps (execNeighbourhoodPlace s) := by
  simp only [Machine.execNeighbourhoodPlace]
  split
  · exact h.modDie.modLaunch
  · exact h.modDie
  · exact (h.foldl fun _ _ hs => hs.mapSlots).modLaunch
  · exact h
  · split
    · exact h.placeNew
    · exact h
  · exact h

theorem Inv.execNeighbourhoodRestore (h : Inv s) : OutKeeps (execNeighbourhoodRestore s) := by
  simp only [Machine.execNeighbourhoodRestore]
  split
  · exact h
  · exact Inv.ite h.dropSaved.modLaunch h.restoreAt

/-! ### The device -/

theorem Inv.postIssue {f e t} (h : Inv s) : (postIssue f e t s).Keeps := by
  simp only [Machine.postIssue]
  split
  · exact h
  split
  · trivial
  · exact h.park
  split
  · exact h
  · exact Inv.ite (h.touch.sendTo.writeSite _ _ _).irq (h.touch.sendTo.writeSite _ _ _)

theorem Inv.execQring {f} (h : Inv s) : OutKeeps (execQring f s) := by
  simp only [Machine.execQring]
  exact h.vectorInstr fun _ hs _ _ => by
    split
    · trivial
    split
    · exact hs
    · exact hs.modQueue

theorem Inv.restart (h : Inv s) : Inv s.restart :=
  ⟨Memory.wf_filter _ h.1, fun k hk => by rw [List.eq_of_mem_replicate hk]; rfl⟩

theorem Inv.execPcieHotReset (h : Inv s) : OutKeeps (execPcieHotReset s) :=
  have hd : Inv (s.dropContexts (s.ctxs.map (·.asid))) := h.dropContexts
  ⟨Memory.wf_filter _ hd.1, hd.2⟩

theorem Inv.tryResume (h : Inv s) : Inv s.tryResume := .ite h.update h

theorem Inv.suspend {p} (h : Inv s) : Inv (s.suspend p) := h.update

theorem Inv.withdraw {n} (h : Inv s) : Inv (s.withdraw n) := by
  simp only [State.withdraw]
  split
  · exact h.putWindowHeader
  · exact h

theorem Inv.finishLaunches {l : List Launch} (h : Inv s) : Inv (l.foldl State.finishLaunch s) :=
  h.foldl fun _ _ hs => hs.finishLaunch

theorem Inv.execVfResetDrainExpiry (h : Inv s) : OutKeeps (execVfResetDrainExpiry s) := by
  unfold Machine.execVfResetDrainExpiry
  extract_lets fn cs wins give
  split
  · exact h
  extract_lets s1 s2 torn s3
  have h2 : Inv s2 := Inv.wipeRanges (h.modDie.dropContexts.foldl fun _ _ hs => hs.withdraw)
  have h3 : Inv s3 := .ite h2.finishLaunches h2
  exact h3.update.modFw

theorem Inv.inboundWrite {bs} (h : Inv s) : Inv (s.inboundWrite bs) :=
  h.foldl fun _ _ hs => (hs.takeKey _ _).writeLoc _ _ _

theorem Inv.execInboundAccess (h : Inv s) : OutKeeps (execInboundAccess s) := by
  simp only [Machine.execInboundAccess]
  split
  · exact h.modFw
  have h1 : ∀ f, Inv (if s.ev.unit_ < 18 then s.modLink s.ev.unit_ f else s) := fun _ => .ite h.modLink h
  exact Inv.ite (h1 _).modFw <| .ite (h1 _).modFw <| .ite (h1 _).inboundWrite.update.modFw (h1 _).modFw

theorem Inv.countEcc {j} (h : Inv s) : Inv (s.countEcc j) := h.modFw

theorem Inv.sramError {e} (h : Inv s) : Inv (s.sramError e) := by
  simp only [State.sramError]
  split
  · exact h.modTroupe
  · exact h.modCoreElse
  · exact h.update
  · exact h.modCoreElse
  · exact h.modDie
  · exact h.modSlice
  · exact h.modStream
  · exact h.modCoreElse
  · exact h

theorem Inv.softError {e} (h : Inv s) : Inv (s.softError e) := by
  simp only [State.softError]
  split
  · exact .ite h.sramError h.countEcc
  · exact h.modCoreElse.countEcc
  · exact .ite h.update h.countEcc
  · exact .ite h.update h.countEcc
  · exact h.update
  · exact h

theorem Inv.execScrub (h : Inv s) : OutKeeps (execScrub s) := by
  simp only [Machine.execScrub]
  split
  · exact h.softError
  split
  · exact Inv.ite h.update.countEcc h
  · exact h

theorem Inv.spdmAnswer {code ok f} (h : Inv s) : Inv (spdmAnswer code ok f s) := by
  simp only [Machine.spdmAnswer]
  exact .ite h.modFw.tryResume h.modFw

theorem Inv.sessionAnswer {code f} (h : Inv s) : Inv (sessionAnswer code f s) := by
  simp only [Machine.sessionAnswer]
  split
  · exact h.modFw
  split
  · exact h
  · exact h.modFw.tryResume

theorem Inv.doe {f} (h : Inv s) (hf : Inv (f s)) : OutKeeps (doe f s) := by
  simp only [Machine.doe]
  exact Inv.ite hf h

theorem Inv.execGetVersion (h : Inv s) : OutKeeps (execGetVersion s) := by
  simp only [Machine.execGetVersion]
  exact h.doe h.modFw.spdmAnswer

theorem Inv.execGetMeasurements (h : Inv s) : OutKeeps (execGetMeasurements s) := by
  simp only [Machine.execGetMeasurements]
  exact h.doe <| .ite h.sessionAnswer h.spdmAnswer

theorem Inv.keyExchange (h : Inv s) : Inv (keyExchange s) := by
  simp only [Machine.keyExchange]
  exact .ite h.modFw <| .ite h.modFw h.modFw

theorem Inv.sense {l} (h : Inv s) : Inv (s.sense l) := h.update.modFw

theorem Inv.execThermalTrip (h : Inv s) : OutKeeps (execThermalTrip s) := by
  simp only [Machine.execThermalTrip]
  split
  · exact h.sense
  · exact h.modDie.modFw

/-! ### Counters and fences -/

theorem Inv.execAcwait {f} (h : Inv s) : OutKeeps (execAcwait f s) := by
  simp only [Machine.execAcwait]
  exact h.vectorInstr fun _ hs _ _ => by
    split <;> exact hs

theorem Inv.discardCounter {id j} (h : Inv s) : Inv (s.discardCounter id j) := by
  unfold State.discardCounter
  split
  · exact h
  · exact h

theorem Inv.execFence {f} (h : Inv s) : OutKeeps (execFence f s) := by
  simp only [Machine.execFence]
  exact h.vectorInstr fun _ hs _ _ => by
    split
    · exact hs
    · exact Inv.ite hs.setTroupe hs

/-! ### Queue instructions of the vector side -/

theorem Inv.vqgetIssue {f e t} (h : Inv s) : (vqgetIssue f e t s).Keeps := by
  simp only [Machine.vqgetIssue]
  split
  · exact h
  · exact h.computeIssue

theorem Inv.vqputIssue {f e t} (h : Inv s) : (vqputIssue f e t s).Keeps := by
  simp only [Machine.vqputIssue]
  split
  · exact h
  · exact h.setTroupe

/-! ### Every instruction -/

/-- Every instruction and every device step. -/
theorem Inv.exec {i} (h : Inv s) : OutKeeps (Machine.exec i s) := by
  cases i with
  | clauseHeader => exact h.execClauseHeader
  | nop => exact h.execNop
  | bra | brc | bany | bnone => exact h.scalarInstr fun _ => h.branch
  | call | wrsr | tick | yield => exact h.scalarInstr fun _ => h.setTroupe
  | ret | jmp => exact h.scalarInstr fun _ => h
  | done => exact h.execDone
  | trap | sysc => exact h.scalarInstr fun _ => trivial
  | rdsr => exact h.execRdsr
  | sleep => exact h.execSleep
  | sadd | ssub | smul | smulhi | sand | sor | sxor | sandn | sshl | sshr | ssra | srol | smin | smax | sabs
     | sclz | spop | sbrev | sins | sxtr | ssel | scmp | smov | sli | sliHi | sadr | kand | kor | kxor | kandn
     | knot | kmov | kset | kget | kpop | kffs | klast | kbcast =>
      exact h.scalarInstr fun _ => h.setD
  | sdiv | srem => exact h.scalarInstr fun _ => h.divide
  | sqput => exact h.execSqput
  | vqget => exact h.vectorInstr fun _ hs _ _ => hs.vqgetIssue
  | vqput => exact h.vectorInstr fun _ hs _ _ => hs.vqputIssue
  | sqget => exact h.execSqget
  | vadd | vsub | vmul | vmulhi | vmad | vand | vor | vxor | vandn | vshl | vshr | vsra | vmin | vmax | vabs
     | vneg | vclz | vpop | vcmp | vsel | vmov | vperm | vbcast | vred | vscan | vlane | vsplat | fadd | fsub
     | fmul | fma | fmin | fmax | fabs | fneg | fcmp | frcp | frsq | fsqrt | fexp2 | flog2 | fsin | fcos | ftanh
     | fscale | fclass | fcvtSlot | fcvtFromInt | fcvtToInt | fsrnd | frnd | fdot | fzpt =>
      exact h.vectorInstr fun _ hs _ _ => hs.computeIssue
  | lds | sts | ldsb | ld | ldAc | st | vld | vldAc | vst | vldw | vstw | pref | cfl | aadd | amin | amax | aand
     | aor | axor | axch | acas | ainb | ainw | adecp | aflim | aaddf | redadd | redmin | redmax | redand
     | redor | redxor | redaddf =>
      exact h.vectorInstr fun _ hs _ _ => hs.memIssue
  | xld | xldX24 | xldNt | xst | xgat | xsct | xcpy | xcpyMc | xfill =>
      exact h.vectorInstr fun _ hs _ _ => hs.copyIssue
  | qjoin => exact h.vectorInstr fun _ hs _ _ => hs.joinIssue
  | tgwany | tgwall => exact h.vectorInstr fun _ hs _ _ => hs.tagWait
  | tgffr | tgget | mxstat | frec => exact h.vectorInstr fun _ hs _ _ => hs.scalarResult
  | tgclr => exact h.vectorInstr fun _ hs _ _ => hs.modRing
  | bini => exact h.execBini
  | barr | barrN | barrExp => exact h.vectorInstr fun _ hs _ _ => hs.arriveAt
  | bexp => exact h.execBexp
  | bwait => exact h.execBwait
  | btest => exact h.vectorInstr fun _ hs _ _ => barrierInstr_keeps fun _ _ _ => hs.scalarResult
  | bcan => exact h.vectorInstr fun _ hs _ _ => barrierInstr_keeps fun _ _ _ => hs.barrierPut
  | nqini => exact h.execNqini
  | nqsend => exact h.execNqsend
  | nqrecv => exact h.execNqrecv
  | nqret => exact h.execNqret
  | nqtry => exact h.execNqtry
  | nbsync | nbarv | tbsync | tbarv => exact h.vectorInstr fun _ hs _ _ => hs.nbInstr
  | mxgo => exact h.execMxgo
  | mxmul | mxsp => exact h.streamInstr fun _ => h.mulOp
  | mxdual => exact h.streamInstr fun _ => h.dualOp
  | mxzero => exact h.execMxzero
  | mxld => exact h.execMxld
  | mxst => exact h.execMxst
  | mxadd => exact h.execMxadd
  | mxscl => exact h.execMxscl
  | mxwaitTg => exact h.execMxwaitTg
  | mxwaitBo => exact h.execMxwaitBo
  | mxnb | mxnbArv => exact h.streamInstr fun _ => h.mxnbEffect
  | mxloopBegin => exact h.execMxloopBegin
  | mxloop => exact h.execMxloop
  | mxend => exact h.execMxend
  | mxnorm => exact h.streamInstr fun _ => h.normOp
  | mxalias => exact h.streamInstr fun _ => h.aliasOp
  | mxsamp => exact h.streamInstr fun _ => h.sampOp
  | mxvar => exact h.execMxvar
  | acwait => exact h.execAcwait
  | acget => exact h.vectorInstr fun _ hs _ _ => hs.setTroupe
  | acclr => exact h.vectorInstr fun _ hs _ _ => hs.discardCounter
  | fence => exact h.execFence
  | tdep => exact h.vectorInstr fun _ hs _ _ => hs.depIssue
  | tread | ttake => exact h.vectorInstr fun _ hs _ _ => hs.matchIssue
  | tcan => exact h.execTcan
  | tstat =>
      exact h.vectorInstr fun _ hs _ _ => hs.withRegion fun _ _ _ hs => hs.setTroupe.foldl fun _ _ hs => hs.toSlice
  | slvtab | slvini | slvstg | slvend => exact h.vectorInstr fun _ hs _ _ => hs.solverJoin
  | slvst | slvstRel => exact h.vectorInstr fun _ hs _ _ => hs.slvstIssue
  | fmreq => exact h.execFmreq
  | fmfence => exact h.execFmfence
  | fmq | fmqHash => exact h.scalarInstr fun _ => h.scalarQuery
  | fmrel => exact h.execFmrel
  | grd => exact h.execGrd
  | grraise => exact h.execGrraise
  | grdecl => exact h.execGrdecl
  | ticket => exact h.execTicket
  | tkret => exact h.execTkret
  | phint => exact h.execPhint
  | spawn => exact h.vectorInstr fun _ hs _ _ => hs.spawnIssue
  | binflush => exact h.vectorInstr fun _ hs _ _ => hs.flushBins
  | bincfg => exact h.execBincfg
  | fres | fresM | fresRet | fdrop | fdropEnd => exact h.vectorInstr fun _ hs _ _ => hs.actIssue
  | nflg | nflgClr | nflgDef => exact h.vectorInstr fun _ hs _ _ => hs.nflgIssue
  | nflgSet => exact h.execNflgSet
  | post => exact h.vectorInstr fun _ hs _ _ => hs.postIssue
  | qring => exact h.execQring
  | treeBarrierRelease => exact h.execTreeBarrierRelease
  | matrixContextGrant => exact h.execMatrixContextGrant
  | splitLoadReply => exact h.splitReply.settle
  | longLatencyComplete => exact h.completeLong.settle
  | atomicReply => exact h.atomicReply.settle
  | windowReductionApply => exact h.execWindowReductionApply
  | tupleDepositServe => exact h.execTupleDepositServe
  | tupleRefill => exact Inv.ite h.loadSpill.modSlice.storeSpill h
  | tupleMatchServe => exact h.execTupleMatchServe
  | tupleCancelServe => exact h.execTupleCancelServe
  | tupleReply => exact h.execTupleReply
  | calliopeGrant => exact h.execCalliopeGrant
  | formatCheckComplete => exact h.execFormatCheckComplete
  | slotDrainComplete => exact h.execSlotDrainComplete
  | frameReady => exact h.execFrameReady
  | launchSlotBind => exact h.execLaunchSlotBind
  | admissionGrant => exact h.execAdmissionGrant
  | ticketTimeout => exact h.execTicketTimeout
  | binTimerExpiry => exact h.execBinTimerExpiry
  | binLaunch => exact h.launchBin
  | spawnDrain => exact Inv.ite h.drainStep h
  | sleepExpiry => exact h.execSleepExpiry
  | icacheFill => exact h.execIcacheFill
  | copyStart => exact h.startCopy
  | copyBytesLand => exact h.execCopyBytesLand
  | copyComplete => exact h.execCopyComplete
  | copyFinalFault => exact h.execCopyFinalFault
  | troupeRetire => exact h.execTroupeRetire
  | ringEnd => exact h.execRingEnd
  | queueTailWrite => exact Inv.ite h.modQueue h
  | qenWrite => exact Inv.ite h.writeQen h
  | launchRecordAccept => exact h.execLaunchRecordAccept
  | launchStart => exact h.execLaunchStart
  | neighbourhoodPlace => exact h.execNeighbourhoodPlace
  | preemptionWaitExpiry => exact h.execPreemptionWaitExpiry
  | launchCompletionRecord => exact h.execLaunchCompletionRecord
  | registerWrite => exact h.execRegisterWrite
  | invalPage | invalAsid | invalAll | replayAll | cancelAsid => exact h.mmuWrite
  | mmuInvalidationDone => exact Inv.ite h h.modDie
  | pageWalkComplete =>
      exact (h.modDie.foldl fun _ _ hs => hs.wake).foldl fun _ _ hs => hs.reissue.tidyAny.settle
  | extentAdd => exact Inv.ite h.update h
  | extentRelease => exact Inv.ite h.modFw h.update.modFw
  | refreshInterval => exact h.execRefreshInterval
  | refreshRetryReissue => exact h.modSlice
  | ctxCreate => exact h.command fun _ hs => hs.ctxCreate
  | ctxEnd => exact h.command fun _ hs => hs.ctxEnd
  | ownerKey => exact h.command fun _ hs => hs.ownerKey
  | regionCreate => exact h.command fun _ hs => hs.regionCreate
  | preempt => exact h.command fun _ hs => hs.preemptCommand
  | faultActFres | faultActFresM | faultActFresRet | faultActFdrop | faultActFdropEnd => exact h.faultAct
  | roster => exact h.command fun _ hs => hs.rosterCommand
  | window => exact h.command fun _ hs => hs.windowCommand
  | queueAssign => exact h.command fun _ hs => hs.queueAssign
  | preemptionRequest => exact h.execPreemptionRequest
  | drainWaitExpiry => exact h.execDrainWaitExpiry
  | neighbourhoodSave => exact h.execNeighbourhoodSave
  | neighbourhoodRestore => exact h.execNeighbourhoodRestore
  | faultQueueHeadPoll => exact h.fqRetry
  | coldReset => exact h.restart.modFw
  | lifeCycleChange => exact h.restart.update.modFw
  | pcieHotReset => exact h.execPcieHotReset
  | hostLinkUp => exact (h.modFw.foldl fun _ _ hs => hs.finishLaunch).tryResume
  | linkDownWithoutReset | ideIntegrityFailure => exact h.suspend.modFw
  | vfReset => exact Inv.ite h h.modFw
  | vfResetDrainExpiry => exact h.execVfResetDrainExpiry
  | fabricFlitAuthFailure | fabricRekey | linkRetrainComplete => exact h.modLink
  | inboundAccess => exact h.execInboundAccess
  | scrub => exact h.execScrub
  | getVersion => exact h.execGetVersion
  | getCapabilities | negotiateAlgorithms | getDigests | getCertificate | challenge | finish =>
      exact h.doe h.spdmAnswer
  | getMeasurements => exact h.execGetMeasurements
  | keyExchange => exact h.doe h.keyExchange
  | keyUpdate | endSession | ideKm => exact h.doe h.sessionAnswer
  | roustaboutWatchdog => exact h.modFw
  | clockStretch | slewSubsides | grantBudgetChange => exact h.modDie
  | thermalTrip => exact h.execThermalTrip
  | thermalPowerOff => exact h.modDie.modFw
  | solverQueueServe => exact h.execSolverQueueServe
  | computeBoundIntervalExpiry => exact h.execComputeBoundIntervalExpiry
  | memberWithdrawal => exact h.execMemberWithdrawal
  | flitCrcFailure => exact h.modLink.countEcc

/-! ### What happens next, and the step -/

theorem Inv.acting {who len} (h : Inv s) : Inv (s.acting who len) := h.update

theorem Inv.runScalar {t} (h : Inv s) : OutKeeps (runScalar t s) := by
  simp only [Machine.runScalar]
  split
  · exact h.acting.exec
  · exact h.acting.scalarFault
  · exact h.acting.scalarFault

theorem Inv.runVector {t} (h : Inv s) : OutKeeps (runVector t s) := by
  simp only [Machine.runVector]
  split
  · exact h
  · exact h.acting.exec

theorem Inv.runStream {ring st} (h : Inv s) : OutKeeps (runStream ring st s) := by
  simp only [Machine.runStream]
  split
  · exact h.acting.exec
  · exact Inv.ite h.acting.stopStream h.acting.foreign
  · exact h.acting.stopStream
  · exact h.acting.stopStream

theorem Inv.countStarve {pick rdy} (h : Inv s) : Inv (s.countStarve pick rdy) := h.update

theorem Inv.runAgenda (h : Inv s) : OutKeeps (runAgenda s) := by
  simp only [Machine.runAgenda]
  split
  · exact h
  · exact h.update.exec

theorem Inv.takeTurn {ring st} (h : Inv s) : Inv (s.takeTurn ring st) := .ite h.modCoreElse h

theorem Inv.perform {a} (h : Inv s) : OutKeeps (perform a s) := by
  simp only [Machine.perform]
  split
  · exact h.countStarve.runScalar
  · exact h.countStarve.runVector
  · exact h.runScalar
  · exact h.runVector
  · exact h.takeTurn.runStream
  · exact h.update.exec
  · exact h.runAgenda
  · exact h

theorem Inv.passTime (h : Inv s) : Inv s.passTime := h.update

theorem timed_keeps {o} (ho : OutKeeps o) : OutKeeps (timed o) := by
  cases o with
  | next s => exact (show Inv s from ho).catchUp.passTime
  | fault f => trivial
  | refused r => trivial

theorem Inv.ready (h : Inv s) : Inv s.ready := h.update

theorem Inv.stepOff (h : Inv s) : OutKeeps (stepOff s) := by
  simp only [Machine.stepOff]
  split
  · exact h
  · exact h.runAgenda
  · exact h.update

theorem Inv.stepPackage (h : Inv s) : OutKeeps (stepPackage s) := by
  simp only [Machine.stepPackage]
  split
  · split
    · exact h.passTime
    · exact timed_keeps h.ready.perform
    · exact timed_keeps h.ready.perform
  · exact h.stepOff

/-- Settles O58: the next state of every step is in canonical form when the state is, one operation of the model
after the other. -/
theorem stepKeepsForm : Obligations.StepKeepsForm := by
  intro s s1 h hs
  have hk : OutKeeps (step s) := h.stepPackage
  rwa [hs] at hk

end Sys2Proof.Machine
end

section
/-! PROOF. Resets, link events, the firewall and integrity: one lemma for each event, and what a context's end
leaves of contexts and of the bytes it wipes (R377, R380, R382, R386-R389, R391). -/

namespace Sys2Proof.Machine

variable {s : State}

/-! ### Package memory after a reset -/

theorem cellRead_outerCells (m : List Host.Cell) (a : Nat) :
    cellRead (outerCells m) a = if poolBase ≤ a then cellRead m a else unlisted := by
  rw [outerCells, cellRead_filter fun x => decide (poolBase ≤ x)]
  simp

theorem cellRead_outerCells_package (m : List Host.Cell) : ∀ a < poolBase, cellRead (outerCells m) a = unlisted :=
  fun a ha => by rw [cellRead_outerCells, if_neg (Nat.not_le.mpr ha)]

theorem cellRead_outerCells_outside (m : List Host.Cell) :
    ∀ a, poolBase ≤ a → cellRead (outerCells m) a = cellRead m a :=
  fun a ha => by rw [cellRead_outerCells, if_pos ha]

theorem exec_coldReset : ∃ s1, exec .coldReset s = .next s1 ∧ (∀ a < poolBase, cellRead s1.mem a = unlisted) ∧
    (∀ a, poolBase ≤ a → cellRead s1.mem a = cellRead s.mem a) ∧ s1.troupes = [] ∧ s1.rings = [] ∧ s1.launches = [] ∧
    s1.saved = [] ∧ s1.cores = State.reset.cores ∧ s1.ctxs = State.reset.ctxs ∧ s1.fw.ide = false ∧
    s1.fw.domKeys = [] ∧ s1.fw.hostUp = true ∧ s1.fw.poolKey = s.fw.nextKey ∧ s.fw.nextKey < s1.fw.nextKey :=
  ⟨_, rfl, cellRead_outerCells_package s.mem, cellRead_outerCells_outside s.mem, rfl, rfl, rfl, rfl, rfl, rfl, rfl,
    rfl, rfl, rfl, Nat.lt_succ_self _⟩

theorem exec_lifeCycleChange : ∃ s1, exec .lifeCycleChange s = .next s1 ∧
    (∀ a < poolBase, cellRead s1.mem a = unlisted) ∧ (∀ a, poolBase ≤ a → cellRead s1.mem a = cellRead s.mem a) ∧
    s1.troupes = [] ∧ s1.launches = [] ∧ s1.ctxs = State.reset.ctxs ∧ s1.cores = State.reset.cores ∧
    s1.fw.meas = s.fw.meas ∧ s1.dies.map (·.tick) = s.dies.map (·.tick) :=
  ⟨_, rfl, cellRead_outerCells_package s.mem, cellRead_outerCells_outside s.mem, rfl, rfl, rfl, rfl, rfl,
    List.map_map⟩

theorem exec_pcieHotReset : ∃ s1, exec .pcieHotReset s = .next s1 ∧ (∀ a < poolBase, cellRead s1.mem a = unlisted) ∧
    s1.ctxs = State.reset.ctxs ∧ s1.fw.ide = false ∧ s1.fw.hostUp = false ∧ s1.fw.vfReset = [] :=
  ⟨_, rfl, cellRead_outerCells_package _, rfl, rfl, rfl, rfl⟩

/-! ### Links that go down or come up -/

/-- A context of those that an event suspends is suspended after it. -/
theorem suspended_of_suspend {p : Ctx → Bool} {c : Ctx} (hc : c ∈ (s.suspend p).ctxs)
    (hp : ∀ c0 : Ctx, c.prot = c0.prot → c.stream = c0.stream → p c0 = true) : c.suspended = true := by
  obtain ⟨c0, hc0, rfl⟩ := List.mem_map.mp hc
  have hp0 : p c0 = true := hp c0 (by split <;> rfl) (by split <;> rfl)
  have hin : ((s.ctxs.filter p).map (·.asid)).contains c0.asid = true :=
    List.contains_iff_mem.mpr (List.mem_map_of_mem (List.mem_filter.mpr ⟨hc0, hp0⟩))
  rw [if_pos hin]

theorem exec_linkDownWithoutReset : ∃ s1, exec .linkDownWithoutReset s = .next s1 ∧ s1.mem = s.mem ∧
    s1.fw.ide = false ∧ s1.fw.hostUp = false ∧ s1.troupes = s.troupes ∧
    (∀ c ∈ s1.ctxs, c.prot = true → c.suspended = true) :=
  ⟨_, rfl, rfl, rfl, rfl, rfl, fun _ hc hp => suspended_of_suspend hc fun _ h0 _ => h0.symm.trans hp⟩

/-- A list with an element more, if it is not there yet. -/
def addOnce {α : Type} [BEq α] (l : List α) (x : α) : List α := if l.contains x then l else l ++ [x]

theorem mem_addOnce {α : Type} [BEq α] [LawfulBEq α] (l : List α) (x : α) : x ∈ addOnce l x := by
  rw [addOnce]
  split
  · exact List.contains_iff_mem.mp ‹_›
  · exact List.mem_append_right _ (List.mem_singleton_self _)

theorem exec_ideIntegrityFailure : ∃ s1, exec .ideIntegrityFailure s = .next s1 ∧ s1.mem = s.mem ∧
    s1.fw.ide = false ∧ s1.fw.spdm.session = 0 ∧ (s.ev.num, s.ev.op) ∈ s1.fw.insecure ∧
    (∀ c ∈ s1.ctxs, c.prot = true → c.stream = (s.ev.num, s.ev.op) → c.suspended = true) :=
  ⟨_, rfl, rfl, rfl, rfl, mem_addOnce .., fun _ hc hp hst =>
    suspended_of_suspend hc fun c0 h0 h1 => by simp [← h0, ← h1, hp, hst]⟩

/-! ### VF reset -/

theorem exec_vfReset_refused (h : s.fw.hostUp = false ∨ s.ev.fn = 0) : exec .vfReset s = .next s := by
  change Host.Outcome.next (if _ then _ else _) = _
  rw [if_pos (by rcases h with h | h <;> simp [h])]

theorem exec_vfReset_started (hup : s.fw.hostUp = true) (hfn : s.ev.fn ≠ 0) (hv : ∀ v ∈ s.fw.vfReset, v.1 ≠ s.ev.fn) :
    exec .vfReset s = .next (s.modFw fun w =>
      { w with vfReset := w.vfReset ++ [(s.ev.fn, (s.die 0).tick + vfDrain)] }) := by
  change Host.Outcome.next (if _ then _ else _) = _
  have ha : (s.fw.vfReset.any fun v => v.1 == s.ev.fn) = false :=
    List.any_eq_false.mpr fun v hm => by simpa using hv v hm
  rw [if_neg (by simp [hup, hfn, ha])]

/-- Whether the host link is up, and the contexts with the functions that hold them. -/
def hostView (s : State) : Bool × List (Nat × Nat) := (s.fw.hostUp, s.ctxs.map fun c => (c.asid, c.fn))

theorem hostView_foldl {α : Type} {f : State → α → State} (hf : ∀ s a, hostView (f s a) = hostView s) (l : List α)
    (s : State) : hostView (l.foldl f s) = hostView s := by
  induction l generalizing s with
  | nil => rfl
  | cons x xs ih => rw [List.foldl_cons, ih, hf]

theorem hostView_writeLoc (s : State) (l : Loc) (b : Byte) (g : Nat) : hostView (s.writeLoc l b g) = hostView s := by
  cases l <;> rfl

theorem hostView_writeLocs (s : State) (ls : List Loc) (bs : List Byte) (g : Nat) :
    hostView (s.writeLocs ls bs g) = hostView s :=
  hostView_foldl (f := fun s (x : Loc × Byte) => s.writeLoc x.1 x.2 g) (fun s x => hostView_writeLoc s x.1 x.2 g) _ s

theorem hostView_writePhys (s : State) (key : Option Nat) (bs : List (Nat × Byte)) :
    hostView (s.writePhys key bs) = hostView s := by
  cases key <;> exact hostView_writeLocs ..

theorem hostView_writeSite (s : State) (site : Site) (bs : List Byte) (g : Nat) :
    hostView (s.writeSite site bs g) = hostView s := by
  rw [State.writeSite, hostView_writeLocs, State.keySite]
  split <;> rfl

theorem hostView_sendFlits (s : State) (n : Nat) : hostView (s.sendFlits n) = hostView s := by
  rw [State.sendFlits]
  split <;> rfl

theorem hostView_writeBytes {s s1 : State} {p : Party} {va : Nat} {bs : List Byte} {w : Want}
    (h : s.writeBytes p va bs w = .ok s1) : hostView s1 = hostView s := by
  simp only [State.writeBytes] at h
  split at h
  · cases h
  · have hw := hostView_foldl (f := fun (s : State) (x : (Nat × Acc) × Byte) =>
      match x.1.2 with | .ok site => s.writeSite site [x.2] w.g | _ => s)
      fun s x => by
        split
        · exact hostView_writeSite ..
        · rfl
    injection h with h
    subst h
    split
    · exact (hostView_sendFlits _ _).trans (hw _ _)
    · exact hw _ _

theorem hostView_irq (s : State) (fn vec : Nat) : hostView (s.irq fn vec) = hostView s := by
  rw [State.irq]
  split <;> rfl

theorem hostView_finishLaunch (s : State) (l : Launch) : hostView (s.finishLaunch l) = hostView s := by
  unfold State.finishLaunch
  extract_lets b s1 s2 s3
  have h1 : hostView s1 = hostView s := by
    unfold s1
    split
    · exact hostView_writePhys ..
    split
    · exact hostView_writeBytes ‹_›
    · rfl
  have h2 : hostView s2 = hostView s := (hostView_irq ..).trans h1
  change hostView s3 = hostView s
  exact Eq.trans (hostView_foldl (f := fun (s : State) d => s.dropResv d l.id) (fun _ _ => rfl) _ s2) h2

theorem hostView_modFw (s : State) {f : Fw → Fw} (hf : ∀ w, (f w).hostUp = w.hostUp) :
    hostView (s.modFw f) = hostView s := Prod.ext (hf s.fw) rfl

theorem hostView_applyContrib (s : State) (c : Contrib) : hostView (s.applyContrib c) = hostView s := by
  simp only [State.applyContrib]
  rw [hostView_modFw, hostView_writePhys]
  exact fun _ => rfl

theorem hostView_landContribs (s : State) (asids : List Nat) : hostView (s.landContribs asids) = hostView s :=
  hostView_foldl (fun s c => by
    split
    · rfl
    · exact hostView_applyContrib s c) _ s

theorem hostView_dropNbhd (s : State) (nb : Nat) : hostView (s.dropNbhd nb) = hostView s :=
  congrArg (Prod.mk s.fw.hostUp) List.map_map

theorem hostView_tearLaunches (s : State) (asid : Nat) : hostView (s.tearLaunches asid) = hostView s :=
  hostView_foldl hostView_dropNbhd _ s

theorem hostView_modFrame (s : State) (core j : Nat) (f : Frame → Frame) :
    hostView (s.modFrame core j f) = hostView s := rfl

theorem hostView_dropContext (s : State) (asid : Nat) :
    hostView (s.dropContext asid) = ((hostView s).1, (hostView s).2.filter fun x => x.1 != asid) := by
  unfold State.dropContext
  extract_lets s1 slots kept maps s2
  have h2 : hostView s2 = hostView s :=
    Eq.trans (hostView_foldl (f := State.leaveFrame) (fun _ _ => rfl) maps _) <|
      Eq.trans (hostView_foldl (fun _ _ => hostView_modFrame ..) kept s1) (hostView_tearLaunches s asid)
  rw [← h2]
  change (s2.fw.hostUp, (s2.ctxs.filter fun c => c.asid != asid).map fun c => (c.asid, c.fn)) =
    (s2.fw.hostUp, (s2.ctxs.map fun c => (c.asid, c.fn)).filter fun x => x.1 != asid)
  rw [List.filter_map]
  rfl

theorem hostView_dropContexts (s : State) (asids : List Nat) :
    hostView (s.dropContexts asids) = ((hostView s).1, (hostView s).2.filter fun x => !asids.contains x.1) := by
  rw [State.dropContexts, ← hostView_landContribs s asids]
  generalize s.landContribs asids = s1
  induction asids generalizing s1 with
  | nil => simp
  | cons x xs ih =>
      rw [List.foldl_cons, ih, hostView_dropContext, List.filter_filter]
      exact congrArg (Prod.mk _) (List.filter_congr fun y _ => by by_cases h : y.1 = x <;> simp [h])

theorem hostView_withdraw (s : State) (n : Nat) : hostView (s.withdraw n) = hostView s := by
  rw [State.withdraw]
  split
  · exact hostView_writePhys ..
  · rfl

theorem hostView_wipePage (s : State) (r : Nat × Nat) : hostView (s.wipePage r) = hostView s := by
  rw [State.wipePage]
  split
  · rfl
  · exact hostView_foldl (fun s i => by split <;> rfl) _ s

theorem hostView_wipeRanges (s : State) (rs : List (Nat × Nat)) : hostView (s.wipeRanges rs) = hostView s :=
  hostView_foldl hostView_wipePage rs s

/-! ### Pages wiped -/

theorem cellRead_wipePhys (r : Nat × Nat) (a : Nat) :
    cellRead (s.wipePhys r).mem a = if r.1 ≤ a ∧ a < r.1 + r.2 then unlisted else cellRead s.mem a :=
  cellRead_cellWipe ..

theorem unlisted_wipePhys {r : Nat × Nat} {a : Nat} (h : cellRead s.mem a = unlisted) :
    cellRead (s.wipePhys r).mem a = unlisted := by
  rw [cellRead_wipePhys, h, ite_self]

theorem unlisted_wipePage {r : Nat × Nat} {a : Nat} (h : cellRead s.mem a = unlisted) :
    cellRead (s.wipePage r).mem a = unlisted := by
  rw [State.wipePage]
  split
  · exact unlisted_wipePhys h
  · refine List.foldlRecOn (motive := fun s : State => cellRead s.mem a = unlisted) _ _ h fun s hs i _ => ?_
    split
    · exact hs
    · exact unlisted_wipePhys hs

/-- Every byte of package memory in a range that is wiped reads as wiped, whatever is wiped after it. -/
theorem unlisted_wipeRanges {rs : List (Nat × Nat)} {r : Nat × Nat} {a : Nat} (hr : r ∈ rs) (h1 : r.1 ≤ a)
    (h2 : a < r.1 + r.2) (ha : a < poolBase) : cellRead (s.wipeRanges rs).mem a = unlisted := by
  obtain ⟨l1, l2, rfl⟩ := List.append_of_mem hr
  rw [State.wipeRanges, List.foldl_append, List.foldl_cons]
  refine List.foldlRecOn (motive := fun s : State => cellRead s.mem a = unlisted) _ _ ?_ fun s hs _ _ =>
    unlisted_wipePage hs
  rw [State.wipePage, if_pos (Nat.lt_of_le_of_lt h1 ha), cellRead_wipePhys, if_pos ⟨h1, h2⟩]

/-- A context of a function that outlives the end of the function's contexts is the firmware's own. -/
theorem asid_eq_zero_of_kept {fn : Nat} {x : Nat × Nat} (hx : x ∈ (hostView s).2.filter fun x =>
    !((s.ctxs.filter fun c => c.fn == fn && c.asid != 0).map (·.asid)).contains x.1) (hfn : x.2 = fn) : x.1 = 0 := by
  obtain ⟨hm, hnot⟩ := List.mem_filter.mp hx
  obtain ⟨c, hc, rfl⟩ := List.mem_map.mp hm
  by_contra h0
  have hcs : c ∈ s.ctxs.filter fun c => c.fn == fn && c.asid != 0 :=
    List.mem_filter.mpr ⟨hc, by simp [show c.fn = fn from hfn, show c.asid ≠ 0 from h0]⟩
  rw [List.contains_iff_mem.mpr (List.mem_map_of_mem hcs)] at hnot
  cases hnot

theorem exec_vfResetDrainExpiry {v : Nat × Nat} (hv : s.fw.vfReset.find? (fun v => v.1 == s.ev.fn) = some v) :
    ∃ s1, exec .vfResetDrainExpiry s = .next s1 ∧
      (∀ o ∈ s1.fw.owners, o.1 ≠ s.ev.fn) ∧ (∀ x ∈ s1.fw.vfReset, x.1 ≠ s.ev.fn) ∧
      (∀ q ∈ s1.queues, q.fn = s.ev.fn → s.ev.fn = 0) ∧ (∀ c ∈ s1.ctxs, c.fn = s.ev.fn → c.asid = 0) ∧
      (∀ b ∈ s1.fw.blocks, b.fn ≠ s.ev.fn) ∧ s.ev.fn ∉ s1.fw.cmdq ∧
      (s.fw.hostUp = false → ∀ c ∈ s.ctxs, c.fn = s.ev.fn → c.asid ≠ 0 → ∀ r ∈ s.contextRanges c.asid,
        ∀ a, r.1 ≤ a → a < r.1 + r.2 → a < poolBase → cellRead s1.mem a = unlisted) := by
  change ∃ s1, execVfResetDrainExpiry s = .next s1 ∧ _
  unfold execVfResetDrainExpiry
  extract_lets fn cs wins give
  split
  · rename_i hn
    cases hv.symm.trans hn
  extract_lets s1 s2 torn s3
  have h2 : hostView s2 = (s.fw.hostUp, (hostView s).2.filter fun x => !(cs.map (·.asid)).contains x.1) :=
    (hostView_wipeRanges ..).trans ((hostView_foldl hostView_withdraw _ _).trans (hostView_dropContexts ..))
  have h3 : hostView s3 = hostView s2 := by
    unfold s3
    split
    · exact hostView_foldl hostView_finishLaunch _ _
    · rfl
  refine ⟨_, rfl, ?_, ?_, ?_, ?_, ?_, ?_, ?_⟩
  · intro o ho
    simpa using (List.mem_filter.mp ho).2
  · intro x hx
    simpa using (List.mem_filter.mp hx).2
  · intro q hq hfn
    obtain ⟨q0, _, rfl⟩ := List.mem_map.mp hq
    simp only [give] at hfn
    split at hfn
    · exact hfn.symm
    · exact absurd hfn ‹_›
  · intro c hc hfn
    have hm : (c.asid, c.fn) ∈ (hostView s3).2 := List.mem_map_of_mem hc
    rw [h3, h2] at hm
    exact asid_eq_zero_of_kept hm hfn
  · intro b hb
    simpa using (List.mem_filter.mp hb).2
  · intro hm
    simpa [fn] using (List.mem_filter.mp hm).2
  · intro hup c hc hfn h0 r hr a ha1 ha2 ha
    have hs3 : s3 = s2 := if_neg (by
      have hu : s2.fw.hostUp = s.fw.hostUp := congrArg Prod.fst h2
      simp [hu, hup])
    have hcs : c ∈ cs := List.mem_filter.mpr ⟨hc, by simp [hfn, h0, fn]⟩
    change cellRead s3.mem a = unlisted
    rw [hs3]
    exact unlisted_wipeRanges (List.mem_flatMap.mpr ⟨c, hcs, hr⟩) ha1 ha2 ha

/-! ### The firewall -/

theorem foldl_max_le_iff (l : List Nat) (b n : Nat) : l.foldl max b ≤ n ↔ b ≤ n ∧ ∀ x ∈ l, x ≤ n := by
  induction l generalizing b with
  | nil => simp
  | cons x xs ih => simp [ih, and_assoc]

theorem maxOf_le_iff (l : List Nat) (n : Nat) : maxOf l ≤ n ↔ ∀ x ∈ l, x ≤ n := by
  rw [maxOf, foldl_max_le_iff, and_iff_right (Nat.zero_le n)]

theorem le_maxOf_iff (l : List Nat) (n : Nat) : n ≤ maxOf l ↔ n = 0 ∨ ∃ x ∈ l, n ≤ x := by
  rcases Nat.eq_zero_or_pos n with rfl | hn
  · simp
  · rw [← Nat.not_lt, Nat.lt_iff_le_pred hn, maxOf_le_iff]
    grind

/-- A byte of pooled memory in an extent that is present. -/
theorem pooled_present_iff (a : Nat) : (Loc.phys a).pooled = true ∧ ¬s.extentAbsent (.phys a) = true ↔
    poolBase ≤ a ∧ a < poolEnd ∧ (a - poolBase) / 2 ^ 28 ∈ s.extents := by
  grind [Loc.pooled, State.extentAbsent]

theorem admits_iff (write : Bool) (a : Nat) : s.admits write a = true ↔
    ∃ w, s.fw.fwins.find? (fun w => decide (w.base ≤ a) && decide (a < w.base + w.len)) = some w ∧
      (a < lpEnd ∨ (poolBase ≤ a ∧ a < poolEnd ∧ (a - poolBase) / 2 ^ 28 ∈ s.extents)) ∧
      (∀ x ∈ s.leavesAt a, x.2.grade ≤ w.ceil ∧ (x.1.prot = true → x.2.dom = true → x.1.domain = w.domain)) ∧
      (write = true → w.ceil = 0 ∨ ∃ x ∈ s.leavesAt a, w.ceil ≤ x.2.grade) := by
  cases hw : s.fw.fwins.find? (fun w => decide (w.base ≤ a) && decide (a < w.base + w.len)) with
  | none => simp [State.admits, State.fwinAt, hw]
  | some w =>
      have hdom : ((s.leavesAt a).all fun x => !(x.1.prot && x.2.dom) || x.1.domain == w.domain) = true ↔
          ∀ x ∈ s.leavesAt a, x.1.prot = true → x.2.dom = true → x.1.domain = w.domain := by
        simp only [List.all_eq_true]
        refine forall₂_congr fun x _ => ?_
        cases x.1.prot <;> cases x.2.dom <;> simp
      simp only [State.admits, State.fwinAt, hw, Bool.and_eq_true, Bool.or_eq_true, decide_eq_true_eq,
        Bool.not_eq_true', ← Bool.not_eq_true, pooled_present_iff, hdom, maxOf_le_iff, le_maxOf_iff,
        List.mem_map, forall_exists_index, and_imp, forall_apply_eq_imp_iff₂, exists_exists_and_eq_and,
        Option.some.injEq, exists_eq_left', ← Decidable.imp_iff_not_or]
      constructor
      · rintro ⟨⟨⟨hin, hceil⟩, hwr⟩, hd⟩
        exact ⟨hin, fun x hx => ⟨hceil x hx, hd x hx⟩, hwr⟩
      · rintro ⟨hin, hx, hwr⟩
        exact ⟨⟨⟨hin, fun x hm => (hx x hm).1⟩, hwr⟩, fun x hm => (hx x hm).2⟩

theorem portOpen_iff (port stream : Nat) : s.portOpen port stream = true ↔ (s.fw.links.getD port {}).state = 0 ∧
    (port, stream) ∉ s.fw.insecure ∧ (port = 18 → s.fw.hostUp = true) := by
  simp [State.portOpen, nth, and_assoc, Decidable.imp_iff_not_or]

theorem inboundAt_eq (a : Nat) : (∀ port, port ≠ 18 → s.inboundAt port a = some a) ∧
    s.inboundAt 18 a = (s.fw.fwins.find? fun w => decide (w.bar2 ≤ a) && decide (a < w.bar2 + w.len) &&
      decide (a < s.fw.bar2)).map fun w => w.base + (a - w.bar2) :=
  ⟨fun _ hp => if_neg hp, rfl⟩

/-! ### Inbound accesses -/

theorem inboundWrite_rest (s : State) (bs : List (Nat × Byte)) : (s.inboundWrite bs).fw = s.fw ∧
    (s.inboundWrite bs).cores = s.cores ∧ (s.inboundWrite bs).troupes = s.troupes ∧
    (s.inboundWrite bs).poison = s.poison := by
  induction bs generalizing s with
  | nil => exact ⟨rfl, rfl, rfl, rfl⟩
  | cons x xs ih => exact ih _

theorem takeKey_mem_of_not_pooled (s : State) (key : Nat) {a : Nat} (h : (Loc.phys a).pooled = false) :
    (s.takeKey key [.phys a]).mem = s.mem := by
  simp [State.takeKey, State.otherKey, h]

theorem inboundWrite_mem (s : State) {bs : List (Nat × Byte)} (h : ∀ x ∈ bs, (Loc.phys x.1).pooled = false) :
    (s.inboundWrite bs).mem = bs.foldl (fun m x => cellWriteN m x.1 [x.2]) s.mem := by
  induction bs generalizing s with
  | nil => rfl
  | cons x xs ih =>
      obtain ⟨hx, hxs⟩ := List.forall_mem_cons.mp h
      refine (ih _ hxs).trans ?_
      change xs.foldl _ (cellWriteN (s.takeKey _ [.phys x.1]).mem x.1 [x.2]) = _
      rw [takeKey_mem_of_not_pooled s _ hx]
      rfl

/-- How many bytes an inbound access is of. -/
def inboundLen (s : State) : Nat := if s.ev.on then s.ev.bytes.length else s.ev.num

/-- The places of an inbound access, where its address names any. -/
def inboundPlaces (s : State) : List (Option Nat) :=
  (List.range (inboundLen s)).map fun i => s.inboundAt s.ev.unit_ (s.ev.addr.toNat + i)

/-- The state once the link of an inbound access has counted its flits. -/
def linkCarried (s : State) : State :=
  if s.ev.unit_ < 18 then s.modLink s.ev.unit_ fun k => k.carry ((inboundLen s + 255) / 256) else s

/-- The state with the answer of an inbound access. -/
def inboundAnswer (s : State) (x : Inbound) : State := s.modFw fun w => { w with inbound := x }

theorem exec_inboundAccess_closed (h : s.portOpen s.ev.unit_ s.ev.op = false) :
    exec .inboundAccess s = .next (inboundAnswer s .silent) := by
  change Host.Outcome.next (if _ then _ else _) = _
  rw [if_pos (by simp [h])]
  rfl

/-- An access of an open port: what its link has counted changes nothing that the checks look at. -/
theorem exec_inboundAccess_open (h : s.portOpen s.ev.unit_ s.ev.op = true) :
    let as := (inboundPlaces s).filterMap id
    exec .inboundAccess s = .next (
      if (inboundPlaces s).any Option.isNone || !(as.all (s.admits s.ev.on)) then
        inboundAnswer (linkCarried s) (if s.ev.unit_ < 18 then .nak else .completerAbort)
      else if (as.any fun a => s.lineLost (s.inboundKey a) (.phys a)) ||
          (!s.ev.on && as.any fun a => s.poisoned (.phys a)) then inboundAnswer (linkCarried s) .poisoned
      else if s.ev.on then
        let s1 := (linkCarried s).inboundWrite (as.zip s.ev.bytes)
        inboundAnswer { s1 with poison := s1.poison.filter fun l => !(as.any fun a => a / 128 == l) } (.done [])
      else inboundAnswer (linkCarried s) (.done (as.map fun a => s.seenByte (some (s.inboundKey a)) (.phys a)))) := by
  change Host.Outcome.next (if _ then _ else _) = _
  rw [if_neg (by simp [h])]
  unfold linkCarried
  split <;> rfl

theorem inboundPlaces_eq {as : List Nat} (hl : as.length = inboundLen s)
    (h : ∀ i < inboundLen s, s.inboundAt s.ev.unit_ (s.ev.addr.toNat + i) = some (as.getD i 0)) :
    inboundPlaces s = as.map some := by
  refine List.ext_getElem (by simp [inboundPlaces, hl]) fun i h1 h2 => ?_
  have hi : i < as.length := by simpa using h2
  simp [inboundPlaces, h i (hl ▸ hi), hi]

theorem exec_inboundAccess_refused (hopen : s.portOpen s.ev.unit_ s.ev.op = true)
    (h : ∃ i < inboundLen s, ∀ a, s.inboundAt s.ev.unit_ (s.ev.addr.toNat + i) = some a →
      s.admits s.ev.on a = false) :
    exec .inboundAccess s =
      .next (inboundAnswer (linkCarried s) (if s.ev.unit_ < 18 then .nak else .completerAbort)) := by
  obtain ⟨i, hi, h⟩ := h
  have hm : s.inboundAt s.ev.unit_ (s.ev.addr.toNat + i) ∈ inboundPlaces s :=
    List.mem_map_of_mem (List.mem_range.mpr hi)
  rw [exec_inboundAccess_open hopen, if_pos]
  rw [Bool.or_eq_true]
  cases ha : s.inboundAt s.ev.unit_ (s.ev.addr.toNat + i) with
  | none => exact .inl (List.any_eq_true.mpr ⟨_, hm, by rw [ha]; rfl⟩)
  | some a =>
      have hin : a ∈ (inboundPlaces s).filterMap id := List.mem_filterMap.mpr ⟨_, hm, ha⟩
      refine .inr (by_contra fun hall => ?_)
      have hadm := List.all_eq_true.mp (by simpa using hall) a hin
      rw [h a ha] at hadm
      cases hadm

/-- The bytes of an admitted access can all be given: no line is lost to its key, and none read is in error. -/
def InboundWhole (s : State) (as : List Nat) : Prop := (∀ a ∈ as, s.lineLost (s.inboundKey a) (.phys a) = false) ∧
  (s.ev.on = false → ∀ a ∈ as, s.poisoned (.phys a) = false)

theorem inboundWhole_iff (as : List Nat) : InboundWhole s as ↔
    ((as.any fun a => s.lineLost (s.inboundKey a) (.phys a)) ||
      (!s.ev.on && as.any fun a => s.poisoned (.phys a))) = false := by
  cases hon : s.ev.on <;> simp [InboundWhole, hon]

theorem exec_inboundAccess_admitted (hopen : s.portOpen s.ev.unit_ s.ev.op = true) {as : List Nat}
    (hp : inboundPlaces s = as.map some) (ha : ∀ a ∈ as, s.admits s.ev.on a = true) :
    (¬InboundWhole s as → exec .inboundAccess s = .next (inboundAnswer (linkCarried s) .poisoned)) ∧
    (InboundWhole s as → s.ev.on = false → exec .inboundAccess s =
      .next (inboundAnswer (linkCarried s) (.done (as.map fun a => s.seenByte (some (s.inboundKey a)) (.phys a))))) ∧
    (InboundWhole s as → s.ev.on = true → exec .inboundAccess s =
      let s1 := (linkCarried s).inboundWrite (as.zip s.ev.bytes)
      .next (inboundAnswer { s1 with poison := s1.poison.filter fun l => !(as.any fun a => a / 128 == l) }
        (.done []))) := by
  have has : (inboundPlaces s).filterMap id = as := by rw [hp, List.filterMap_map]; exact List.filterMap_some
  have hpass : ¬((inboundPlaces s).any Option.isNone || !(as.all (s.admits s.ev.on))) = true := by
    simp [hp, List.all_eq_true.mpr ha]
  have hexec := exec_inboundAccess_open hopen
  simp only [has, if_neg hpass] at hexec
  rw [hexec]
  refine ⟨fun hw => ?_, fun hw hon => ?_, fun hw hon => ?_⟩
  · rw [if_pos (Bool.eq_true_of_not_eq_false fun h => hw ((inboundWhole_iff as).mpr h))]
  · rw [if_neg (by simpa [inboundWhole_iff] using hw), if_neg (by simp [hon])]
  · rw [if_neg (by simpa [inboundWhole_iff] using hw), if_pos hon]

/-- What an admitted write leaves. -/
theorem exec_inboundAccess_written (hopen : s.portOpen s.ev.unit_ s.ev.op = true) {as : List Nat}
    (hp : inboundPlaces s = as.map some) (ha : ∀ a ∈ as, s.admits s.ev.on a = true) (hw : InboundWhole s as)
    (hon : s.ev.on = true) : ∃ s1, exec .inboundAccess s = .next s1 ∧
      s1.fw = { (linkCarried s).fw with inbound := .done [] } ∧ s1.cores = s.cores ∧ s1.troupes = s.troupes ∧
      (∀ line, line ∈ s1.poison ↔ line ∈ s.poison ∧ ∀ a ∈ as, a / 128 ≠ line) ∧
      ((∀ a ∈ as, (Loc.phys a).pooled = false) →
        s1.mem = (as.zip s.ev.bytes).foldl (fun m x => cellWriteN m x.1 [x.2]) s.mem) := by
  obtain ⟨hcores, htroupes, hpoison, hmem⟩ : (linkCarried s).cores = s.cores ∧ (linkCarried s).troupes = s.troupes ∧
      (linkCarried s).poison = s.poison ∧ (linkCarried s).mem = s.mem := by
    unfold linkCarried
    split <;> exact ⟨rfl, rfl, rfl, rfl⟩
  obtain ⟨hfw1, hcores1, htroupes1, hpoison1⟩ := inboundWrite_rest (linkCarried s) (as.zip s.ev.bytes)
  obtain ⟨-, -, hexec⟩ := exec_inboundAccess_admitted hopen hp ha
  refine ⟨_, hexec hw hon, congrArg (fun w : Fw => { w with inbound := .done [] }) hfw1, hcores1.trans hcores,
    htroupes1.trans htroupes, fun line => ?_, fun hpool => ?_⟩
  · change line ∈ ((linkCarried s).inboundWrite _).poison.filter _ ↔ _
    rw [hpoison1, hpoison]
    simp
  · change ((linkCarried s).inboundWrite _).mem = _
    rw [inboundWrite_mem _ fun x hx => hpool x.1 (List.of_mem_zip hx).1, hmem]

/-! ### Errors of lines -/

theorem exec_scrub_line (hon : s.ev.on = false) :
    ((∀ e ∈ s.symErr, e.1 ≠ s.ev.addr.toNat / 128) → exec .scrub s = .next s) ∧
    (∀ x, s.symErr.find? (fun e => e.1 == s.ev.addr.toNat / 128) = some x →
      (x.2 ≤ 8 → exec .scrub s =
        .next ({ s with symErr := s.symErr.filter fun y => y.1 != s.ev.addr.toNat / 128 }.modFw fun w =>
          { w with ecc := w.ecc.modify 5 (· + 1) })) ∧
      (8 < x.2 → exec .scrub s = .next s)) := by
  change (_ → execScrub s = _) ∧ ∀ x, _ → (_ → execScrub s = _) ∧ (_ → execScrub s = _)
  have hscrub : execScrub s = match s.symErr.find? fun e => e.1 == s.ev.addr.toNat / 128 with
      | some e => .next (if e.2 ≤ 8 then
          { s with symErr := s.symErr.filter fun x => x.1 != s.ev.addr.toNat / 128 }.countEcc 5 else s)
      | none => .next s := if_neg (by simp [hon])
  refine ⟨fun h => ?_, fun x hx => ⟨fun h => ?_, fun h => ?_⟩⟩
  · rw [hscrub, List.find?_eq_none.mpr fun e he => by simpa using h e he]
  · rw [hscrub, hx]
    exact congrArg _ (if_pos h)
  · rw [hscrub, hx]
    exact congrArg _ (if_neg (Nat.not_le.mpr h))

theorem exec_scrub_softError (hon : s.ev.on = true) : exec .scrub s = .next (s.softError s.ev) := if_pos hon

theorem exec_scrub_counted (hon : s.ev.on = true) {j : Nat} (hj : s.ev.num = j) (hrow : j = 0 ∨ j = 2 ∨ j = 3)
    (hb : s.ev.bytes ≠ []) :
    exec .scrub s = .next (s.modFw fun w => { w with ecc := w.ecc.modify j (· + 1) }) := by
  have hemp : ¬s.ev.bytes.isEmpty = true := by simpa using hb
  rw [exec_scrub_softError hon, State.softError]
  rcases hrow with rfl | rfl | rfl <;> simp only [hj] <;> rw [if_neg hemp] <;> rfl

theorem exec_scrub_poisons (hon : s.ev.on = true)
    (hrow : s.ev.num = 2 ∨ s.ev.num = 3 ∨ (s.ev.num = 0 ∧ s.ev.unit_ = 2)) (hb : s.ev.bytes = []) :
    exec .scrub s = .next
      { s with poison := s.ev.addr.toNat / 128 :: s.poison.filter (· != s.ev.addr.toNat / 128) } := by
  have hemp : s.ev.bytes.isEmpty = true := by simpa using hb
  rw [exec_scrub_softError hon, State.softError]
  rcases hrow with h | h | ⟨h, hu⟩ <;> simp only [h] <;> rw [if_pos hemp]
  rw [State.sramError, hu]
  rfl

theorem exec_scrub_register (hon : s.ev.on = true) (hnum : s.ev.num = 0) (hunit : s.ev.unit_ = 0)
    (hb : s.ev.bytes = []) {t : Troupe} (ht : s.troupe? ⟨s.ev.ring, s.ev.idx⟩ = some t) :
    ∃ s1 u, exec .scrub s = .next s1 ∧ s1.troupe? ⟨s.ev.ring, s.ev.idx⟩ = some u ∧ s.ev.lane ∈ u.regErr ∧
      s1.mem = s.mem := by
  have hemp : s.ev.bytes.isEmpty = true := by simpa using hb
  have hexec : exec .scrub s = .next (s.sramError s.ev) := by
    rw [exec_scrub_softError hon, State.softError, hnum]
    exact congrArg _ (if_pos hemp)
  have hs : s.sramError s.ev =
      s.modTroupe ⟨s.ev.ring, s.ev.idx⟩ fun t => { t with regErr := addOnce t.regErr s.ev.lane } := by
    rw [State.sramError, hunit]
    rfl
  rw [hs] at hexec
  refine ⟨_, { t with regErr := addOnce t.regErr s.ev.lane }, hexec, ?_, mem_addOnce .., rfl⟩
  rw [State.troupe?_modTroupe, ht]
  · rfl
  · exact fun _ => rfl

theorem exec_scrub_symbols (hon : s.ev.on = true) (hnum : s.ev.num = 5) : exec .scrub s = .next { s with
    symErr := (s.ev.addr.toNat / 128, s.ev.lane) :: s.symErr.filter fun x => x.1 != s.ev.addr.toNat / 128 } := by
  rw [exec_scrub_softError hon, State.softError, hnum]
  rfl

theorem poisoned_iff (a : Nat) :
    s.poisoned (.phys a) = true ↔ a / 128 ∈ s.poison ∨ ∃ e ∈ s.symErr, e.1 = a / 128 ∧ 8 < e.2 := by
  simp [State.poisoned, State.lineError]

/-- Settles O47, one event after the other. -/
theorem resetsAndLinks : Obligations.ResetsAndLinks := by
  intro s
  refine ⟨exec_coldReset, exec_lifeCycleChange, exec_pcieHotReset, exec_linkDownWithoutReset, rfl,
    exec_vfReset_refused, exec_vfReset_started, fun _ => exec_vfResetDrainExpiry, admits_iff, portOpen_iff,
    inboundAt_eq, ⟨exec_inboundAccess_closed, fun hopen => ⟨exec_inboundAccess_refused hopen, fun as hl hp ha => ?_⟩⟩,
    exec_ideIntegrityFailure, rfl, rfl, rfl, rfl,
    ⟨exec_scrub_line, fun hon => ⟨fun _ hj => exec_scrub_counted hon hj, exec_scrub_poisons hon,
      fun hnum hunit hb _ => exec_scrub_register hon hnum hunit hb, exec_scrub_symbols hon⟩⟩, poisoned_iff⟩
  have hplaces : inboundPlaces s = as.map some := inboundPlaces_eq hl hp
  obtain ⟨hlost, hread, _⟩ := exec_inboundAccess_admitted hopen hplaces ha
  exact ⟨hlost, hread, exec_inboundAccess_written hopen hplaces ha⟩

end Sys2Proof.Machine
end

section
/-! PROOF. A step does one of the things that may happen, and a party that acts runs the unit it fetched: what a fetch
of code reads, and which acts begin a wait (R20, R35, R81, R328). -/

namespace Sys2Proof.Machine

variable {s u : State} {t : Troupe}

/-! ### What a fetch of code reads -/

/-- Two states agree in what a fetch of code reads. -/
structure SameCode (s u : State) : Prop where
  mem : u.mem = s.mem
  poison : u.poison = s.poison
  symErr : u.symErr = s.symErr
  pkeys : u.pkeys = s.pkeys
  extents : u.extents = s.extents
  fw : u.fw = s.fw
  ctxs : u.ctxs = s.ctxs
  dies : u.dies = s.dies
  choice : u.choice = s.choice
  icache : ∀ c, (u.core c).icache = (s.core c).icache
  tlb : ∀ c, (u.core c).tlb = (s.core c).tlb
  spad : ∀ c, (u.core c).spad = (s.core c).spad
  spBad : ∀ c, (u.core c).spBad = (s.core c).spBad

theorem SameCode.ctx (h : SameCode s u) (a : Nat) : u.ctx a = s.ctx a := by
  simp only [State.ctx, State.ctx?, h.ctxs]

theorem SameCode.lineError (h : SameCode s u) (a : Nat) : u.lineError a = s.lineError a := by
  simp only [State.lineError, h.poison, h.symErr]

theorem SameCode.die (h : SameCode s u) (d : Nat) : u.die d = s.die d := by
  simp only [State.die, h.dies]

theorem SameCode.physByte (h : SameCode s u) (a : Nat) : u.physByte a = s.physByte a := by
  have hr : u.reused a = s.reused a := by simp only [State.reused, h.ctxs]
  unfold State.physByte
  rw [hr, h.choice, h.die, h.mem]

theorem SameCode.walkEntry (h : SameCode s u) : u.walkEntry = s.walkEntry := by
  funext a
  simp only [State.walkEntry, h.lineError, h.physByte]

theorem SameCode.leafFor (h : SameCode s u) (asid : Nat) (core : Option Nat) (va : Nat) :
    u.leafFor asid core va = s.leafFor asid core va := by
  simp only [State.leafFor, State.walk, h.ctx, h.walkEntry, h.fw, h.tlb, h.die]

theorem SameCode.poisoned (h : SameCode s u) : u.poisoned = s.poisoned := by
  funext x
  cases x with
  | phys a => exact h.lineError a
  | spad c o => simp only [State.poisoned, h.spBad]

theorem SameCode.leafLoc (h : SameCode s u) : leafLoc u = leafLoc s := by
  funext l va
  simp only [Machine.leafLoc, State.homeAddr, h.fw]

theorem SameCode.lineBytes (h : SameCode s u) (n : Nat) : u.lineBytes n = s.lineBytes n := by
  simp only [State.lineBytes, h.mem]

theorem SameCode.lineLost (h : SameCode s u) (key : Nat) : u.lineLost key = s.lineLost key := by
  funext x
  cases x with
  | phys a => simp only [State.lineLost, h.pkeys, h.lineBytes]
  | spad c o => rfl

theorem SameCode.extentAbsent (h : SameCode s u) : u.extentAbsent = s.extentAbsent := by
  funext x
  cases x with
  | phys a => simp only [State.extentAbsent, h.extents]
  | spad c o => rfl

theorem SameCode.keyFor (h : SameCode s u) (asid : Nat) (l : Leaf) : u.keyFor asid l = s.keyFor asid l := by
  simp only [State.keyFor, State.domainKey, h.ctx, h.fw]

theorem SameCode.xlatFault (h : SameCode s u) (asid : Nat) (w : Want) (c : Cause) (reason level : Nat) :
    u.xlatFault asid w c reason level = s.xlatFault asid w c reason level := by
  simp only [State.xlatFault, h.ctx]

theorem SameCode.leafAccess (h : SameCode s u) (p : Party) (va : Nat) (w : Want) (l : Leaf) :
    u.leafAccess p va w l = s.leafAccess p va w l := by
  have hr : u.onRoster = s.onRoster := by
    funext a n
    simp only [State.onRoster, h.ctx, h.fw]
  unfold State.leafAccess
  simp only [h.xlatFault]
  rw [hr, h.leafLoc, h.extentAbsent, h.poisoned, h.lineLost, h.keyFor, h.ctx, h.fw]

/-- A fetch has no ring, so no window opens to it (R35, R148). -/
theorem SameCode.access (h : SameCode s u) (asid core va : Nat) (w : Want) :
    u.access { asid := asid, core := some core } va w = s.access { asid := asid, core := some core } va w := by
  simp only [State.access, State.scratchAt, h.leafFor, h.leafAccess, h.xlatFault]

theorem SameCode.seenByte (h : SameCode s u) (key : Option Nat) : u.seenByte key = s.seenByte key := by
  funext x
  cases x with
  | phys a =>
      have ho : u.otherKey key (.phys a) = s.otherKey key (.phys a) := by
        cases key with
        | none => rfl
        | some k => simp only [State.otherKey, h.pkeys]
      have hl : u.openedLine (key.getD 0) (a / 128) = s.openedLine (key.getD 0) (a / 128) := by
        simp only [State.openedLine, h.pkeys, h.lineBytes]
      show (if u.otherKey key (.phys a) = true then nth (u.openedLine (key.getD 0) (a / 128)) (a % 128) 0
        else u.physByte a) = _
      rw [ho, hl, h.physByte]
      rfl
  | spad c o => simp only [State.seenByte, State.readLoc, h.spad]

theorem SameCode.fetchByte (h : SameCode s u) (held : List (Word × List Byte)) (asid core va : Nat) :
    u.fetchByte held asid core va = s.fetchByte held asid core va := by
  simp only [State.fetchByte, State.loadSite, h.access, h.icache, h.seenByte]

theorem SameCode.fetchBytes (h : SameCode s u) (held : List (Word × List Byte)) (asid core va n : Nat) :
    u.fetchBytes held asid core va n = s.fetchBytes held asid core va n := by
  induction n generalizing va with
  | zero => rfl
  | succ n ih => simp only [State.fetchBytes, h.fetchByte, ih]

theorem SameCode.fetchHeld (h : SameCode s u) (held : List (Word × List Byte)) (asid core va : Nat) :
    u.fetchHeld held asid core va = s.fetchHeld held asid core va := by
  simp only [State.fetchHeld, h.fetchByte, h.fetchBytes]


/-! ### The unit that a party fetches -/

theorem SameCode.countStarve (s : State) (p : Troupe) (rdy : List TroupeId) : SameCode s (s.countStarve p rdy) := by
  constructor <;> intros <;> rfl

theorem State.fetchTroupe_countStarve (s : State) (p : Troupe) (rdy : List TroupeId) :
    (s.countStarve p rdy).fetchTroupe t = s.fetchTroupe t :=
  (SameCode.countStarve s p rdy).fetchHeld ..

theorem State.core_modCore_cases (s : State) (c d : Nat) (f : CoreSt → CoreSt) :
    (s.modCore c f).core d = s.core d ∨ (s.modCore c f).core d = f (s.core d) := by
  by_cases hd : d = c
  · subst hd
    by_cases hl : d < s.cores.length
    · exact .inr (s.core_modCore f hl)
    · left
      simp [State.core, State.modCore, nth, upd, hl]
  · exact .inl (s.core_modCore_ne f hd)

theorem SameCode.takeTurn (s : State) (ring : Nat) (st : Stream) : SameCode s (s.takeTurn ring st) := by
  unfold State.takeTurn
  split
  · have hc := fun d => s.core_modCore_cases (s.ring ring).core d fun c => { c with mxlast := some ring }
    refine ⟨rfl, rfl, rfl, rfl, rfl, rfl, rfl, rfl, rfl, fun d => ?_, fun d => ?_, fun d => ?_, fun d => ?_⟩ <;>
      obtain h | h := hc d <;> rw [h]
  · constructor <;> intros <;> rfl

theorem State.fetchStream_takeTurn (s : State) (ring : Nat) (st : Stream) :
    (s.takeTurn ring st).fetchStream ring st = s.fetchStream ring st := by
  have hr : (s.takeTurn ring st).rings = s.rings ∧ (s.takeTurn ring st).asidOf ring = s.asidOf ring := by
    unfold State.takeTurn
    split <;> exact ⟨rfl, rfl⟩
  simp only [State.fetchStream, State.ring, State.ring?, hr, (SameCode.takeTurn s ring st).fetchHeld]

theorem runScalar_of_fetch {i : Instr} {n : Nat} (h : s.fetchTroupe t = .unit_ (.ok i n)) :
    runScalar t s = exec i (s.acting (.scalar t.id) n) := by
  simp only [runScalar, h]

theorem runStream_of_fetch {ring : Nat} {st : Stream} {i : Instr} {n : Nat}
    (h : s.fetchStream ring st = .unit_ (.ok i n)) : runStream ring st s = exec i (s.acting (.stream ring) n) := by
  simp only [runStream, h]

theorem runVector_of_vq {e : VEntry} {rest : List VEntry} (h : t.vq = e :: rest) :
    runVector t s = exec e.instr (s.acting (.vside t.id) s.len) := by
  simp only [runVector, h]

theorem wait_of_scalarTurn_held (h : scalarTurn s t = .held) : t.wait = none := by
  cases hw : t.wait with
  | none => rfl
  | some w =>
      simp only [scalarTurn, hw] at h
      split at h
      · split at h <;> cases h
      · cases h

theorem vwait_of_vectorTurn_held (h : vectorTurn s t = .held) : t.vwait = none := by
  cases hw : t.vwait with
  | none => rfl
  | some w =>
      simp only [vectorTurn, hw] at h
      split at h
      · split at h <;> cases h
      · cases h

/-! ### What may happen -/

/-- Every one of the acts is a device step. -/
def OnlyDevice (l : List Act) : Prop := ∀ a ∈ l, ∃ i e, a = .device i e

@[simp] theorem onlyDevice_nil : OnlyDevice [] := by simp [OnlyDevice]

@[simp] theorem onlyDevice_cons (i : Instr) (e : Event) (l : List Act) :
    OnlyDevice (.device i e :: l) ↔ OnlyDevice l := by simp [OnlyDevice]

@[simp] theorem onlyDevice_append (l m : List Act) : OnlyDevice (l ++ m) ↔ OnlyDevice l ∧ OnlyDevice m :=
  List.forall_mem_append

@[simp] theorem onlyDevice_flatMap {α : Type} (l : List α) (f : α → List Act) :
    OnlyDevice (l.flatMap f) ↔ ∀ x ∈ l, OnlyDevice (f x) := List.forall_mem_flatMap

@[simp] theorem onlyDevice_map {α : Type} (l : List α) (f : α → Act) :
    OnlyDevice (l.map f) ↔ ∀ x ∈ l, ∃ i e, f x = .device i e := by simp [OnlyDevice]

@[simp] theorem onlyDevice_devIf (c : Bool) (i : Instr) (e : Event) : OnlyDevice (devIf c i e) := by
  cases c <;> simp [devIf]

theorem onlyDevice_troupeActs : OnlyDevice (s.troupeActs t) := by
  have ho : ∀ o, OnlyDevice (opActs t o) := by
    intro o
    unfold opActs
    (repeat' split) <;> simp
  simp [State.troupeActs, ho]

theorem onlyDevice_coreActs (core : Nat) : OnlyDevice (s.coreActs core) := by
  have hc : ∀ q c, OnlyDevice (s.copyActs core q c) := by simp [State.copyActs]
  simp only [State.coreActs, onlyDevice_append, onlyDevice_flatMap, hc, implies_true, true_and]
  split <;> simp

theorem onlyDevice_sliceActs (n : Nat) : OnlyDevice (s.sliceActs n) := by
  simp only [State.sliceActs, onlyDevice_append, onlyDevice_flatMap, onlyDevice_devIf, implies_true, and_true]
  split
  · split <;> simp
  · simp

theorem onlyDevice_nbhdActs (n : Nbhd) : OnlyDevice (s.nbhdActs n) := by
  rw [State.nbhdActs, onlyDevice_append]
  refine ⟨by simp, ?_⟩
  split <;> simp

theorem onlyDevice_ctxActs (c : Ctx) : OnlyDevice (s.ctxActs c) := by
  simp only [State.ctxActs, onlyDevice_append, onlyDevice_flatMap, onlyDevice_devIf, implies_true, and_true]
  split <;> simp

theorem onlyDevice_frontActs : OnlyDevice s.frontActs := by
  have hc : OnlyDevice s.commandActs := by
    unfold State.commandActs
    (repeat' split) <;> simp
  simp [State.frontActs, hc]

theorem onlyDevice_deviceActs : OnlyDevice s.deviceActs := by
  simp [State.deviceActs, State.launchActs, State.dieActs, State.ringActs, onlyDevice_frontActs, onlyDevice_nbhdActs,
    onlyDevice_ctxActs, onlyDevice_sliceActs, onlyDevice_coreActs, onlyDevice_troupeActs]

theorem issue_of_mem_slotActs {a : Act} (h : a ∈ s.slotActs) : ∃ t rdy, a = .vector t rdy ∨ a = .scalar t rdy := by
  obtain ⟨k, -, h⟩ := List.mem_flatMap.mp h
  dsimp only at h
  split at h
  · cases h
  · rename_i p _
    simp only [List.mem_append, List.mem_ite_nil_right, List.mem_singleton] at h
    exact ⟨p, _, h.imp And.right And.right⟩

theorem stream_of_mem_streamActs {a : Act} (h : a ∈ s.streamActs) : ∃ r st, a = .stream r st := by
  obtain ⟨x, -, rfl⟩ := List.mem_map.mp h
  exact ⟨_, _, rfl⟩

theorem turn_of_mem_waitActs {a : Act} (h : a ∈ s.waitActs) :
    ∃ p, (vectorTurn s p = .held ∧ a = .vectorWait p) ∨ (scalarTurn s p = .held ∧ a = .scalarWait p) := by
  obtain ⟨p, -, h⟩ := List.mem_flatMap.mp h
  simp only [List.mem_append, List.mem_ite_nil_right, List.mem_singleton] at h
  exact ⟨p, h⟩

/-- An act is one of the agenda, a device step, an issue, the beginning of a wait, or a stream's. -/
theorem acts_cases {a : Act} (h : a ∈ s.acts) : a = .agenda ∨ (∃ i e, a = .device i e) ∨
    (∃ t rdy, a = .vector t rdy ∨ a = .scalar t rdy) ∨ a ∈ s.waitActs ∨ ∃ r st, a = .stream r st := by
  simp only [State.acts, List.mem_append] at h
  obtain (((h | h) | h) | h) | h := h
  · split at h
    · cases h
    · exact .inl (List.mem_singleton.mp h)
  · exact .inr (.inl (onlyDevice_deviceActs a h))
  · exact .inr (.inr (.inl (issue_of_mem_slotActs h)))
  · exact .inr (.inr (.inr (.inl h)))
  · exact .inr (.inr (.inr (.inr (stream_of_mem_streamActs h))))

theorem scalarTurn_of_mem_acts (h : .scalarWait t ∈ s.acts) : scalarTurn s t = .held := by
  obtain h | ⟨i, e, h⟩ | ⟨p, rdy, h | h⟩ | h | ⟨r, st, h⟩ := acts_cases h
  case inr.inr.inr.inl =>
    obtain ⟨p, ⟨-, hp⟩ | ⟨hh, hp⟩⟩ := turn_of_mem_waitActs h <;> cases hp
    exact hh
  all_goals cases h

theorem vectorTurn_of_mem_acts (h : .vectorWait t ∈ s.acts) : vectorTurn s t = .held := by
  obtain h | ⟨i, e, h⟩ | ⟨p, rdy, h | h⟩ | h | ⟨r, st, h⟩ := acts_cases h
  case inr.inr.inr.inl =>
    obtain ⟨p, ⟨hh, hp⟩ | ⟨-, hp⟩⟩ := turn_of_mem_waitActs h <;> cases hp
    exact hh
  all_goals cases h

/-! ### The step -/

theorem step_of_one {a : Act} (hp : s.fw.powered = true) (h : s.acts = [a]) : step s = timed (perform a s.ready) := by
  simp only [step, stepPackage, hp, if_true, h]

theorem step_of_none (hp : s.fw.powered = true) (h : s.acts = []) : step s = .next s.passTime := by
  simp only [step, stepPackage, hp, if_true, h]

theorem step_of_several (hp : s.fw.powered = true) (h : 2 ≤ s.acts.length) :
    ∃ a ∈ s.acts ++ s.fillActs, step s = timed (perform a s.ready) := by
  match hl : s.acts, h with
  | a :: b :: rest, _ =>
      let l := (a :: b :: rest) ++ s.fillActs
      have hn : Config.schedule s.choice % l.length < l.length := Nat.mod_lt _ (by simp [l])
      refine ⟨nth l (Config.schedule s.choice % l.length) .idle, ?_, ?_⟩
      · rw [nth, List.getD_eq_getElem _ _ hn]
        exact List.getElem_mem hn
      · simp only [step, stepPackage, hp, if_true, hl, l]

/-- Settles O49: the step by how many things may happen, the parties by the unit they fetch, which counting starvation
and taking a turn of the array leave as it is. -/
theorem stepRunsTheUnit : Obligations.StepRunsTheUnit := by
  refine ⟨fun s a hp h => ?_, fun s hp h => ?_, fun s => step_of_none, fun s t rdy i n h => ?_, fun s t h => ?_,
    fun s ring st i n h => ?_, fun s t rdy e rest h => runVector_of_vq h, fun s t => ⟨fun i n => runScalar_of_fetch,
      fun e rest => runVector_of_vq, fun h => ?_, fun h => ?_⟩, fun s i ev => rfl⟩
  · rw [step_of_one hp h]
    cases perform a s.ready <;> rfl
  · obtain ⟨a, ha, hs⟩ := step_of_several hp h
    refine ⟨a, ha, hs.trans ?_⟩
    cases perform a s.ready <;> rfl
  · exact runScalar_of_fetch ((s.fetchTroupe_countStarve t rdy).trans h)
  · rw [State.fetchTroupe, if_pos h]
    rfl
  · exact runStream_of_fetch ((s.fetchStream_takeTurn ring st).trans h)
  · have hh := scalarTurn_of_mem_acts h
    exact ⟨hh, wait_of_scalarTurn_held hh⟩
  · have hh := vectorTurn_of_mem_acts h
    exact ⟨hh, vwait_of_vectorTurn_held hh⟩

end Sys2Proof.Machine
end

section
/-! PROOF. What done leaves, and what going on to the next unit leaves of a troupe and its ring (R21, R38, R99, R173,
R361). -/

namespace Sys2Proof.Machine

variable {s : State} {t : Troupe} {pc : Word}

/-! ### Settling and retiring -/

theorem State.settle_of_quiet (ht : s.troupe? t.id = some t) (hq : t.quiet = true) : s.settle t.id = s := by
  rw [Troupe.quiet, Bool.and_eq_true, Bool.not_eq_true', Bool.not_eq_true'] at hq
  exact s.settle_quiet t ht hq.1 hq.2

theorem State.setTroupe_setTroupe (s : State) {t u : Troupe} (h : u.id = t.id) :
    (s.setTroupe t).setTroupe u = s.setTroupe u := by
  simp only [State.setTroupe, State.modTroupe, updWhere, List.map_map, h]
  congr 2
  funext x
  by_cases hx : x.id = t.id <;> simp [hx]

/-- A troupe that goes on to an address within its clause. -/
def Troupe.goesOn (t : Troupe) (pc : Word) : Troupe := { t with pc := pc, left := t.left - 1, wait := none }

/-- A troupe that goes on to an address, its clause retired. -/
def Troupe.retires (t : Troupe) (pc : Word) : Troupe :=
  { t with pc := pc, left := 0, wait := none, code := [], cno := t.cno + 1, seta := none, setb := none, named := 0,
           mile := false, miles := if t.mile then (t.miles + 1) % 2 ^ 32 else t.miles }

/-- A ring with one more milestone where a clause with MILE retires. -/
def Ring.countMile (mile : Bool) (r : Ring) : Ring :=
  if mile then { r with miles := min (2 ^ 32 - 1) (r.miles + 1) } else r

theorem Ring.countMile_id (mile : Bool) (r : Ring) : (r.countMile mile).id = r.id := by
  cases mile <;> rfl

theorem State.modRing_countMile_false (s : State) (r : Nat) : s.modRing r (Ring.countMile false) = s := by
  simp [State.modRing, updWhere, Ring.countMile]

theorem State.endInstr_within (ht : s.troupe? t.id = some t) (hl : 1 < t.left) (hq : (t.goesOn pc).quiet = true) :
    s.endInstr t.id pc = s.setTroupe (t.goesOn pc) := by
  simp only [State.endInstr, ht, if_neg (Nat.not_le.mpr hl)]
  exact State.settle_of_quiet (t := t.goesOn pc) (s.troupe?_setTroupe (t := t.goesOn pc) ht) hq

theorem State.endInstr_last (ht : s.troupe? t.id = some t) (hl : t.left = 1) (hq : (t.retires pc).quiet = true) :
    s.endInstr t.id pc = (s.setTroupe (t.retires pc)).modRing t.id.ring (Ring.countMile t.mile) := by
  have hr : (s.setTroupe (t.goesOn pc)).retireClause t.id =
      (s.setTroupe (t.retires pc)).modRing t.id.ring (Ring.countMile t.mile) := by
    have hg : (s.setTroupe (t.goesOn pc)).troupe? t.id = some (t.goesOn pc) :=
      s.troupe?_setTroupe (t := t.goesOn pc) ht
    have hs : (s.setTroupe (t.goesOn pc)).setTroupe (t.retires pc) = s.setTroupe (t.retires pc) :=
      s.setTroupe_setTroupe rfl
    simp only [State.retireClause, hg]
    rw [← hs]
    have hm : (t.goesOn pc).mile = t.mile := rfl
    rw [hm]
    cases ht : t.mile
    · rw [State.modRing_countMile_false]
      simp only [Troupe.goesOn, Troupe.retires, ht, Bool.false_eq_true, if_false]
    · simp only [Troupe.goesOn, Troupe.retires, ht, if_true]
      rfl
  simp only [State.endInstr, ht, if_pos (Nat.le_of_eq hl)]
  show (State.retireClause (s.setTroupe (t.goesOn pc)) t.id).settle t.id = _
  rw [hr]
  exact State.settle_of_quiet (t := t.retires pc) (s.troupe?_setTroupe (t := t.retires pc) ht) hq

/-! ### The barriers that a troupe leaves -/

theorem State.treeCheck_eq (s : State) (nb : Nat) : s.treeCheck nb = { s with nbhds := (s.treeCheck nb).nbhds } := by
  unfold State.treeCheck
  split
  · dsimp only
    split <;> rfl
  · rfl

/-- Finding by a key that the update keeps. -/
theorem find?_updWhere_of_key {α : Type} (l : List α) (p q : α → Bool) (f : α → α) (hf : ∀ x, q (f x) = q x) :
    (updWhere l p f).find? q = (l.find? q).map fun x => if p x then f x else x := by
  rw [updWhere, List.find?_map]
  congr 2
  funext x
  by_cases hp : p x <;> simp [hp, hf]

theorem State.nbhd?_modNbhd_any (s : State) (nb n : Nat) (f : Nbhd → Nbhd) (hf : ∀ x, (f x).id = x.id) :
    (s.modNbhd nb f).nbhd? n = (s.nbhd? n).map fun x => if x.id == nb then f x else x :=
  find?_updWhere_of_key s.nbhds _ (fun x => x.id == n) f fun x => by rw [hf]

theorem State.launch_nbhd_modNbhd (s : State) (nb n : Nat) (f : Nbhd → Nbhd) (hi : ∀ x, (f x).id = x.id)
    (hl : ∀ x, (f x).launch = x.launch) : ((s.modNbhd nb f).nbhd n).launch = (s.nbhd n).launch := by
  simp only [State.nbhd, s.nbhd?_modNbhd_any nb n f hi]
  cases s.nbhd? n with
  | none => rfl
  | some x => by_cases hx : x.id = nb <;> simp [hx, hl]

theorem State.launch_nbhd_treeCheck (s : State) (nb n : Nat) :
    ((s.treeCheck nb).nbhd n).launch = (s.nbhd n).launch := by
  unfold State.treeCheck
  split
  · dsimp only
    split
    · rfl
    · exact s.launch_nbhd_modNbhd nb n _ (fun _ => rfl) fun _ => rfl
  · rfl

theorem State.asidOf_treeCheck (s : State) (nb r : Nat) : (s.treeCheck nb).asidOf r = s.asidOf r := by
  have hr : (s.treeCheck nb).ring r = s.ring r := by rw [s.treeCheck_eq nb]; rfl
  have hl : ∀ l, (s.treeCheck nb).launch l = s.launch l := by rw [s.treeCheck_eq nb]; exact fun _ => rfl
  simp only [State.asidOf, State.launchOf, hr, hl, s.launch_nbhd_treeCheck]

/-- A ring whose barriers troupe `who` has left. -/
def Ring.leftBy (who : Nat) (r : Ring) : Ring :=
  { r with nbs := r.nbs.map fun b => b.leave who, bts := r.bts.map fun b => b.leave who }

/-- The state in which an ending troupe has left its barriers. -/
def State.leaveBarriers (s : State) (t : Troupe) : State :=
  (s.setTroupe { t with ending := true }).modRing t.id.ring (Ring.leftBy t.id.idx)

theorem State.ring?_leaveBarriers (s : State) (t : Troupe) :
    (s.leaveBarriers t).ring? t.id.ring = (s.ring? t.id.ring).map (Ring.leftBy t.id.idx) :=
  State.ring?_modRing _ _ _ fun _ => rfl

theorem State.ring_leaveBarriers (s : State) (t : Troupe) :
    ((s.leaveBarriers t).ring t.id.ring).core = (s.ring t.id.ring).core ∧
    ((s.leaveBarriers t).ring t.id.ring).nb = (s.ring t.id.ring).nb := by
  simp only [State.ring, s.ring?_leaveBarriers]
  cases s.ring? t.id.ring <;> exact ⟨rfl, rfl⟩

theorem NB.leave_eq (b : NB) (who : Nat) : b.leave who =
    if b.fixed = true ∧ b.zero = true ∧ who ∉ b.mask then
      if b.count ≤ b.arrived + 1 then ({ phase := b.phase + 1 } : NB)
      else { b with arrived := b.arrived + 1, mask := b.mask ++ [who] }
    else b := by
  by_cases h : b.fixed = true ∧ b.zero = true ∧ who ∉ b.mask
  · rw [if_pos h]
    simp [NB.leave, NB.close, h]
  · rw [if_neg h]
    simp only [NB.leave]
    rw [if_neg (by simpa [and_assoc] using h)]

/-- The request that cancels what an ending troupe has parked at the slices. -/
def State.cancelOf (s : State) (t : Troupe) : TReq :=
  { kind := .cancel, t := t.id, op := t.nextOp, asid := s.asidOf t.id.ring, lanes := allLanes }

theorem State.beginEnd_eq (s : State) (t : Troupe) : s.beginEnd t =
    ((s.leaveBarriers t).treeCheck (s.ring t.id.ring).nb).toSlices (s.dieOf t.id.ring) (s.cancelOf t) := by
  obtain ⟨hc, hn⟩ := s.ring_leaveBarriers t
  have ha : (s.leaveBarriers t).asidOf t.id.ring = s.asidOf t.id.ring := by
    simp only [State.asidOf, State.launchOf, hn]
    rfl
  have hd : ((s.leaveBarriers t).treeCheck (s.ring t.id.ring).nb).dieOf t.id.ring = s.dieOf t.id.ring := by
    rw [State.treeCheck_eq, State.dieOf, State.dieOf, ← hc]
    rfl
  have he : s.beginEnd t = let u := (s.leaveBarriers t).treeCheck ((s.leaveBarriers t).ring t.id.ring).nb
      u.toSlices (u.dieOf t.id.ring) (u.cancelOf t) := rfl
  rw [he, hn]
  simp only [hd, State.cancelOf, State.asidOf_treeCheck, ha]

theorem State.troupe?_beginEnd (ht : s.troupe? t.id = some t) :
    (s.beginEnd t).troupe? t.id = some { t with ending := true } := by
  rw [s.beginEnd_eq, State.treeCheck_eq]
  exact s.troupe?_setTroupe (t := { t with ending := true }) ht

theorem State.ring?_beginEnd (s : State) (t : Troupe) :
    (s.beginEnd t).ring? t.id.ring = (s.ring? t.id.ring).map (Ring.leftBy t.id.idx) := by
  rw [s.beginEnd_eq, State.treeCheck_eq]
  exact s.ring?_leaveBarriers t

theorem State.mem_beginEnd (s : State) (t : Troupe) :
    (s.beginEnd t).mem = s.mem ∧ (s.beginEnd t).ctxs = s.ctxs := by
  rw [s.beginEnd_eq, State.treeCheck_eq]
  exact ⟨rfl, rfl⟩

theorem State.ports_toSlices (s : State) (die : Nat) (r : TReq) (n : Nat) :
    ((s.toSlices die r).slice n).ports =
      if n < s.slices.length then (s.slice n).ports.modify die (· ++ [r]) else (s.slice n).ports := by
  simp only [State.slice, State.toSlices, nth, upd, List.getD_eq_getElem?_getD, List.getElem?_map]
  by_cases hn : n < s.slices.length
  · simp [hn]
  · simp [hn]

theorem State.ports_beginEnd (s : State) (t : Troupe) (n : Nat) :
    ((s.beginEnd t).slice n).ports = if n < s.slices.length then
        (s.slice n).ports.modify (s.dieOf t.id.ring) (· ++ [s.cancelOf t])
      else (s.slice n).ports := by
  rw [s.beginEnd_eq, State.treeCheck_eq, State.ports_toSlices]
  rfl

theorem exec_done {f : Fields} (h : ScalarMay (.done f) t s) (hv : t.vq = []) :
    exec (.done f) s = .next ((s.beginEnd t).endInstr t.id (t.pc + BitVec.ofNat 64 s.len)) :=
  scalarInstr_done h (by simp only [hv]; rfl)

theorem Troupe.quiet_of_unreported (hw : t.wait = none) (hr : t.reports = []) : t.quiet = true := by
  simp [Troupe.quiet, Troupe.stalled, Troupe.scalarStuck, Troupe.mustReport, hw, hr]

theorem exec_done_unreported {f : Fields} (h : ScalarMay (.done f) t s) (hv : t.vq = []) (hr : t.reports = []) :
    ∃ s1, exec (.done f) s = .next s1 ∧
      s1.troupe? t.id = some ({ t with ending := true }.retires (t.pc + BitVec.ofNat 64 s.len)) ∧
      s1.mem = s.mem ∧ s1.ctxs = s.ctxs := by
  have ⟨_, ht, _, hl, _⟩ := h
  obtain ⟨hm, hc⟩ := s.mem_beginEnd t
  let u : Troupe := { t with ending := true }
  have hu : (s.beginEnd t).troupe? u.id = some u := State.troupe?_beginEnd ht
  refine ⟨_, exec_done h hv, ?_⟩
  rw [show t.id = u.id from rfl, State.endInstr_last hu (hl rfl) (Troupe.quiet_of_unreported rfl hr)]
  exact ⟨State.troupe?_setTroupe (t := u.retires _) _ hu, hm, hc⟩

theorem State.endInstr_leaves (ht : s.troupe? t.id = some t) (hl : 0 < t.left)
    (hq : (if 1 < t.left then t.goesOn pc else t.retires pc).quiet = true) :
    (s.endInstr t.id pc).troupe? t.id = some (if 1 < t.left then t.goesOn pc else t.retires pc) ∧
    (∀ id, id ≠ t.id → (s.endInstr t.id pc).troupe? id = s.troupe? id) ∧
    (s.endInstr t.id pc).ring? t.id.ring = (s.ring? t.id.ring).map (Ring.countMile (t.left == 1 && t.mile)) ∧
    (s.endInstr t.id pc).mem = s.mem ∧ (s.endInstr t.id pc).cores = s.cores := by
  by_cases h1 : 1 < t.left
  · rw [if_pos h1] at hq ⊢
    rw [State.endInstr_within ht h1 hq]
    refine ⟨s.troupe?_setTroupe (t := t.goesOn pc) ht, fun id hid => s.troupe?_setTroupe_ne (t := t.goesOn pc) hid, ?_,
      rfl, rfl⟩
    have hn : (t.left == 1) = false := by simp; omega
    rw [hn, Bool.false_and]
    exact Option.map_id'.symm
  · have hn : t.left = 1 := by omega
    rw [if_neg h1] at hq ⊢
    rw [State.endInstr_last ht hn hq]
    refine ⟨s.troupe?_setTroupe (t := t.retires pc) ht, fun id hid => s.troupe?_setTroupe_ne (t := t.retires pc) hid, ?_,
      rfl, rfl⟩
    rw [hn]
    exact State.ring?_modRing _ _ _ fun r => r.countMile_id _

/-- Settles O10: what `beginEnd` leaves, part by part, and the two ways on of `endInstr`, within the clause and with
its last instruction. -/
theorem doneEndsTroupe : Obligations.DoneEndsTroupe := by
  refine ⟨fun f t s h hv => ?_, fun t s pc ht hl hq => ?_⟩
  · have ht : s.troupe? t.id = some t := h.2.1
    refine ⟨fun hr => ?_, exec_done h hv, State.troupe?_beginEnd ht, s.ports_beginEnd t, fun r hring => ?_⟩
    · obtain ⟨s1, he, hu, hm, hc⟩ := exec_done_unreported h hv hr
      exact ⟨s1, _, he, hu, rfl, rfl, rfl, rfl, rfl, rfl, rfl, rfl, rfl, hm, hc⟩
    · rw [s.ring?_beginEnd t, hring]
      simp only [Option.map_some, Ring.leftBy, NB.leave_eq]
  · obtain ⟨hu, hne, hring, hmem, hcores⟩ := State.endInstr_leaves (pc := pc) ht hl hq
    refine ⟨hu, hne, fun r hr => ?_, hmem, hcores⟩
    rw [hring, hr]
    simp [Ring.countMile]

end Sys2Proof.Machine
end

section
/-! PROOF. The acts of a dispatcher, of the waits of a die, of a pre-emption, of retirement and of a ring's end; the
notice, the mode of a pre-emption, and the retry of held records (R21, R22, R323-R326, R349, R361-R363, R370). -/

namespace Sys2Proof.Machine

variable {s : State}

/-- A part of the state that every step of a fold keeps is kept by the fold. -/
theorem foldl_keeps {α β : Type} (g : State → β) {f : State → α → State} (hf : ∀ s a, g (f s a) = g s)
    (l : List α) (s : State) : g (l.foldl f s) = g s :=
  List.foldlRecOn (motive := fun u => g u = g s) l f rfl fun u hu a _ => (hf u a).trans hu

/-! ### The acts of a dispatcher -/

theorem exec_place_ask {l : Launch} (h : s.placeAct s.ev.die = some (.ask l)) :
    exec .neighbourhoodPlace s = .next ((s.modDie s.ev.die fun x =>
      { x with grantq := x.grantq ++ [{ who := .place l.id (l.lr.w * l.lr.h), cls := l.lr.tclass }] }).modLaunch l.id
        fun l => { l with asked := l.asked ++ [s.ev.die] }) := by
  show execNeighbourhoodPlace s = _
  simp only [execNeighbourhoodPlace, h]
  rfl

theorem exec_place_reserve {l : Launch} {r c : Nat} (h : s.placeAct s.ev.die = some (.reserve l r c)) :
    exec .neighbourhoodPlace s = .next (s.modDie s.ev.die fun x =>
      { x with resv := some { launch := l.id, row0 := r, col0 := c, since := x.tick } }) := by
  show execNeighbourhoodPlace s = _
  simp only [execNeighbourhoodPlace, h]

theorem exec_place_new {l : Launch} {r c n : Nat} (h : s.placeAct s.ev.die = some (.place l r c))
    (hn : s.headOf l s.ev.die = some (.fresh n)) :
    exec .neighbourhoodPlace s = .next (s.placeNew l s.ev.die n r c) := by
  show execNeighbourhoodPlace s = _
  simp only [execNeighbourhoodPlace, h, hn]

/-- Mapping the slots of a launch on cores changes contexts and cores only. -/
theorem State.mapSlots_keeps {β : Type} (g : State → β) (hc : ∀ s a f, g (State.modCtx s a f) = g s)
    (hk : ∀ s c f, g (State.modCore s c f) = g s) (l : Launch) (cores : List Nat) (s : State) :
    g (cores.foldl (fun s core => s.mapSlots l core) s) = g s := by
  refine foldl_keeps g (fun u core => ?_) cores s
  unfold State.mapSlots
  split
  · rfl
  · exact foldl_keeps g (fun _ _ => (hc _ _ _).trans (hk _ _ _)) _ u

theorem exec_place_frames {l : Launch} {r c : Nat} (h : s.placeAct s.ev.die = some (.frames l r c)) :
    ∃ s1, exec .neighbourhoodPlace s = .next s1 ∧ s1.mem = s.mem ∧ s1.nbhds = s.nbhds ∧ s1.troupes = s.troupes ∧
      ∀ x, s1.launch? l.id = some x → (s.ev.die, r, c) ∈ x.chosen := by
  have he : exec .neighbourhoodPlace s = .next (((rectCores s.ev.die r c l.lr.w l.lr.h).foldl
      (fun s core => s.mapSlots l core) s).modLaunch l.id fun l =>
        { l with chosen := (l.chosen.filter fun x => x.1 != s.ev.die) ++ [(s.ev.die, r, c)] }) := by
    show execNeighbourhoodPlace s = _
    simp only [execNeighbourhoodPlace, h]
  refine ⟨_, he, ?_, ?_, ?_, fun x hx => ?_⟩
  · exact State.mapSlots_keeps State.mem (fun _ _ _ => rfl) (fun _ _ _ => rfl) l _ s
  · exact State.mapSlots_keeps State.nbhds (fun _ _ _ => rfl) (fun _ _ _ => rfl) l _ s
  · exact State.mapSlots_keeps State.troupes (fun _ _ _ => rfl) (fun _ _ _ => rfl) l _ s
  · rw [State.launch?_modLaunch] at hx
    · obtain ⟨y, -, rfl⟩ := Option.map_eq_some_iff.mp hx
      simp
    · exact fun _ => rfl

theorem restorable_of_placeAct {d st r c : Nat} {l : Launch} {v : Saved}
    (h : s.placeAct d = some (.restore l v st r c)) : s.restorable d = some (l, v, st, r, c) := by
  simp only [State.restorable, h]

theorem exec_restore {l : Launch} {v : Saved} {r c : Nat} (h : s.placeAct s.ev.die = some (.restore l v 0 r c)) :
    exec .neighbourhoodRestore s = .next (s.restoreAt l v r c) := by
  show execNeighbourhoodRestore s = _
  simp [execNeighbourhoodRestore, restorable_of_placeAct h]

theorem exec_restore_fails {l : Launch} {v : Saved} {st r c : Nat} (hs : st ≠ 0)
    (h : s.placeAct s.ev.die = some (.restore l v st r c)) :
    exec .neighbourhoodRestore s = .next ((s.dropSaved v st).modLaunch l.id fun l =>
      { l with granted := l.granted.filter (· != s.ev.die), asked := l.asked.filter (· != s.ev.die) }) := by
  show execNeighbourhoodRestore s = _
  simp [execNeighbourhoodRestore, restorable_of_placeAct h, hs]

/-! ### The waits of a die -/

theorem exec_preemptionWait_set (h : s.ev.on = true) :
    exec .preemptionWaitExpiry s = .next (s.modDie s.ev.die fun x => { x with preWait := s.ev.num }) := by
  show execPreemptionWaitExpiry s = _
  simp only [execPreemptionWaitExpiry, h, if_true]

theorem exec_drainWait_set (h : s.ev.on = true) :
    exec .drainWaitExpiry s = .next (s.modDie s.ev.die fun x => { x with drainWait := s.ev.num }) := by
  show execDrainWaitExpiry s = _
  simp only [execDrainWaitExpiry, h, if_true]

theorem exec_preemptionWait_over {r : Resv} {l : Launch} (h : s.ev.on = false)
    (hr : (s.die s.ev.die).resv = some r) (hl : s.launch? r.launch = some l) :
    exec .preemptionWaitExpiry s = .next
      (((((s.victimsNeeded l r s.ev.die [] (s.victims l r s.ev.die)).map (·.id)).foldl (fun s n => s.modNbhd n fun x =>
          if x.pre = .none then { x with pre := .asked 7 0 } else x) s).modDie s.ev.die fun x =>
        { x with tick := max x.tick (r.since + (s.die s.ev.die).preWait),
                 resv := some { r with since := max x.tick (r.since + (s.die s.ev.die).preWait) } })) := by
  show execPreemptionWaitExpiry s = _
  simp only [execPreemptionWaitExpiry, h, hr, hl, Bool.false_eq_true, if_false]

/-! ### What a pre-emption does next -/

section
variable {x : Nbhd} (hx : s.nbhd? s.ev.obj = some x)
include hx

theorem exec_request_drain {modes at_ : Nat} (hp : x.pre = .asked modes at_)
    (hm : preMode (s.launch x.launch).lr (s.ringsOf x.id) modes = .drain) :
    exec .preemptionRequest s = .next (s.modNbhd x.id fun y =>
      { y with pre := .drain ((s.die x.die).tick + (s.die x.die).drainWait) at_ }) := by
  show execPreemptionRequest s = _
  simp only [execPreemptionRequest, hx, hp, hm]

theorem exec_request_startFlush {modes at_ : Nat} (hp : x.pre = .asked modes at_)
    (hm : preMode (s.launch x.launch).lr (s.ringsOf x.id) modes = .flush) :
    exec .preemptionRequest s = .next (s.flushStart x.id at_) := by
  show execPreemptionRequest s = _
  simp only [execPreemptionRequest, hx, hp, hm]

theorem exec_request_save {modes at_ : Nat} (hp : x.pre = .asked modes at_)
    (hm : preMode (s.launch x.launch).lr (s.ringsOf x.id) modes = .save) :
    exec .preemptionRequest s = .next (s.modNbhd x.id fun y => { y with pre := .save at_ }) := by
  show execPreemptionRequest s = _
  simp only [execPreemptionRequest, hx, hp, hm]

theorem exec_request_flush {at_ : Nat} (hp : x.pre = .flush at_) :
    exec .preemptionRequest s = .next (if (s.cancelFlushed x.id).flushOver x.id then
      (s.cancelFlushed x.id).flushEnd x.id at_ else s.cancelFlushed x.id) := by
  show execPreemptionRequest s = _
  simp only [execPreemptionRequest, hx, hp]

theorem exec_request_none (hp : x.pre = .none) (ho : s.ev.on = true) (ha : s.ev.addr.toNat % 64 = 0) :
    exec .preemptionRequest s = .next
      (s.modNbhd x.id fun y => { y with pre := .asked (s.ev.num % 8) s.ev.addr.toNat }) := by
  show execPreemptionRequest s = _
  simp only [execPreemptionRequest, hx, hp, ho, ha]
  rfl

theorem exec_drainWait_over {u at_ : Nat} (hp : x.pre = .drain u at_) (ho : s.ev.on = false) :
    exec .drainWaitExpiry s = .next ((s.modDie x.die fun y => { y with tick := max y.tick u }).modNbhd x.id
      fun y => { y with pre := .save at_ }) := by
  show execDrainWaitExpiry s = _
  simp only [execDrainWaitExpiry, hx, hp, ho, Bool.false_eq_true, if_false]

theorem exec_save {at_ : Nat} (hp : x.pre = .save at_) (hc : s.canSave x.id = true) :
    exec .neighbourhoodSave s = .next (s.saveNbhd x.id at_) := by
  show execNeighbourhoodSave s = _
  simp only [execNeighbourhoodSave, hx, hp, hc, if_true]

end

/-! ### Retirement, and the end of a ring -/

theorem exec_ringEnd {r : Ring} (hr : s.ring? s.ev.ring = some r) (hc : s.canEnd r = true) :
    exec .ringEnd s = .next (if s.hasRecords r then s.flushBins r.id else s.endRing r.id) := by
  show execRingEnd s = _
  simp only [execRingEnd, hr, hc, if_true]

theorem State.troupe?_id {id : TroupeId} {t : Troupe} (h : s.troupe? id = some t) : t.id = id := by
  simpa using List.find?_some h

/-- Releasing a batch changes rings only. -/
theorem State.releaseBatch_eq (s : State) (r : Nat) :
    s.releaseBatch r = { s with rings := (s.releaseBatch r).rings } := by
  unfold State.releaseBatch
  dsimp only
  split <;> rfl

theorem State.releaseIdle_eq (s : State) (r : Nat) :
    s.releaseIdle r = { s with rings := (s.releaseIdle r).rings } := by
  unfold State.releaseIdle
  dsimp only
  split
  · exact s.releaseBatch_eq r
  · rfl

theorem Troupe.pastId_ne (t : Troupe) {id : TroupeId} (h : id.idx < 32) : t.pastId ≠ id := by
  rintro rfl
  simp only [Troupe.pastId] at h
  omega

theorem State.troupe?_leaveBehind {t : Troupe} (h : t.id.idx < 32) : (s.leaveBehind t).troupe? t.id = none := by
  have hp := t.pastId_ne h
  simp only [State.troupe?, State.leaveBehind, List.find?_eq_none, beq_iff_eq, List.mem_append, List.mem_filter,
    bne_iff_ne]
  rintro x (⟨-, hx⟩ | hx)
  · exact hx
  · split at hx
    · simp at hx
    · simp only [List.mem_singleton] at hx
      exact hx ▸ hp

theorem exec_troupeRetire {t : Troupe} (ht : s.troupe? ⟨s.ev.ring, s.ev.idx⟩ = some t) (hi : t.id.idx < 32)
    (hc : s.canRetire t = true) :
    ∃ s1, exec .troupeRetire s = .next s1 ∧ s1.troupe? ⟨s.ev.ring, s.ev.idx⟩ = none ∧ s1.mem = s.mem ∧
      ∀ u ∈ s.troupes, u.id ≠ ⟨s.ev.ring, s.ev.idx⟩ → u ∈ s1.troupes := by
  have he : exec .troupeRetire s = .next ((s.leaveBehind t).releaseIdle s.ev.ring) := by
    show execTroupeRetire s = _
    simp only [execTroupeRetire, ht, hc, Troupe.live, hi, decide_true, Bool.not_true, Bool.false_eq_true, if_false,
      if_true]
  rw [State.releaseIdle_eq] at he
  have hid := State.troupe?_id ht
  refine ⟨_, he, ?_, rfl, fun u hu hne => ?_⟩
  · rw [← hid]
    exact State.troupe?_leaveBehind hi
  · show u ∈ (s.leaveBehind t).troupes
    refine List.mem_append_left _ (List.mem_filter.mpr ⟨hu, ?_⟩)
    rw [hid]
    exact bne_iff_ne.mpr hne

/-! ### The notice -/

theorem State.notice_none (x : Nbhd) (status rec_ ctr : Nat) : s.notice x 0 status rec_ ctr = s := by
  rw [State.notice, if_pos rfl]

theorem State.notice_of_writeBytes {x : Nbhd} {at_ status rec_ ctr : Nat} {s1 : State} (ha : at_ ≠ 0)
    (h : s.writeBytes { asid := (s.launch x.launch).asid } at_ (leBytes status 4 ++ leBytes (s.launch x.launch).lr.seq 4
        ++ leBytes (s.launch x.launch).queue 2 ++ zeroBytes 2 ++ leBytes (x.n % 2 ^ 32) 4 ++ leBytes rec_ 8
        ++ leBytes ctr 8 ++ zeroBytes 32) { n := 1, wr := true, gradeChk := false } = .ok s1) :
    s.notice x at_ status rec_ ctr = s1 := by
  simp only [State.notice, if_neg ha, h]

/-! ### The mode of a pre-emption -/

/-- A ring qualifies for drain: it has ended, or stands within a tenth of the estimate. -/
theorem drainOk_iff (m : Nat) (r : Ring) :
    drainOk m r = true ↔ r.ended = true ∨ (0 < m ∧ m - m / 10 ≤ r.miles) := by
  simp [drainOk]

/-- A ring qualifies for flush: its launch is idempotent, and it has less than a quarter of the estimate. -/
theorem flushOk_iff (l : LRec) (r : Ring) :
    flushOk l r = true ↔ l.idem = true ∧ 0 < l.mest ∧ 4 * r.miles < l.mest := by
  simp [flushOk, and_assoc]

theorem preMode_cases (l : LRec) (rs : List Ring) (modes : Nat) :
    let near := ∀ r ∈ rs, r.ended = true ∨ (0 < l.mest ∧ l.mest - l.mest / 10 ≤ r.miles)
    let early := ∀ r ∈ rs, l.idem = true ∧ 0 < l.mest ∧ 4 * r.miles < l.mest
    (near → modes.testBit 0 = true → preMode l rs modes = .drain) ∧
    (near → modes.testBit 0 = false → preMode l rs modes = .save) ∧
    (¬near → early → modes.testBit 1 = true → preMode l rs modes = .flush) ∧
    (¬near → early → modes.testBit 1 = false → preMode l rs modes = .save) ∧
    (¬near → ¬early → preMode l rs modes = .save) := by
  intro near early
  have hn : rs.all (drainOk l.mest) = true ↔ near := by simp only [List.all_eq_true, drainOk_iff, near]
  have hf : rs.all (flushOk l) = true ↔ early := by simp only [List.all_eq_true, flushOk_iff, early]
  simp only [preMode, hn, hf]
  refine ⟨fun h b => ?_, fun h b => ?_, fun h e b => ?_, fun h e b => ?_, fun h e => ?_⟩
  · simp [h, b]
  · simp [h, b]
  · simp [h, e, b]
  · simp [h, e, b]
  · simp [h, e]

/-! ### Fault queues -/

section
variable {asid : Nat} {c : Ctx} {r : FRec} {rest : List FRec} {h : List Byte} {g : Nat}

theorem State.ctx?_asid (hc : s.ctx? asid = some c) : c.asid = asid := by
  simpa using List.find?_some hc

theorem State.ctx_of_ctx? (hc : s.ctx? asid = some c) : s.ctx asid = c := by
  rw [State.ctx, hc, Option.getD_some]

/-- HEAD of a context's fault queue as a read of its word gives it. -/
theorem State.fqHead_of_readBytes (hc : s.ctx? asid = some c)
    (hh : s.readBytes { asid := asid } (c.fqbase.toNat + 4) 4 = .ok (h, g)) :
    s.fqHead c = some (BitVec.ofNat 32 (leNat h)) := by
  simp only [State.fqHead, State.ctx?_asid hc, hh]

theorem State.fqRetry_full (hc : s.ctx? asid = some c) (hr : c.held = r :: rest)
    (hh : s.readBytes { asid := asid } (c.fqbase.toNat + 4) 4 = .ok (h, g))
    (hw : (c.fqtail - BitVec.ofNat 32 (leNat h)).toNat = 2 ^ c.fqlog) :
    s.fqRetry asid = s.modCtx asid fun c => { c with held := r :: rest } := by
  have hf : s.fqWrite c r = none := by simp only [State.fqWrite, State.fqHead_of_readBytes hc hh, if_pos hw]
  simp only [State.fqRetry, State.ctx_of_ctx? hc, hr, fqFlush, hf]

theorem State.fqRetry_posts (hc : s.ctx? asid = some c) (hr : c.held = [r])
    (hh : s.readBytes { asid := asid } (c.fqbase.toNat + 4) 4 = .ok (h, g))
    (hw : (c.fqtail - BitVec.ofNat 32 (leNat h)).toNat ≠ 2 ^ c.fqlog) {s1 s2 : State}
    (h1 : s.writeBytes { asid := asid } (c.fqbase.toNat + 64 + 1088 * (c.fqtail.toNat % 2 ^ c.fqlog)) r.bytes
      { n := 1, wr := true, gradeChk := false } = .ok s1)
    (h2 : s1.writeBytes { asid := asid } c.fqbase.toNat (leBytes (c.fqtail + 1).toNat 4)
      { n := 1, wr := true, gradeChk := false } = .ok s2) :
    s.fqRetry asid = ((s2.modCtx asid fun c => { c with fqtail := c.fqtail + 1 }).irq c.fn c.fqvec).modCtx asid
      fun c => { c with held := [] } := by
  have hf : s.fqWrite c r = some ((s2.modCtx asid fun c => { c with fqtail := c.fqtail + 1 }).irq c.fn c.fqvec) := by
    simp only [State.fqWrite, State.fqHead_of_readBytes hc hh, if_neg hw, State.ctx?_asid hc, fqWant, h1, h2]
  simp only [State.fqRetry, State.ctx_of_ctx? hc, hr, fqFlush, hf]

end

end Sys2Proof.Machine
end

section
/-! PROOF. What a placement leaves: its rings, their scratchpads, and their initial troupes (R14, R18, R147, R322,
R324). -/

namespace Sys2Proof.Machine

variable {s u : State}

/-! ### Scratchpads in use and wiped -/

/-- The scratchpad range of a ring reads as never written. -/
def State.Blank (s : State) (r : Ring) : Prop :=
  ∀ o < r.spLen, cellRead (s.core r.core).spad (r.spBase + o) = unlisted

theorem State.core_of_length_le {c : Nat} (h : s.cores.length ≤ c) : s.core c = {} := by
  rw [State.core, nth, List.getD_eq_default _ _ h]

/-- A byte of a wiped core is as before or zero, and zero within the wiped range. -/
theorem State.cellRead_wipeSpad (s : State) (core base n c x : Nat) :
    cellRead ((s.wipeSpad core base n).core c).spad x =
      if c = core ∧ base ≤ x ∧ x < base + n then unlisted else cellRead (s.core c).spad x := by
  unfold State.wipeSpad
  by_cases hc : c = core
  · subst hc
    by_cases hl : c < s.cores.length
    · rw [State.core_modCore _ _ hl]
      simp only [true_and]
      exact cellRead_cellWipe _ _ _ _
    · have hu : ((s.modCore c fun k => { k with
          spad := cellWipe k.spad base n,
          spBad := k.spBad.filter fun a => a < base || base + n ≤ a,
          spgr := k.spgr.filter fun e => e.1 * 128 < base || base + n ≤ e.1 * 128 }).core c) = {} :=
        State.core_of_length_le (by simpa [State.modCore, upd] using hl)
      rw [hu, State.core_of_length_le (Nat.le_of_not_lt hl)]
      split <;> rfl
  · rw [State.core_modCore_ne _ _ hc, if_neg fun h => hc h.1]

/-! ### The rings of a new neighbourhood -/

/-- The rings that adding rings on numbered cores makes. -/
def newRings (l : Launch) (nb : Nat) : List (Nat × Nat) → State → List Ring
  | [], _ => []
  | x :: xs, s => s.newRing l.lr nb x.2 x.1 :: newRings l nb xs (State.addRing l nb s x)

variable (l : Launch) (nb : Nat)

theorem rings_addRings (xs : List (Nat × Nat)) (s : State) :
    (xs.foldl (State.addRing l nb) s).rings = s.rings ++ newRings l nb xs s := by
  induction xs generalizing s with
  | nil => simp [newRings]
  | cons x xs ih =>
      rw [List.foldl_cons, ih, newRings, List.append_cons]
      rfl

theorem length_newRings (xs : List (Nat × Nat)) (s : State) : (newRings l nb xs s).length = xs.length := by
  induction xs generalizing s with
  | nil => rfl
  | cons x xs ih => simp [newRings, ih]

/-- The k-th new ring is on the k-th core, with an id not given before. -/
theorem newRings_getElem? {xs : List (Nat × Nat)} {s : State} {k : Nat} {r : Ring}
    (h : (newRings l nb xs s)[k]? = some r) :
    ∃ x u, xs[k]? = some x ∧ r = State.newRing u l.lr nb x.2 x.1 ∧ s.fresh ≤ u.fresh := by
  induction xs generalizing s k with
  | nil => simp [newRings] at h
  | cons x xs ih =>
      cases k with
      | zero =>
          simp only [newRings, List.getElem?_cons_zero, Option.some.injEq] at h ⊢
          exact ⟨x, s, rfl, h.symm, Nat.le_refl _⟩
      | succ k =>
          obtain ⟨y, u, hy, hr, hu⟩ := ih (s := State.addRing l nb s x) (by simpa [newRings] using h)
          exact ⟨y, u, by simpa using hy, hr, Nat.le_trans (Nat.le_succ _) hu⟩

theorem newRings_fresh {xs : List (Nat × Nat)} {r : Ring} (h : r ∈ newRings l nb xs s) :
    s.fresh ≤ r.id ∧ r.nb = nb := by
  obtain ⟨k, hk⟩ := List.mem_iff_getElem?.mp h
  obtain ⟨x, u, -, rfl, hu⟩ := newRings_getElem? l nb hk
  exact ⟨hu, rfl⟩

theorem State.Blank.addRing {r : Ring} (h : s.Blank r) (x : Nat × Nat) : (State.addRing l nb s x).Blank r := by
  intro o ho
  show cellRead ((s.wipeSpad _ _ _).core r.core).spad _ = _
  rw [State.cellRead_wipeSpad]
  split
  · rfl
  · exact h o ho

theorem State.blank_addRing (s : State) (x : Nat × Nat) :
    (State.addRing l nb s x).Blank (s.newRing l.lr nb x.2 x.1) := by
  intro o ho
  show cellRead ((s.wipeSpad x.2 _ _).core x.2).spad _ = _
  rw [State.cellRead_wipeSpad, if_pos ⟨rfl, Nat.le_add_right _ _, Nat.add_lt_add_left ho _⟩]

theorem newRings_blank {xs : List (Nat × Nat)} {s : State} {r : Ring} (h : r ∈ newRings l nb xs s) :
    (xs.foldl (State.addRing l nb) s).Blank r := by
  induction xs generalizing s with
  | nil => simp [newRings] at h
  | cons x xs ih =>
      rcases List.mem_cons.mp h with rfl | h
      · exact List.foldlRecOn (motive := fun u : State => u.Blank (s.newRing l.lr nb x.2 x.1)) xs _
          (s.blank_addRing l nb x) fun u hu y _ => hu.addRing l nb y
      · exact ih h

/-! ### The troupes of new rings -/

/-- A state that differs by a number of new troupes with a property only. -/
def Grows (P : Troupe → Prop) (n : Nat) (s u : State) : Prop :=
  ∃ ts, u = { s with troupes := s.troupes ++ ts, fresh := u.fresh } ∧ ts.length = n ∧ ∀ t ∈ ts, P t

variable {P : Troupe → Prop}

theorem Grows.refl (s : State) : Grows P 0 s s := ⟨[], by simp, rfl, by simp⟩

theorem Grows.trans {v : State} {m n : Nat} (h : Grows P m s u) (k : Grows P n u v) : Grows P (m + n) s v := by
  obtain ⟨ts, hu, rfl, hp⟩ := h
  obtain ⟨vs, hv, rfl, hq⟩ := k
  refine ⟨ts ++ vs, ?_, List.length_append, fun t ht => (List.mem_append.mp ht).elim (hp t) (hq t)⟩
  rw [hv, hu]
  simp

/-- A fold whose every step adds n troupes adds n for each element. -/
theorem Grows.foldl {α : Type} {n : Nat} {f : State → α → State} {xs : List α}
    (hf : ∀ u m, Grows P m s u → ∀ a ∈ xs, Grows P n u (f u a)) : Grows P (xs.length * n) s (xs.foldl f s) := by
  have hg : ∀ ys : List α, (∀ a ∈ ys, a ∈ xs) → ∀ u m, Grows P m s u →
      Grows P (m + ys.length * n) s (ys.foldl f u) := by
    intro ys
    induction ys with
    | nil => exact fun _ u m hu => by simpa using hu
    | cons a ys ih =>
        intro hs u m hu
        have hl : m + (a :: ys).length * n = m + n + ys.length * n := by
          rw [List.length_cons, Nat.succ_mul]
          omega
        rw [hl]
        exact ih (fun b hb => hs b (List.mem_cons_of_mem _ hb)) _ _
          (hu.trans (hf u m hu a (hs a List.mem_cons_self)))
  simpa using hg xs (fun _ h => h) s 0 (Grows.refl s)

/-- An initial troupe of a ring of some rings (R18). -/
def Troupe.IsInitial (rs : List Ring) (l : LRec) (n : Nat) (t : Troupe) : Prop :=
  (∃ r ∈ rs, t.id.ring = r.id) ∧ t.id.idx < l.n ∧ t.pc = l.entry ∧
    (t.s.getD 0 {}).v = BitVec.ofNat 64 (n % l.gx) ∧ (t.s.getD 3 {}).v = l.args

theorem State.newTroupe_isInitial {rs : List Ring} {r : Ring} {lr : LRec} {n i : Nat} (hr : r ∈ rs)
    (hl : (s.launchOf r.id).lr = lr) (hn : (s.nbhd (s.ring r.id).nb).n = n) (hi : i < lr.n) :
    (s.newTroupe r.id i lr.entry).IsInitial rs lr n := by
  subst hl hn
  refine ⟨⟨r, hr, rfl⟩, hi, rfl, ?_, ?_⟩
  · simp [State.newTroupe, launchCoord, nth]
  · simp [State.newTroupe, launchCoord, nth]

theorem State.initTroupes_grows {rs : List Ring} {lr : LRec} {n : Nat}
    (hl : ∀ r ∈ rs, (s.launchOf r.id).lr = lr) (hn : ∀ r ∈ rs, (s.nbhd (s.ring r.id).nb).n = n) :
    Grows (Troupe.IsInitial rs lr n) (rs.length * lr.n) s ((rs.map (·.id)).foldl (State.initTroupes lr.n) s) := by
  have hlen : rs.length * lr.n = (rs.map (·.id)).length * lr.n := by rw [List.length_map]
  rw [hlen]
  refine Grows.foldl fun u m hu id hid => ?_
  obtain ⟨r, hr, rfl⟩ := List.mem_map.mp hid
  have hring := Grows.foldl (P := Troupe.IsInitial rs lr n) (n := 1) (s := u) (xs := List.range lr.n)
    (f := fun s i => s.addTroupe (s.newTroupe r.id i (s.launchOf r.id).lr.entry)) fun v k hv i hi => by
      obtain ⟨ts, rfl', -, -⟩ := hu.trans hv
      have hvl : (v.launchOf r.id).lr = lr := by rw [rfl']; exact hl r hr
      have hvn : (v.nbhd (v.ring r.id).nb).n = n := by rw [rfl']; exact hn r hr
      refine ⟨[v.newTroupe r.id i (v.launchOf r.id).lr.entry], rfl, rfl, fun t ht => ?_⟩
      rw [List.mem_singleton.mp ht, hvl]
      exact State.newTroupe_isInitial hr hvl hvn (List.mem_range.mp hi)
  simpa [State.initTroupes] using hring

/-! ### Placing a new neighbourhood -/

theorem length_rectCores (d row col w h : Nat) : (rectCores d row col w h).length = w * h := by
  simp [rectCores, List.length_flatMap, Nat.mul_comm]

theorem Launch.takeHead_id (l : Launch) (d : Nat) : (l.takeHead d).id = l.id := by
  unfold Launch.takeHead
  dsimp only
  split <;> rfl

theorem Launch.takeHead_lr (l : Launch) (d : Nat) : (l.takeHead d).lr = l.lr := by
  unfold Launch.takeHead
  dsimp only
  split <;> rfl

variable (s) (d n row col : Nat)

/-- The neighbourhood that a placement makes. -/
def State.newNbhd : Nbhd :=
  { id := s.fresh, launch := l.id, n := n, die := d, row0 := row, col0 := col, tag := (s.routeTag l d).getD none,
    placed := s.fresh }

/-- The state in which the neighbourhood of a placement stands, still without rings. -/
def State.openNbhd : State :=
  ({ s with nbhds := s.nbhds ++ [s.newNbhd l d n row col], fresh := s.fresh + 1 }.modDie d fun y =>
    { y with tags := y.tags ++ ((s.routeTag l d).getD none).toList }).modLaunch l.id fun l => l.takeHead d

/-- The numbered cores of a placement. -/
def placeCores : List (Nat × Nat) :=
  (List.range (rectCores d row col l.lr.w l.lr.h).length).zip (rectCores d row col l.lr.w l.lr.h)

/-- The rings that a placement makes. -/
def State.placedRings : List Ring := newRings l s.fresh (placeCores l d row col) (s.openNbhd l d n row col)

/-- The state in which the rings of a placement stand, still without troupes. -/
def State.ringed : State :=
  ((placeCores l d row col).foldl (State.addRing l s.fresh) (s.openNbhd l d n row col)).dropResv d l.id

theorem State.length_placedRings : (s.placedRings l d n row col).length = l.lr.w * l.lr.h := by
  simp [State.placedRings, length_newRings, placeCores, length_rectCores]

theorem State.rings_ringed : (s.ringed l d n row col).rings = s.rings ++ s.placedRings l d n row col :=
  rings_addRings l s.fresh _ _

/-- What adding rings leaves of the parts other than rings and cores. -/
theorem State.ringed_keeps {β : Type} (g : State → β) (hk : ∀ s c f, g (State.modCore s c f) = g s)
    (hr : ∀ (s : State) rs n, g { s with rings := rs, fresh := n } = g s) (hd : ∀ s d f, g (State.modDie s d f) = g s) :
    g (s.ringed l d n row col) = g (s.openNbhd l d n row col) :=
  (hd _ _ _).trans (foldl_keeps g (fun _ _ => (hr _ _ _).trans (hk _ _ _)) _ _)

theorem State.nbhds_ringed : (s.ringed l d n row col).nbhds = s.nbhds ++ [s.newNbhd l d n row col] :=
  s.ringed_keeps l d n row col State.nbhds (fun _ _ _ => rfl) (fun _ _ _ => rfl) fun _ _ _ => rfl

theorem State.mem_ringed : (s.ringed l d n row col).mem = s.mem :=
  s.ringed_keeps l d n row col State.mem (fun _ _ _ => rfl) (fun _ _ _ => rfl) fun _ _ _ => rfl

theorem State.troupes_ringed : (s.ringed l d n row col).troupes = s.troupes :=
  s.ringed_keeps l d n row col State.troupes (fun _ _ _ => rfl) (fun _ _ _ => rfl) fun _ _ _ => rfl

theorem State.launch?_ringed :
    (s.ringed l d n row col).launch? l.id = (s.launch? l.id).map fun l => l.takeHead d := by
  have h : (s.ringed l d n row col).launch? l.id = (s.openNbhd l d n row col).launch? l.id :=
    s.ringed_keeps l d n row col (fun u => u.launch? l.id) (fun _ _ _ => rfl) (fun _ _ _ => rfl) fun _ _ _ => rfl
  rw [h, State.openNbhd, State.launch?_modLaunch _ _ _ fun x => x.takeHead_id d]
  rfl

variable {s} {l} {d} {n} {row} {col}

/-- The k-th ring of a placement stands on the k-th core, its scratchpad zero. -/
theorem State.placedRings_getElem? {k : Nat} {r : Ring} (h : (s.placedRings l d n row col)[k]? = some r) :
    r.nb = s.fresh ∧ r.ridx = k ∧ r.core = (rectCores d row col l.lr.w l.lr.h).getD k 0 ∧ r.limit = l.lr.l ∧
      r.vgen = l.lr.g ∧ r.ended = false ∧ (s.ringed l d n row col).Blank r := by
  have hb : (s.ringed l d n row col).Blank r := newRings_blank l s.fresh (List.mem_of_getElem? h)
  obtain ⟨x, u, hx, rfl, -⟩ := newRings_getElem? l s.fresh h
  simp only [placeCores, List.getElem?_zip_eq_some] at hx
  obtain ⟨hk, hc⟩ := hx
  obtain ⟨_, hk⟩ := List.getElem?_eq_some_iff.mp hk
  refine ⟨rfl, ?_, ?_, rfl, rfl, rfl, hb⟩
  · rw [List.getElem_range] at hk
    exact hk.symm
  · simp [State.newRing, List.getD_eq_getElem?_getD, hc]

section
variable (hl : s.launch? l.id = some l) (hr : ∀ r ∈ s.rings, r.id < s.fresh ∧ r.nb ≠ s.fresh)
  (hn : ∀ x ∈ s.nbhds, x.id ≠ s.fresh)

include hr in
theorem State.ringsOf_ringed : (s.ringed l d n row col).ringsOf s.fresh = s.placedRings l d n row col := by
  rw [State.ringsOf, s.rings_ringed, List.filter_append, List.filter_eq_nil_iff.mpr, List.filter_eq_self.mpr]
  · rfl
  · exact fun r h => beq_iff_eq.mpr (newRings_fresh l s.fresh h).2
  · exact fun r h => by simpa using (hr r h).2

include hr in
theorem State.nb_ring_ringed {r : Ring} (h : r ∈ s.placedRings l d n row col) :
    ((s.ringed l d n row col).ring r.id).nb = s.fresh := by
  have hf : s.rings.find? (fun x => x.id == r.id) = none := List.find?_eq_none.mpr fun x hx => by
    have h1 := (hr x hx).1
    have h2 : s.fresh + 1 ≤ r.id := (newRings_fresh l s.fresh h).1
    simp
    omega
  rw [State.ring, State.ring?, s.rings_ringed, List.find?_append, hf, Option.none_or]
  cases hy : (s.placedRings l d n row col).find? fun x => x.id == r.id with
  | none => exact absurd (List.find?_eq_none.mp hy r h) (by simp)
  | some y => exact (newRings_fresh l s.fresh (List.mem_of_find?_eq_some hy)).2

include hn in
theorem State.nbhd_ringed : (s.ringed l d n row col).nbhd s.fresh = s.newNbhd l d n row col := by
  have hf : s.nbhds.find? (fun x => x.id == s.fresh) = none :=
    List.find?_eq_none.mpr fun x hx => by simpa using hn x hx
  rw [State.nbhd, State.nbhd?, s.nbhds_ringed, List.find?_append, hf, Option.none_or]
  simp [State.newNbhd]

include hl hr hn in
/-- A placement adds its neighbourhood, its rings, and the initial troupes of each (R18, R324). -/
theorem State.placeNew_grows : Grows (Troupe.IsInitial (s.placedRings l d n row col) l.lr n)
    ((s.placedRings l d n row col).length * l.lr.n) (s.ringed l d n row col) (s.placeNew l d n row col) := by
  have hnb := fun r h => State.nb_ring_ringed (l := l) (d := d) (n := n) (row := row) (col := col) hr (r := r) h
  have hg := State.initTroupes_grows (s := s.ringed l d n row col) (rs := s.placedRings l d n row col) (lr := l.lr)
    (n := n) (fun r h => ?_) fun r h => ?_
  · rw [← State.ringsOf_ringed hr] at hg ⊢
    exact hg
  · rw [State.launchOf, hnb r h, State.nbhd_ringed hn]
    show ((s.ringed l d n row col).launch l.id).lr = _
    rw [State.launch, s.launch?_ringed, hl]
    exact l.takeHead_lr d
  · rw [hnb r h, State.nbhd_ringed hn]
    rfl

include hl hr hn in
theorem State.placeNew_places :
    let s1 := s.placeNew l d n row col
    let cores := rectCores d row col l.lr.w l.lr.h
    s1.mem = s.mem ∧
    (∃ x, s1.nbhds = s.nbhds ++ [x] ∧ x.id = s.fresh ∧ x.launch = l.id ∧ x.n = n ∧ x.die = d ∧ x.row0 = row ∧
      x.col0 = col) ∧
    ∃ rs ts, s1.rings = s.rings ++ rs ∧ s1.troupes = s.troupes ++ ts ∧ rs.length = l.lr.w * l.lr.h ∧
      ts.length = rs.length * l.lr.n ∧
      (∀ k r, rs[k]? = some r → r.nb = s.fresh ∧ r.ridx = k ∧ r.core = cores.getD k 0 ∧ r.limit = l.lr.l ∧
        r.vgen = l.lr.g ∧ r.ended = false ∧ ∀ o < r.spLen, cellRead (s1.core r.core).spad (r.spBase + o) = unlisted) ∧
      ∀ t ∈ ts, (∃ r ∈ rs, t.id.ring = r.id) ∧ t.id.idx < l.lr.n ∧ t.pc = l.lr.entry ∧
        (t.s.getD 0 {}).v = BitVec.ofNat 64 (n % l.lr.gx) ∧ (t.s.getD 3 {}).v = l.lr.args := by
  intro s1 cores
  obtain ⟨ts, hs, hlen, hp⟩ := State.placeNew_grows (d := d) (n := n) (row := row) (col := col) hl hr hn
  have hc : s1.cores = (s.ringed l d n row col).cores := by
    show (s.placeNew l d n row col).cores = _
    rw [hs]
  refine ⟨(congrArg State.mem hs).trans (s.mem_ringed l d n row col), ⟨s.newNbhd l d n row col,
    (congrArg State.nbhds hs).trans (s.nbhds_ringed l d n row col), rfl, rfl, rfl, rfl, rfl, rfl⟩,
    s.placedRings l d n row col, ts, (congrArg State.rings hs).trans (s.rings_ringed l d n row col), ?_,
    s.length_placedRings l d n row col, hlen, fun k r h => ?_, hp⟩
  · exact (congrArg State.troupes hs).trans (by rw [s.troupes_ringed])
  · obtain ⟨h1, h2, h3, h4, h5, h6, hb⟩ := State.placedRings_getElem? h
    refine ⟨h1, h2, h3, h4, h5, h6, fun o ho => ?_⟩
    rw [State.core, hc]
    exact hb o ho

end

end Sys2Proof.Machine
end

section
/-! PROOF. What a save leaves: its first writes change neither rings, neighbourhoods and launches nor kept counters, and
the image then taken is off its cores (R316, R358, R363, R383). -/

namespace Sys2Proof.Machine

variable {s u v : State}

/-! ### Writes of the device itself -/

/-- A state that writes to memory, scratchpads and links have left. -/
def Stores (s u : State) : Prop := u = { s with mem := u.mem, cores := u.cores, pkeys := u.pkeys, fw := u.fw }

theorem Stores.refl (s : State) : Stores s s := rfl

theorem Stores.trans (h : Stores s u) (k : Stores u v) : Stores s v := by
  unfold Stores at h k ⊢
  rw [k, h]

theorem Stores.foldl {α : Type} {f : State → α → State} (hf : ∀ s a, Stores s (f s a)) (l : List α) (s : State) :
    Stores s (l.foldl f s) :=
  List.foldlRecOn (motive := Stores s) l f (Stores.refl s) fun _ hu a _ => hu.trans (hf _ a)

theorem State.stores_writeLocs (s : State) (ls : List Loc) (bs : List Byte) (g : Nat) :
    Stores s (s.writeLocs ls bs g) :=
  Stores.foldl (fun u x => by cases h : x.1 <;> simp only [State.writeLoc] <;> rfl) _ s

theorem State.stores_writeSite (s : State) (site : Site) (bs : List Byte) (g : Nat) :
    Stores s (s.writeSite site bs g) := by
  have hk : Stores s (s.keySite site) := by
    unfold State.keySite
    split <;> rfl
  exact hk.trans (State.stores_writeLocs _ _ _ _)

theorem State.stores_sendFlits (s : State) (n : Nat) : Stores s (s.sendFlits n) := by
  unfold State.sendFlits
  split <;> rfl

theorem State.stores_sendTo (s : State) (site : Site) (red : Bool) : Stores s (s.sendTo site red) := by
  unfold State.sendTo
  split
  · exact s.stores_sendFlits 1
  · rfl

theorem State.stores_writeBytes {p : Party} {va : Nat} {bs : List Byte} {w : Want} {s1 : State}
    (h : s.writeBytes p va bs w = .ok s1) : Stores s s1 := by
  simp only [State.writeBytes] at h
  split at h
  · cases h
  · injection h with h
    subst h
    split
    · refine Stores.trans (Stores.foldl (fun u x => ?_) _ s) (State.stores_sendFlits _ _)
      split
      · exact u.stores_writeSite _ _ _
      · rfl
    · refine Stores.foldl (fun u x => ?_) _ s
      split
      · exact u.stores_writeSite _ _ _
      · rfl

theorem State.stores_notice (s : State) (x : Nbhd) (at_ status rec_ ctr : Nat) :
    Stores s (s.notice x at_ status rec_ ctr) := by
  unfold State.notice
  split
  · rfl
  · dsimp only
    split
    · rename_i h
      exact State.stores_writeBytes h
    · rfl

/-! ### Which rings, neighbourhoods, launches and counters there are -/

/-- The rings with their neighbourhoods, the neighbourhoods with their launches, the launches, and the contexts
with their counters. -/
def State.roll (s : State) :
    List (Nat × Nat) × List (Nat × Nat × Nat) × List Launch × List (Nat × Nat × List ((Nat × Nat × Nat) × Nat)) :=
  (s.rings.map fun r => (r.id, r.nb), s.nbhds.map fun x => (x.id, x.n, x.launch), s.launches,
    s.ctxs.map fun c => (c.asid, c.savectr, c.kept))

theorem Stores.roll (h : Stores s u) : u.roll = s.roll := by
  rw [h]
  rfl

theorem map_updWhere_of_eq {α β : Type} (g : α → β) (l : List α) (p : α → Bool) {f : α → α}
    (hf : ∀ x, g (f x) = g x) : (updWhere l p f).map g = l.map g := by
  rw [updWhere, List.map_map]
  refine List.map_congr_left fun x _ => ?_
  simp only [Function.comp]
  split
  · exact hf x
  · rfl

theorem State.roll_modRing (s : State) (r : Nat) {f : Ring → Ring}
    (hf : ∀ x, ((f x).id, (f x).nb) = (x.id, x.nb) := by intro _; rfl) :
    (s.modRing r f).roll = s.roll := by
  simp only [State.roll, State.modRing, map_updWhere_of_eq (fun r : Ring => (r.id, r.nb)) s.rings _ hf]

theorem State.roll_modCtx (s : State) (a : Nat) {f : Ctx → Ctx}
    (hf : ∀ x, ((f x).asid, (f x).savectr, (f x).kept) = (x.asid, x.savectr, x.kept) := by intro _; rfl) :
    (s.modCtx a f).roll = s.roll := by
  simp only [State.roll, State.modCtx,
    map_updWhere_of_eq (fun c : Ctx => (c.asid, c.savectr, c.kept)) s.ctxs _ hf]

theorem State.roll_modSolver (s : State) (r : Nat) (f : Solver → Solver) : (s.modSolver r f).roll = s.roll :=
  s.roll_modRing r

theorem State.roll_ite {c : Prop} [Decidable c] {a b : State} (ha : a.roll = s.roll) (hb : b.roll = s.roll) :
    (if c then a else b).roll = s.roll := by
  split
  · exact ha
  · exact hb

theorem State.roll_irq (s : State) (fn vec : Nat) : (s.irq fn vec).roll = s.roll :=
  State.roll_ite rfl rfl

theorem State.roll_fqWrite {c : Ctx} {r : FRec} {s1 : State} (h : s.fqWrite c r = some s1) : s1.roll = s.roll := by
  simp only [State.fqWrite] at h
  split at h
  · cases h
  split at h
  · cases h
  split at h
  · cases h
  rename_i h1
  split at h
  · cases h
  rename_i h2
  rw [← Option.some.inj h]
  have hs := ((State.stores_writeBytes h1).trans (State.stores_writeBytes h2)).roll
  rw [State.roll_irq]
  exact (State.roll_modCtx _ _).trans hs

theorem State.roll_fqFlush (asid : Nat) (rs : List FRec) (s : State) : (fqFlush asid rs s).roll = s.roll := by
  induction rs generalizing s with
  | nil => exact s.roll_modCtx _
  | cons r rs ih =>
      simp only [fqFlush]
      split
      · rename_i h
        exact (ih _).trans (State.roll_fqWrite h)
      · exact s.roll_modCtx _

theorem State.roll_postRecord (s : State) (asid : Nat) (r : FRec) : (s.postRecord asid r).roll = s.roll :=
  (State.roll_fqFlush _ _ _).trans (s.roll_modCtx _)

/-! ### What a save first completes -/

theorem State.roll_deliverOp (id : TroupeId) (op : Nat) (s : State) : (deliverOp id op s).roll = s.roll := by
  simp only [deliverOp]
  split
  · rfl
  split
  · rfl
  split
  · rfl
  · unfold State.tidyOp
    split
    · rfl
    split
    · rfl
    · exact State.roll_ite rfl rfl

theorem State.roll_atomicReply (id : TroupeId) (op lane : Nat) (s : State) :
    (atomicReply id op lane s).roll = s.roll := by
  simp only [atomicReply]
  split
  · rfl
  split
  · rfl
  split
  · exact State.roll_ite (State.roll_ite rfl (State.roll_deliverOp _ _ _)) rfl
  · rfl

theorem State.roll_deferReplies (s : State) (t : Troupe) : (s.deferReplies t).roll = s.roll := by
  refine (foldl_keeps State.roll (fun u x => ?_) _ _).trans rfl
  unfold State.deferReply
  split
  · rfl
  · exact State.roll_atomicReply _ _ _ _

theorem State.roll_putBarrier (s : State) (p : Nat × Nat) (o : BObj) (g : Nat) :
    (s.putBarrier p o g).roll = s.roll := by
  have hw : ∀ r, ((s.wakeStream p o r).id, (s.wakeStream p o r).nb) = (r.id, r.nb) := fun r => by
    unfold State.wakeStream
    split
    · split
      · dsimp only
        split <;> rfl
      · rfl
    · rfl
  have hs : Stores s (s.spadPut p.1 p.2 16 o.toNat g) := s.stores_writeLocs _ _ g
  unfold State.putBarrier
  dsimp only
  generalize s.spadPut p.1 p.2 16 o.toNat g = w at hs ⊢
  rw [← hs.roll]
  simp only [State.roll, List.map_map]
  congr 1
  exact List.map_congr_left fun r _ => hw r

theorem State.roll_signalCopy (e : CopyEnt) (s : State) : (signalCopy e s).roll = s.roll := by
  simp only [signalCopy]
  split
  · split
    · refine foldl_keeps State.roll (fun u r => ?_) _ s
      unfold faultBarrier
      split
      · rfl
      · exact State.roll_ite (u.roll_putBarrier _ _ _) rfl
    · rfl
  · exact s.roll_modRing _

theorem State.roll_reportCopyFlags (e : CopyEnt) (s : State) : (reportCopyFlags e s).roll = s.roll := by
  simp only [reportCopyFlags]
  split
  · rfl
  split
  · exact State.roll_ite rfl (s.roll_postRecord _ _)
  · exact s.roll_postRecord _ _

theorem State.roll_modQueueOf (s : State) (core q : Nat) (f : List CopyEnt → List CopyEnt) :
    (s.modQueueOf core q f).roll = s.roll := rfl

theorem State.roll_finishCopy (s : State) (core : Nat) (e : CopyEnt) : (s.finishCopy core e).roll = s.roll :=
  ((State.roll_reportCopyFlags _ _).trans (State.roll_signalCopy _ _)).trans
    (foldl_keeps State.roll (fun u q => u.roll_modQueueOf core q _) _ s)

theorem State.roll_deferCopy (core : Nat) (s : State) (e : CopyEnt) : (State.deferCopy core s e).roll = s.roll := by
  unfold State.deferCopy
  split
  · exact State.roll_ite (s.roll_finishCopy core _) (s.roll_finishCopy core e)
  · exact s.roll_finishCopy core e

theorem State.roll_deferFlags (s : State) (r : Ring) : (s.deferFlags r).roll = s.roll :=
  (foldl_keeps State.roll (fun u e => u.roll_deferCopy r.core e) _ _).trans
    (foldl_keeps State.roll (fun u t => u.roll_deferReplies t) _ s)

/-- A run of the sequencer's accesses that only writes. -/
def Sq.Stores {α : Type} (x : Sq α) : Prop := ∀ ⦃s g a s1⦄, (x s g).1 = .ok (a, s1) → Machine.Stores s s1

theorem Sq.stores_done {α : Type} (a : α) : (Sq.done a).Stores := by
  intro s g b s1 h
  cases h
  rfl

theorem Sq.stores_andThen {α β : Type} {x : Sq α} {f : α → Sq β} (hx : x.Stores) (hf : ∀ a, (f a).Stores) :
    (x.andThen f).Stores := by
  intro s g b s2 h
  simp only [Sq.andThen] at h
  split at h
  · cases h
  · rename_i hr
    exact (hx (congrArg Prod.fst hr)).trans (hf _ h)

theorem Sq.stores_each {α β : Type} {f : α → Sq β} (hf : ∀ a, (f a).Stores) (l : List α) : (Sq.each f l).Stores := by
  induction l with
  | nil => exact stores_done []
  | cons x xs ih => exact stores_andThen (hf x) fun _ => stores_andThen ih fun _ => stores_done _

theorem Sq.stores_store (ring va x : Nat) : (Sq.store ring va x).Stores := by
  intro s g a s1 h
  simp only [Sq.store] at h
  split at h
  · split at h
    · cases h
    · cases h
      exact (s.stores_sendTo _ _).trans (State.stores_writeSite _ _ _ _)
  · cases h
  · cases h

theorem Sq.stores_stores (ring : Nat) (ws : List (Nat × Nat)) : (Sq.stores ring ws).Stores :=
  stores_andThen (stores_each (fun _ => stores_store _ _ _) ws) fun _ => stores_done ()

theorem State.roll_run {α : Type} {x : Sq α} (hx : x.Stores) (ring : Nat) (f : α → Solver → Solver) (s : State) :
    (x.run ring f s).1.roll = s.roll := by
  simp only [Sq.run]
  split
  · exact s.roll_modSolver _ _
  · rename_i h
    exact (State.roll_modSolver _ _ _).trans (hx (congrArg Prod.fst h)).roll

theorem State.roll_writeRecords (s : State) (ring : Nat) : (s.writeRecords ring).roll = s.roll := by
  unfold State.writeRecords
  exact State.roll_ite (foldl_keeps State.roll (fun u n => State.roll_run (Sq.stores_stores _ _) ring _ u) _ s) rfl

/-! ### Saving a neighbourhood -/

/-- The state of which a save takes its image. -/
def State.toImage (s : State) (nb : Nat) : State :=
  ((s.ringsOf nb).map (·.id)).foldl State.writeRecords ((s.ringsOf nb).foldl State.deferFlags s)

theorem State.roll_toImage (s : State) (nb : Nat) : (s.toImage nb).roll = s.roll :=
  (foldl_keeps State.roll State.roll_writeRecords _ _).trans (foldl_keeps State.roll State.roll_deferFlags _ s)

/-- Lists with the same keys hold, at a key, elements of the same key. -/
theorem find?_of_map_eq {α β : Type} {g : α → β} {l m : List α} (h : m.map g = l.map g) {p : α → Bool} {q : β → Bool}
    (hp : ∀ x, p x = q (g x)) {x : α} (hx : l.find? p = some x) : ∃ y, m.find? p = some y ∧ g y = g x := by
  have hf : ∀ k : List α, (k.map g).find? q = (k.find? p).map g := fun k => by
    rw [List.find?_map, show q ∘ g = p from (funext hp).symm]
  have hm := hf m
  rw [h, hf l, hx] at hm
  exact Option.map_eq_some_iff.mp hm.symm

theorem State.ringsOf_of_roll (h : u.roll = s.roll) (nb : Nat) :
    (u.ringsOf nb).map (·.id) = (s.ringsOf nb).map (·.id) := by
  have hk : ∀ w : State, (w.ringsOf nb).map (·.id) =
      ((w.rings.map fun r => (r.id, r.nb)).filter fun k => k.2 == nb).map Prod.fst := fun w => by
    rw [List.filter_map, List.map_map]
    rfl
  rw [hk, hk, show u.rings.map (fun r => (r.id, r.nb)) = s.rings.map fun r => (r.id, r.nb) from congrArg Prod.fst h]

theorem State.nbhd_of_roll (h : u.roll = s.roll) {nb : Nat} {x : Nbhd} (hx : s.nbhd? nb = some x) :
    (u.nbhd nb).id = x.id ∧ (u.nbhd nb).n = x.n ∧ (u.nbhd nb).launch = x.launch := by
  have hn : u.nbhds.map (fun x => (x.id, x.n, x.launch)) = s.nbhds.map fun x => (x.id, x.n, x.launch) :=
    congrArg (fun k => k.2.1) h
  obtain ⟨y, hy, hk⟩ := find?_of_map_eq hn (q := fun k => k.1 == nb) (fun _ => rfl) hx
  rw [State.nbhd, State.nbhd?, hy]
  simpa using hk

theorem State.launch_of_roll (h : u.roll = s.roll) (l : Nat) : u.launch l = s.launch l := by
  rw [State.launch, State.launch?, show u.launches = s.launches from congrArg (fun k => k.2.2.1) h]
  rfl

theorem State.ctx?_of_roll (h : u.roll = s.roll) {a : Nat} {c : Ctx} (hc : s.ctx? a = some c) :
    ∃ y, u.ctx? a = some y ∧ y.asid = c.asid ∧ y.savectr = c.savectr ∧ y.kept = c.kept := by
  have hn : u.ctxs.map (fun c => (c.asid, c.savectr, c.kept)) = s.ctxs.map fun c => (c.asid, c.savectr, c.kept) :=
    congrArg (fun k => k.2.2.2) h
  obtain ⟨y, hy, hk⟩ := find?_of_map_eq hn (q := fun k => k.1 == a) (fun _ => rfl) hc
  exact ⟨y, hy, by simpa using hk⟩

/-- A neighbourhood as a save records it. -/
def State.imageOf (s : State) (nb : Nat) : Saved :=
  { nb := { s.nbhd nb with pre := .none, tag := none }, rings := (s.ringsOf nb).map s.saveRing,
    addr := 64 * Config.saveAddr s.fw.pool, ctr := (s.ctx (s.launch (s.nbhd nb).launch).asid).savectr + 1, len := 0 }

/-- A context with the counter of a save kept for what its header names. -/
def Ctx.keep (c : Ctx) (key : Nat × Nat × Nat) (ctr : Nat) : Ctx :=
  { c with savectr := ctr, kept := (c.kept.filter fun k => k.1 != key) ++ [(key, ctr)] }

/-- The state in which an imaged neighbourhood is off its cores and its counter kept, its record not written. -/
def State.takenOff (s : State) (nb : Nat) : State :=
  let l := s.launch (s.nbhd nb).launch
  let ctr := (s.ctx l.asid).savectr + 1
  let key := (l.queue, l.lr.seq, (s.nbhd nb).n)
  let s1 := s.discardRings ((s.ringsOf nb).map (·.id))
  let s2 := { s1 with ctxs := s.ctxs, slices := s.slices }.removeNbhd nb
  let s3 := (s2.modCtx l.asid fun c => c.keep key ctr).modFw fun w => { w with pool := w.pool + 1 }
  { s3 with saved := s3.saved ++ [s.imageOf nb] }

/-- The image of a neighbourhood with the length of its record. -/
def State.recordOf (s : State) (nb : Nat) : Saved :=
  { s.imageOf nb with len := ((s.takenOff nb).saveRecord (s.imageOf nb)).length }

/-- What a save leaves of the parts that say who is placed where and what is kept. -/
theorem State.saveNbhd_parts {nb : Nat} {at_ : Nat} (hu : s.toImage nb = u) :
    let s1 := s.saveNbhd nb at_
    let l := u.launch (u.nbhd nb).launch
    s1.nbhds = u.nbhds.filter (fun n => n.id != nb) ∧ s1.rings = u.rings.filter (fun r => r.nb != nb) ∧
    s1.troupes = u.troupes.filter (fun t => !((u.ringsOf nb).map (·.id)).contains t.id.ring) ∧
    u.recordOf nb ∈ s1.saved ∧
    s1.ctxs = (u.modCtx l.asid fun c =>
      c.keep (l.queue, l.lr.seq, (u.nbhd nb).n) ((u.ctx l.asid).savectr + 1)).ctxs := by
  intro s1 l
  have hs : s1 = _ := (State.stores_notice _ _ _ _ _ _ :
    Stores (((s.toImage nb).takenOff nb).putRecord ((s.toImage nb).imageOf nb)) (s.saveNbhd nb at_))
  rw [hu] at hs
  rw [hs]
  refine ⟨rfl, rfl, rfl, ?_, rfl⟩
  have hv : u.recordOf nb ∈ updWhere (u.saved ++ [u.imageOf nb]) (fun x => x.nb.id == (u.imageOf nb).nb.id)
      fun x => { x with len := ((u.takenOff nb).saveRecord (u.imageOf nb)).length } := by
    rw [updWhere, List.map_append]
    simp [State.recordOf]
  exact hv

theorem State.saveNbhd_takesOff {nb : Nat} {at_ : Nat} {x : Nbhd} {c : Ctx} (hx : s.nbhd? nb = some x)
    (hc : s.ctx? (s.launch x.launch).asid = some c) :
    let s1 := s.saveNbhd nb at_
    let l := s.launch x.launch
    s1.nbhd? nb = none ∧ s1.ringsOf nb = [] ∧ (∀ t ∈ s1.troupes, ∀ r ∈ s.ringsOf nb, t.id.ring ≠ r.id) ∧
    (∃ v ∈ s1.saved, v.nb.id = nb ∧ v.nb.n = x.n ∧ v.nb.launch = x.launch ∧ v.ctr = c.savectr + 1 ∧ v.mail = [] ∧
      v.rings.map (·.ring.id) = (s.ringsOf nb).map (·.id)) ∧
    ∃ c1, s1.ctx? c.asid = some c1 ∧ c1.savectr = c.savectr + 1 ∧
      ((l.queue, l.lr.seq, x.n), c.savectr + 1) ∈ c1.kept := by
  intro s1 l
  have hroll := s.roll_toImage nb
  obtain ⟨hnbhds, hrings, htroupes, hsaved, hctxs⟩ := s.saveNbhd_parts (nb := nb) (at_ := at_) rfl
  generalize s.toImage nb = u at hroll hnbhds hrings htroupes hsaved hctxs
  obtain ⟨hid, hn, hla⟩ := State.nbhd_of_roll hroll hx
  have hl : u.launch (u.nbhd nb).launch = l := by rw [hla, State.launch_of_roll hroll]
  obtain ⟨c', hc', -, hctr, -⟩ := State.ctx?_of_roll hroll hc
  have hctx : u.ctx l.asid = c' := State.ctx_of_ctx? hc'
  have hids := State.ringsOf_of_roll hroll nb
  have hxid : x.id = nb := by simpa using List.find?_some hx
  rw [hl, hn, hctx, hctr] at hctxs
  refine ⟨?_, ?_, fun t ht r hr => ?_, ⟨u.recordOf nb, hsaved, hid.trans hxid, hn, hla, ?_, rfl, ?_⟩, ?_⟩
  · simp [s1, State.nbhd?, hnbhds, List.find?_eq_none]
  · simp [s1, State.ringsOf, hrings]
  · rw [show s1.troupes = _ from htroupes, hids] at ht
    have hm : ¬((s.ringsOf nb).map (·.id)).contains t.id.ring = true := by simpa using (List.mem_filter.mp ht).2
    exact fun he => hm (List.contains_iff_mem.mpr (he ▸ List.mem_map_of_mem hr))
  · show (u.ctx _).savectr + 1 = _
    rw [hl, hctx, hctr]
  · rw [← hids]
    simp [State.recordOf, State.imageOf, State.saveRing, Function.comp_def]
  · refine ⟨c'.keep (l.queue, l.lr.seq, x.n) (c.savectr + 1), ?_, rfl, by simp [Ctx.keep]⟩
    rw [State.ctx?, show s1.ctxs = _ from hctxs, State.ctx?_asid hc]
    refine (u.ctx?_modCtx l.asid (fun c1 => c1.keep (l.queue, l.lr.seq, x.n) (c.savectr + 1)) fun _ => rfl).trans ?_
    rw [hc']
    rfl

end Sys2Proof.Machine
end

section
/-! PROOF. What the end of a ring and the flush of a neighbourhood leave (R22, R362). -/

namespace Sys2Proof.Machine

variable {s : State}

/-! ### The end of a ring -/

theorem State.modRing_modRing (s : State) (r : Nat) {f g : Ring → Ring} (hf : ∀ x, (f x).id = x.id) :
    (s.modRing r f).modRing r g = s.modRing r fun x => g (f x) := by
  simp only [State.modRing, updWhere, List.map_map]
  congr 2
  funext x
  by_cases hx : x.id = r <;> simp [hx, hf]

/-- Releasing a batch is a change of its ring that leaves which ring it is and whether it has ended. -/
theorem State.releaseBatch_modRing (s : State) (r : Nat) :
    ∃ f : Ring → Ring, s.releaseBatch r = s.modRing r f ∧ ∀ x, (f x).id = x.id ∧ (f x).nb = x.nb := by
  unfold State.releaseBatch
  dsimp only
  split
  · exact ⟨_, State.modRing_modRing _ _ fun _ => rfl, fun _ => ⟨rfl, rfl⟩⟩
  · exact ⟨_, rfl, fun _ => ⟨rfl, rfl⟩⟩

/-- A ring that has ended. -/
def Ring.close (r : Ring) : Ring := { r with grants := [], returns := [], ended := true, phint := none }

/-- The state in which a ring has ended, and its neighbourhood not yet. -/
def State.closeRing (s : State) (ring : Nat) : State :=
  let r := s.ring ring
  let s1 := if r.solver.claimed || r.solver.granted then s.releaseBatch ring else s
  (s1.dropRingRequests ring).modRing ring Ring.close

/-- A change of a ring that ends it. -/
def Ends (f : Ring → Ring) : Prop :=
  ∀ x, (f x).id = x.id ∧ (f x).nb = x.nb ∧ (f x).ended = true ∧ (f x).grants = [] ∧ (f x).returns = [] ∧
    (f x).phint = none

theorem State.closeRing_eq (s : State) (r : Nat) :
    ∃ f, s.closeRing r = (s.dropRingRequests r).modRing r f ∧ Ends f := by
  unfold State.closeRing
  dsimp only
  split
  · obtain ⟨f, hf, hk⟩ := s.releaseBatch_modRing r
    refine ⟨fun x => (f x).close, ?_, fun x => ⟨(hk x).1, (hk x).2, rfl, rfl, rfl, rfl⟩⟩
    rw [hf]
    exact State.modRing_modRing (s.dropRingRequests r) r fun x => (hk x).1
  · exact ⟨_, rfl, fun _ => ⟨rfl, rfl, rfl, rfl, rfl, rfl⟩⟩

theorem State.nbhd_closeRing (s : State) (r nb : Nat) : (s.closeRing r).nbhd nb = s.nbhd nb := by
  obtain ⟨f, hf, -⟩ := s.closeRing_eq r
  rw [hf]
  rfl

theorem State.ringsOf_closeRing_all (s : State) (r nb : Nat) :
    ((s.closeRing r).ringsOf nb).all (·.ended) = true ↔ ∀ y ∈ s.ringsOf nb, y.id = r ∨ y.ended = true := by
  obtain ⟨f, hf, he⟩ := s.closeRing_eq r
  have hr : (s.closeRing r).ringsOf nb = (s.ringsOf nb).map fun x => if x.id == r then f x else x := by
    rw [hf, State.ringsOf, State.modRing, updWhere, List.filter_map]
    refine congrArg (List.map _) (List.filter_congr fun x _ => ?_)
    by_cases hx : x.id = r <;> simp [hx, (he x).2.1]
  rw [hr, List.all_map, List.all_eq_true]
  refine forall₂_congr fun y _ => ?_
  by_cases hy : y.id = r <;> simp [hy, (he y).2.2.1]

theorem State.ring_closeRing {r : Nat} (h : s.ring? r = some (s.ring r)) :
    ((s.closeRing r).ring r).ended = true ∧ ((s.closeRing r).ring r).grants = [] ∧
      ((s.closeRing r).ring r).returns = [] ∧ ((s.closeRing r).ring r).phint = none := by
  obtain ⟨f, hf, he⟩ := s.closeRing_eq r
  have hr : (s.closeRing r).ring r = f (s.ring r) := by
    rw [hf, State.ring, State.ring?_modRing _ _ _ fun x => (he x).1]
    show ((s.ring? r).map f).getD _ = _
    rw [h]
    rfl
  rw [hr]
  exact (he _).2.2

/-- A ring whose neighbourhood has others left ends alone. -/
theorem State.endRing_of_left {r : Nat} (h : ∃ y ∈ s.ringsOf (s.ring r).nb, y.id ≠ r ∧ y.ended = false) :
    s.endRing r = (s.closeRing r).treeCheck (s.ring r).nb := by
  have hn : ¬((s.closeRing r).ringsOf (s.ring r).nb).all (·.ended) = true := by
    obtain ⟨y, hy, hne, he⟩ := h
    rw [s.ringsOf_closeRing_all]
    exact fun ha => (ha y hy).elim hne fun h => by simp [he] at h
  exact if_neg hn

/-- The last ring of a neighbourhood that does not drain ends the neighbourhood. -/
theorem State.endRing_of_last {r : Nat} (h : ∀ y ∈ s.ringsOf (s.ring r).nb, y.id = r ∨ y.ended = true)
    (hd : ∀ u a, (s.nbhd (s.ring r).nb).pre ≠ .drain u a) :
    s.endRing r = (s.closeRing r).endNbhd (s.ring r).nb := by
  refine (if_pos ((s.ringsOf_closeRing_all r _).mpr h)).trans ?_
  show (match ((s.closeRing r).nbhd (s.ring r).nb).pre with
    | .drain _ at_ => _
    | _ => _) = _
  rw [s.nbhd_closeRing]
  split
  · rename_i hp
    exact absurd hp (hd _ _)
  · rfl

theorem State.forgetNbhd_eq (s : State) (nb : Nat) :
    s.forgetNbhd nb = { s with rings := (s.forgetNbhd nb).rings, nbhds := (s.forgetNbhd nb).nbhds } := by
  unfold State.forgetNbhd
  split <;> rfl

theorem State.mem_endNbhd (s : State) (nb : Nat) : (s.endNbhd nb).mem = s.mem := by
  simp only [State.endNbhd, State.modLaunch_mem, State.modDie_mem]
  rw [State.forgetNbhd_eq]

/-- The end of a neighbourhood counts for its launch, which ends with the last. -/
theorem State.launch?_endNbhd {nb : Nat} {l : Launch} (hl : s.launch? (s.nbhd nb).launch = some l) :
    (s.endNbhd nb).launch? (s.nbhd nb).launch = some { l with
      doneN := l.doneN + 1,
      stage := if l.lr.total ≤ l.doneN + 1 && l.stage == LStage.running then .ended else l.stage } := by
  have ht : s.launch (s.nbhd nb).launch = l := by rw [State.launch, hl, Option.getD_some]
  simp only [State.endNbhd]
  rw [State.launch?_modLaunch, State.forgetNbhd_eq, ht]
  · show (s.launch? (s.nbhd nb).launch).map _ = _
    rw [hl]
    rfl
  · exact fun _ => rfl

theorem State.endRing_ends {r : Nat} (h : s.ring? r = some (s.ring r)) :
    let x := s.nbhd (s.ring r).nb
    let s1 := s.endRing r
    ((∀ u a, x.pre ≠ .drain u a) → s1.mem = s.mem) ∧
    ((∃ y ∈ s.ringsOf (s.ring r).nb, y.id ≠ r ∧ y.ended = false) → s1.launches = s.launches ∧
      (s1.ring r).ended = true ∧ (s1.ring r).grants = [] ∧ (s1.ring r).returns = [] ∧ (s1.ring r).phint = none) ∧
    (∀ l, (∀ y ∈ s.ringsOf (s.ring r).nb, y.id = r ∨ y.ended = true) → (∀ u a, x.pre ≠ .drain u a) →
      s.launch? x.launch = some l → ∃ z, s1.launch? l.id = some z ∧ z.doneN = l.doneN + 1 ∧
        z.stage = if l.lr.total ≤ l.doneN + 1 ∧ l.stage = .running then .ended else l.stage) := by
  intro x s1
  obtain ⟨f, hf, -⟩ := s.closeRing_eq r
  refine ⟨fun hd => ?_, fun hleft => ?_, fun l hlast hd hl => ?_⟩
  · by_cases hlast : ∀ y ∈ s.ringsOf (s.ring r).nb, y.id = r ∨ y.ended = true
    · show (s.endRing r).mem = _
      rw [State.endRing_of_last hlast hd, State.mem_endNbhd, hf]
      rfl
    · have hleft : ∃ y ∈ s.ringsOf (s.ring r).nb, y.id ≠ r ∧ y.ended = false := by simpa using hlast
      show (s.endRing r).mem = _
      rw [State.endRing_of_left hleft, State.treeCheck_eq, hf]
      rfl
  · have hs : s1 = _ := State.endRing_of_left hleft
    rw [hs, State.treeCheck_eq]
    exact ⟨by rw [hf]; rfl, State.ring_closeRing h⟩
  · have hs : s1 = _ := State.endRing_of_last hlast hd
    have hx : (s.closeRing r).nbhd (s.ring r).nb = x := s.nbhd_closeRing r _
    have hid : l.id = x.launch := by simpa using List.find?_some hl
    have hcl : (s.closeRing r).launch? ((s.closeRing r).nbhd (s.ring r).nb).launch = some l := by
      rw [hx, hf]
      exact hl
    have hz := State.launch?_endNbhd hcl
    rw [hx, ← hid, ← hs] at hz
    exact ⟨_, hz, rfl, by simp⟩

/-! ### The flush of a neighbourhood -/

theorem mem_insertBy {α : Type} (le : α → α → Bool) (x a : α) (l : List α) : a ∈ insertBy le x l ↔ a = x ∨ a ∈ l := by
  induction l with
  | nil => simp [insertBy]
  | cons y ys ih =>
      simp only [insertBy]
      split
      · exact List.mem_cons
      · rw [List.mem_cons, ih, List.mem_cons]
        exact or_left_comm

theorem mem_sortBy {α : Type} (le : α → α → Bool) (a : α) (l : List α) : a ∈ sortBy le l ↔ a ∈ l := by
  induction l with
  | nil => rfl
  | cons x xs ih =>
      have hs : sortBy le (x :: xs) = insertBy le x (sortBy le xs) := rfl
      rw [hs, mem_insertBy, ih, List.mem_cons]

theorem State.flushStart_keeps {nb at_ : Nat} {x : Nbhd} (hx : s.nbhd? nb = some x) :
    let rs := (s.ringsOf nb).map (·.id)
    let s1 := s.flushStart nb at_
    s1.mem = s.mem ∧ s1.troupes = s.troupes.filter (fun t => !rs.contains t.id.ring) ∧
    (∃ y, s1.nbhd? nb = some y ∧ y.pre = .flush at_) ∧
    ∀ c ∈ s1.cores, (∀ e ∈ c.cq0 ++ c.cq1, e.ring ∈ rs → e.started = true ∧ e.parked = false) ∧
      ∀ b ∈ c.bins, ∀ k, b.key = some k → k.1 ∉ rs := by
  intro rs s1
  refine ⟨rfl, rfl, ⟨{ x with pre := .flush at_ }, ?_, rfl⟩, fun c hc => ?_⟩
  · have hn : s1.nbhd? nb = (s.modNbhd nb fun x => { x with pre := .flush at_ }).nbhd? nb := rfl
    rw [hn, State.nbhd?_modNbhd, hx]
    · rfl
    · exact fun _ => rfl
  · obtain ⟨⟨a, b⟩, hab, rfl⟩ := List.mem_map.mp hc
    obtain ⟨ha, -⟩ := List.of_mem_zip hab
    obtain ⟨c, -, rfl⟩ := List.mem_map.mp ha
    refine ⟨fun e he hr => ?_, fun b hb k hk => ?_⟩
    · have hkeep : (!rs.contains e.ring || e.flushKeeps rs) = true :=
        (List.mem_append.mp he).elim (fun h => (List.mem_filter.mp h).2) fun h => (List.mem_filter.mp h).2
      simpa [CopyEnt.flushKeeps, hr] using hkeep
    · obtain ⟨b0, -, rfl⟩ := List.mem_map.mp hb
      intro hm
      cases hb0 : b0.key with
      | none => simp [hb0] at hk
      | some k0 =>
          simp only [hb0] at hk
          by_cases hk0 : ((s.ringsOf nb).map (·.id)).contains k0.1 = true
          · rw [if_pos hk0] at hk
            cases hk
          · rw [if_neg hk0, hb0, Option.some.injEq] at hk
            exact hk0 (List.contains_iff_mem.mpr (hk ▸ hm))

/-- A launch to which a neighbourhood returns, unplaced on its die. -/
def Launch.takeBack (l : Launch) (d n : Nat) : Launch :=
  { l with todo := upd l.todo d fun t => sortBy (fun a b => decide (a ≤ b)) (n :: t) }

theorem Launch.mem_takeBack {l : Launch} {d : Nat} (h : d < l.todo.length) (n k : Nat) :
    k ∈ (l.takeBack d n).todo.getD d [] ↔ k = n ∨ k ∈ l.todo.getD d [] := by
  have hg : (l.takeBack d n).todo.getD d [] = sortBy (fun a b => decide (a ≤ b)) (n :: l.todo.getD d []) := by
    simp [Launch.takeBack, upd, List.getD_eq_getElem?_getD, h]
  rw [hg, mem_sortBy, List.mem_cons]

theorem State.flushEnd_returns {nb : Nat} {x : Nbhd} (hx : s.nbhd? nb = some x) :
    let s1 := s.flushEnd nb 0
    s1.mem = s.mem ∧ s1.nbhd? nb = none ∧ s1.ringsOf nb = [] ∧
    ∀ l, s.launch? x.launch = some l → x.die < l.todo.length → ∃ z, s1.launch? l.id = some z ∧
      ∀ k, k ∈ z.todo.getD x.die [] ↔ k = x.n ∨ k ∈ l.todo.getD x.die [] := by
  intro s1
  have hn : s.nbhd nb = x := by rw [State.nbhd, hx, Option.getD_some]
  have hs : s1 = (s.dropNbhd nb).modLaunch x.launch fun l => l.takeBack x.die x.n := by
    rw [← hn]
    exact State.notice_none _ _ _ _
  rw [hs]
  refine ⟨rfl, List.find?_eq_none.mpr fun y hy => ?_, List.filter_eq_nil_iff.mpr fun y hy => ?_, fun l hl hd => ?_⟩
  · simpa using (List.mem_filter.mp hy).2
  · simpa using (List.mem_filter.mp hy).2
  · have hid : l.id = x.launch := by simpa using List.find?_some hl
    refine ⟨l.takeBack x.die x.n, ?_, Launch.mem_takeBack hd x.n⟩
    rw [hid, State.launch?_modLaunch _ _ _ fun l : Launch => (rfl : (l.takeBack x.die x.n).id = l.id)]
    show (s.launch? x.launch).map _ = _
    rw [hl]
    rfl

end Sys2Proof.Machine
end

section
/-! PROOF. What a restore leaves: its rings with their scratchpads, and its troupes, on new cores (R370, R384). -/

namespace Sys2Proof.Machine

variable {s u : State} {l : Launch} {y : Nat × SavedRing}

/-! ### What seating a restored ring keeps -/

/-- Which ring it is, where it stands, and what a save keeps of it. -/
def Ring.seat (r : Ring) : Nat × Nat × Nat × List NB × Nat × Nat := (r.id, r.core, r.spBase, r.nbs, r.miles, r.tags)

/-- A state without what asking for resources changes: all but dies, cores, rings and the counter of names, with the
time of each die, the seat of each ring and the scratchpad of each core. -/
def State.seated (s : State) :=
  ({ s with dies := [], cores := [], rings := [], fresh := 0 }, s.dies.map (·.tick), s.rings.map Ring.seat,
    s.cores.map (·.spad))

theorem map_upd_of_eq {α β : Type} (g : α → β) (l : List α) (i : Nat) {f : α → α} (hf : ∀ x, g (f x) = g x) :
    (upd l i f).map g = l.map g := by
  refine List.ext_getElem? fun j => ?_
  rw [upd, List.getElem?_map, List.getElem?_map, List.getElem?_modify]
  cases l[j]? with
  | none => rfl
  | some x => by_cases hj : i = j <;> simp [hj, hf]

theorem State.seated_modDie (s : State) (d : Nat) {f : Die → Die} (hf : ∀ x, (f x).tick = x.tick := by intro _; rfl) :
    (s.modDie d f).seated = s.seated := by
  simp only [State.seated, State.modDie, map_upd_of_eq (fun x : Die => x.tick) s.dies d hf]

theorem State.ticks_modDie (s : State) (d : Nat) {f : Die → Die} (hf : ∀ x, (f x).tick = x.tick := by intro _; rfl) :
    (s.modDie d f).dies.map (·.tick) = s.dies.map (·.tick) := map_upd_of_eq _ s.dies d hf

theorem State.spad_of_seated (h : u.seated = s.seated) (c : Nat) : (u.core c).spad = (s.core c).spad := by
  have hk : ∀ w : State, (w.core c).spad = (w.cores.map (·.spad)).getD c [] := fun w => by
    simp only [State.core, nth, List.getD_eq_getElem?_getD, List.getElem?_map]
    cases w.cores[c]? <;> rfl
  rw [hk, hk, show u.cores.map (·.spad) = s.cores.map (·.spad) from congrArg (fun k => k.2.2.2) h]

theorem State.seated_modCore (s : State) (c : Nat) {f : CoreSt → CoreSt}
    (hf : ∀ x, (f x).spad = x.spad := by intro _; rfl) : (s.modCore c f).seated = s.seated := by
  simp only [State.seated, State.modCore, map_upd_of_eq (fun x : CoreSt => x.spad) s.cores c hf]

theorem State.seated_modRing (s : State) (r : Nat) {f : Ring → Ring}
    (hf : ∀ x, (f x).seat = x.seat := by intro _; rfl) : (s.modRing r f).seated = s.seated := by
  simp only [State.seated, State.modRing, map_updWhere_of_eq Ring.seat s.rings _ hf]

theorem State.seated_ite {c : Prop} [Decidable c] {a b : State} (ha : a.seated = s.seated) (hb : b.seated = s.seated) :
    (if c then a else b).seated = s.seated := by
  split
  · exact ha
  · exact hb

theorem State.seated_fresh (s : State) (n : Nat) : { s with fresh := n }.seated = s.seated := rfl

theorem State.seated_modStream (s : State) (r : Nat) (f : Stream → Stream) : (s.modStream r f).seated = s.seated :=
  s.seated_modRing r

theorem State.seated_modSolver (s : State) (r : Nat) (f : Solver → Solver) : (s.modSolver r f).seated = s.seated :=
  s.seated_modRing r

theorem State.seated_modBin (s : State) (c j : Nat) (f : Bin → Bin) : (s.modBin c j f).seated = s.seated :=
  s.seated_modCore c

theorem State.seated_refillBins (s : State) (core ring : Nat) (bins : List (Option (Word × List SRec × Nat))) :
    (s.refillBins core ring bins).seated = s.seated := by
  refine foldl_keeps State.seated (fun u b => ?_) _ s
  split
  · exact u.seated_modBin _ _ _
  · rfl

theorem State.seated_askGrant (s : State) (ring : Nat) (two smp : Bool) :
    (s.askGrant ring two smp).seated = s.seated := by
  unfold State.askGrant
  dsimp only
  split
  · exact (State.seated_modCore _ _).trans (s.seated_modStream _ _)
  · exact s.seated_modDie _

theorem State.seated_askCalliope (s : State) (ring : Nat) : (s.askCalliope ring).seated = s.seated := by
  unfold State.askCalliope
  dsimp only
  split
  · exact (State.seated_fresh _ _).trans ((State.seated_modSolver _ _ _).trans (s.seated_modSolver _ _))
  · exact (State.seated_modDie _ _).trans (s.seated_modSolver _ _)

theorem State.seated_requestAgain (s : State) (tclass : Nat) (r : SavedRing) :
    (s.requestAgain tclass r).seated = s.seated := by
  unfold State.requestAgain
  extract_lets x die implicit cls s1 s2
  have h1 : s1.seated = s.seated := foldl_keeps State.seated (fun u c => u.seated_modDie _) cls s
  have h2 : s2.seated = s1.seated := by
    cases hs : x.stream with
    | none => simp only [s2, hs]
    | some st =>
        simp only [s2, hs]
        exact State.seated_ite (s1.seated_askGrant _ _ _) rfl
  exact State.seated_ite ((s2.seated_askCalliope _).trans (h2.trans h1)) (h2.trans h1)

/-! ### The scratchpad of a restored ring -/

/-- The bytes of an image written into a scratchpad at a base. -/
def spadWrites (base : Nat) (m sp : List Host.Cell) : List Host.Cell :=
  m.foldl (fun sp c => cellWriteN sp (base + c.1) [c.2]) sp

theorem cellRead_write_self (sp : List Host.Cell) (a : Nat) (b : Byte) : cellRead (cellWriteN sp a [b]) a = b := by
  rw [cellRead_cellWriteN, if_pos (by simp)]
  simp

theorem cellRead_write_ne (sp : List Host.Cell) {a x : Nat} (b : Byte) (h : x ≠ a) :
    cellRead (cellWriteN sp a [b]) x = cellRead sp x := by
  rw [cellRead_cellWriteN, if_neg (by simp; omega)]

theorem cellRead_spadWrites_of_ne {m : List Host.Cell} {o : Nat} (h : ∀ c ∈ m, c.1 ≠ o) (base : Nat)
    (sp : List Host.Cell) : cellRead (spadWrites base m sp) (base + o) = cellRead sp (base + o) := by
  refine List.foldlRecOn (motive := fun p => cellRead p (base + o) = cellRead sp (base + o)) m _ rfl
    fun p hp c hc => ?_
  rw [cellRead_write_ne _ _ (by have := h c hc; omega), hp]

/-- An image in canonical form written where nothing was reads as the image. -/
theorem cellRead_spadWrites {m : List Host.Cell} (hm : m.Pairwise fun x y => x.1 < y.1) {base o : Nat}
    {sp : List Host.Cell} (h : cellRead sp (base + o) = unlisted) :
    cellRead (spadWrites base m sp) (base + o) = cellRead m o := by
  induction m generalizing sp with
  | nil => exact h
  | cons c m ih =>
      obtain ⟨hlt, hm⟩ := List.pairwise_cons.mp hm
      show cellRead (spadWrites base m (cellWriteN sp (base + c.1) [c.2])) (base + o) = _
      by_cases hc : c.1 = o
      · subst hc
        rw [cellRead_spadWrites_of_ne fun d hd => Nat.ne_of_gt (hlt d hd), cellRead_write_self]
        exact cellRead_cons_self.symm
      · rw [ih hm, cellRead_cons_of_ne hc]
        rw [cellRead_write_ne _ _ (by omega), h]

/-- The bytes of a saved scratchpad put into a core. -/
def State.fillSpad (s : State) (core base : Nat) (m : List Host.Cell) : State :=
  m.foldl (fun s c => s.modCore core fun k => { k with spad := cellWriteN k.spad (base + c.1) [c.2] }) s

theorem State.spad_fillSpad {core : Nat} (h : core < s.cores.length) (base : Nat) (m : List Host.Cell) :
    ((s.fillSpad core base m).core core).spad = spadWrites base m (s.core core).spad := by
  induction m generalizing s with
  | nil => rfl
  | cons c m ih =>
      have hl : core < (s.modCore core fun k =>
          { k with spad := cellWriteN k.spad (base + c.1) [c.2] }).cores.length := by
        simpa [State.modCore, upd] using h
      refine (ih hl).trans ?_
      rw [State.core_modCore _ _ h]
      rfl

theorem State.fillSpad_eq (s : State) (core base : Nat) (m : List Host.Cell) :
    s.fillSpad core base m = { s with cores := (s.fillSpad core base m).cores } :=
  List.foldlRecOn (motive := fun u : State => u = { s with cores := u.cores }) m _ rfl
    fun u hu c _ => by rw [hu]; rfl

/-! ### Seating a ring -/

/-- A saved ring as it stands on a core. -/
def State.restoredRing (l : Launch) (s : State) (y : Nat × SavedRing) : Ring :=
  { y.2.ring with
    core := y.1, rslot := s.freeRingSlot y.1, spBase := (s.freeRange y.1 l.lr.spad).getD 0,
    grants := if l.lr.tclass = 0 then [] else [l.lr.tclass], returns := [],
    stream := y.2.ring.stream.map fun st => st.restored s l.asid y.1 y.2.au,
    solver := y.2.ring.solver.restored }

/-- A saved ring on a core with its scratchpad. -/
def State.placeRing (l : Launch) (s : State) (y : Nat × SavedRing) : State :=
  let x := s.restoredRing l y
  let s1 := s.wipeSpad y.1 x.spBase x.spLen
  { s1 with rings := s1.rings ++ [x] }.fillSpad y.1 x.spBase y.2.spad

/-- A saved ring on a core with what it had under way, its troupes not yet there. -/
def State.seatRing (l : Launch) (s : State) (y : Nat × SavedRing) : State :=
  let x := s.restoredRing l y
  let s4 := (s.placeRing l y).modCore y.1 fun k =>
    { k with
      spgr := (k.spgr.filter fun e => e.1 * 128 < x.spBase) ++ (y.2.spgr.map fun e => (x.spBase / 128 + e.1, e.2))
        ++ k.spgr.filter fun e => x.spBase + x.spLen ≤ e.1 * 128,
      cq0 := k.cq0 ++ (y.2.copies.filter fun c => c.1 == 0).map (·.2.restored),
      cq1 := k.cq1 ++ (y.2.copies.filter fun c => c.1 == 1).map (·.2.restored) }
  (s4.refillBins y.1 x.id y.2.bins).requestAgain l.lr.tclass y.2

/-- The troupes of a ring added as they are restored. -/
def State.addRestored (l : Launch) (core : Nat) (s : State) (t : Troupe) : State :=
  { s with troupes := s.troupes ++ [t.restored s l.asid core] }

theorem State.restoreRing_eq (l : Launch) (s : State) (y : Nat × SavedRing) : State.restoreRing l s y =
    (sortBy (fun a b => decide (a.id.idx ≤ b.id.idx)) y.2.troupes).foldl (State.addRestored l y.1)
      (s.seatRing l y) := rfl

theorem State.seated_seatRing (l : Launch) (s : State) (y : Nat × SavedRing) :
    (s.seatRing l y).seated = (s.placeRing l y).seated :=
  (State.seated_requestAgain _ _ _).trans ((State.seated_refillBins _ _ _ _).trans (State.seated_modCore _ _))

/-! ### What restoring rings leaves -/

/-- A troupe restored at the time that a state has. -/
def Troupe.IsRestored (s : State) (asid core : Nat) (t w : Troupe) : Prop :=
  ∃ u : State, u.dies.map (·.tick) = s.dies.map (·.tick) ∧ w = t.restored u asid core

theorem Troupe.IsRestored.of_ticks {asid core : Nat} {t w : Troupe} (h : t.IsRestored u asid core w)
    (hu : u.dies.map (·.tick) = s.dies.map (·.tick)) : t.IsRestored s asid core w := by
  obtain ⟨v, hv, hw⟩ := h
  exact ⟨v, hv.trans hu, hw⟩

theorem State.tick_die (s : State) (d : Nat) : (s.die d).tick = (s.dies.map (·.tick)).getD d 0 := by
  simp only [State.die, nth, List.getD_eq_getElem?_getD, List.getElem?_map]
  cases s.dies[d]? <;> rfl

theorem State.addRestored_troupes (l : Launch) (core : Nat) (xs : List Troupe) (s : State) :
    ∃ ts, xs.foldl (State.addRestored l core) s = { s with troupes := s.troupes ++ ts } ∧
      (∀ t ∈ xs, ∃ w ∈ ts, t.IsRestored s l.asid core w) ∧ ∀ w ∈ ts, ∃ t ∈ xs, t.IsRestored s l.asid core w := by
  induction xs generalizing s with
  | nil => exact ⟨[], by simp, by simp, by simp⟩
  | cons x xs ih =>
      obtain ⟨ts, hs, hto, hof⟩ := ih (State.addRestored l core s x)
      have hx : x.IsRestored s l.asid core (x.restored s l.asid core) := ⟨s, rfl, rfl⟩
      refine ⟨x.restored s l.asid core :: ts, ?_, fun t ht => ?_, fun w hw => ?_⟩
      · rw [List.foldl_cons, hs, State.addRestored]
        simp
      · rcases List.mem_cons.mp ht with rfl | ht
        · exact ⟨_, List.mem_cons_self, hx⟩
        · obtain ⟨w, hw, hr⟩ := hto t ht
          exact ⟨w, List.mem_cons_of_mem _ hw, hr⟩
      · rcases List.mem_cons.mp hw with rfl | hw
        · exact ⟨x, List.mem_cons_self, hx⟩
        · obtain ⟨t, ht, hr⟩ := hof w hw
          exact ⟨t, List.mem_cons_of_mem _ ht, hr⟩

/-- A state without the parts that restoring rings changes. -/
def State.bare (s : State) : State := { s with dies := [], cores := [], rings := [], troupes := [], fresh := 0 }

/-- What restoring rings on cores leaves of a state. -/
structure Restored (l : Launch) (ys : List (Nat × SavedRing)) (s u : State) : Prop where
  /-- no other part is changed -/
  bare : u.bare = s.bare
  /-- no time passes -/
  ticks : u.dies.map (·.tick) = s.dies.map (·.tick)
  /-- rings keep their seats -/
  seats : ∀ k ∈ s.rings.map Ring.seat, k ∈ u.rings.map Ring.seat
  /-- the restored rings have theirs -/
  rings : ∀ y ∈ ys, ∃ b, (y.2.ring.id, y.1, b, y.2.ring.nbs, y.2.ring.miles, y.2.ring.tags) ∈ u.rings.map Ring.seat
  /-- the troupes of the rings, and no others, are new -/
  troupes : ∃ ts, u.troupes = s.troupes ++ ts ∧
    (∀ y ∈ ys, ∀ t ∈ y.2.troupes, ∃ w ∈ ts, t.IsRestored s l.asid y.1 w) ∧
    ∀ w ∈ ts, ∃ y ∈ ys, ∃ t ∈ y.2.troupes, t.IsRestored s l.asid y.1 w

section
variable {ys : List (Nat × SavedRing)} (h : Restored l ys s u)
include h

theorem Restored.mem : u.mem = s.mem := by
  have he := congrArg State.mem h.bare
  exact he

theorem Restored.nbhds : u.nbhds = s.nbhds := by
  have he := congrArg State.nbhds h.bare
  exact he

theorem Restored.saved : u.saved = s.saved := by
  have he := congrArg State.saved h.bare
  exact he

theorem Restored.ctxs : u.ctxs = s.ctxs := by
  have he := congrArg State.ctxs h.bare
  exact he

end

theorem Restored.nil (l : Launch) (s : State) : Restored l [] s s :=
  ⟨rfl, rfl, fun _ h => h, by simp, [], by simp, by simp, by simp⟩

theorem Restored.cons {ys : List (Nat × SavedRing)} {w : State} (h : Restored l [y] s u) (k : Restored l ys u w) :
    Restored l (y :: ys) s w := by
  obtain ⟨ts, hu, hto, hof⟩ := h.troupes
  obtain ⟨vs, hw, kto, kof⟩ := k.troupes
  refine ⟨k.bare.trans h.bare, k.ticks.trans h.ticks, fun q hq => k.seats q (h.seats q hq), fun z hz => ?_,
    ts ++ vs, by rw [hw, hu, List.append_assoc], fun z hz t ht => ?_, fun t ht => ?_⟩
  · rcases List.mem_cons.mp hz with rfl | hz
    · obtain ⟨b, hb⟩ := h.rings z List.mem_cons_self
      exact ⟨b, k.seats _ hb⟩
    · exact k.rings z hz
  · rcases List.mem_cons.mp hz with rfl | hz
    · obtain ⟨x, hx, hr⟩ := hto z List.mem_cons_self t ht
      exact ⟨x, List.mem_append_left _ hx, hr⟩
    · obtain ⟨x, hx, hr⟩ := kto z hz t ht
      exact ⟨x, List.mem_append_right _ hx, hr.of_ticks h.ticks⟩
  · rcases List.mem_append.mp ht with ht | ht
    · obtain ⟨z, hz, x, hx, hr⟩ := hof t ht
      exact ⟨z, List.mem_cons.mpr (.inl (List.mem_singleton.mp hz)), x, hx, hr⟩
    · obtain ⟨z, hz, x, hx, hr⟩ := kof t ht
      exact ⟨z, List.mem_cons_of_mem _ hz, x, hx, hr.of_ticks h.ticks⟩

theorem State.placeRing_eq (l : Launch) (s : State) (y : Nat × SavedRing) :
    s.placeRing l y = { s with cores := (s.placeRing l y).cores, rings := s.rings ++ [s.restoredRing l y] } := by
  unfold State.placeRing
  dsimp only
  rw [State.fillSpad_eq]
  rfl

theorem restored_restoreRing (l : Launch) (s : State) (y : Nat × SavedRing) :
    Restored l [y] s (State.restoreRing l s y) := by
  have hseat := s.seated_seatRing l y
  have hplace := s.placeRing_eq l y
  generalize s.placeRing l y = p at hseat hplace
  obtain ⟨ts, hu, hto, hof⟩ := State.addRestored_troupes l y.1
    (sortBy (fun a b => decide (a.id.idx ≤ b.id.idx)) y.2.troupes) (s.seatRing l y)
  rw [← State.restoreRing_eq] at hu
  simp only [mem_sortBy] at hto hof
  generalize s.seatRing l y = q at hseat hu hto hof
  have hbare : q.bare = s.bare := (congrArg (fun k => State.bare k.1) hseat).trans (by rw [hplace]; rfl)
  have htr : q.troupes = s.troupes := (congrArg (fun k => k.1.troupes) hseat).trans (by rw [hplace]; rfl)
  have hticks : q.dies.map (·.tick) = s.dies.map (·.tick) :=
    (congrArg (fun k => k.2.1) hseat).trans (by rw [hplace]; rfl)
  have hrings : q.rings.map Ring.seat = s.rings.map Ring.seat ++ [(s.restoredRing l y).seat] :=
    (congrArg (fun k => k.2.2.1) hseat).trans (by rw [hplace]; exact List.map_append)
  rw [hu]
  refine ⟨hbare, hticks, fun k hk => ?_, fun z hz => ?_, ts, by rw [htr], fun z hz t ht => ?_, fun w hw => ?_⟩
  · exact hrings ▸ List.mem_append_left _ hk
  · rw [List.mem_singleton.mp hz]
    exact ⟨_, hrings ▸ List.mem_append_right _ (List.mem_singleton.mpr rfl)⟩
  · rw [List.mem_singleton.mp hz] at ht ⊢
    obtain ⟨w, hw, hr⟩ := hto t ht
    exact ⟨w, hw, hr.of_ticks hticks⟩
  · obtain ⟨t, ht, hr⟩ := hof w hw
    exact ⟨y, List.mem_singleton.mpr rfl, t, ht, hr.of_ticks hticks⟩

theorem restored_restoreRings (l : Launch) (ys : List (Nat × SavedRing)) (s : State) :
    Restored l ys s (ys.foldl (State.restoreRing l) s) := by
  induction ys generalizing s with
  | nil => exact Restored.nil l s
  | cons y ys ih => exact (restored_restoreRing l s y).cons (ih _)

theorem State.spad_placeRing {o : Nat} (hc : y.1 < s.cores.length) (hw : Memory.wf y.2.spad = true)
    (ho : o < y.2.ring.spLen) :
    cellRead ((s.placeRing l y).core y.1).spad ((s.restoredRing l y).spBase + o) = cellRead y.2.spad o := by
  unfold State.placeRing
  dsimp only
  rw [State.spad_fillSpad (by simpa [State.wipeSpad, State.modCore, upd] using hc)]
  refine cellRead_spadWrites ((Memory.wf_iff _).mp hw).2 ?_
  show cellRead ((s.wipeSpad y.1 _ _).core y.1).spad _ = _
  rw [State.cellRead_wipeSpad, if_pos ⟨rfl, Nat.le_add_right _ _, Nat.add_lt_add_left ho _⟩]

/-- A ring restored on a core reads in its scratchpad what its image has. -/
theorem spad_restoreRing (hc : y.1 < s.cores.length) (hw : Memory.wf y.2.spad = true) :
    ∃ x ∈ (State.restoreRing l s y).rings, x.id = y.2.ring.id ∧ ∀ o < y.2.ring.spLen,
      cellRead ((State.restoreRing l s y).core x.core).spad (x.spBase + o) = cellRead y.2.spad o := by
  obtain ⟨ts, hu, -, -⟩ := State.addRestored_troupes l y.1
    (sortBy (fun a b => decide (a.id.idx ≤ b.id.idx)) y.2.troupes) (s.seatRing l y)
  rw [← State.restoreRing_eq] at hu
  have hseat := s.seated_seatRing l y
  have hmem : (s.restoredRing l y).seat ∈ (State.restoreRing l s y).rings.map Ring.seat := by
    have hr : (s.seatRing l y).rings.map Ring.seat = (s.placeRing l y).rings.map Ring.seat :=
      congrArg (fun k => k.2.2.1) hseat
    rw [hu, show _ = _ from hr, State.placeRing_eq, List.map_append]
    exact List.mem_append_right _ (List.mem_singleton.mpr rfl)
  obtain ⟨x, hx, hk⟩ := List.mem_map.mp hmem
  simp only [Ring.seat, Prod.mk.injEq] at hk
  obtain ⟨hid, hcore, hbase, -⟩ := hk
  refine ⟨x, hx, hid, fun o ho => ?_⟩
  have hsp : ((State.restoreRing l s y).core y.1).spad = ((s.placeRing l y).core y.1).spad := by
    rw [hu]
    exact State.spad_of_seated hseat y.1
  rw [hcore, hbase]
  exact (congrArg (cellRead · _) hsp).trans (State.spad_placeRing hc hw ho)

/-! ### Troupes with nothing under way -/

theorem Troupe.fenced_of_idle {t : Troupe} (h : t.ops = []) : t.fenced = t := by
  simp [Troupe.fenced, h]

theorem State.modTroupe_of_fixed {id : TroupeId} {f : Troupe → Troupe} (h : ∀ t ∈ s.troupes, t.id = id → f t = t) :
    s.modTroupe id f = s := by
  have hm : updWhere s.troupes (fun u => u.id == id) f = s.troupes := by
    refine (List.map_congr_left fun t ht => ?_).trans (List.map_id _)
    split
    · rename_i hid
      exact h t ht (beq_iff_eq.mp hid)
    · rfl
  rw [State.modTroupe, hm]

/-- What a handler did while a troupe was saved changes nothing where it had nothing under way. -/
theorem State.redoTroupe_of_idle {id : TroupeId} (h : ∀ t ∈ s.troupes, t.id = id → t.ops = [] ∧ t.killed = false) :
    s.redoTroupe id = s := by
  unfold State.redoTroupe
  split
  · rfl
  · rename_i t ht
    obtain ⟨hops, hkilled⟩ := h t (List.mem_of_find?_eq_some ht) (State.troupe?_id ht)
    simp only [hops, hkilled, List.filter_nil, List.map_nil, List.foldl_nil, Bool.false_eq_true, if_false]
    exact State.modTroupe_of_fixed fun u hu hid => Troupe.fenced_of_idle (h u hu hid).1

theorem State.redoTroupes_of_idle {ids : List TroupeId}
    (h : ∀ t ∈ s.troupes, t.id ∈ ids → t.ops = [] ∧ t.killed = false) : ids.foldl State.redoTroupe s = s :=
  List.foldlRecOn (motive := fun u => u = s) ids _ rfl fun u hu id hid => by
    rw [hu]
    exact State.redoTroupe_of_idle fun t ht he => h t ht (he ▸ hid)

/-! ### Restoring a neighbourhood -/

/-- The neighbourhood of a restore. -/
def State.restoredNbhd (s : State) (l : Launch) (v : Saved) (row col : Nat) : Nbhd :=
  { v.nb with row0 := row, col0 := col, tag := (s.routeTag l v.nb.die).getD none, placed := s.fresh, pre := .none }

/-- A context without the counter kept for what a header names. -/
def Ctx.dropKept (c : Ctx) (key : Nat × Nat × Nat) : Ctx := { c with kept := c.kept.filter fun k => k.1 != key }

/-- The state in which the neighbourhood of a restore stands, still without rings. -/
def State.openSaved (s : State) (l : Launch) (v : Saved) (row col : Nat) : State :=
  let d := v.nb.die
  ((({ s with
      nbhds := s.nbhds ++ [s.restoredNbhd l v row col], fresh := s.fresh + 1,
      saved := s.saved.filter fun y => y.nb.id != v.nb.id }.modDie d fun y =>
        { y with tags := y.tags ++ ((s.routeTag l d).getD none).toList }).modLaunch l.id fun l =>
    { l with granted := l.granted.filter (· != d), asked := l.asked.filter (· != d),
             chosen := l.chosen.filter fun y => y.1 != d }).modCtx l.asid fun c =>
      c.dropKept (headerKey (s.savedHeader v))).dropResv d l.id

/-- The rings of a saved neighbourhood with the cores of a corner. -/
def Saved.atCores (v : Saved) (cores : List Nat) : List (Nat × SavedRing) :=
  v.rings.map fun r => (cores.getD r.ring.ridx 0, r)

theorem State.ticks_openSaved (s : State) (l : Launch) (v : Saved) (row col : Nat) :
    (s.openSaved l v row col).dies.map (·.tick) = s.dies.map (·.tick) :=
  (State.ticks_modDie _ _).trans (State.ticks_modDie _ _)

/-- With no mail and nothing under way a restore is the restore of its rings. -/
theorem State.restoreAt_eq {v : Saved} {row col : Nat} (hmail : v.mail = [])
    (hidle : ∀ r ∈ v.rings, ∀ t ∈ r.troupes, t.ops = [] ∧ t.killed = false ∧ ∀ u ∈ s.troupes, u.id ≠ t.id) :
    s.restoreAt l v row col =
      (v.atCores (rectCores v.nb.die row col l.lr.w l.lr.h)).foldl (State.restoreRing l) (s.openSaved l v row col) := by
  have hr := restored_restoreRings l (v.atCores (rectCores v.nb.die row col l.lr.w l.lr.h)) (s.openSaved l v row col)
  have hs : s.restoreAt l v row col = (v.rings.flatMap fun r => r.troupes.map (·.id)).foldl State.redoTroupe
      (v.mail.foldl (State.applyMail v) ((v.atCores (rectCores v.nb.die row col l.lr.w l.lr.h)).foldl
        (State.restoreRing l) (s.openSaved l v row col))) := rfl
  rw [hs, hmail, List.foldl_nil]
  refine State.redoTroupes_of_idle fun t ht hid => ?_
  obtain ⟨ts, hts, -, hof⟩ := hr.troupes
  rw [hts] at ht
  rcases List.mem_append.mp ht with ht | ht
  · obtain ⟨r, hr, hid⟩ := List.mem_flatMap.mp hid
    obtain ⟨w, hw, he⟩ := List.mem_map.mp hid
    exact absurd he.symm ((hidle r hr w hw).2.2 t ht)
  · obtain ⟨y, hy, w, hw, u, -, rfl⟩ := hof t ht
    obtain ⟨r, hr, rfl⟩ := List.mem_map.mp hy
    obtain ⟨hops, hkilled, -⟩ := hidle r hr w hw
    exact ⟨by simp [Troupe.restored, hops], hkilled⟩

theorem State.restoreAt_restores {v : Saved} {row col : Nat} (hmail : v.mail = [])
    (hidle : ∀ r ∈ v.rings, ∀ t ∈ r.troupes, t.ops = [] ∧ t.killed = false ∧ ∀ u ∈ s.troupes, u.id ≠ t.id) :
    let s1 := s.restoreAt l v row col
    let cores := rectCores v.nb.die row col l.lr.w l.lr.h
    s1.mem = s.mem ∧ (∀ y ∈ s1.saved, y.nb.id ≠ v.nb.id) ∧
    (∃ x, s1.nbhds = s.nbhds ++ [x] ∧ x.id = v.nb.id ∧ x.n = v.nb.n ∧ x.row0 = row ∧ x.col0 = col ∧ x.pre = .none) ∧
    (∀ c, s.ctx? l.asid = some c → ∃ c1, s1.ctx? l.asid = some c1 ∧
      ∀ k ∈ c1.kept, k ∈ c.kept ∧ k.1 ≠ headerKey (cellReadN s.mem v.addr 64)) ∧
    (∀ r ∈ v.rings, (∃ y ∈ s1.rings, y.id = r.ring.id ∧ y.core = cores.getD r.ring.ridx 0 ∧ y.nbs = r.ring.nbs ∧
        y.miles = r.ring.miles ∧ y.tags = r.ring.tags) ∧
      ∀ t ∈ r.troupes, ∃ u ∈ s1.troupes, u.id = t.id ∧ u.pc = t.pc ∧ u.left = t.left ∧ u.s = t.s ∧ u.k = t.k ∧
        u.v = t.v ∧ u.w = t.w ∧ u.vq = t.vq ∧ u.stopped = t.stopped ∧ u.sticky = t.sticky ||| t.defl.setWidth 4 ∧
        u.age = (s.die (cores.getD r.ring.ridx 0 / 64)).tick + t.id.idx) ∧
    (∀ r, v.rings = [r] → cores.getD r.ring.ridx 0 < s.cores.length → Memory.wf r.spad = true →
      (∀ x ∈ r.spad, x.1 < r.ring.spLen) → ∃ y ∈ s1.rings, y.id = r.ring.id ∧ ∀ o < r.ring.spLen,
        cellRead (s1.core y.core).spad (y.spBase + o) = cellRead r.spad o) := by
  intro s1 cores
  have hs : s1 = (v.atCores cores).foldl (State.restoreRing l) (s.openSaved l v row col) :=
    State.restoreAt_eq hmail hidle
  have hr := restored_restoreRings l (v.atCores cores) (s.openSaved l v row col)
  rw [← hs] at hr
  have hsaved : s1.saved = s.saved.filter fun y => y.nb.id != v.nb.id := hr.saved
  have hctxs : s1.ctxs = (s.modCtx l.asid fun c => c.dropKept (headerKey (s.savedHeader v))).ctxs := hr.ctxs
  refine ⟨hr.mem, fun y hy => ?_, ⟨s.restoredNbhd l v row col, hr.nbhds, rfl, rfl, rfl, rfl, rfl⟩,
    fun c hc => ?_, fun r hv => ⟨?_, fun t ht => ?_⟩, fun r hv hc hw _ => ?_⟩
  · rw [hsaved] at hy
    simpa using (List.mem_filter.mp hy).2
  · refine ⟨c.dropKept (headerKey (s.savedHeader v)), ?_, fun k hk => ?_⟩
    · rw [State.ctx?, hctxs]
      refine (s.ctx?_modCtx l.asid (fun c => c.dropKept (headerKey (s.savedHeader v))) fun _ => rfl).trans ?_
      rw [hc]
      rfl
    · obtain ⟨hk, hne⟩ := List.mem_filter.mp hk
      exact ⟨hk, bne_iff_ne.mp hne⟩
  · obtain ⟨b, hb⟩ := hr.rings _ (List.mem_map_of_mem hv)
    obtain ⟨y, hy, hk⟩ := List.mem_map.mp hb
    simp only [Ring.seat, Prod.mk.injEq] at hk
    obtain ⟨hid, hcore, -, hnbs, hmiles, htags⟩ := hk
    exact ⟨y, hy, hid, hcore, hnbs, hmiles, htags⟩
  · obtain ⟨ts, hts, hto, -⟩ := hr.troupes
    obtain ⟨w, hw, u, hu, rfl⟩ := hto _ (List.mem_map_of_mem hv) t ht
    refine ⟨t.restored u l.asid (cores.getD r.ring.ridx 0), ?_, rfl, rfl, rfl, rfl, rfl, rfl, rfl, rfl, rfl, rfl, ?_⟩
    · rw [hts]
      exact List.mem_append_right _ hw
    show (u.die _).tick + _ = _
    rw [State.tick_die, hu, State.ticks_openSaved, ← State.tick_die]
  · have h1 : s1 = State.restoreRing l (s.openSaved l v row col) (cores.getD r.ring.ridx 0, r) := by
      rw [hs, Saved.atCores, hv]
      rfl
    rw [h1]
    exact spad_restoreRing (s := s.openSaved l v row col) (y := (cores.getD r.ring.ridx 0, r)) hc hw

end Sys2Proof.Machine
end

section
/-! PROOF. Placement and pre-emption (R18, R21-R23, R323-R326, R349, R361-R363, R370). -/

namespace Sys2Proof.Machine

/-- Settles O44: each act by the equation of its instruction; what placing, saving, restoring, flushing and ending leave
by the lemma of each, a save through what its first writes keep of the roll, a restore through its rings one by one. -/
theorem placementAndPreemption : Obligations.PlacementAndPreemption := by
  refine ⟨fun s => ⟨fun _ => exec_place_ask, fun _ _ _ => exec_place_reserve, fun _ _ _ => exec_place_frames,
    fun _ _ _ _ => exec_place_new, fun h => ⟨exec_preemptionWait_set h, exec_drainWait_set h⟩,
    fun _ _ => exec_preemptionWait_over, fun _ => exec_troupeRetire, fun _ => exec_ringEnd, fun x hx => ?_,
    fun _ _ _ _ => exec_restore, fun _ _ _ _ _ => exec_restore_fails, fun _ _ _ _ => State.placeNew_places,
    fun _ _ _ _ => State.saveNbhd_takesOff, fun _ _ _ _ => State.restoreAt_restores, fun _ => State.endRing_ends,
    fun _ _ _ hx => ⟨State.flushStart_keeps hx, State.flushEnd_returns hx⟩,
    fun x at_ status rec_ ctr s1 => ⟨fun h => h ▸ s.notice_none x status rec_ ctr, State.notice_of_writeBytes⟩, rfl,
    fun asid c r rest h g hc hr hh => ⟨State.fqRetry_full hc hr hh, fun hw hnil s1 s2 => ?_⟩⟩, preMode_cases⟩
  · exact ⟨fun _ _ hp => ⟨exec_request_drain hx hp, exec_request_startFlush hx hp, exec_request_save hx hp⟩,
      fun _ => exec_request_flush hx, exec_request_none hx, fun _ _ => exec_drainWait_over hx, fun _ => exec_save hx⟩
  · subst hnil
    exact State.fqRetry_posts hc hr hh hw

end Sys2Proof.Machine
end

section
/-! PROOF. Numbers and bytes of code units: what an encoder writes is the number the decoder reads (R26, R33, R37,
R39). -/

namespace Sys2Proof

/-! ### Bytes as one number -/

theorem foldl_beNat (n : Nat) (bs : List Byte) :
    bs.foldl (fun n b => n * 256 + b.toNat) n = n * 256 ^ bs.length + beNat bs := by
  induction bs generalizing n with
  | nil => simp [beNat]
  | cons b bs ih =>
      have hs : beNat (b :: bs) = b.toNat * 256 ^ bs.length + beNat bs := by
        rw [beNat, List.foldl_cons, ih]; simp
      rw [List.foldl_cons, ih, hs, List.length_cons, Nat.pow_succ]
      ring

theorem beNat_cons (b : Byte) (bs : List Byte) : beNat (b :: bs) = b.toNat * 256 ^ bs.length + beNat bs := by
  rw [beNat, List.foldl_cons, foldl_beNat]; simp

@[simp] theorem beNat_nil : beNat [] = 0 := rfl

@[simp] theorem length_beBytes (n w : Nat) : (beBytes n w).length = n := by
  induction n with
  | zero => rfl
  | succ n ih => simp [beBytes, ih]

theorem beNat_beBytes (n w : Nat) : beNat (beBytes n w) = w % 256 ^ n := by
  induction n with
  | zero => simp [beBytes, Nat.mod_one]
  | succ n ih =>
      rw [beBytes, beNat_cons, ih, length_beBytes, BitVec.toNat_ofNat, Nat.mod_pow_succ (b := 256)]
      ring

/-! ### The fields of a word -/

theorem Fields.toNat_lt (f : Fields) : f.toNat < 2 ^ 88 := by
  obtain ⟨sub, ty, d, a, b, c, col, scp, ord, sat, sel, modx, imm⟩ := f
  simp only [Fields.toNat]
  omega

/-- The opcode stands above the fields and disturbs none of them. -/
theorem Fields.ofNat_toNat (op : Nat) (f : Fields) : Fields.ofNat (op * 2 ^ 88 + f.toNat) = f := by
  obtain ⟨sub, ty, d, a, b, c, col, scp, ord, sat, sel, modx, imm⟩ := f
  simp only [Fields.ofNat, Fields.toNat, bitsOf, Fields.mk.injEq]
  refine ⟨?_, ?_, ?_, ?_, ?_, ?_, ?_, ?_, ?_, ?_, ?_, ?_, ?_⟩ <;>
    (apply BitVec.eq_of_toNat_eq; rw [BitVec.toNat_ofNat]; omega)

theorem bitsOf_opcode {op : Nat} (hop : op < 0xFF) (f : Fields) : bitsOf (op * 2 ^ 88 + f.toNat) 95 88 = op := by
  have hf := f.toNat_lt
  simp only [bitsOf]
  omega

theorem Header.toNat_bounds (h : Header) : 0xF0 * 2 ^ 24 ≤ h.toNat ∧ h.toNat < 0xF8 * 2 ^ 24 := by
  obtain ⟨len, wait, seta, setb, z, mile, rsv⟩ := h
  simp only [Header.toNat]
  omega

theorem Header.ofNat_toNat (h : Header) : Header.ofNat h.toNat = h := by
  obtain ⟨len, wait, seta, setb, z, mile, rsv⟩ := h
  simp only [Header.ofNat, Header.toNat, bitsOf, Header.mk.injEq]
  refine ⟨?_, ?_, ?_, ?_, ?_, ?_, ?_⟩ <;>
    (apply BitVec.eq_of_toNat_eq; rw [BitVec.toNat_ofNat]; omega)

end Sys2Proof
end

section
/-! PROOF. The opcode map is the inverse of the instructions' rows (R39, R44). -/

namespace Sys2Proof.Laws

/-- The opcode map reads every instruction from its OP and SUB: the laws of the instructions, together. -/
theorem ofWord_row (i : Instr) : F.Statement i := by
  cases i with
  | nop f => exact F.nop f | bra f => exact F.bra f | brc f => exact F.brc f | bany f => exact F.bany f
  | bnone f => exact F.bnone f | call f => exact F.call f | ret f => exact F.ret f | jmp f => exact F.jmp f
  | done f => exact F.done f | trap f => exact F.trap f | sysc f => exact F.sysc f | rdsr f => exact F.rdsr f
  | wrsr f => exact F.wrsr f | tick f => exact F.tick f | yield f => exact F.yield f | sleep f => exact F.sleep f
  | sadd f => exact F.sadd f | ssub f => exact F.ssub f | smul f => exact F.smul f | smulhi f => exact F.smulhi f
  | sdiv f => exact F.sdiv f | srem f => exact F.srem f | sand f => exact F.sand f | sor f => exact F.sor f
  | sxor f => exact F.sxor f | sandn f => exact F.sandn f | sshl f => exact F.sshl f | sshr f => exact F.sshr f
  | ssra f => exact F.ssra f | srol f => exact F.srol f | smin f => exact F.smin f | smax f => exact F.smax f
  | sabs f => exact F.sabs f | sclz f => exact F.sclz f | spop f => exact F.spop f | sbrev f => exact F.sbrev f
  | sins f => exact F.sins f | sxtr f => exact F.sxtr f | ssel f => exact F.ssel f | scmp f => exact F.scmp f
  | smov f => exact F.smov f | sli f => exact F.sli f | sliHi f => exact F.sliHi f | sadr f => exact F.sadr f
  | kand f => exact F.kand f | kor f => exact F.kor f | kxor f => exact F.kxor f | kandn f => exact F.kandn f
  | knot f => exact F.knot f | kmov f => exact F.kmov f | kset f => exact F.kset f | kget f => exact F.kget f
  | kpop f => exact F.kpop f | kffs f => exact F.kffs f | klast f => exact F.klast f | kbcast f => exact F.kbcast f
  | sqput f => exact F.sqput f | vqget f => exact F.vqget f | vqput f => exact F.vqput f
  | sqget f => exact F.sqget f | vadd f => exact F.vadd f | vsub f => exact F.vsub f | vmul f => exact F.vmul f
  | vmulhi f => exact F.vmulhi f | vmad f => exact F.vmad f | vand f => exact F.vand f | vor f => exact F.vor f
  | vxor f => exact F.vxor f | vandn f => exact F.vandn f | vshl f => exact F.vshl f | vshr f => exact F.vshr f
  | vsra f => exact F.vsra f | vmin f => exact F.vmin f | vmax f => exact F.vmax f | vabs f => exact F.vabs f
  | vneg f => exact F.vneg f | vclz f => exact F.vclz f | vpop f => exact F.vpop f | vcmp f => exact F.vcmp f
  | vsel f => exact F.vsel f | vmov f => exact F.vmov f | vperm f => exact F.vperm f | vbcast f => exact F.vbcast f
  | vred f => exact F.vred f | vscan f => exact F.vscan f | vlane f => exact F.vlane f
  | vsplat f => exact F.vsplat f | fadd f => exact F.fadd f | fsub f => exact F.fsub f | fmul f => exact F.fmul f
  | fma f => exact F.fma f | fmin f => exact F.fmin f | fmax f => exact F.fmax f | fabs f => exact F.fabs f
  | fneg f => exact F.fneg f | fcmp f => exact F.fcmp f | frcp f => exact F.frcp f | frsq f => exact F.frsq f
  | fsqrt f => exact F.fsqrt f | fexp2 f => exact F.fexp2 f | flog2 f => exact F.flog2 f | fsin f => exact F.fsin f
  | fcos f => exact F.fcos f | ftanh f => exact F.ftanh f | fscale f => exact F.fscale f
  | fclass f => exact F.fclass f | fcvtSlot f => exact F.fcvtSlot f | fcvtFromInt f => exact F.fcvtFromInt f
  | fcvtToInt f => exact F.fcvtToInt f | fsrnd f => exact F.fsrnd f | frnd f => exact F.frnd f
  | fdot f => exact F.fdot f | fzpt f => exact F.fzpt f | lds f => exact F.lds f | sts f => exact F.sts f
  | ldsb f => exact F.ldsb f | xld f => exact F.xld f | xldX24 f => exact F.xldX24 f | xldNt f => exact F.xldNt f
  | xst f => exact F.xst f | xgat f => exact F.xgat f | xsct f => exact F.xsct f | xcpy f => exact F.xcpy f
  | xcpyMc f => exact F.xcpyMc f | xfill f => exact F.xfill f | qjoin f => exact F.qjoin f
  | tgwany f => exact F.tgwany f | tgwall f => exact F.tgwall f | tgffr f => exact F.tgffr f
  | tgclr f => exact F.tgclr f | tgget f => exact F.tgget f | bini f => exact F.bini f | barr f => exact F.barr f
  | barrN f => exact F.barrN f | barrExp f => exact F.barrExp f | bexp f => exact F.bexp f
  | bwait f => exact F.bwait f | btest f => exact F.btest f | bcan f => exact F.bcan f | nqini f => exact F.nqini f
  | nqsend f => exact F.nqsend f | nqrecv f => exact F.nqrecv f | nqret f => exact F.nqret f
  | nqtry f => exact F.nqtry f | nbsync f => exact F.nbsync f | nbarv f => exact F.nbarv f
  | tbsync f => exact F.tbsync f | tbarv f => exact F.tbarv f | mxgo f => exact F.mxgo f
  | mxmul f => exact F.mxmul f | mxdual f => exact F.mxdual f | mxsp f => exact F.mxsp f
  | mxzero f => exact F.mxzero f | mxld f => exact F.mxld f | mxst f => exact F.mxst f | mxadd f => exact F.mxadd f
  | mxscl f => exact F.mxscl f | mxwaitTg f => exact F.mxwaitTg f | mxwaitBo f => exact F.mxwaitBo f
  | mxnb f => exact F.mxnb f | mxnbArv f => exact F.mxnbArv f | mxloopBegin f => exact F.mxloopBegin f
  | mxloop f => exact F.mxloop f | mxend f => exact F.mxend f | mxstat f => exact F.mxstat f
  | mxnorm f => exact F.mxnorm f | mxalias f => exact F.mxalias f | mxsamp f => exact F.mxsamp f
  | mxvar f => exact F.mxvar f | ld f => exact F.ld f | ldAc f => exact F.ldAc f | st f => exact F.st f
  | vld f => exact F.vld f | vldAc f => exact F.vldAc f | vst f => exact F.vst f | vldw f => exact F.vldw f
  | vstw f => exact F.vstw f | acwait f => exact F.acwait f | acget f => exact F.acget f
  | acclr f => exact F.acclr f | pref f => exact F.pref f | cfl f => exact F.cfl f | fence f => exact F.fence f
  | aadd f => exact F.aadd f | amin f => exact F.amin f | amax f => exact F.amax f | aand f => exact F.aand f
  | aor f => exact F.aor f | axor f => exact F.axor f | axch f => exact F.axch f | acas f => exact F.acas f
  | ainb f => exact F.ainb f | ainw f => exact F.ainw f | adecp f => exact F.adecp f | aflim f => exact F.aflim f
  | aaddf f => exact F.aaddf f | redadd f => exact F.redadd f | redmin f => exact F.redmin f
  | redmax f => exact F.redmax f | redand f => exact F.redand f | redor f => exact F.redor f
  | redxor f => exact F.redxor f | redaddf f => exact F.redaddf f | tdep f => exact F.tdep f
  | tread f => exact F.tread f | ttake f => exact F.ttake f | tcan f => exact F.tcan f | tstat f => exact F.tstat f
  | slvtab f => exact F.slvtab f | slvini f => exact F.slvini f | slvstg f => exact F.slvstg f
  | slvend f => exact F.slvend f | slvst f => exact F.slvst f | slvstRel f => exact F.slvstRel f
  | fmreq f => exact F.fmreq f | fmfence f => exact F.fmfence f | fmq f => exact F.fmq f
  | fmqHash f => exact F.fmqHash f | fmrel f => exact F.fmrel f | grd f => exact F.grd f
  | grraise f => exact F.grraise f | grdecl f => exact F.grdecl f | ticket f => exact F.ticket f
  | tkret f => exact F.tkret f | phint f => exact F.phint f | spawn f => exact F.spawn f
  | binflush f => exact F.binflush f | bincfg f => exact F.bincfg f | frec f => exact F.frec f
  | fres f => exact F.fres f | fresM f => exact F.fresM f | fresRet f => exact F.fresRet f
  | fdrop f => exact F.fdrop f | fdropEnd f => exact F.fdropEnd f | nflg f => exact F.nflg f
  | nflgClr f => exact F.nflgClr f | nflgSet f => exact F.nflgSet f | nflgDef f => exact F.nflgDef f
  | post f => exact F.post f | qring f => exact F.qring f
  | _ => intro r f hr; cases hr

end Sys2Proof.Laws
end

section
/-! PROOF. The units the decoder reads, by the first byte (R26, R27), and the round trip through the bytes (R33, R37,
R39). -/

namespace Sys2Proof

/-! ### One unit at the head of the bytes -/

/-- The unit's bytes are read as one number whatever follows them. -/
theorem decode_append (b : Byte) (bs rest : List Byte) (h : unitLen b = bs.length + 1) :
    decode (b :: (bs ++ rest)) =
      if unitLen b = 1 then .bad .firstByte 1 0
      else if unitLen b = 2 then decodeS (beNat (b :: bs))
      else if unitLen b = 8 then decodeL (beNat (b :: bs))
      else if unitLen b = 13 then decodeF (beNat (b :: bs) % 2 ^ 96)
      else if b.toNat < 0xC0 then decodeM (beNat (b :: bs))
      else .ok (.clauseHeader (Header.ofNat (beNat (b :: bs)))) 4 := by
  have htake : (b :: (bs ++ rest)).take (unitLen b) = b :: bs := by simp [h]
  have hlen : ¬(b :: (bs ++ rest)).length < unitLen b := by simp [h]
  simp only [decode, htake, if_neg hlen]

theorem decode_sUnit {b : Byte} {bs : List Byte} (hb : b.toNat < 0x80) (hl : bs.length = 1) (rest : List Byte) :
    decode (b :: (bs ++ rest)) = decodeS (beNat (b :: bs)) := by
  have hu : unitLen b = 2 := by simp [unitLen, hb]
  rw [decode_append b bs rest (by omega)]
  simp [hu]

theorem decode_mUnit {b : Byte} {bs : List Byte} (hlo : 0x80 ≤ b.toNat) (hhi : b.toNat < 0xC0) (hl : bs.length = 3)
    (rest : List Byte) : decode (b :: (bs ++ rest)) = decodeM (beNat (b :: bs)) := by
  have hu : unitLen b = 4 := by simp only [unitLen, Bool.and_eq_true, decide_eq_true_eq]; split_ifs <;> omega
  rw [decode_append b bs rest (by omega)]
  simp [hu, hhi]

theorem decode_lUnit {b : Byte} {bs : List Byte} (hlo : 0xC0 ≤ b.toNat) (hhi : b.toNat < 0xE0) (hl : bs.length = 7)
    (rest : List Byte) : decode (b :: (bs ++ rest)) = decodeL (beNat (b :: bs)) := by
  have hu : unitLen b = 8 := by simp only [unitLen, Bool.and_eq_true, decide_eq_true_eq]; split_ifs <;> omega
  rw [decode_append b bs rest (by omega)]
  simp [hu]

theorem decode_header {b : Byte} {bs : List Byte} (hlo : 0xF0 ≤ b.toNat) (hhi : b.toNat < 0xF8) (hl : bs.length = 3)
    (rest : List Byte) : decode (b :: (bs ++ rest)) = .ok (.clauseHeader (Header.ofNat (beNat (b :: bs)))) 4 := by
  have hu : unitLen b = 4 := by simp only [unitLen, Bool.and_eq_true, decide_eq_true_eq]; split_ifs <;> omega
  rw [decode_append b bs rest (by omega)]
  simp [hu, show ¬b.toNat < 0xC0 by omega]

/-- The first byte of an F unit selects the length only: the word is the twelve bytes behind it (R33). -/
theorem decode_fUnit {bs : List Byte} (hl : bs.length = 12) (rest : List Byte) :
    decode ((0xE8 : Byte) :: (bs ++ rest)) = decodeF (beNat bs % 2 ^ 96) := by
  have hu : unitLen 0xE8 = 13 := by decide
  have hw : beNat ((0xE8 : Byte) :: bs) % 2 ^ 96 = beNat bs % 2 ^ 96 := by
    rw [beNat_cons, hl]; omega
  rw [decode_append 0xE8 bs rest (by omega)]
  simp only [hu, hw]
  norm_num

/-! ### Instructions and their rows -/

theorem op_lt_of_row {i : Instr} {r : Row} (hr : i.row = some r) : r.op < 0xFF := by
  cases i <;> cases hr <;> decide

theorem fields_isSome_of_row {i : Instr} {r : Row} (h : i.row = some r) : ∃ f, i.fields = some f := by
  cases i <;> cases h <;> exact ⟨_, rfl⟩

theorem ne_clauseHeader_of_row {i : Instr} {r : Row} (hr : i.row = some r) : ∀ h, i ≠ .clauseHeader h := by
  rintro h rfl
  cases hr

/-- Item 4 of R46: an instruction without a decode fault has a SUB value of its row. -/
theorem subOk_of_decodeFault_eq_none {st : Bool} {i : Instr} {r : Row} {f : Fields} (h : decodeFault st i = none)
    (hr : i.row = some r) (hf : i.fields = some f) : subOk r f = true := by
  have hi := ne_clauseHeader_of_row hr
  simp only [decodeFault, hr, hf] at h
  by_contra hs
  rw [Bool.not_eq_true] at hs
  simp [hs] at h

theorem encode_of_row {i : Instr} {r : Row} {f : Fields} (hr : i.row = some r) (hf : i.fields = some f) :
    encode i = some ((0xE8 : Byte) :: beBytes 12 (r.op * 2 ^ 88 + f.toNat)) := by
  have hi := ne_clauseHeader_of_row hr
  simp [encode, hr, hf]

theorem encode_eq_some {i : Instr} {bs : List Byte} (h : encode i = some bs) :
    (∃ hd, i = .clauseHeader hd ∧ bs = beBytes 4 hd.toNat) ∨
      ∃ r f, i.row = some r ∧ i.fields = some f ∧ bs = (0xE8 : Byte) :: beBytes 12 (r.op * 2 ^ 88 + f.toNat) := by
  unfold encode at h
  split at h
  · exact .inl ⟨_, rfl, (Option.some.inj h).symm⟩
  · split at h
    · exact .inr ⟨_, _, ‹_›, ‹_›, (Option.some.inj h).symm⟩
    · cases h

/-! ### The round trips -/

theorem decode_encode_header (h : Header) (rest : List Byte) :
    decode (beBytes 4 h.toNat ++ rest) = .ok (.clauseHeader h) 4 := by
  obtain ⟨hlo, hhi⟩ := h.toNat_bounds
  have hnum : beNat (beBytes 4 h.toNat) = h.toNat := by rw [beNat_beBytes]; omega
  have hb : (BitVec.ofNat 8 (h.toNat / 256 ^ 3)).toNat = h.toNat / 2 ^ 24 := by
    rw [BitVec.toNat_ofNat]; omega
  rw [beBytes, List.cons_append, decode_header (by omega) (by omega) (length_beBytes ..), ← beBytes, hnum,
    Header.ofNat_toNat]

theorem decode_encode_word {i : Instr} {r : Row} {f : Fields} (hr : i.row = some r) (hf : i.fields = some f)
    (hs : subOk r f = true) (rest : List Byte) :
    decode ((0xE8 : Byte) :: (beBytes 12 (r.op * 2 ^ 88 + f.toNat) ++ rest)) = .ok i 13 := by
  have hop := op_lt_of_row hr
  have hnum : beNat (beBytes 12 (r.op * 2 ^ 88 + f.toNat)) % 2 ^ 96 = r.op * 2 ^ 88 + f.toNat := by
    have hlt := f.toNat_lt
    rw [beNat_beBytes]; omega
  rw [decode_fUnit (length_beBytes ..), hnum, decodeF, bitsOf_opcode hop, Fields.ofNat_toNat,
    Laws.ofWord_row i r f hr hf hs]

/-- Settles O50: a header's four bytes and an F unit's twelve are read back as the number they were written from, its
fields are the instruction's, and the opcode map reads that instruction from its OP and SUB. -/
theorem decodeEncode : Obligations.DecodeEncode := by
  intro i hwf
  refine ⟨fun bs rest h => ?_, fun h => ?_⟩
  · obtain ⟨hd, rfl, rfl⟩ | ⟨r, f, hr, hf, rfl⟩ := encode_eq_some h
    · exact decode_encode_header hd rest
    · have hs : subOk r f = true :=
        hwf.elim (subOk_of_decodeFault_eq_none · hr hf) (subOk_of_decodeFault_eq_none · hr hf)
      simpa using decode_encode_word hr hf hs rest
  · obtain hrow | ⟨hd, rfl⟩ := h
    · obtain ⟨r, hr⟩ := Option.ne_none_iff_exists'.mp hrow
      obtain ⟨f, hf⟩ := fields_isSome_of_row hr
      exact ⟨_, encode_of_row hr hf, .inl (by simp)⟩
    · exact ⟨_, rfl, .inr (by simp)⟩

end Sys2Proof
end

section
/-! PROOF. The bytes of a code unit and of data as one number (R26), and worked words of the spec (R30-R33, R37). -/

namespace Sys2Proof

theorem beNat_lt (bs : List Byte) : beNat bs < 256 ^ bs.length := by
  induction bs with
  | nil => simp
  | cons b bs ih =>
      have hb : b.toNat < 256 := b.isLt
      have hle : b.toNat * 256 ^ bs.length ≤ 255 * 256 ^ bs.length := Nat.mul_le_mul_right _ (by omega)
      rw [beNat_cons, List.length_cons, Nat.pow_succ]
      omega

/-- Settles O51: the unit's length by its first byte, and the number of its bytes written out. -/
theorem codeUnitsBigEndian : Obligations.CodeUnitsBigEndian := by
  intro b0 b1 b2 b3 b4 b5 b6 b7 bs rest
  have four : beNat [b0, b1, b2, b3] = b0.toNat * 2 ^ 24 + b1.toNat * 2 ^ 16 + b2.toNat * 2 ^ 8 + b3.toNat := by
    simp only [beNat, List.foldl_cons, List.foldl_nil]; ring
  refine ⟨fun h => ?_, ⟨fun hlo hhi => ?_, fun hlo hhi => ?_⟩, fun hlo hhi => ?_, fun hl => ?_, rfl⟩
  · rw [show b0.toNat * 2 ^ 8 + b1.toNat = beNat [b0, b1] by simp only [beNat, List.foldl_cons, List.foldl_nil]; ring]
    exact decode_sUnit (bs := [b1]) h rfl rest
  · rw [← four]
    exact decode_mUnit (bs := [b1, b2, b3]) hlo hhi rfl rest
  · rw [← four]
    exact decode_header (bs := [b1, b2, b3]) hlo hhi rfl rest
  · rw [show b0.toNat * 2 ^ 56 + b1.toNat * 2 ^ 48 + b2.toNat * 2 ^ 40 + b3.toNat * 2 ^ 32 + b4.toNat * 2 ^ 24
      + b5.toNat * 2 ^ 16 + b6.toNat * 2 ^ 8 + b7.toNat = beNat [b0, b1, b2, b3, b4, b5, b6, b7] by
        simp only [beNat, List.foldl_cons, List.foldl_nil]; ring]
    exact decode_lUnit (bs := [b1, b2, b3, b4, b5, b6, b7]) hlo hhi rfl rest
  · have hlt : beNat bs < 2 ^ 96 := by simpa [hl] using beNat_lt bs
    rw [List.cons_append, decode_fUnit hl, Nat.mod_eq_of_lt hlt]
    rfl

/-- Settles O52: the decoder computes each of the words. -/
theorem specWordsDecode : Obligations.SpecWordsDecode :=
  ⟨rfl, rfl, rfl, rfl, rfl, rfl, rfl, rfl⟩

end Sys2Proof
end

section
/-! PROOF. What a clause header does at a clause boundary (R28, R37, R38). -/

namespace Sys2Proof

theorem Header.ok_eq_true_iff (h : Header) : h.ok = true ↔
    ¬((0xC ≤ h.seta.toNat ∧ h.seta.toNat ≤ 0xE) ∨ (0xC ≤ h.setb.toNat ∧ h.setb.toNat ≤ 0xE) ∨
      (h.seta = 0xF ∧ h.setb ≠ 0xF) ∨ (h.seta ≠ 0xF ∧ h.seta = h.setb) ∨ h.rsv ≠ 0) := by
  have forbidden : ∀ x : BitVec 4, (x.toNat == 12 || x.toNat == 13 || x.toNat == 14) = false ↔
      ¬(0xC ≤ x.toNat ∧ x.toNat ≤ 0xE) := fun x => by
    simp only [Bool.or_eq_false_iff, beq_eq_false_iff_ne]
    omega
  simp only [Header.ok, Bool.and_eq_true, Bool.not_eq_true', forbidden, Bool.or_eq_true, beq_iff_eq, bne_iff_ne]
  tauto

end Sys2Proof

namespace Sys2Proof.Machine

variable {h : Header} {t : Troupe} {s : State}

theorem exec_clauseHeader (hc : s.cur = .scalar t.id) (ht : s.troupe? t.id = some t) :
    exec (.clauseHeader h) s = .next (headerRun h t s) := by
  show execClauseHeader h s = _
  simp only [execClauseHeader, hc, ht]

theorem headerRun_illop (hok : h.ok = false) : headerRun h t s = s.scalarFault t { cause := .illop } := by
  simp [headerRun, hok]

/-- Past its check, its flags and the reading of k0, a header skips its clause or begins it (R38). -/
theorem headerRun_passes (hl : t.left = 0) (hok : h.ok = true) (hw : h.wait &&& t.wflags = 0)
    (hk : h.z = 1 → t.scalarHolds [128] = [] ∧ t.readsBad [128] = false) :
    let scan := s.scanUnits (s.asidOf t.id.ring) (s.ring t.id.ring).core (h.len.toNat + 1) (t.pc + 4)
    (h.z = 1 → t.k0 = 0 → headerRun h t s =
      (s.setTroupe { t with clause := t.pc, left := 1, mile := h.mile == 1 }).endInstr t.id scan.2) ∧
    (¬(h.z = 1 ∧ t.k0 = 0) → scan.1 = none → headerRun h t s =
      (s.setTroupe
        { t with clause := t.pc, pc := t.pc + 4, left := h.len.toNat + 1, named := 0, wait := none,
                 code := s.codeLines (s.asidOf t.id.ring) (s.ring t.id.ring).core t.pc.toNat scan.2.toNat,
                 seta := flagOf h.seta, setb := flagOf h.setb, mile := h.mile == 1 }).settle t.id) := by
  have hhold : (if h.z = 1 then t.scalarHolds [128] else []) = [] := by
    split
    · exact (hk ‹_›).1
    · rfl
  have hbad : (decide (h.z = 1) && t.readsBad [128]) = false := by
    rw [Bool.and_eq_false_imp, decide_eq_true_iff]
    exact fun hz => (hk hz).2
  intro scan
  simp only [headerRun, hl, hok, hw, hhold, hbad, bne_self_eq_false, Bool.not_true, Bool.or_self, Bool.false_eq_true,
    if_false]
  refine ⟨fun hz h0 => ?_, fun hz hs => ?_⟩
  · rw [if_pos (by simp [hz, h0])]
  · rw [if_neg (by simpa using hz), hs]

/-- Settles O9: the header's own check is its forbidden codes; past it, the two ways of R38. -/
theorem clauseHeaderEffect : Obligations.ClauseHeaderEffect := by
  intro h t s bad scan hc ht hl
  rw [exec_clauseHeader hc ht]
  refine ⟨fun hbad => ?_, fun hgood hw hk => ?_⟩
  · rw [headerRun_illop (by simpa using (Header.ok_eq_true_iff h).not.mpr (not_not.mpr hbad))]
  · obtain ⟨hskip, hbegin⟩ := headerRun_passes (s := s) hl ((Header.ok_eq_true_iff h).mpr hgood) hw hk
    exact ⟨fun hz h0 => congrArg _ (hskip hz h0), fun hz hs => congrArg _ (hbegin hz hs)⟩

end Sys2Proof.Machine
end

section
/-! PROOF. The addresses of the lanes of memory instructions, one lemma for each address form (R43, R154, R229). -/

namespace Sys2Proof.Machine

variable {i : Instr} {f : Fields} {e : VEntry} {t : Troupe} {n : Nat}

theorem lanePlace_of_scalar_index (h : addrForm i = .one ∨ addrForm i = .bcast) :
    lanePlace i f e t n = if f.modx.getLsbD 3 then e.cap.a.v + (e.cap.b.v <<< (f.modx.toNat % 4)) + f.imm.signExtend 64
      else e.cap.a.v + f.imm.signExtend 64 := by
  rcases h with h | h <;> simp only [lanePlace, h, memAddr] <;> split <;> simp

theorem lanePlace_of_lane_index (h : addrForm i = .lane) :
    lanePlace i f e t n = if f.modx.getLsbD 3 then
        e.cap.a.v + (((readV t f.b e.cap.b).sh.lane n).signExtend 64 <<< (f.modx.toNat % 4)) + f.imm.signExtend 64
      else e.cap.a.v + f.imm.signExtend 64 := by
  simp only [lanePlace, h, laneAddr]
  split <;> simp

theorem lanePlace_of_stride (h : addrForm i = .stride) :
    lanePlace i f e t n = e.cap.a.v + f.imm.signExtend 64 + BitVec.ofNat 64 (n >>> f.modx.toNat) * e.cap.b.v
      + BitVec.ofNat 64 ((n &&& (2 ^ f.modx.toNat - 1)) * (tyWidth f.ty.toNat / 8)) := by
  simp only [lanePlace, h, Nat.shiftRight_eq_div_pow, Nat.and_two_pow_sub_one_eq_mod]

theorem lanePlace_of_row (h : addrForm i = .row) :
    lanePlace i f e t n = e.cap.a.v + f.imm.signExtend 64 + BitVec.ofNat 64 (4 * n) := by
  simp only [lanePlace, h]

theorem lanePlace_of_col (h : addrForm i = .col) :
    lanePlace i f e t n = e.cap.a.v + f.imm.signExtend 64 + BitVec.ofNat 64 (64 * (n % 16) + 4 * (n / 16)) := by
  simp only [lanePlace, h]

/-- The address form of lds and sts is chosen by SUB (R154). -/
theorem addrForm_scratch : ∀ c ∈ [Instr.lds, .sts], (f.sub = 0 → addrForm (c f) = .lane) ∧
    (f.sub = 2 → addrForm (c f) = .row) ∧ (f.sub = 3 → addrForm (c f) = .col) := by
  simp only [List.forall_mem_cons, List.not_mem_nil, false_imp_iff, implies_true, and_true, addrForm]
  refine ⟨⟨?_, ?_, ?_⟩, ?_, ?_, ?_⟩ <;> (intro h; rw [h]; rfl)

/-- Settles O18: each instruction has one of the address forms, lds and sts by their SUB. -/
theorem laneAddresses : Obligations.LaneAddresses := by
  intro f e t n _
  refine ⟨?_, ?_, fun _ => ?_, fun c hc => ?_⟩
  · have form : ∀ c ∈ [Instr.ld, .ldAc, .st, .ldsb], addrForm (c f) = .one ∨ addrForm (c f) = .bcast := by
      simp [addrForm]
    exact fun c hc => lanePlace_of_scalar_index (form c hc)
  · have form : ∀ c ∈ [Instr.vld, .vldAc, .vst, .aadd, .amin, .amax, .aand, .aor, .axor, .axch, .acas, .ainb, .ainw,
        .adecp, .aflim, .aaddf, .redadd, .redmin, .redmax, .redand, .redor, .redxor, .redaddf, .pref, .cfl],
        addrForm (c f) = .lane := by
      simp [addrForm]
    exact fun c hc => lanePlace_of_lane_index (form c hc)
  · have form : ∀ c ∈ [Instr.vldw, .vstw], addrForm (c f) = .stride := by simp [addrForm]
    exact fun c hc => lanePlace_of_stride (form c hc)
  · obtain ⟨lane, row, col⟩ := addrForm_scratch c hc
    exact ⟨fun h => lanePlace_of_lane_index (lane h), fun h => lanePlace_of_row (row h),
      fun h => lanePlace_of_col (col h)⟩

end Sys2Proof.Machine
end

section
/-! PROOF. What an instruction of the vector side that computes lane by lane answers, and what it leaves unchanged
(R47, R82, R85, R86, R110). -/

namespace Sys2Proof.Machine

variable {i : Instr} {f : Fields} {e : VEntry} {t u : Troupe} {s : State} {w : VWrite}

/-! ### A vector register after a write -/

theorem Troupe.writeV_v_getD (t : Troupe) (w : VWrite) {j : Nat} (h : j ≠ w.d.toNat) :
    (t.writeV w).v.getD j {} = t.v.getD j {} := by
  simp only [Troupe.writeV]
  (repeat' split) <;> simp [upd, List.getD_eq_getElem?_getD, Ne.symm h]

theorem Shape.lane_general_range {lane : Nat → Lane} {n : Nat} (h : n < 64) :
    (Shape.general ((List.range 64).map lane)).lane n = lane n := by
  simp [Shape.lane, nth, List.getD_eq_getElem?_getD, h]

/-- A lane that the mask leaves out keeps its value (R85). -/
theorem Troupe.writeV_lane_unmasked (t : Troupe) (w : VWrite) {n : Nat} (hn : n < 64) (hm : w.mask.getLsbD n = false) :
    ((t.writeV w).v.getD w.d.toNat {}).sh.lane n = (t.v.getD w.d.toNat {}).sh.lane n := by
  have hall : w.mask ≠ allLanes := fun h => by
    rw [h, allLanes, BitVec.getLsbD_allOnes, decide_eq_false_iff_not] at hm
    exact hm hn
  simp only [Troupe.writeV, if_neg hall]
  split
  · split
    · rfl
    · rcases Nat.lt_or_ge w.d.toNat t.v.length with hl | hl
      · have hself : ∀ x : VReg, (upd t.v w.d.toNat fun _ => x).getD w.d.toNat {} = x := fun x => by
          simp [upd, List.getD_eq_getElem?_getD, hl]
        rw [hself, Shape.lane_general_range hn, hm]
        rfl
      · simp [upd, List.getD_eq_getElem?_getD, hl]
  · rfl

/-! ### Issue -/

/-- The troupe once its first dispatched instruction has issued. -/
def Troupe.issued (t : Troupe) : Troupe := { t with vq := t.vq.tail, vwait := none }

/-- Where nothing follows of itself, the vector side only goes on. -/
theorem State.vectorNext_of_quiet (ht : s.troupe? t.id = some t) (hu : u.id = t.id) (hq : u.issued.quiet = true) :
    s.vectorNext t u = s.setTroupe u.issued := by
  have hset : (s.setTroupe u).modTroupe t.id Troupe.issued = s.setTroupe u.issued := by
    simp only [State.setTroupe, State.modTroupe, updWhere, List.map_map, hu, Troupe.issued]
    congr 2
    funext x
    by_cases hx : x.id = t.id <;> simp [hx, hu]
  have hfind : (s.setTroupe u.issued).troupe? t.id = some u.issued := by
    rw [← hu] at ht ⊢
    exact s.troupe?_setTroupe (t := u.issued) ht
  show State.settle ((s.setTroupe u).modTroupe t.id Troupe.issued) t.id = _
  rw [hset, ← hu]
  exact State.settle_of_quiet (t := u.issued) (hu ▸ hfind) hq

theorem Troupe.writeV_eq (t : Troupe) (w : VWrite) : ∃ v r, t.writeV w = { t with v := v, regErr := r } := by
  simp only [Troupe.writeV]
  (repeat' split) <;> exact ⟨_, _, rfl⟩

/-- A vector result makes neither side of its troupe wait, and reports no lane. -/
theorem Troupe.quiet_issued_writeV (hr : t.reports = []) (hs : t.issued.stalled = false) (w : VWrite) (fl : BitVec 4) :
    ((t.writeV w).raise fl).issued.quiet = true := by
  obtain ⟨v, r, hw⟩ := t.writeV_eq w
  have hstall : ((t.writeV w).raise fl).issued.stalled = t.issued.stalled := by rw [hw]; rfl
  have hreport : ((t.writeV w).raise fl).issued.mustReport = false := by simp [Troupe.mustReport, Troupe.issued, hr]
  rw [Troupe.quiet, hstall, hs, hreport]
  rfl

/-! ### Instructions with one vector result -/

/-- Writing D alone stays within a budget that has room for it (R86). -/
theorem Troupe.overBudget_of_room {g : Nat} {d : BitVec 8} {ds : List (BitVec 8)} (h : t.room g d)
    (hds : ds = [] ∨ ds = [d]) : t.overBudget g ds = false := by
  rcases hds with rfl | rfl
  · rfl
  · rcases h with h | h | h
    · simp [Troupe.overBudget, Nat.not_lt.mpr h]
    · simp [Troupe.overBudget, h]
    · simp only [Troupe.overBudget, Bool.and_eq_false_imp, decide_eq_false_iff_not, Nat.not_lt]
      intro _
      have hlen := List.length_filter_le (fun d => decide (d < 64) && !t.generals.contains d) ([d].map (·.toNat))
      simp only [List.length_map, List.length_singleton] at hlen
      omega

theorem computeIssue_oneWrite {out : Troupe → State → VOut} {sh : Shape} {g : Nat} {fl : BitVec 4}
    (ho : out t s = { oneWrite f e sh g with fl := fl }) (hroom : t.room (s.ring t.id.ring).vgen f.d)
    (hslots : s.judgeSlots t.id.ring e.instr.slots = none) (hlong : e.instr.longLatency = false) :
    computeIssue out e t s =
      .done (s.setTroupe ((t.writeV { d := f.d, mask := e.cap.k0, sh := sh, g := g }).raise fl)) := by
  have hgen : (out t s).generals = [] ∨ (out t s).generals = [f.d] := by
    rw [ho]
    cases h : makesGeneral f.d e.cap.k0 sh <;> simp [VOut.generals, oneWrite, h]
  simp only [computeIssue, t.overBudget_of_room hroom hgen, hslots, hlong, Bool.false_eq_true, if_false]
  rw [ho]
  rfl

/-- The instruction computes lane by lane: it issues as one write of D under k0 and ORs flags of `fls` into the sticky
flags, when the format slots it names are ready. -/
structure LaneWise (i : Instr) (f : Fields) (slots : List Nat) (fls : Set (BitVec 4)) : Prop where
  short : i.longLatency = false
  names : i.slots = slots
  writes : ∃ out : VEntry → Troupe → State → VOut,
    (∀ s, exec i s = vectorInstr i s fun e => computeIssue (out e) e) ∧
    ∀ e t s, ∃ sh g, ∃ fl ∈ fls, out e t s = { oneWrite f e sh g with fl := fl }

theorem LaneWise.exec_eq {slots : List Nat} {fls : Set (BitVec 4)} (hi : LaneWise i f slots fls) (hm : VectorMay i e t s)
    (hroom : t.room (s.ring t.id.ring).vgen f.d) (hslots : s.judgeSlots t.id.ring slots = none) :
    ∃ sh g, ∃ fl ∈ fls, exec i s =
      .next (s.vectorNext t ((t.writeV { d := f.d, mask := e.cap.k0, sh := sh, g := g }).raise fl)) := by
  obtain ⟨hshort, rfl, out, hexec, hout⟩ := hi
  obtain ⟨sh, g, fl, hfl, ho⟩ := hout e t s
  have he : e.instr = i := hm.2.2.2.1
  refine ⟨sh, g, fl, hfl, ?_⟩
  rw [hexec, vectorInstr_done (issue := fun e => computeIssue (out e) e) hm
    (computeIssue_oneWrite ho hroom (he ▸ hslots) (he ▸ hshort))]
  rfl

/-- The integer and lane instructions raise no flag (R112-R115). -/
theorem laneWise_int (f : Fields) : ∀ c ∈ [Instr.vadd, .vsub, .vmul, .vmulhi, .vand, .vor, .vxor, .vandn, .vshl, .vshr,
    .vsra, .vmin, .vmax, .vabs, .vneg, .vclz, .vpop, .vmad, .vsel, .vmov, .vbcast, .vsplat],
    LaneWise (c f) f [] {0} := by
  intro c hc
  fin_cases hc <;> exact ⟨rfl, rfl, _, fun _ => rfl, fun _ _ _ => ⟨_, _, 0, rfl, rfl⟩⟩

theorem laneWise_float (f : Fields) : ∀ c ∈ [Instr.fadd, .fsub, .fmul, .fma, .fmin, .fmax, .fabs, .fneg, .fscale],
    LaneWise (c f) f [f.ty.toNat] Set.univ := by
  intro c hc
  fin_cases hc <;> exact ⟨rfl, rfl, _, fun _ => rfl, fun _ _ _ => ⟨_, _, _, trivial, rfl⟩⟩

theorem State.readLoc_setTroupe (s : State) (u : Troupe) (x : Loc) : (s.setTroupe u).readLoc x = s.readLoc x := by
  cases x <;> rfl

/-- Where nothing follows of itself, all that such an instruction leaves behind is its write and its flags. -/
theorem LaneWise.next_eq {slots : List Nat} {fls : Set (BitVec 4)} {s1 : State} (hi : LaneWise i f slots fls)
    (hm : VectorMay i e t s) (hroom : t.room (s.ring t.id.ring).vgen f.d) (hslots : s.judgeSlots t.id.ring slots = none)
    (hr : t.reports = []) (hs : t.issued.stalled = false) (hx : exec i s = .next s1) :
    ∃ w : VWrite, w.d = f.d ∧ w.mask = e.cap.k0 ∧ ∃ fl ∈ fls, s1 = s.setTroupe ((t.writeV w).raise fl).issued := by
  obtain ⟨sh, g, fl, hfl, he⟩ := hi.exec_eq hm hroom hslots
  refine ⟨{ d := f.d, mask := e.cap.k0, sh := sh, g := g }, rfl, rfl, fl, hfl, ?_⟩
  rw [hx, State.vectorNext_of_quiet hm.2.1 (by simp) (Troupe.quiet_issued_writeV hr hs _ fl)] at he
  injection he

/-- Settles O55: every instruction named is one masked write of D with flags, which leaves the other registers and the
lanes outside the mask. -/
theorem vectorFrames : Obligations.VectorFrames := by
  intro f e t s s1 hr hs hroom frame
  have answers : ∀ {i slots fls}, LaneWise i f slots fls → s.judgeSlots t.id.ring slots = none → VectorMay i e t s →
      exec i s = .next s1 → frame ∧ ∃ fl ∈ fls, ∃ u, s1.troupe? t.id = some u ∧ u.sticky = t.sticky ||| fl := by
    intro i slots fls hi hslots hm hx
    obtain ⟨w, hd, hk0, fl, hfl, rfl⟩ := hi.next_eq hm hroom hslots hr hs hx
    let u : Troupe := ((t.writeV w).raise fl).issued
    have hid : u.id = t.id := t.writeV_id w
    have hself : (s.setTroupe u).troupe? t.id = some u := hid ▸ s.troupe?_setTroupe (t := u) (hid ▸ hm.2.1)
    have hsticky : u.sticky = t.sticky ||| fl := congrArg (· ||| fl) (t.writeV_sticky w)
    refine ⟨⟨rfl, s.readLoc_setTroupe u, rfl, rfl, rfl, rfl, fun id hne => s.troupe?_setTroupe_ne (hid.symm ▸ hne), u,
      hself, t.writeV_s w, t.writeV_k w, t.writeV_w w, t.writeV_ac w, t.writeV_utag w, t.writeV_pc w, t.writeV_up w,
      t.writeV_down w, t.writeV_ops w, t.writeV_stopped w, fun j hj => t.writeV_v_getD w (hd ▸ hj),
      fun n hn hk => hd ▸ t.writeV_lane_unmasked w hn (hk0 ▸ hk), fun j _ hj => ?_⟩, fl, hfl, u, hself, hsticky⟩
    rw [hsticky, BitVec.getLsbD_or, hj, Bool.true_or]
  refine ⟨fun c hc hm hx => ?_, fun c hc hslots hm hx => (answers (laneWise_float f c hc) hslots hm hx).1⟩
  obtain ⟨hframe, fl, rfl, u, hu, hsticky⟩ := answers (laneWise_int f c hc) rfl hm hx
  exact ⟨hframe, u, hu, by simpa using hsticky⟩

end Sys2Proof.Machine
end

section
/-! PROOF. Exact values as rationals, and rounding to a rising grid of magnitudes: comparing at one exponent is
comparing the numbers, and of the two codes around a magnitude Encode picks the nearer (R57, R59, R60). -/

namespace Sys2Proof.Machine

/-! ### Exact values as rationals -/

/-- The magnitude that a significand and an exponent give. -/
def magQ (p : Nat × Int) : ℚ := p.1 * 2 ^ p.2

/-- The number that a sign, a significand and an exponent give. -/
def signedQ (v : Bool × Nat × Int) : ℚ := if v.1 then -magQ v.2 else magQ v.2

theorem magQ_nonneg (p : Nat × Int) : 0 ≤ magQ p := by unfold magQ; positivity

theorem magQ_pos {m : Nat} (hm : m ≠ 0) (e : Int) : 0 < magQ (m, e) := by
  have : 0 < m := Nat.pos_of_ne_zero hm
  unfold magQ; positivity

theorem scaleTo_eq_div {e b : Int} (h : b ≤ e) (m : Nat) : (scaleTo m e b : ℚ) = magQ (m, e) / 2 ^ b := by
  rw [eq_div_iff (by positivity), magQ, scaleTo, Nat.cast_mul, Nat.cast_pow, Nat.cast_ofNat, mul_assoc,
    ← zpow_natCast, Int.toNat_of_nonneg (sub_nonneg.mpr h), ← zpow_add₀ two_ne_zero, sub_add_cancel]

theorem signedTo_eq_div {b : Int} (v : Bool × Nat × Int) (h : b ≤ v.2.2) :
    (signedTo v.1 v.2.1 v.2.2 b : ℚ) = signedQ v / 2 ^ b := by
  have hs := scaleTo_eq_div h v.2.1
  cases hv : v.1 <;> simp [signedTo, signedQ, hv, hs, neg_div]

theorem magLe_iff {m1 m2 : Nat} {e1 e2 : Int} : magLe m1 e1 m2 e2 = true ↔ magQ (m1, e1) ≤ magQ (m2, e2) := by
  simp only [magLe, decide_eq_true_eq, ← Nat.cast_le (α := ℚ), scaleTo_eq_div (min_le_left e1 e2),
    scaleTo_eq_div (min_le_right e1 e2)]
  exact div_le_div_iff_of_pos_right (by positivity)

theorem magLe_and_magLe {m1 m2 : Nat} {e1 e2 : Int} :
    (magLe m1 e1 m2 e2 && magLe m2 e2 m1 e1) = decide (magQ (m2, e2) = magQ (m1, e1)) := by
  rw [Bool.eq_iff_iff, Bool.and_eq_true, magLe_iff, magLe_iff, decide_eq_true_eq, eq_comm, le_antisymm_iff]

theorem nearer_iff {x v y : Bool × Nat × Int} :
    Nearer x v y ↔ |signedQ x - signedQ v| ≤ |signedQ x - signedQ y| := by
  have hx := signedTo_eq_div x (min_le_left x.2.2 (min v.2.2 y.2.2))
  have hv := signedTo_eq_div v ((min_le_right x.2.2 (min v.2.2 y.2.2)).trans (min_le_left _ _))
  have hy := signedTo_eq_div y ((min_le_right x.2.2 (min v.2.2 y.2.2)).trans (min_le_right _ _))
  have hb : (0 : ℚ) < 2 ^ min x.2.2 (min v.2.2 y.2.2) := by positivity
  simp only [Nearer, ← Nat.cast_le (α := ℚ), Nat.cast_natAbs, Int.cast_abs, Int.cast_sub, hx, hv, hy, ← sub_div,
    abs_div, abs_of_pos hb]
  exact div_le_div_iff_of_pos_right hb

theorem sameValue_iff {v y : Bool × Nat × Int} : SameValue v y ↔ signedQ v = signedQ y := by
  simp only [SameValue, ← Int.cast_inj (α := ℚ), signedTo_eq_div v (min_le_left v.2.2 y.2.2),
    signedTo_eq_div y (min_le_right v.2.2 y.2.2)]
  exact div_left_inj' (by positivity)

/-- To the nearest, the upper neighbour is taken from the middle on, and in the middle when the lower code is odd. -/
theorem roundsUp_nearest_iff {lo hi : Nat × Int} {odd : Bool} {m : Nat} {e : Int} :
    roundsUp lo hi odd m e .nearest = true ↔ magQ lo + magQ hi < 2 * magQ (m, e) ∨
      (magQ lo + magQ hi = 2 * magQ (m, e) ∧ odd = true) := by
  have hx := scaleTo_eq_div (min_le_left e (min lo.2 hi.2)) m
  have hl := scaleTo_eq_div ((min_le_right e (min lo.2 hi.2)).trans (min_le_left _ _)) lo.1
  have hh := scaleTo_eq_div ((min_le_right e (min lo.2 hi.2)).trans (min_le_right _ _)) hi.1
  have hb : (0 : ℚ) < 2 ^ min e (min lo.2 hi.2) := by positivity
  simp only [roundsUp, Bool.or_eq_true, Bool.and_eq_true, decide_eq_true_eq, beq_iff_eq, ← Nat.cast_lt (α := ℚ),
    ← Nat.cast_inj (R := ℚ), Nat.cast_add, Nat.cast_mul, Nat.cast_ofNat, hx, hl, hh, ← add_div, ← mul_div_assoc,
    div_lt_div_iff_of_pos_right hb, div_left_inj' hb.ne']

/-! ### A rising grid of magnitudes and its nearest code -/

/-- c is the greatest code up to `top` whose value is not above x. -/
def IsFloor (V : Nat → ℚ) (top : Nat) (x : ℚ) (c : Nat) : Prop := c ≤ top ∧ V c ≤ x ∧ ∀ d ≤ top, V d ≤ x → d ≤ c

/-- c is the code up to `top` whose value is nearest to x; where another is equally near, c is even. -/
def IsNearestEven (V : Nat → ℚ) (top : Nat) (x : ℚ) (c : Nat) : Prop :=
  c ≤ top ∧ ∀ d ≤ top, |x - V c| ≤ |x - V d| ∧ (|x - V d| ≤ |x - V c| → d = c ∨ c % 2 = 0)

section Grid

variable {V : Nat → ℚ} {top c : Nat} {x : ℚ}

/-- A lower neighbour is nearest up to the middle, the middle included when its code is even. -/
theorem isNearestEven_lower (hV : StrictMono V) (hc : c ≤ top) (hx : V c ≤ x)
    (hmid : c < top → 2 * x < V c + V (c + 1) ∨ (2 * x = V c + V (c + 1) ∧ c % 2 = 0)) :
    IsNearestEven V top x c := by
  refine ⟨hc, fun d hd => ?_⟩
  rw [abs_of_nonneg (sub_nonneg.mpr hx)]
  rcases lt_trichotomy d c with hlt | rfl | hgt
  · have := hV hlt
    have hd : x - V c < |x - V d| := (by linarith : x - V c < x - V d).trans_le (le_abs_self _)
    exact ⟨hd.le, fun h => absurd h hd.not_ge⟩
  · exact ⟨le_abs_self _, fun _ => .inl rfl⟩
  · have := hV.monotone (Nat.succ_le_of_lt hgt)
    have hd : V d - x ≤ |x - V d| := neg_sub x (V d) ▸ neg_le_abs _
    rcases hmid (by omega) with h | ⟨h, heven⟩
    · exact ⟨by linarith, fun _ => by linarith⟩
    · exact ⟨by linarith, fun _ => .inr heven⟩

/-- An upper neighbour is nearest from the middle on, the middle included when the lower code is odd. -/
theorem isNearestEven_upper (hV : StrictMono V) (hc : c < top) (hx : x ≤ V (c + 1))
    (hmid : V c + V (c + 1) < 2 * x ∨ (V c + V (c + 1) = 2 * x ∧ c % 2 = 1)) :
    IsNearestEven V top x (c + 1) := by
  refine ⟨hc, fun d hd => ?_⟩
  rw [abs_of_nonpos (sub_nonpos.mpr hx)]
  rcases lt_trichotomy d (c + 1) with hlt | rfl | hgt
  · have := hV.monotone (Nat.le_of_lt_succ hlt)
    have hd : x - V d ≤ |x - V d| := le_abs_self _
    rcases hmid with h | ⟨h, hodd⟩
    · exact ⟨by linarith, fun _ => by linarith⟩
    · exact ⟨by linarith, fun _ => .inr (by omega)⟩
  · exact ⟨neg_le_abs _, fun _ => .inl rfl⟩
  · have := hV hgt
    have hd : -(x - V (c + 1)) < |x - V d| := (by linarith : -(x - V (c + 1)) < -(x - V d)).trans_le (neg_le_abs _)
    exact ⟨hd.le, fun h => absurd h hd.not_ge⟩

end Grid

/-- The search finds the last of a run of numbers from `lo` on for which a downward-closed test holds. -/
theorem bsearch_greatest {p : Nat → Bool} (hp : ∀ a b, a ≤ b → p b = true → p a = true) :
    ∀ (n lo : Nat), p lo = true →
      p (bsearch p n lo) = true ∧ ∀ d < lo + 2 ^ n, p d = true → d ≤ bsearch p n lo := by
  intro n
  induction n with
  | zero => exact fun lo hlo => ⟨hlo, fun d hd _ => by simp only [bsearch]; omega⟩
  | succ n ih =>
    intro lo hlo
    simp only [bsearch]
    split
    case isTrue hmid =>
      obtain ⟨hat, hmax⟩ := ih _ hmid
      exact ⟨hat, fun d hd => hmax d (by omega)⟩
    case isFalse hmid =>
      obtain ⟨hat, hmax⟩ := ih _ hlo
      exact ⟨hat, fun d _ hpd => hmax d (lt_of_not_ge fun hle => hmid (hp _ _ hle hpd)) hpd⟩

section Encoder

variable {mag : Nat → Nat × Int} {top m : Nat} {e : Int}

/-- The code that Encode starts from: the greatest one not above m × 2^e. -/
def floorCode (mag : Nat → Nat × Int) (top m : Nat) (e : Int) : Nat :=
  bsearch (fun c => decide (c ≤ top) && magLe (mag c).1 (mag c).2 m e) 33 0

theorem floorCode_isFloor (hV : StrictMono fun c => magQ (mag c)) (h0 : magQ (mag 0) = 0) (htop : top < 2 ^ 33) :
    IsFloor (fun c => magQ (mag c)) top (magQ (m, e)) (floorCode mag top m e) := by
  obtain ⟨hat, hmax⟩ := bsearch_greatest
    (p := fun c => decide (c ≤ top) && magLe (mag c).1 (mag c).2 m e) (fun a b hab hb => by
      simp only [Bool.and_eq_true, decide_eq_true_eq, magLe_iff] at hb ⊢
      exact ⟨hab.trans hb.1, (hV.monotone hab).trans hb.2⟩) 33 0
    (by simpa [magLe_iff, h0] using magQ_nonneg (m, e))
  simp only [Bool.and_eq_true, decide_eq_true_eq, magLe_iff] at hat hmax
  exact ⟨hat.1, hat.2, fun d hd hdx => hmax d (by omega) ⟨hd, hdx⟩⟩

/-- Where the floor is m × 2^e itself, it is the code. -/
theorem encodeMag_of_eq {isLog : Bool} {mode : RMode}
    (h : magQ (mag (floorCode mag top m e)) = magQ (m, e)) :
    encodeMag mag top isLog m e mode = (floorCode mag top m e, false, true) :=
  if_pos (magLe_iff.mpr h.ge)

/-- Between two codes the rounding mode chooses. -/
theorem encodeMag_of_between {isLog : Bool} {mode : RMode}
    (h : magQ (mag (floorCode mag top m e)) < magQ (m, e)) (hc : floorCode mag top m e < top) :
    encodeMag mag top isLog m e mode =
      (if roundsUp (mag (floorCode mag top m e)) (mag (floorCode mag top m e + 1)) (floorCode mag top m e % 2 == 1)
        m e mode then floorCode mag top m e + 1 else floorCode mag top m e, false, false) :=
  (if_neg fun hle => h.not_ge (magLe_iff.mp hle)).trans (if_pos hc)

theorem encodeMag_nearest_of_top_lt {isLog : Bool} (h : magQ (mag top) < magQ (m, e))
    (hc : floorCode mag top m e = top) :
    encodeMag mag top isLog m e .nearest =
      (top, roundsUp (mag top) (mag (top + 1)) (top % 2 == 1) m e .nearest, false) := by
  have he : encodeMag mag top isLog m e .nearest = (top, magLe (mag (top + 1)).1 (mag (top + 1)).2 m e ||
      roundsUp (mag top) (mag (top + 1)) (top % 2 == 1) m e .nearest, false) :=
    (if_neg fun hle => (hc ▸ h).not_ge (magLe_iff.mp hle)).trans (if_neg hc.not_lt)
  have hbeyond : magLe (mag (top + 1)).1 (mag (top + 1)).2 m e = true →
      roundsUp (mag top) (mag (top + 1)) (top % 2 == 1) m e .nearest = true := fun hle =>
    roundsUp_nearest_iff.mpr (.inl (by linarith [magLe_iff.mp hle]))
  rw [he]
  cases hb : magLe (mag (top + 1)).1 (mag (top + 1)).2 m e
  · rfl
  · rw [hbeyond hb]; rfl

theorem encodeMag_zero_of_top_lt {isLog : Bool} (h : magQ (mag top) < magQ (m, e)) (hc : floorCode mag top m e = top) :
    encodeMag mag top isLog m e .zero = (top, true, false) :=
  (if_neg fun hle => (hc ▸ h).not_ge (magLe_iff.mp hle)).trans (if_neg hc.not_lt)

theorem roundsUp_top_eq_false {c : Nat} (hV : StrictMono fun c => magQ (mag c)) (hc : c ≤ top)
    (h : magQ (m, e) ≤ magQ (mag c)) : roundsUp (mag top) (mag (top + 1)) (top % 2 == 1) m e .nearest = false := by
  have hle : magQ (mag c) ≤ magQ (mag top) := hV.monotone hc
  have hlt : magQ (mag top) < magQ (mag (top + 1)) := hV (Nat.lt_succ_self top)
  rw [← Bool.not_eq_true, roundsUp_nearest_iff]
  rintro (h | ⟨h, -⟩) <;> linarith

variable (hV : StrictMono fun c => magQ (mag c)) (h0 : magQ (mag 0) = 0) (htop : top < 2 ^ 33)
include hV h0 htop

/-- To the nearest: the overflow begins at the half step above `top`, and below it the code is nearest (R59, R60). -/
theorem encodeMag_nearest (isLog : Bool) :
    let r := encodeMag mag top isLog m e .nearest
    r.2.1 = roundsUp (mag top) (mag (top + 1)) (top % 2 == 1) m e .nearest ∧
      (r.2.1 = false → IsNearestEven (fun c => magQ (mag c)) top (magQ (m, e)) r.1 ∧
        r.2.2 = decide (magQ (mag r.1) = magQ (m, e))) := by
  obtain ⟨hc, hx, hmax⟩ := floorCode_isFloor (m := m) (e := e) hV h0 htop
  generalize hfloor : floorCode mag top m e = c at hc hx hmax
  have hstep : magQ (mag c) < magQ (mag (c + 1)) := hV (Nat.lt_succ_self c)
  rcases hx.eq_or_lt with heq | hlt
  · rw [encodeMag_of_eq (hfloor ▸ heq), hfloor, roundsUp_top_eq_false hV hc heq.ge]
    exact ⟨rfl, fun _ => ⟨isNearestEven_lower hV hc hx fun _ => .inl (by linarith), (decide_eq_true heq).symm⟩⟩
  · rcases hc.lt_or_eq with hctop | rfl
    · have habove : magQ (m, e) < magQ (mag (c + 1)) := lt_of_not_ge fun hle => (hmax _ hctop hle).not_gt c.lt_succ_self
      rw [encodeMag_of_between (hfloor ▸ hlt) (hfloor ▸ hctop), hfloor,
        roundsUp_top_eq_false hV (Nat.succ_le_of_lt hctop) habove.le]
      refine ⟨rfl, fun _ => ?_⟩
      split
      case isTrue hup =>
        rw [roundsUp_nearest_iff, beq_iff_eq] at hup
        exact ⟨isNearestEven_upper hV hctop habove.le hup, (decide_eq_false habove.ne').symm⟩
      case isFalse hdown =>
        rw [roundsUp_nearest_iff, beq_iff_eq, not_or, not_lt, not_and] at hdown
        refine ⟨isNearestEven_lower hV hc hx fun _ => ?_, (decide_eq_false hlt.ne).symm⟩
        exact hdown.1.lt_or_eq.imp_right fun h => ⟨h, Nat.mod_two_ne_one.mp (hdown.2 h.symm)⟩
    · rw [encodeMag_nearest_of_top_lt hlt hfloor]
      exact ⟨rfl, fun _ => ⟨isNearestEven_lower hV hc hx fun h => absurd h (lt_irrefl c),
        (decide_eq_false hlt.ne).symm⟩⟩

/-- Toward zero: the code is the floor, with overflow above the value of `top` (R59, R60). -/
theorem encodeMag_zero (isLog : Bool) :
    let r := encodeMag mag top isLog m e .zero
    IsFloor (fun c => magQ (mag c)) top (magQ (m, e)) r.1 ∧ r.2.1 = decide (magQ (mag top) < magQ (m, e)) ∧
      r.2.2 = decide (magQ (m, e) ≤ magQ (mag r.1)) := by
  have hf := floorCode_isFloor (m := m) (e := e) hV h0 htop
  obtain ⟨hc, hx, -⟩ := id hf
  generalize hfloor : floorCode mag top m e = c at hf hc hx
  rcases hx.eq_or_lt with heq | hlt
  · rw [encodeMag_of_eq (hfloor ▸ heq), hfloor]
    exact ⟨hf, (decide_eq_false (heq.symm.trans_le (hV.monotone hc)).not_gt).symm, (decide_eq_true heq.ge).symm⟩
  · rcases hc.lt_or_eq with hctop | rfl
    · have habove : magQ (m, e) ≤ magQ (mag top) :=
        le_of_not_gt fun h => (hf.2.2 top le_rfl h.le).not_gt hctop
      rw [encodeMag_of_between (hfloor ▸ hlt) (hfloor ▸ hctop), hfloor]
      exact ⟨hf, (decide_eq_false habove.not_gt).symm, (decide_eq_false hlt.not_ge).symm⟩
    · rw [encodeMag_zero_of_top_lt hlt hfloor]
      exact ⟨hf, (decide_eq_true hlt).symm, (decide_eq_false hlt.not_ge).symm⟩

end Encoder

/-! ### Signs -/

theorem abs_signedQ_sub (neg s : Bool) (p q : Nat × Int) :
    |signedQ (neg, p) - signedQ (s, q)| = if s = neg then |magQ p - magQ q| else magQ p + magQ q := by
  have hsum := abs_of_nonneg (add_nonneg (magQ_nonneg p) (magQ_nonneg q))
  cases neg <;> cases s <;> simp only [signedQ, if_true, if_false, Bool.false_eq_true, reduceCtorEq]
  case true.true => rw [neg_sub_neg, abs_sub_comm]
  case true.false => rw [← neg_add', abs_neg, hsum]
  case false.true => rw [sub_neg_eq_add, hsum]

/-- The nearest magnitude with the sign of x is the nearest number of either sign. -/
theorem IsNearestEven.signed {mag : Nat → Nat × Int} {top m c d : Nat} {e : Int}
    (h : IsNearestEven (fun c => magQ (mag c)) top (magQ (m, e)) c) (hm : m ≠ 0) (hd : d ≤ top) (neg s : Bool) :
    Nearer (neg, m, e) (neg, mag c) (s, mag d) ∧
      (Nearer (neg, m, e) (s, mag d) (neg, mag c) → SameValue (s, mag d) (neg, mag c) ∨ c % 2 = 0) := by
  obtain ⟨hnear, htie⟩ := h.2 d hd
  simp only [nearer_iff, sameValue_iff, abs_signedQ_sub, if_true]
  split
  case isTrue hs =>
    subst hs
    exact ⟨hnear, fun h => (htie h).imp_left (congrArg fun c => signedQ (s, mag c))⟩
  case isFalse hs =>
    have hx := magQ_pos hm e
    have hd0 := magQ_nonneg (mag d)
    have hfar : |magQ (m, e) - magQ (mag d)| ≤ magQ (m, e) + magQ (mag d) :=
      abs_le.mpr ⟨by linarith, by linarith⟩
    refine ⟨hnear.trans hfar, fun h => (htie (hfar.trans h)).imp_left ?_⟩
    rintro rfl
    have hz : magQ (mag d) = 0 := by
      rcases abs_cases (magQ (m, e) - magQ (mag d)) with ⟨ha, -⟩ | ⟨ha, -⟩ <;> linarith
    simp [signedQ, hz]

end Sys2Proof.Machine
end

section
/-! PROOF. Encode into a floating-point format and into offset binary: the codes rise strictly with their values, so
that the code that Encode picks is the nearest, ties to even; overflow, infinities and NaN (R56-R61, R66). -/

namespace Sys2Proof.Machine

/-! ### The codes of a floating-point format -/

section Float

variable {ew fb : Nat} {bias : Int} {sp : Special}

theorem floatMag_mul_add {q r : Nat} (hr : r < 2 ^ fb) :
    floatMag fb bias (q * 2 ^ fb + r) = if q = 0 then (r, 1 - bias - fb) else (2 ^ fb + r, q - bias - fb) := by
  have hdiv : (q * 2 ^ fb + r) / 2 ^ fb = q := by
    rw [mul_comm, Nat.mul_add_div (by positivity), Nat.div_eq_of_lt hr, add_zero]
  have hmod : (q * 2 ^ fb + r) % 2 ^ fb = r := by rw [Nat.mul_add_mod', Nat.mod_eq_of_lt hr]
  unfold floatMag
  rw [hdiv, hmod]
  split
  case isTrue h => simp [h]
  case isFalse => rfl

/-- The next code's value is one unit of the last place higher, into the next binade too (R57). -/
theorem magQ_floatMag_succ (c : Nat) :
    magQ (floatMag fb bias (c + 1)) = magQ (floatMag fb bias c) + 2 ^ (floatMag fb bias c).2 := by
  obtain ⟨q, r, hr, rfl⟩ : ∃ q r, r < 2 ^ fb ∧ c = q * 2 ^ fb + r :=
    ⟨c / 2 ^ fb, c % 2 ^ fb, Nat.mod_lt _ (by positivity), (Nat.div_add_mod' c (2 ^ fb)).symm⟩
  rcases (Nat.succ_le_of_lt hr).lt_or_eq with hlt | heq
  · rw [add_assoc, floatMag_mul_add hlt, floatMag_mul_add hr]
    split <;> simp only [magQ] <;> push_cast <;> ring
  · have hnext : q * 2 ^ fb + r + 1 = (q + 1) * 2 ^ fb + 0 := by rw [add_assoc, show r + 1 = 2 ^ fb from heq]; ring
    have hpow : (2 : ℚ) ^ fb = r + 1 := by exact_mod_cast heq.symm
    rw [hnext, floatMag_mul_add (by positivity), floatMag_mul_add hr, if_neg q.succ_ne_zero]
    split
    case isTrue hq =>
      simp only [magQ, hq]
      push_cast
      rw [hpow]
      ring
    case isFalse =>
      have hexp : ((q + 1 : Nat) : Int) - bias - fb = (q - bias - fb) + 1 := by push_cast; ring
      simp only [magQ, hexp, zpow_add_one₀ (two_ne_zero (α := ℚ))]
      push_cast
      rw [hpow]
      ring

theorem magQ_floatMag_strictMono : StrictMono fun c => magQ (floatMag fb bias c) :=
  strictMono_nat_of_lt_succ fun c => by
    rw [magQ_floatMag_succ]
    exact lt_add_of_pos_right _ (by positivity)

theorem magQ_floatMag_zero : magQ (floatMag fb bias 0) = 0 := by simp [floatMag, magQ]

theorem maxCode_lt : maxCode ew fb sp < 2 ^ (ew + fb) := by
  have hfb : 0 < 2 ^ fb := by positivity
  have hpow : 0 < 2 ^ (ew + fb) := by positivity
  cases sp with
  | none => simp only [maxCode]; omega
  | nanOnly => simp only [maxCode]; omega
  | ieee =>
    simp only [maxCode, pow_add]
    have : (2 ^ ew - 1) * 2 ^ fb ≤ 2 ^ ew * 2 ^ fb := Nat.mul_le_mul_right _ (Nat.sub_le _ _)
    have : 0 < 2 ^ ew * 2 ^ fb := by positivity
    omega

theorem maxCode_lt_two_pow_33 (hbits : ew + fb ≤ 31) : maxCode ew fb sp < 2 ^ 33 :=
  maxCode_lt.trans_le (Nat.pow_le_pow_right two_pos (by omega))

/-- Under the IEEE policy the codes above the largest are those whose exponent field holds only ones. -/
theorem le_maxCode_ieee_iff (hw : 1 ≤ ew) {c : Nat} (hc : c < 2 ^ (ew + fb)) :
    c ≤ maxCode ew fb .ieee ↔ c / 2 ^ fb ≠ 2 ^ ew - 1 := by
  have hfb : 0 < 2 ^ fb := by positivity
  have hew : 1 < 2 ^ ew := Nat.one_lt_two_pow (by omega)
  have htop : 0 < (2 ^ ew - 1) * 2 ^ fb := Nat.mul_pos (by omega) hfb
  have hlt : c / 2 ^ fb < 2 ^ ew := (Nat.div_lt_iff_lt_mul hfb).mpr (by rwa [← pow_add])
  have hiff : c / 2 ^ fb < 2 ^ ew - 1 ↔ c < (2 ^ ew - 1) * 2 ^ fb := Nat.div_lt_iff_lt_mul hfb
  simp only [maxCode]
  omega

/-- The finite codes are those up to the largest (R57). -/
theorem codeValue_eq_fin_iff {mag : Nat → Nat × Int} (hw : 1 ≤ ew) {c : Nat} (hc : c < 2 ^ (ew + fb))
    {neg n : Bool} {p : Nat × Int} :
    codeValue mag ew fb sp neg c = .fin n p.1 p.2 ↔ c ≤ maxCode ew fb sp ∧ neg = n ∧ mag c = p := by
  have hfin : FV.fin neg (mag c).1 (mag c).2 = .fin n p.1 p.2 ↔ neg = n ∧ mag c = p := by
    rw [FV.fin.injEq, Prod.ext_iff]
  have htwo : 2 ≤ 2 ^ (ew + fb) := Nat.le_self_pow (by omega) 2
  cases sp with
  | none =>
    have hle : c ≤ maxCode ew fb .none := Nat.le_pred_of_lt hc
    simp [codeValue, hfin, hle]
  | nanOnly =>
    have hle : c ≤ maxCode ew fb .nanOnly ↔ c ≠ 2 ^ (ew + fb) - 1 := by simp only [maxCode]; omega
    rw [hle]
    by_cases h : c = 2 ^ (ew + fb) - 1
    · simp [codeValue, h]
    · simp [codeValue, h, hfin]
  | ieee =>
    by_cases h : c / 2 ^ fb = 2 ^ ew - 1
    · by_cases hz : c % 2 ^ fb = 0 <;> simp [codeValue, le_maxCode_ieee_iff hw hc, h, hz]
    · simp [codeValue, le_maxCode_ieee_iff hw hc, h, hfin]

/-- The sign's part of a code. -/
def signBit (ew fb : Nat) (neg : Bool) : Nat := if neg then 2 ^ (ew + fb) else 0

theorem decode_signBit_add {c : Nat} (hc : c < 2 ^ (ew + fb)) (neg : Bool) :
    (Fmt.float true ew fb bias sp).decode (signBit ew fb neg + c) = codeValue (floatMag fb bias) ew fb sp neg c := by
  have hpos : 0 < 2 ^ (ew + fb) := by positivity
  cases neg
  · simp [Fmt.decode, signBit, Nat.mod_eq_of_lt hc, Nat.div_eq_of_lt hc]
  · simp [Fmt.decode, signBit, Nat.mod_eq_of_lt hc, Nat.div_eq_of_lt hc, Nat.add_div_left _ hpos]

theorem signBit_add_mod_two (hw : 1 ≤ ew) (neg : Bool) (c : Nat) : (signBit ew fb neg + c) % 2 = c % 2 := by
  obtain ⟨k, rfl⟩ := Nat.exists_eq_add_of_le' hw
  cases neg
  · simp [signBit]
  · have : 2 ^ (k + 1 + fb) = 2 * 2 ^ (k + fb) := by ring
    simp only [signBit, if_true]
    omega

theorem signBit_add_lt {c : Nat} (hc : c < 2 ^ (ew + fb)) (neg : Bool) : signBit ew fb neg + c < 2 ^ (1 + ew + fb) := by
  have : 2 ^ (1 + ew + fb) = 2 * 2 ^ (ew + fb) := by ring
  cases neg <;> simp only [signBit, if_true, Bool.false_eq_true, if_false] <;> omega

theorem decode_signBit_add_of_le (hw : 1 ≤ ew) {c : Nat} (hc : c ≤ maxCode ew fb sp) (neg : Bool) :
    (Fmt.float true ew fb bias sp).decode (signBit ew fb neg + c) =
      .fin neg (floatMag fb bias c).1 (floatMag fb bias c).2 := by
  have hlt := hc.trans_lt (maxCode_lt)
  rw [decode_signBit_add hlt, codeValue_eq_fin_iff hw hlt]
  exact ⟨hc, rfl, rfl⟩

theorem decode_signBit_add_inf (neg : Bool) :
    (Fmt.float true ew fb bias .ieee).decode (signBit ew fb neg + (2 ^ ew - 1) * 2 ^ fb) = .inf neg := by
  have hew : 2 ^ ew - 1 < 2 ^ ew := Nat.sub_lt (by positivity) one_pos
  rw [decode_signBit_add (pow_add 2 ew fb ▸ Nat.mul_lt_mul_of_pos_right hew (by positivity))]
  simp [codeValue]

/-- A finite value of the format is the magnitude of a code up to the largest. -/
theorem exists_code_of_decode_eq_fin (hw : 1 ≤ ew) {y : Nat} {v : Bool × Nat × Int}
    (h : (Fmt.float true ew fb bias sp).decode y = .fin v.1 v.2.1 v.2.2) :
    ∃ c ≤ maxCode ew fb sp, v = (v.1, floatMag fb bias c) := by
  have hc : y % 2 ^ (ew + fb) < 2 ^ (ew + fb) := Nat.mod_lt _ (by positivity)
  obtain ⟨hle, -, hv⟩ := (codeValue_eq_fin_iff hw hc).mp h
  exact ⟨_, hle, Prod.ext rfl hv.symm⟩

/-- Encode of a finite value is the rounding of its magnitude, with the sign (R59, R60). -/
theorem encode_float_fin {m c : Nat} {ex : Int} {mode : RMode} {past exact : Bool} (hm : m ≠ 0)
    (h : encodeMag (floatMag fb bias) (maxCode ew fb sp) false m ex mode = (c, past, exact)) (neg sat : Bool) :
    (Fmt.float true ew fb bias sp).encode (.fin neg m ex) mode sat =
      if past then
        (signBit ew fb neg + (if sp = .ieee ∧ sat = false ∧ mode ≠ .zero then (2 ^ ew - 1) * 2 ^ fb
          else maxCode ew fb sp), flOverflow ||| flInexact)
      else (signBit ew fb neg + c, if exact then 0 else flInexact) := by
  cases exact <;> simp [Fmt.encode, encodeParam, hm, signBit, h, flIf]

theorem encode_float_inf (neg : Bool) (mode : RMode) (sat : Bool) :
    (Fmt.float true ew fb bias sp).encode (.inf neg) mode sat =
      if sp = .ieee ∧ sat = false then (signBit ew fb neg + (2 ^ ew - 1) * 2 ^ fb, 0)
      else (signBit ew fb neg + maxCode ew fb sp, flInvalid) := by
  simp [Fmt.encode, encodeParam, signBit]

end Float

/-! ### Offset binary -/

/-- A whole number within half of T is nearest to it; another equally near one is at distance half. -/
theorem nat_nearest_of_abs_sub_le_half {T : ℚ} {r : Nat} (h : |T - r| ≤ 1 / 2) (y : Nat) :
    |T - r| ≤ |T - y| ∧ (|T - y| ≤ |T - r| → y = r ∨ |T - r| = 1 / 2) := by
  by_cases hy : y = r
  · subst hy
    exact ⟨le_rfl, fun _ => .inl rfl⟩
  · have hne : (r : Int) - y ≠ 0 := by omega
    have hone : (1 : ℚ) ≤ |(r : ℚ) - y| := by exact_mod_cast Int.one_le_abs hne
    have htri := abs_sub_le (r : ℚ) T y
    rw [abs_sub_comm (r : ℚ) T] at htri
    exact ⟨by linarith, fun hle => .inr (by linarith)⟩

/-- The whole part of a magnitude, as offset binary finds it. -/
def offsetFloor (m : Nat) (e : Int) : Nat := if 0 ≤ e then m * 2 ^ e.toNat else m / 2 ^ (-e).toNat

/-- The whole number to which offset binary rounds a magnitude to the nearest (R66). -/
def offsetRound (m : Nat) (e : Int) : Nat :=
  let lo := offsetFloor m e
  if !magLe m e lo 0 && roundsUp (lo, 0) (lo + 1, 0) (lo % 2 == 1) m e .nearest then lo + 1 else lo

/-- What offset binary does with the rounded number: 128 is added, or it overflows. -/
theorem encodeOffset_fin (neg : Bool) (m : Nat) (e : Int) :
    encodeOffset (.fin neg m e) .nearest =
      let n := offsetRound m e
      let exact := magLe m e (offsetFloor m e) 0
      if neg then if 128 < n then (0, flOverflow ||| flInexact) else (128 - n, flIf (!exact) flInexact)
      else if 127 < n then (255, flOverflow ||| flInexact) else (128 + n, flIf (!exact) flInexact) := rfl

theorem offsetFloor_eq (m : Nat) (e : Int) : offsetFloor m e = ⌊magQ (m, e)⌋₊ := by
  unfold offsetFloor
  split
  case isTrue h =>
    obtain ⟨k, rfl⟩ := Int.eq_ofNat_of_zero_le h
    have hx : magQ (m, (k : Int)) = ((m * 2 ^ k : Nat) : ℚ) := by simp [magQ]
    rw [hx, Nat.floor_natCast, Int.toNat_natCast]
  case isFalse h =>
    obtain ⟨k, hk⟩ := Int.eq_ofNat_of_zero_le (by omega : 0 ≤ -e)
    obtain rfl : e = -k := by omega
    have hx : magQ (m, -(k : Int)) = (m : ℚ) / ((2 ^ k : Nat) : ℚ) := by simp [magQ, div_eq_mul_inv]
    rw [hx, Nat.floor_div_eq_div, neg_neg, Int.toNat_natCast]

theorem offsetRound_near (m : Nat) (e : Int) :
    |magQ (m, e) - offsetRound m e| ≤ 1 / 2 ∧
      (|magQ (m, e) - offsetRound m e| = 1 / 2 → offsetRound m e % 2 = 0) := by
  have hlo := Nat.floor_le (magQ_nonneg (m, e))
  have hhi := Nat.lt_floor_add_one (magQ (m, e))
  simp only [offsetRound, offsetFloor_eq]
  generalize ⌊magQ (m, e)⌋₊ = lo at hlo hhi
  have h1 : magQ (lo, 0) = lo := by simp [magQ]
  have h2 : magQ (lo + 1, 0) = lo + 1 := by simp [magQ]
  split
  case isTrue hup =>
    obtain ⟨-, hup⟩ := (Bool.and_eq_true _ _).mp hup
    rw [roundsUp_nearest_iff, h1, h2, beq_iff_eq] at hup
    push_cast
    rw [abs_of_nonpos (by linarith)]
    rcases hup with h | ⟨h, hodd⟩
    · exact ⟨by linarith, fun _ => by linarith⟩
    · exact ⟨by linarith, fun _ => by omega⟩
  case isFalse hdown =>
    rw [abs_of_nonneg (by linarith)]
    by_cases hexact : magLe m e lo 0 = true
    · rw [magLe_iff, h1] at hexact
      exact ⟨by linarith, fun _ => by linarith⟩
    · have hdown : ¬roundsUp (lo, 0) (lo + 1, 0) (lo % 2 == 1) m e .nearest = true := by simpa [hexact] using hdown
      rw [roundsUp_nearest_iff, h1, h2, beq_iff_eq, not_or, not_lt, not_and] at hdown
      exact ⟨by linarith, fun h => Nat.mod_two_ne_one.mp (hdown.2 (by linarith))⟩

theorem encodeOffset_fin_nearest (neg : Bool) (m : Nat) (e : Int) :
    (encodeOffset (.fin neg m e) .nearest).1 =
      if neg then 128 - offsetRound m e else min 255 (128 + offsetRound m e) := by
  rw [encodeOffset_fin]
  dsimp only
  split_ifs <;> dsimp only <;> omega

theorem decode_offset {y : Nat} (hy : y < 256) :
    ∃ nv mv, Fmt.offset.decode y = .fin nv mv 0 ∧ signedQ (nv, mv, 0) = y - 128 := by
  simp only [Fmt.decode, Nat.mod_eq_of_lt hy]
  split
  case isTrue h => exact ⟨false, y - 128, rfl, by push_cast [signedQ, magQ, h]; simp⟩
  case isFalse h =>
    have hle : y ≤ 128 := by omega
    exact ⟨true, 128 - y, rfl, by push_cast [signedQ, magQ, hle]; simp⟩

/-- Codes of offset binary stand 128 above their numbers: the code of x is the nearest to x + 128, even in a tie. -/
theorem encodeOffset_nearest (neg : Bool) (m : Nat) (e : Int) {r y : Nat}
    (hr : (encodeOffset (.fin neg m e) .nearest).1 = r) (hy : y < 256) :
    |signedQ (neg, m, e) + 128 - r| ≤ |signedQ (neg, m, e) + 128 - y| ∧
      (|signedQ (neg, m, e) + 128 - y| ≤ |signedQ (neg, m, e) + 128 - r| → y = r ∨ r % 2 = 0) := by
  obtain ⟨hhalf, heven⟩ := offsetRound_near m e
  have hy : (y : ℚ) ≤ 255 := by exact_mod_cast Nat.le_of_lt_succ hy
  have hy0 : (0 : ℚ) ≤ y := y.cast_nonneg
  rw [encodeOffset_fin_nearest] at hr
  generalize offsetRound m e = n at hhalf heven hr
  obtain ⟨hlow, -⟩ := abs_le.mp hhalf
  -- where the code is not clamped it is the rounded number, moved by 128
  have inside : ∀ T : ℚ, |T - r| = |magQ (m, e) - n| → r % 2 = n % 2 →
      |T - r| ≤ |T - y| ∧ (|T - y| ≤ |T - r| → y = r ∨ r % 2 = 0) := fun T hT hpar => by
    obtain ⟨hnear, htie⟩ := nat_nearest_of_abs_sub_le_half (hT ▸ hhalf) y
    exact ⟨hnear, fun h => (htie h).imp_right fun h => hpar ▸ heven (hT ▸ h)⟩
  cases neg with
  | true =>
    by_cases hn : n ≤ 128
    · obtain rfl : 128 - n = r := hr
      refine inside _ ?_ (by omega)
      rw [abs_sub_comm (magQ (m, e)), Nat.cast_sub hn]
      congr 1
      simp only [signedQ, if_true]
      push_cast
      ring
    · obtain rfl : r = 0 := by simp only [if_true] at hr; omega
      have hn : (129 : ℚ) ≤ n := by exact_mod_cast not_le.mp hn
      simp only [signedQ, if_true]
      rw [abs_of_nonpos (by push_cast; linarith), abs_of_nonpos (by linarith)]
      push_cast
      exact ⟨by linarith, fun _ => .inr trivial⟩
  | false =>
    by_cases hn : n ≤ 127
    · obtain rfl : 128 + n = r := by simp only [Bool.false_eq_true, if_false] at hr; omega
      refine inside _ ?_ (by omega)
      congr 1
      simp only [signedQ, Bool.false_eq_true, if_false]
      push_cast
      ring
    · obtain rfl : r = 255 := by simp only [Bool.false_eq_true, if_false] at hr; omega
      have hn : (128 : ℚ) ≤ n := by exact_mod_cast not_le.mp hn
      simp only [signedQ, Bool.false_eq_true, if_false]
      rw [abs_of_nonneg (by push_cast; linarith), abs_of_nonneg (by linarith)]
      refine ⟨by push_cast; linarith, fun h => .inl ?_⟩
      push_cast at h
      exact_mod_cast le_antisymm hy (by linarith : (255 : ℚ) ≤ y)

/-! ### The clauses of the statement -/

section Clauses

variable {ew fb m : Nat} {bias ex : Int} {sp : Special} {neg sat : Bool}

/-- A rounding that does not overflow gives the nearest value of the format (R59, R61). -/
theorem encode_nearest_finite (hbits : ew + fb ≤ 31) (hm : m ≠ 0)
    (hpast : roundsUp (floatMag fb bias (maxCode ew fb sp)) (floatMag fb bias (maxCode ew fb sp + 1))
      (maxCode ew fb sp % 2 == 1) m ex .nearest = false) :
    let near := (Fmt.float true ew fb bias sp).encode (.fin neg m ex) .nearest sat
    ∃ c ≤ maxCode ew fb sp, near.1 = signBit ew fb neg + c ∧
      near.2 = (if magQ (floatMag fb bias c) = magQ (m, ex) then 0 else flInexact) ∧
      IsNearestEven (fun c => magQ (floatMag fb bias c)) (maxCode ew fb sp) (magQ (m, ex)) c := by
  have h := encodeMag_nearest (m := m) (e := ex) (magQ_floatMag_strictMono (fb := fb) (bias := bias))
    magQ_floatMag_zero (maxCode_lt_two_pow_33 (sp := sp) hbits) false
  rcases hr : encodeMag (floatMag fb bias) (maxCode ew fb sp) false m ex .nearest with ⟨c, past, exact⟩
  simp only [hr, hpast] at h
  obtain ⟨rfl, hin⟩ := h
  obtain ⟨hnear, rfl⟩ := hin rfl
  rw [encode_float_fin hm hr]
  exact ⟨c, hnear.1, rfl, by simp, hnear⟩

theorem encode_nearest_past (hbits : ew + fb ≤ 31) (hm : m ≠ 0)
    (hpast : roundsUp (floatMag fb bias (maxCode ew fb sp)) (floatMag fb bias (maxCode ew fb sp + 1))
      (maxCode ew fb sp % 2 == 1) m ex .nearest = true) :
    (Fmt.float true ew fb bias sp).encode (.fin neg m ex) .nearest sat =
      (signBit ew fb neg + (if sp = .ieee ∧ sat = false then (2 ^ ew - 1) * 2 ^ fb else maxCode ew fb sp),
        flOverflow ||| flInexact) := by
  have h := encodeMag_nearest (m := m) (e := ex) (magQ_floatMag_strictMono (fb := fb) (bias := bias))
    magQ_floatMag_zero (maxCode_lt_two_pow_33 (sp := sp) hbits) false
  rcases hr : encodeMag (floatMag fb bias) (maxCode ew fb sp) false m ex .nearest with ⟨c, past, exact⟩
  rw [hr, hpast] at h
  obtain ⟨rfl, -⟩ := h
  rw [encode_float_fin hm hr]
  simp

/-- Toward zero the code is the floor, and an overflow keeps the largest (R59-R61). -/
theorem encode_zero_floor (hbits : ew + fb ≤ 31) (hm : m ≠ 0) :
    let zero := (Fmt.float true ew fb bias sp).encode (.fin neg m ex) .zero sat
    ∃ c, zero.1 = signBit ew fb neg + c ∧
      IsFloor (fun c => magQ (floatMag fb bias c)) (maxCode ew fb sp) (magQ (m, ex)) c ∧
      zero.2 = (if magQ (floatMag fb bias (maxCode ew fb sp)) < magQ (m, ex) then flOverflow ||| flInexact
        else if magQ (m, ex) ≤ magQ (floatMag fb bias c) then 0 else flInexact) := by
  have h := encodeMag_zero (m := m) (e := ex) (magQ_floatMag_strictMono (fb := fb) (bias := bias))
    magQ_floatMag_zero (maxCode_lt_two_pow_33 (sp := sp) hbits) false
  rcases hr : encodeMag (floatMag fb bias) (maxCode ew fb sp) false m ex .zero with ⟨c, past, exact⟩
  simp only [hr] at h
  obtain ⟨hfloor, rfl, rfl⟩ := h
  rw [encode_float_fin hm hr]
  by_cases habove : magQ (floatMag fb bias (maxCode ew fb sp)) < magQ (m, ex)
  · obtain rfl : c = maxCode ew fb sp := le_antisymm hfloor.1 (hfloor.2.2 _ le_rfl habove.le)
    exact ⟨_, by simp [habove], hfloor, by simp [habove]⟩
  · exact ⟨c, by simp [habove], hfloor, by simp [habove]⟩

/-- The code of an infinity or an overflow holds an infinity only under the IEEE policy without SAT (R58, R60). -/
theorem decode_inf_or_top (hw : 1 ≤ ew) :
    (Fmt.float true ew fb bias sp).decode (signBit ew fb neg +
        (if sp = .ieee ∧ sat = false then (2 ^ ew - 1) * 2 ^ fb else maxCode ew fb sp)) =
      if sp = .ieee ∧ sat = false then .inf neg
      else .fin neg (floatMag fb bias (maxCode ew fb sp)).1 (floatMag fb bias (maxCode ew fb sp)).2 := by
  split
  case isTrue h => rw [h.1]; exact decode_signBit_add_inf neg
  case isFalse => exact decode_signBit_add_of_le hw le_rfl neg

end Clauses

theorem encode_resident_nan : ∀ c ∈ ([(0, 0x7FC00000, 0), (1, 0x7FC0, 0), (2, 0x7E00, 0), (3, 0x7F, 0), (4, 0x7E, 0),
    (5, 0, flInvalid), (6, 0, flInvalid), (7, 128, flInvalid)] : List (Nat × Nat × BitVec 4)),
    ∀ mode sat, (residentFmt c.1).encode .nan mode sat = (c.2.1, c.2.2) := by
  intro c hc mode sat
  fin_cases hc <;> rfl

/-- Slot 7 takes the nearest code, even in a tie (R66). -/
theorem encode_slot7_nearest (neg sat : Bool) (m : Nat) (ex : Int) :
    let r := ((residentFmt 7).encode (.fin neg m ex) .nearest sat).1
    ∃ nv mv ev, (residentFmt 7).decode r = .fin nv mv ev ∧ r < 256 ∧
      ∀ y < 256, ∀ ny my ey, (residentFmt 7).decode y = .fin ny my ey →
        Nearer (neg, m, ex) (nv, mv, ev) (ny, my, ey) ∧
        (Nearer (neg, m, ex) (ny, my, ey) (nv, mv, ev) → y = r ∨ r % 2 = 0) := by
  intro r
  have hr : (encodeOffset (.fin neg m ex) .nearest).1 = r := rfl
  have hlt : r < 256 := by
    rw [← hr, encodeOffset_fin_nearest]
    split <;> omega
  obtain ⟨nv, mv, hdec, hval⟩ := decode_offset hlt
  refine ⟨nv, mv, 0, hdec, hlt, fun y hy ny my ey hy' => ?_⟩
  obtain ⟨nw, mw, hdecy, hvaly⟩ := decode_offset hy
  obtain ⟨rfl, rfl, rfl⟩ := FV.fin.inj (hdecy.symm.trans hy')
  have hshift : ∀ a : Nat, signedQ (neg, m, ex) - (a - 128) = signedQ (neg, m, ex) + 128 - a := fun a => by ring
  rw [nearer_iff, nearer_iff, hval, hvaly, hshift, hshift]
  exact encodeOffset_nearest neg m ex hr hy

/-- Settles O12: the magnitudes of a format rise strictly with their codes, so the code below x, or the one after it,
is the nearest; the sign never helps a value of the other sign. -/
theorem formatRounding : Obligations.FormatRounding := by
  refine ⟨fun ew fb bias sp neg sat m ex hw hbits hm => ?_, encode_resident_nan,
    fun neg sat m ex _ => encode_slot7_nearest neg sat m ex⟩
  intro fm top last next b twice sum past x finite near zero
  have hpast : past ↔ roundsUp last next (top % 2 == 1) m ex .nearest = true := by
    simp [roundsUp, past, sum, twice, b]
  refine ⟨fun hp => ?_, fun hp => ?_, ?_, fun mode => ?_⟩
  · obtain ⟨c, hc, hcode, hflags, hnear⟩ := encode_nearest_finite (neg := neg) (sat := sat) hbits hm
      (Bool.eq_false_iff.mpr (mt hpast.mpr hp))
    refine ⟨(floatMag fb bias c).1, (floatMag fb bias c).2, ⟨?_, ?_⟩, fun y v hv => ?_, ?_⟩
    · exact hcode ▸ signBit_add_lt (hc.trans_lt maxCode_lt) neg
    · exact hcode ▸ decode_signBit_add_of_le hw hc neg
    · obtain ⟨d, hd, hv⟩ := exists_code_of_decode_eq_fin hw hv.2
      rw [hv, show near.1 = _ from hcode, signBit_add_mod_two hw]
      exact hnear.signed hm hd neg v.1
    · rw [magLe_and_magLe]
      simpa using hflags
  · rw [show near = _ from encode_nearest_past hbits hm (hpast.mp hp)]
    exact ⟨rfl, decode_inf_or_top hw⟩
  · obtain ⟨c, hcode, ⟨hc, hle, hmax⟩, hflags⟩ :=
      encode_zero_floor (bias := bias) (ex := ex) (sp := sp) (neg := neg) (sat := sat) hbits hm
    refine ⟨(floatMag fb bias c).1, (floatMag fb bias c).2, ⟨?_, ?_⟩, magLe_iff.mpr hle, fun y v hv hvle => ?_, ?_⟩
    · exact hcode ▸ signBit_add_lt (hc.trans_lt maxCode_lt) neg
    · exact hcode ▸ decode_signBit_add_of_le hw hc neg
    · obtain ⟨d, hd, hv⟩ := exists_code_of_decode_eq_fin hw hv.2
      rw [hv, magLe_iff] at hvle ⊢
      exact magQ_floatMag_strictMono.monotone (hmax d hd hvle)
    · simpa only [← Bool.not_eq_true, magLe_iff, not_le] using hflags
  · intro r
    have hr : r = _ := encode_float_inf neg mode sat
    have hdec := decode_inf_or_top (fb := fb) (bias := bias) (sp := sp) (neg := neg) (sat := sat) hw
    split
    case isTrue h => rw [if_pos h, if_pos h] at hdec; rw [hr, if_pos h]; exact ⟨hdec, rfl⟩
    case isFalse h => rw [if_neg h, if_neg h] at hdec; rw [hr, if_neg h]; exact ⟨hdec, rfl⟩

end Sys2Proof.Machine
end

section
/-! PROOF. A vector register after a write under a mask (R85). -/

namespace Sys2Proof.Machine

theorem Shape.lane_norm (sh : Shape) (n : Nat) : sh.norm.lane n = sh.lane n := by
  cases sh with
  | affine b st =>
      simp only [Shape.norm]
      split
      · rename_i h
        simp [Shape.lane, h]
      · rfl
  | uniform _ | general _ => rfl

theorem Shape.code_norm (sh : Shape) :
    sh.norm.code = match sh with | .affine _ st => if st = 0 then 0 else 1 | sh => sh.code := by
  cases sh with
  | affine b st => simp only [Shape.norm]; split <;> rfl
  | uniform _ | general _ => rfl

/-- A write under a mask with an active lane replaces the register by this value (R84, R85). -/
def VReg.masked (old : VReg) (w : VWrite) : VReg :=
  if w.mask = allLanes then { sh := w.sh.norm, g := w.g }
  else { sh := .general ((List.range 64).map fun n => if w.mask.getLsbD n then w.sh.lane n else old.sh.lane n),
         g := max old.g w.g }

theorem Troupe.writeV_v_getD_self (t : Troupe) {w : VWrite} (hd : w.d.toNat < 64) (hl : w.d.toNat < t.v.length)
    (hm : w.mask ≠ 0) : (t.writeV w).v.getD w.d.toNat {} = (t.v.getD w.d.toNat {}).masked w := by
  simp only [Troupe.writeV, if_pos hd, if_neg hm, upd, VReg.masked, Troupe.vreg, nth]
  simp [List.getD_eq_getElem?_getD, hl]

/-- Settles O53: a write with no active lane is none, any other puts `VReg.masked` into its register alone. -/
theorem maskedWrite : Obligations.MaskedWrite := by
  intro t w hd hl old new
  have hnew : w.mask ≠ 0 → new = old.masked w := t.writeV_v_getD_self hd hl
  refine ⟨t.writeV_none w, fun h0 (hall : w.mask ≠ allLanes) => ?_,
    fun (hall : w.mask = allLanes) => ?_, fun j hj => t.writeV_v_getD w hj, t.writeV_s w, t.writeV_k w⟩
  · rw [hnew h0, VReg.masked, if_neg hall]
    exact ⟨rfl, rfl, fun n hn => Shape.lane_general_range hn⟩
  · have h0 : w.mask ≠ 0 := by rw [hall]; decide
    rw [hnew h0, VReg.masked, if_pos hall]
    exact ⟨rfl, w.sh.lane_norm, w.sh.code_norm⟩

end Sys2Proof.Machine
end

section
/-! PROOF. Integer types: the values of a type, and the bits of a result (R94, R101-R104). -/

namespace Sys2Proof.Machine

/-! ### Numbers written by their digits -/

theorem foldl_add_range (f : Nat → Nat) (n : Nat) :
    (List.range n).foldl (fun r i => r + f i) 0 = ∑ i ∈ Finset.range n, f i := by
  induction n with
  | zero => rfl
  | succ n ih => rw [List.range_succ, List.foldl_concat, ih, Finset.sum_range_succ]

section Digits
variable {B : Nat} {d : Nat → Nat} (hd : ∀ i, d i < B)
include hd

theorem sum_digits_lt (n : Nat) : ∑ i ∈ Finset.range n, d i * B ^ i < B ^ n := by
  induction n with
  | zero => simp
  | succ n ih =>
      rw [Finset.sum_range_succ, pow_succ']
      have hn : (d n + 1) * B ^ n ≤ B * B ^ n := Nat.mul_le_mul_right _ (hd n)
      rw [Nat.add_mul] at hn
      omega

theorem sum_digits_digit {n j : Nat} (hj : j < n) : (∑ i ∈ Finset.range n, d i * B ^ i) / B ^ j % B = d j := by
  have hB : 0 < B := Nat.zero_lt_of_lt (hd 0)
  induction n with
  | zero => omega
  | succ n ih =>
      rw [Finset.sum_range_succ]
      rcases Nat.lt_or_ge j n with hjn | hjn
      · obtain ⟨k, rfl⟩ : ∃ k, n = j + 1 + k := ⟨n - (j + 1), by omega⟩
        have hpow : d (j + 1 + k) * B ^ (j + 1 + k) = B ^ j * (B * (d (j + 1 + k) * B ^ k)) := by ring
        rw [hpow, Nat.add_mul_div_left _ _ (Nat.pow_pos hB), Nat.add_mul_mod_self_left, ih hjn]
      · obtain rfl : j = n := by omega
        rw [Nat.add_mul_div_right _ _ (Nat.pow_pos hB), Nat.div_eq_of_lt (sum_digits_lt hd j), Nat.zero_add,
          Nat.mod_eq_of_lt (hd j)]

end Digits

/-! ### Values of a type -/

variable {ty : Nat}

theorem tyWidth_pos (ty : Nat) : 0 < tyWidth ty := by simp [tyWidth]

theorem two_pow_tyWidth {R : Type} [CommSemiring R] (ty : Nat) : (2 : R) ^ tyWidth ty = 2 * 2 ^ (tyWidth ty - 1) := by
  rw [← pow_succ', Nat.sub_add_cancel (tyWidth_pos ty)]

/-- A value of an integer type (R40). -/
def IsTyValue (ty : Nat) (x : Int) : Prop := tyLeast ty ≤ x ∧ x ≤ tyGreatest ty

theorem toInt_eq_ite {w : Nat} (x : BitVec w) :
    x.toInt = if 2 ^ (w - 1) ≤ x.toNat then (x.toNat : Int) - 2 ^ w else x.toNat := by
  rw [BitVec.toInt_eq_msb_cond, BitVec.msb_eq_decide]
  simp

/-- Reading the low bits as a type is reading a word of the type's width. -/
theorem tyInt_eq (ty v : Nat) : tyInt ty v =
    if tySigned ty then (BitVec.ofNat (tyWidth ty) v).toInt else ((BitVec.ofNat (tyWidth ty) v).toNat : Int) := by
  rw [toInt_eq_ite, BitVec.toNat_ofNat, tyInt]
  cases tySigned ty <;> simp

theorem ofNat_toNat_emod (w : Nat) (x : Int) : BitVec.ofNat w (x % 2 ^ w).toNat = BitVec.ofInt w x := by
  rw [← BitVec.ofInt_natCast, Int.toNat_of_nonneg (Int.emod_nonneg x (by positivity))]
  apply BitVec.eq_of_toNat_eq
  simp [BitVec.toNat_ofInt]

/-- A result extended as its type is its w bits extended. -/
theorem tyExtend_eq (n ty : Nat) (x : Int) : tyExtend n ty x =
    if tySigned ty then (BitVec.ofInt (tyWidth ty) x).signExtend n else (BitVec.ofInt (tyWidth ty) x).setWidth n := by
  rw [tyExtend, tyInt_eq, ofNat_toNat_emod]
  split
  · rfl
  · rw [BitVec.ofInt_natCast, BitVec.ofNat_toNat]

theorem isTyValue_tyInt (ty v : Nat) : IsTyValue ty (tyInt ty v) := by
  rw [tyInt_eq, IsTyValue, tyLeast, tyGreatest]
  cases tySigned ty
  · have := (BitVec.ofNat (tyWidth ty) v).isLt
    zify at this
    simp only [Bool.false_eq_true, if_false]
    omega
  · have := (BitVec.ofNat (tyWidth ty) v).two_mul_toInt_lt
    have := (BitVec.ofNat (tyWidth ty) v).le_two_mul_toInt
    have hp : (2 : Int) ^ tyWidth ty = 2 * 2 ^ (tyWidth ty - 1) := two_pow_tyWidth ty
    simp only [if_true]
    omega

/-- A value of the type is extended as itself. -/
theorem tyExtend_of_isTyValue {x : Int} (h : IsTyValue ty x) (n : Nat) : tyExtend n ty x = BitVec.ofInt n x := by
  have hp : (2 : Int) ^ tyWidth ty = 2 * 2 ^ (tyWidth ty - 1) := two_pow_tyWidth ty
  obtain ⟨hl, hg⟩ := h
  rw [tyExtend, tyInt_eq, ofNat_toNat_emod]
  rw [tyLeast] at hl
  rw [tyGreatest] at hg
  cases hs : tySigned ty
  · simp only [hs, Bool.false_eq_true, if_false] at hl hg ⊢
    have hx : x % 2 ^ tyWidth ty = x := Int.emod_eq_of_lt hl (by omega)
    rw [BitVec.toNat_ofInt]
    push_cast
    rw [hx, Int.toNat_of_nonneg hl]
  · simp only [hs, if_true] at hl hg ⊢
    rw [BitVec.toInt_ofInt, Int.bmod_eq_of_le_mul_two] <;> push_cast <;> omega

theorem tySat_of_isTyValue {x : Int} (h : IsTyValue ty x) (sat : Bool) : tySat ty sat x = x := by
  obtain ⟨hl, hg⟩ := h
  cases sat
  · rfl
  · simp only [tySat, if_true]
    omega

end Sys2Proof.Machine
end

section
/-! PROOF. Scalar instructions that compute (R94, R101-R107): what they write, bit by bit or as an exact number. -/

namespace Sys2Proof.Machine

variable {i : Instr} {f : Fields} {t : Troupe} {s : State}

/-- A scalar-side instruction that writes D alone (R94). -/
theorem scalarInstr_setD {value : State → Troupe → Fields → GW} (h : ScalarMay i t s) :
    scalarInstr i s (setD value f) = .next (s.scalarNext t (t.writeS f.d (value s t f))) :=
  scalarInstr_done h rfl

theorem exec_setD {value : State → Troupe → Fields → GW} (hi : exec i s = scalarInstr i s (setD value f))
    (h : ScalarMay i t s) : exec i s = .next (s.scalarNext t (t.writeS f.d (value s t f))) :=
  hi.trans (scalarInstr_setD h)

/-! ### Binary and unary operations (R102) -/

theorem toNat_emod (w : Nat) (a : Int) : (a % 2 ^ w).toNat = (BitVec.ofInt w a).toNat := by
  rw [BitVec.toNat_ofInt]
  push_cast
  rfl

theorem testBit_emod (w : Nat) (a : Int) (j : Nat) :
    (a % 2 ^ w).toNat.testBit j = (BitVec.ofInt w a).getLsbD j := by
  rw [toNat_emod, BitVec.testBit_toNat]

theorem intAnd_eq (a b : Int) : intAnd a b = (BitVec.ofInt 64 a &&& BitVec.ofInt 64 b).toNat := by
  rw [BitVec.toNat_and, ← toNat_emod, ← toNat_emod]
  rfl

theorem intOr_eq (a b : Int) : intOr a b = (BitVec.ofInt 64 a ||| BitVec.ofInt 64 b).toNat := by
  rw [BitVec.toNat_or, ← toNat_emod, ← toNat_emod]
  rfl

theorem intXor_eq (a b : Int) : intXor a b = (BitVec.ofInt 64 a ^^^ BitVec.ofInt 64 b).toNat := by
  rw [BitVec.toNat_xor, ← toNat_emod, ← toNat_emod]
  rfl

theorem intAndn_eq (a b : Int) : intAndn a b = (BitVec.ofInt 64 a &&& ~~~BitVec.ofInt 64 b).toNat := by
  rw [BitVec.toNat_and, BitVec.toNat_not, ← toNat_emod, ← toNat_emod]
  rfl

theorem absTy_eq (ty : Nat) (a : Int) : absTy ty a = if a < 0 then -a else a := by
  rw [absTy]
  omega

/-- The leading zero bits are the bits above the highest one. -/
theorem clzTy_eq (ty : Nat) (a : Int) : clzTy ty a =
    (((List.range (tyWidth ty)).find? fun i =>
      (BitVec.ofInt (tyWidth ty) a).getLsbD (tyWidth ty - 1 - i)).getD (tyWidth ty) : Nat) := by
  simp only [clzTy, toNat_emod]
  generalize BitVec.ofInt (tyWidth ty) a = x
  generalize tyWidth ty = w at x
  by_cases h0 : x.toNat = 0
  · have hnone : (List.range w).find? (fun i => x.getLsbD (w - 1 - i)) = none := by
      obtain rfl : x = 0#w := BitVec.eq_of_toNat_eq (by simpa using h0)
      simp
    rw [if_pos h0, hnone]
    rfl
  · have hlt : x.toNat.log2 < w := (Nat.log2_lt h0).mpr x.isLt
    have hsome : (List.range w).find? (fun i => x.getLsbD (w - 1 - i)) = some (w - 1 - x.toNat.log2) := by
      rw [List.find?_range_eq_some]
      refine ⟨?_, by simp; omega, fun j hj => ?_⟩
      · rw [show w - 1 - (w - 1 - x.toNat.log2) = x.toNat.log2 by omega]
        exact Nat.testBit_log2 h0
      · have hbit : x.getLsbD (w - 1 - j) = false :=
          Nat.testBit_lt_two_pow (Nat.lt_of_lt_of_le Nat.lt_log2_self (Nat.pow_le_pow_right (by omega) (by omega)))
        simp [hbit]
    rw [if_neg h0, hsome]
    rfl

theorem popTy_eq (ty : Nat) (a : Int) : popTy ty a =
    (((List.range (tyWidth ty)).filter fun i => (BitVec.ofInt (tyWidth ty) a).getLsbD i).length : Nat) := by
  simp only [popTy, popCount, testBit_emod]

theorem sum_bits {w : Nat} (x : BitVec w) : ∑ j ∈ Finset.range w, (x.getLsbD j).toNat * 2 ^ j = x.toNat := by
  have hd : ∀ j, (x.getLsbD j).toNat < 2 := fun j => Bool.toNat_lt _
  apply Nat.eq_of_testBit_eq
  intro j
  rcases Nat.lt_or_ge j w with hj | hj
  · rw [Nat.testBit_eq_decide_div_mod_eq, sum_digits_digit hd hj, BitVec.testBit_toNat]
    cases x.getLsbD j <;> rfl
  · rw [Nat.testBit_lt_two_pow (Nat.lt_of_lt_of_le (sum_digits_lt hd w) (Nat.pow_le_pow_right (by omega) hj)),
      BitVec.testBit_toNat, BitVec.getLsbD_of_ge x j hj]

/-- Reversed, bit i of w bits has the weight of bit w - 1 - i. -/
theorem brevTy_eq (ty : Nat) (a : Int) : brevTy ty a = (BitVec.ofInt (tyWidth ty) a).reverse.toNat := by
  simp only [brevTy, testBit_emod]
  generalize BitVec.ofInt (tyWidth ty) a = x
  generalize tyWidth ty = w at x
  have hadd : ∀ r i : Nat, (if x.getLsbD i then r + 2 ^ (w - 1 - i) else r) =
      r + (x.getLsbD i).toNat * 2 ^ (w - 1 - i) := fun r i => by
    cases x.getLsbD i <;> simp
  simp only [hadd]
  rw [foldl_add_range fun i => (x.getLsbD i).toNat * 2 ^ (w - 1 - i), ← sum_bits x.reverse,
    ← Finset.sum_range_reflect]
  refine congrArg _ (Finset.sum_congr rfl fun j hj => ?_)
  have hj := Finset.mem_range.mp hj
  have hbit : x.reverse.getLsbD j = x.getLsbD (w - 1 - j) := by
    rw [BitVec.getLsbD_reverse, BitVec.getMsbD, decide_eq_true hj, Bool.true_and]
  rw [hbit, show w - 1 - (w - 1 - j) = j by omega]

/-- Settles O1: each operation of the model is the exact one of R102. -/
theorem scalarArithmetic : Obligations.ScalarArithmetic := by
  refine ⟨fun p hp f t s h => ?_, fun p hp f t s h => ?_⟩
  · have hop : exec (p.1 f) s = scalarInstr (p.1 f) s (setD (binaryValue (p.2 (tyWidth f.ty.toNat))) f) := by
      fin_cases hp
      · rfl
      · rfl
      · rfl
      · rfl
      · exact congrArg (fun op => scalarInstr (.sand f) s (setD (binaryValue op) f)) (funext₂ intAnd_eq)
      · exact congrArg (fun op => scalarInstr (.sor f) s (setD (binaryValue op) f)) (funext₂ intOr_eq)
      · exact congrArg (fun op => scalarInstr (.sxor f) s (setD (binaryValue op) f)) (funext₂ intXor_eq)
      · exact congrArg (fun op => scalarInstr (.sandn f) s (setD (binaryValue op) f)) (funext₂ intAndn_eq)
      · rfl
      · rfl
    rw [exec_setD hop h]
    rfl
  · have hop : exec (p.1 f) s = scalarInstr (p.1 f) s (setD (unaryValue fun ty => p.2 (tyWidth ty)) f) := by
      fin_cases hp
      · exact congrArg (fun op => scalarInstr (.sabs f) s (setD (unaryValue op) f)) (funext₂ absTy_eq)
      · exact congrArg (fun op => scalarInstr (.sclz f) s (setD (unaryValue op) f)) (funext₂ clzTy_eq)
      · exact congrArg (fun op => scalarInstr (.spop f) s (setD (unaryValue op) f)) (funext₂ popTy_eq)
      · exact congrArg (fun op => scalarInstr (.sbrev f) s (setD (unaryValue op) f)) (funext₂ brevTy_eq)
    rw [exec_setD hop h]
    rfl

end Sys2Proof.Machine
end

section
/-! PROOF. Mask instructions, bit by bit (R107). -/

namespace Sys2Proof.Machine

variable {f : Fields} {t : Troupe} {s : State}

theorem getLsbD_bitRun (first n : Nat) {j : Nat} (hj : j < 64) :
    (bitRun first n).getLsbD j = decide (first ≤ j ∧ j < first + n) := by
  rw [bitRun, BitVec.getLsbD_ofNat, decide_eq_true hj, Bool.true_and, Nat.testBit_mul_two_pow,
    Nat.testBit_two_pow_sub_one, ← Bool.decide_and, decide_eq_decide]
  omega

/-- `n` is the index of the best set bit of `v`, 64 where none is set (R107). -/
def IsBitIndex (best : Nat → Nat → Prop) (v : Word) (n : Nat) : Prop :=
  (v = 0 ∧ n = 64) ∨ (n < 64 ∧ v.getLsbD n = true ∧ ∀ j < 64, v.getLsbD j = true → best n j)

theorem isBitIndex_lowestBit (v : Word) : IsBitIndex (· ≤ ·) v (lowestBit v) := by
  rw [lowestBit]
  cases h : (List.range 64).find? fun i => v.getLsbD i with
  | none =>
      refine .inl ⟨BitVec.eq_of_getLsbD_eq fun j hj => ?_, rfl⟩
      simpa using List.find?_eq_none.mp h j (List.mem_range.mpr hj)
  | some n =>
      obtain ⟨hset, hn, hlow⟩ := List.find?_range_eq_some.mp h
      refine .inr ⟨List.mem_range.mp hn, hset, fun j _ hj => ?_⟩
      by_contra hlt
      simpa [hj] using hlow j (Nat.not_le.mp hlt)

theorem isBitIndex_highestBit (v : Word) : IsBitIndex (· ≥ ·) v (highestBit v) := by
  rw [highestBit]
  split
  case isTrue h => exact .inl ⟨h, rfl⟩
  case isFalse h =>
    have h0 : v.toNat ≠ 0 := fun h0 => h (BitVec.eq_of_toNat_eq h0)
    refine .inr ⟨(Nat.log2_lt h0).mpr v.isLt, Nat.testBit_log2 h0, fun j _ hj => ?_⟩
    exact (Nat.le_log2 h0).mpr (Nat.ge_two_pow_of_testBit hj)

/-- Settles O4: the results of R107, the run of kset and the indices of kffs and klast by their bits. -/
theorem maskResults : Obligations.MaskResults := by
  intro f t s a b first result index
  refine ⟨exec_setD (value := mask2 (· &&& ·)) rfl, exec_setD (value := mask2 (· ||| ·)) rfl,
    exec_setD (value := mask2 (· ^^^ ·)) rfl, exec_setD (value := mask2 fun x y => x &&& ~~~y) rfl,
    exec_setD (value := mask1 (~~~·)) rfl, exec_setD (value := mask1 id) rfl, fun h => ?kset, fun h => ?kget,
    exec_setD (value := mask1 fun x => BitVec.ofNat 64 (popCount 64 x.toNat)) rfl,
    fun h => ⟨lowestBit a.v, ?kffs, isBitIndex_lowestBit a.v⟩,
    fun h => ⟨highestBit a.v, ?klast, isBitIndex_highestBit a.v⟩,
    exec_setD (value := mask1 fun x => if x = 0 then 0 else allLanes) rfl⟩
  case kffs => exact exec_setD (value := mask1 fun x => BitVec.ofNat 64 (lowestBit x)) rfl h
  case klast => exact exec_setD (value := mask1 fun x => BitVec.ofNat 64 (highestBit x)) rfl h
  case kset =>
    have hx : exec (.kset f) s = .next (s.scalarNext t (t.writeS f.d (ksetValue s t f))) := exec_setD rfl h
    by_cases hs : f.sub = 0
    · refine ⟨bitRun first (f.imm.toNat / 256 % 128), ?_, fun j hj => ?_⟩
      · rw [hx, if_pos hs, ksetValue, if_pos (beq_iff_eq.mpr hs)]
      · rw [getLsbD_bitRun _ _ hj, if_pos hs]
    · refine ⟨bitRun first (min a.v.toNat (64 - first)), ?_, fun j hj => ?_⟩
      · rw [hx, if_neg hs, ksetValue, if_neg (mt beq_iff_eq.mp hs)]
      · rw [getLsbD_bitRun _ _ hj, if_neg hs]
  case kget =>
    have hx : exec (.kget f) s = .next (s.scalarNext t (t.writeS f.d (kgetValue s t f))) := exec_setD rfl h
    rw [hx, kgetValue]
    split <;> rfl

end Sys2Proof.Machine
end

section
/-! PROOF. Branches, call, ret and jmp (R96, R97). -/

namespace Sys2Proof.Machine

variable {i : Instr} {f : Fields} {t : Troupe} {s : State}

theorem exec_goto {eff : Troupe → State → SRes} {s1 : State} {pc : Word} (hi : exec i s = scalarInstr i s eff)
    (h : ScalarMay i t s) (he : eff t s = .goto s1 pc) : exec i s = .next (s1.endInstr t.id pc) :=
  hi.trans (scalarInstr_goto h he)

/-- Where a branch goes on (R96). -/
def branchTarget (taken : Bool) (f : Fields) (t : Troupe) (s : State) : Word :=
  if taken then t.pc + f.imm.signExtend 64 else t.pc + BitVec.ofNat 64 s.len

theorem branch_eq (taken : Bool) (f : Fields) (t : Troupe) (s : State) :
    branch taken f t s = .goto s (branchTarget taken f t s) := by
  cases taken <;> rfl

theorem exec_branch {taken : Troupe → State → Bool}
    (hi : exec i s = scalarInstr i s fun t s => branch (taken t s) f t s) (h : ScalarMay i t s) :
    exec i s = .next (s.endInstr t.id (branchTarget (taken t s) f t s)) :=
  exec_goto hi h (branch_eq _ f t s)

theorem brcTaken_eq (f : Fields) (a : Int) : brcTaken f a =
    match f.sub.toNat with
    | 0 => decide (a ≠ 0) | 1 => decide (a = 0) | 2 => decide (a < 0) | _ => decide (a ≥ 0) := by
  have h : ∀ n : BitVec 4, (f.sub == n) = (f.sub.toNat == n.toNat) := fun n => by
    rw [Bool.eq_iff_iff, beq_iff_eq, beq_iff_eq, BitVec.toNat_inj]
  simp only [brcTaken, h]
  generalize f.sub.toNat = n
  match n with
  | 0 | 1 => by_cases h0 : a = 0 <;> simp [h0]
  | 2 | n + 3 => rfl

/-- Settles O5: each control instruction leaves the registers, but s127 in call, and goes to one address. -/
theorem controlFlow : Obligations.ControlFlow := by
  refine ⟨fun f t s => ⟨fun h => ?bra, fun h => ?brc, fun h => ?bany, fun h => ?bnone⟩,
    fun f t s => ⟨fun h => ?call, fun h => ?ret, fun h => ?jmp⟩⟩
  case bra => exact exec_branch (taken := fun _ _ => true) rfl h
  case brc =>
    rw [exec_branch (taken := fun t s => brcTaken f (opA s t f).1) rfl h, brcTaken_eq]
    generalize f.sub.toNat = n
    match n with
    | 0 | 1 | 2 | n + 3 => simp only [branchTarget, decide_eq_true_eq]
  case bany =>
    rw [exec_branch (taken := fun t s => branchMask f t s != 0) rfl h]
    simp [branchTarget, branchMask]
  case bnone =>
    rw [exec_branch (taken := fun t s => branchMask f t s == 0) rfl h]
    simp [branchTarget, branchMask]
  case call =>
    rw [exec_goto rfl h rfl]
    simp [afterUnit, Troupe.writeS, upd]
  case ret => exact exec_goto rfl h rfl
  case jmp => exact exec_goto rfl h rfl

end Sys2Proof.Machine
end

section
/-! PROOF. sdiv and srem: the exact quotient toward zero and its remainder, and the two corners (R103). -/

namespace Sys2Proof.Machine

variable {ty : Nat} {a b : Int} {f : Fields} {t t1 : Troupe} {s : State} {i : Instr} {j : Nat}

theorem isTyValue_opA (s : State) (t : Troupe) (f : Fields) : IsTyValue f.ty.toNat (opA s t f).1 :=
  isTyValue_tyInt _ _

theorem isTyValue_opB (s : State) (t : Troupe) (f : Fields) : IsTyValue f.ty.toNat (opB s t f).1 := by
  rw [opB]
  split <;> exact isTyValue_tyInt _ _

theorem tyGreatest_nonneg (ty : Nat) : 0 ≤ tyGreatest ty := by
  have hw := one_le_pow₀ (n := tyWidth ty) (show (1 : Int) ≤ 2 by decide)
  have hp := one_le_pow₀ (n := tyWidth ty - 1) (show (1 : Int) ≤ 2 by decide)
  rw [tyGreatest]
  split <;> omega

theorem tyLeast_eq (ty : Nat) : tyLeast ty = if tySigned ty then -(tyGreatest ty + 1) else 0 := by
  cases h : tySigned ty
  · simp [tyLeast, h]
  · simp [tyLeast, tyGreatest, h]

/-- The one quotient that is no value of its type: the least value of an i type by -1 (R103). -/
abbrev IsCorner (ty : Nat) (a b : Int) : Prop := tySigned ty = true ∧ a = tyLeast ty ∧ b = -1

theorem eq_neg_one_of_tdiv_eq_neg (ha : a < 0) (h : a.tdiv b = -a) : b = -1 := by
  have hb : b.natAbs = 1 := by
    have hq : a.natAbs / b.natAbs = a.natAbs :=
      (Int.natAbs_tdiv a b).symm.trans (by rw [h, Int.natAbs_neg])
    by_contra hne
    rcases Nat.lt_or_ge b.natAbs 1 with h0 | h1
    · rw [Nat.lt_one_iff.mp h0, Nat.div_zero] at hq
      omega
    · have := Nat.div_lt_self (show 0 < a.natAbs by omega) (show 1 < b.natAbs by omega)
      omega
  rcases Int.natAbs_eq_iff.mp hb with rfl | rfl
  · simp at h
    omega
  · rfl

theorem isTyValue_tdiv (ha : IsTyValue ty a) (hb : IsTyValue ty b) (hc : ¬IsCorner ty a b) :
    IsTyValue ty (a.tdiv b) := by
  have habs : (a.tdiv b).natAbs ≤ a.natAbs := Int.natAbs_tdiv a b ▸ Nat.div_le_self _ _
  have hg := tyGreatest_nonneg ty
  have hleast := tyLeast_eq ty
  obtain ⟨hla, hua⟩ := ha
  cases hs : tySigned ty
  · rw [hs, if_neg (by decide)] at hleast
    have := Int.tdiv_nonneg (a := a) (b := b) (by omega) (by rw [← hleast]; exact hb.1)
    constructor <;> omega
  · rw [hs, if_pos rfl] at hleast
    have hq : a < 0 → a.tdiv b = -a → a ≠ tyLeast ty := fun hneg he hal =>
      hc ⟨hs, hal, eq_neg_one_of_tdiv_eq_neg hneg he⟩
    constructor <;> omega

theorem isTyValue_tmod (ha : IsTyValue ty a) : IsTyValue ty (a.tmod b) := by
  have habs : (a.tmod b).natAbs ≤ a.natAbs := Int.natAbs_tmod a b ▸ Nat.mod_le _ _
  have hg := tyGreatest_nonneg ty
  have hleast := tyLeast_eq ty
  obtain ⟨hla, hua⟩ := ha
  rcases Int.le_total 0 a with h0 | h0
  · have := Int.tmod_nonneg b h0
    constructor <;> omega
  · have := Int.tmod_nonneg b (show 0 ≤ -a by omega)
    rw [Int.neg_tmod] at this
    constructor <;> omega

theorem tyExtend_tySat_of_isTyValue {x : Int} (h : IsTyValue ty x) (sat : Bool) :
    tyExtend 64 ty (tySat ty sat x) = BitVec.ofInt 64 x := by
  rw [tySat_of_isTyValue h, tyExtend_of_isTyValue h]

/-- What sdiv writes (R103). -/
theorem tyExtend_divTrunc (ha : IsTyValue ty a) (hb : IsTyValue ty b) (sat : Bool) :
    tyExtend 64 ty (tySat ty sat (divTrunc a b)) = BitVec.ofInt 64
      (if b = 0 then 0
       else if tySigned ty ∧ a = tyLeast ty ∧ b = -1 then (if sat then tyGreatest ty else a)
       else a.tdiv b) := by
  have hg := tyGreatest_nonneg ty
  have hleast := tyLeast_eq ty
  by_cases h0 : b = 0
  · rw [divTrunc, if_pos h0, if_pos h0]
    exact tyExtend_tySat_of_isTyValue ⟨by split at hleast <;> omega, hg⟩ sat
  · rw [divTrunc, if_neg h0, if_neg h0]
    by_cases hc : IsCorner ty a b
    · rw [if_pos hc]
      obtain ⟨hs, rfl, rfl⟩ := hc
      rw [hs, if_pos rfl] at hleast
      have hq : (tyLeast ty).tdiv (-1) = tyGreatest ty + 1 := by simp [hleast]
      rw [hq]
      cases sat
      · have hmod : (tyGreatest ty + 1) % 2 ^ tyWidth ty = tyLeast ty % 2 ^ tyWidth ty := by
          have hp : (2 : Int) ^ tyWidth ty = 2 * 2 ^ (tyWidth ty - 1) := two_pow_tyWidth ty
          have hsum : tyGreatest ty + 1 = tyLeast ty + 2 ^ tyWidth ty := by
            simp only [tyGreatest, tyLeast, hs, if_true]
            omega
          rw [hsum, Int.add_emod_right]
        show tyExtend 64 ty (tyGreatest ty + 1) = BitVec.ofInt 64 (tyLeast ty)
        rw [← tyExtend_of_isTyValue ha, tyExtend, tyExtend, hmod]
      · rw [← tyExtend_of_isTyValue (ty := ty) ⟨by omega, by simp⟩]
        simp only [tySat, if_true]
        congr 1
        omega
    · rw [if_neg hc]
      exact tyExtend_tySat_of_isTyValue (isTyValue_tdiv ha hb hc) sat

/-- What srem writes (R103). -/
theorem tyExtend_remTrunc (ha : IsTyValue ty a) (sat : Bool) :
    tyExtend 64 ty (tySat ty sat (remTrunc a b)) = BitVec.ofInt 64
      (if b = 0 then a else if tySigned ty ∧ a = tyLeast ty ∧ b = -1 then 0 else a - b * a.tdiv b) := by
  have hval : remTrunc a b =
      if b = 0 then a else if tySigned ty ∧ a = tyLeast ty ∧ b = -1 then 0 else a - b * a.tdiv b := by
    rw [remTrunc]
    split
    · rfl
    · split
      case isTrue hc =>
        obtain ⟨_, _, rfl⟩ := hc
        simp
      case isFalse => exact Int.tmod_def a b
  have hrange : IsTyValue ty (remTrunc a b) := by
    rw [remTrunc]
    split
    · exact ha
    · exact isTyValue_tmod ha
  rw [tyExtend_tySat_of_isTyValue hrange, hval]

/-- A division with a flag to name is outstanding next (R88, R89). -/
theorem exec_divide {op : Int → Int → Int} (hi : exec i s = scalarInstr i s (divide i op f)) (h : ScalarMay i t s)
    (hn : t.nameFlag i = .named j t1) : exec i s =
      .next (s.scalarNext t (t1.startOp (t.scalarEntry i (some j))
        { id := 0, instr := i, sdest := sNum f.d, grade := max (opA s t f).2 (opB s t f).2,
          sres := [{ d := f.d, v := binaryValue op s t f }], fl := if (opB s t f).1 = 0 then 8 else 0 })) := by
  have hfl : flIf ((opB s t f).1 == 0) flDivZero = if (opB s t f).1 = 0 then 8 else 0 := by
    simp only [flIf, beq_iff_eq]
    rfl
  rw [hi, ← hfl]
  exact scalarInstr_done (eff := divide i op f) h (by simp only [divide, hn])

/-- Settles O3: what sdiv and srem write is their exact result but for the corner of sdiv. -/
theorem divisionStarts : Obligations.DivisionStarts := by
  intro f t t1 s j a b ty started
  refine ⟨fun h hn => ?_, fun h hn => ?_⟩
  · rw [exec_divide rfl h hn, binaryValue, tyExtend_divTrunc (isTyValue_opA s t f) (isTyValue_opB s t f)]
    simp only [beq_iff_eq, started, a, b, ty]
  · rw [exec_divide rfl h hn, binaryValue, tyExtend_remTrunc (isTyValue_opA s t f)]

end Sys2Proof.Machine
end

section
/-! PROOF. Scalar shifts, bit fields, selects, compares, moves, immediates and addresses (R43, R104-R106). -/

namespace Sys2Proof.Machine

variable {i : Instr} {f : Fields} {t : Troupe} {s : State} {w : Nat}

/-! ### Shifts of w bits (R104) -/

theorem shl_eq (x : BitVec w) (n : Nat) : BitVec.ofInt w (shl w x.toNat n) = x <<< n := by
  apply BitVec.eq_of_toNat_eq
  rw [shl, BitVec.toNat_shiftLeft, Nat.shiftLeft_eq]
  split
  · rw [BitVec.ofInt_natCast, BitVec.toNat_ofNat, Nat.mod_mod]
  · have hdvd : 2 ^ w ∣ x.toNat * 2 ^ n := Dvd.dvd.mul_left (pow_dvd_pow 2 (by omega)) _
    rw [Nat.mod_eq_zero_of_dvd hdvd]
    simp

theorem shr_eq (x : BitVec w) (n : Nat) : BitVec.ofInt w (shr w x.toNat n) = x >>> n := by
  have hx := x.isLt
  apply BitVec.eq_of_toNat_eq
  rw [shr, BitVec.toNat_ushiftRight, Nat.shiftRight_eq_div_pow]
  split
  · have hlt := Nat.div_le_self x.toNat (2 ^ n)
    rw [BitVec.ofInt_natCast, BitVec.toNat_ofNat, Nat.mod_eq_of_lt (by omega)]
  · rw [Nat.div_eq_of_lt (Nat.lt_of_lt_of_le hx (Nat.pow_le_pow_right (by decide) (by omega)))]
    simp

theorem sra_eq (x : BitVec w) (n : Nat) : BitVec.ofInt w (sra w x.toNat n) = x.sshiftRight n := by
  have hsra : sra w x.toNat n = if n < w then x.toInt / 2 ^ n else if x.toInt < 0 then -1 else 0 := by
    have hneg : x.toInt < 0 ↔ 2 ^ (w - 1) ≤ x.toNat := by
      have := x.isLt
      zify at this
      rw [toInt_eq_ite]
      split <;> omega
    simp only [sra, hneg]
    rw [toInt_eq_ite]
  rw [hsra, BitVec.sshiftRight, Int.shiftRight_eq_div_pow]
  push_cast
  split
  · rfl
  · have hpos : (0 : Int) < 2 ^ n := by positivity
    have hle : (2 : Int) ^ w ≤ 2 ^ n := pow_le_pow_right₀ (by decide) (by omega)
    have hlow := x.le_two_mul_toInt
    have hhigh := x.two_mul_toInt_lt
    congr 1
    split
    · have := Int.ediv_neg_of_neg_of_pos ‹x.toInt < 0› hpos
      have := Int.le_ediv_of_mul_le hpos (show -1 * 2 ^ n ≤ x.toInt by omega)
      omega
    · exact (Int.ediv_eq_zero_of_lt (by omega) (by omega)).symm

theorem rol_eq (hw : 0 < w) (x : BitVec w) (n : Nat) : BitVec.ofInt w (rol w x.toNat n) = x.rotateLeft n := by
  apply BitVec.eq_of_toNat_eq
  have hk : n % w < w := Nat.mod_lt n hw
  rw [rol, BitVec.toNat_rotateLeft, BitVec.ofInt_natCast, BitVec.toNat_ofNat, Nat.shiftLeft_eq,
    Nat.shiftRight_eq_div_pow]
  generalize n % w = k at hk
  have hpow : 2 ^ w = 2 ^ k * 2 ^ (w - k) := by rw [← pow_add, Nat.add_sub_cancel' hk.le]
  have hhigh : x.toNat * 2 ^ k % 2 ^ w = 2 ^ k * (x.toNat % 2 ^ (w - k)) := by
    rw [hpow, Nat.mul_comm, Nat.mul_mod_mul_left]
  have hlow : x.toNat / 2 ^ (w - k) < 2 ^ k := Nat.div_lt_of_lt_mul (by rw [Nat.mul_comm, ← hpow]; exact x.isLt)
  have hor := Nat.two_pow_add_eq_or_of_lt hlow (x.toNat % 2 ^ (w - k))
  rw [hhigh, hor, Nat.mod_eq_of_lt]
  exact Nat.or_lt_two_pow (hhigh ▸ Nat.mod_lt _ (by positivity))
    (Nat.lt_of_lt_of_le hlow (Nat.pow_le_pow_right (by decide) hk.le))

/-- What a shift writes: the w bits of its result, extended (R94, R104). -/
theorem shiftValue_eq {op : Nat → Nat → Nat → Int}
    {sh : BitVec (tyWidth f.ty.toNat) → Nat → BitVec (tyWidth f.ty.toNat)}
    (hop : ∀ x n, BitVec.ofInt (tyWidth f.ty.toNat) (op (tyWidth f.ty.toNat) x.toNat n) = sh x n) :
    shiftValue op s t f =
      { v := if tySigned f.ty.toNat then (sh ((readS s t f.a).v.setWidth _) (scalarShift s t f)).signExtend 64
          else (sh ((readS s t f.a).v.setWidth _) (scalarShift s t f)).setWidth 64,
        g := if f.sub.getLsbD 3 then (readS s t f.a).g else max (readS s t f.a).g (readS s t f.b).g } := by
  rw [← hop, ← tyExtend_eq, BitVec.toNat_setWidth]
  rfl

/-! ### Bit fields (R105) -/

theorem getLsbD_insertValue (s : State) (t : Troupe) (f : Fields) {j : Nat} (hj : j < 64) :
    (insertValue s t f).v.getLsbD j =
      if f.imm.toNat % 64 ≤ j ∧ j < f.imm.toNat % 64 + f.imm.toNat / 256
      then (readS s t f.a).v.getLsbD (j - f.imm.toNat % 64) else (readS s t f.d).v.getLsbD j := by
  simp only [insertValue, BitVec.getLsbD_or, BitVec.getLsbD_and, BitVec.getLsbD_not, BitVec.getLsbD_shiftLeft,
    BitVec.getLsbD_ofNat, Nat.testBit_two_pow_sub_one, hj, decide_true, Bool.true_and]
  generalize f.imm.toNat % 64 = pos
  generalize f.imm.toNat / 256 = len
  have hsub : j - pos < 64 := by omega
  rcases Nat.lt_or_ge j pos with hp | hp
  · simp [hp, Nat.not_le.mpr hp]
  · have hiff : j - pos < len ↔ j < pos + len := by omega
    by_cases hl : j < pos + len <;> simp [hp, Nat.not_lt.mpr hp, hl, hiff, hsub]

/-- Where an instruction decodes, its own conditions on its fields hold (R94). -/
theorem own_of_decodeFault_eq_none {st : Bool} {r : Row} (h : decodeFault st i = none) (hr : i.row = some r)
    (hf : i.fields = some f) : r.extra.own f = true := by
  simp only [decodeFault, hr, hf] at h
  split at h
  · cases hr
  · split_ifs at h with _ _ _ _ hown
    simpa using hown

/-- The field of sxtr has at least one bit (R105). -/
theorem one_le_field_of_decodes (h : decodeFault false (.sxtr f) = none) : 1 ≤ f.imm.toNat / 256 := by
  have hown : Extra.bitField.own f = true := own_of_decodeFault_eq_none h rfl rfl
  simp only [Extra.own, Bool.and_eq_true, bne_iff_ne] at hown
  omega

/-- The field of sxtr is a word of its length, extended as the type. -/
theorem extractValue_eq (s : State) (t : Troupe) (f : Fields) : (extractValue s t f).v =
    let x := ((readS s t f.a).v >>> (f.imm.toNat % 64)).setWidth (f.imm.toNat / 256)
    if tySigned f.ty.toNat then x.signExtend 64 else x.setWidth 64 := by
  have hx : (((readS s t f.a).v >>> (f.imm.toNat % 64)).setWidth (f.imm.toNat / 256)).toNat =
      (readS s t f.a).v.toNat / 2 ^ (f.imm.toNat % 64) % 2 ^ (f.imm.toNat / 256) := by
    rw [BitVec.toNat_setWidth, BitVec.toNat_ushiftRight, Nat.shiftRight_eq_div_pow]
  rw [extractValue, ← hx]
  cases tySigned f.ty.toNat
  · exact (BitVec.ofInt_natCast _ _).trans (BitVec.ofNat_toNat _ _)
  · simp only [if_true, Bool.true_and, decide_eq_true_eq, BitVec.signExtend, toInt_eq_ite]

theorem getLsbD_extractValue (h : decodeFault false (.sxtr f) = none) (s : State) (t : Troupe) {j : Nat} (hj : j < 64) :
    (extractValue s t f).v.getLsbD j =
      if j < f.imm.toNat / 256 then (readS s t f.a).v.getLsbD (f.imm.toNat % 64 + j)
      else tySigned f.ty.toNat && (readS s t f.a).v.getLsbD (f.imm.toNat % 64 + f.imm.toNat / 256 - 1) := by
  have hlen := one_le_field_of_decodes h
  rw [extractValue_eq]
  generalize f.imm.toNat / 256 = len at hlen
  generalize f.imm.toNat % 64 = pos
  have hadd : pos + len - 1 = pos + (len - 1) := by omega
  rw [hadd]
  have hl : len - 1 < len := by omega
  cases tySigned f.ty.toNat
  · simp [BitVec.getLsbD_setWidth, hj]
  · rw [if_pos rfl, BitVec.getLsbD_signExtend, BitVec.msb_eq_getLsbD_last]
    split <;> simp [*]

/-! ### Compares and immediates (R106) -/

theorem cmpHolds_eq (n : Nat) (a b : Int) : cmpHolds n a b =
    match n with
    | 0 => a == b | 1 => a != b
    | 2 => decide (a < b) | 3 => decide (a ≥ b)
    | 4 => decide (a ≤ b) | _ => decide (a > b) := by
  match n with
  | 0 | 1 | 2 | 3 | 4 | n + 5 => rfl

theorem append_eq_shiftLeft_or (x : BitVec 32) (y : Word) :
    x ++ y.setWidth 32 = (x.setWidth 64 <<< 32) ||| (y &&& 0xFFFFFFFF) := by
  have hmask : (0xFFFFFFFF : Word) = (BitVec.allOnes 32).setWidth 64 := rfl
  apply BitVec.eq_of_getLsbD_eq
  intro j hj
  rw [hmask]
  simp only [BitVec.getLsbD_append, BitVec.getLsbD_or, BitVec.getLsbD_and, BitVec.getLsbD_shiftLeft,
    BitVec.getLsbD_setWidth, BitVec.getLsbD_allOnes]
  by_cases hlow : j < 32
  · simp [hlow, hj]
  · have hhigh : j - 32 < 64 := by omega
    simp [hlow, hj, hhigh]

theorem memAddr_eq (a b : GW) (f : Fields) : memAddr a b f =
    if f.modx.getLsbD 3 then a.v + (b.v <<< (f.modx.toNat % 4)) + f.imm.signExtend 64
    else a.v + f.imm.signExtend 64 := by
  rw [memAddr]
  split <;> simp

/-- Settles O2: the shifts through their w bits, the bit fields bit by bit, the others by what they write. -/
theorem scalarShiftsAndMoves : Obligations.ScalarShiftsAndMoves := by
  constructor
  · intro f t s w a n g result
    have shift : ∀ {i op} {sh : BitVec w → Nat → BitVec w},
        (∀ x n, BitVec.ofInt w (op w x.toNat n) = sh x n) → exec i s = scalarInstr i s (setD (shiftValue op) f) →
        ScalarMay i t s → exec i s = result (sh a n) := fun hop hi h => by
      rw [exec_setD hi h, shiftValue_eq hop]
      rfl
    exact ⟨shift shl_eq rfl, shift shr_eq rfl, shift sra_eq rfl, shift (rol_eq (tyWidth_pos _)) rfl⟩
  · intro f t s a b c d pos len result
    refine ⟨fun h => ⟨_, exec_setD (value := insertValue) rfl h, fun j hj => getLsbD_insertValue s t f hj⟩,
      fun h => ⟨_, exec_setD (value := extractValue) rfl h, fun j hj => getLsbD_extractValue h.2.2.2.2.1 s t hj⟩,
      fun h => ?ssel, fun h => ?scmp, exec_setD (value := moveValue) rfl, exec_setD (value := immValue) rfl,
      fun h => ?sliHi, fun h => ?sadr⟩
    case ssel =>
      rw [exec_setD (value := selectValue) rfl h]
      simp only [selectValue, bne_iff_ne, ite_not, result, a, b, c]
    case scmp =>
      rw [exec_setD (value := compareValue) rfl h]
      exact congrArg (fun p : Bool => result (if p then 1 else 0) _) (cmpHolds_eq _ _ _)
    case sliHi =>
      rw [exec_setD (value := immHighValue) rfl h, immHighValue, append_eq_shiftLeft_or]
    case sadr =>
      rw [exec_setD (value := addressValue) rfl h, addressValue, memAddr_eq]

end Sys2Proof.Machine
end

section
/-! PROOF. What scalar, mask and branch instructions leave unchanged (R82, R94, R96, R97, R107). -/

namespace Sys2Proof.Machine

variable {i : Instr} {f : Fields} {t u : Troupe} {s s1 : State} {d : Nat} {pc : Word}

/-! ### Going on to the next unit -/

/-- A troupe that goes on to an address, its clause retired with its last instruction (R38). -/
def Troupe.advance (t : Troupe) (pc : Word) : Troupe := if 1 < t.left then t.goesOn pc else t.retires pc

theorem State.endInstr_of_unreported (ht : s.troupe? t.id = some t) (hl : 0 < t.left) (hr : t.reports = []) :
    s.endInstr t.id pc =
      (s.setTroupe (t.advance pc)).modRing t.id.ring (Ring.countMile (t.left == 1 && t.mile)) := by
  by_cases h1 : 1 < t.left
  · have hn : (t.left == 1) = false := by simp; omega
    rw [State.endInstr_within ht h1 (Troupe.quiet_of_unreported rfl hr), hn, Bool.false_and,
      State.modRing_countMile_false, Troupe.advance, if_pos h1]
  · have hn : t.left = 1 := by omega
    rw [State.endInstr_last ht hn (Troupe.quiet_of_unreported rfl hr), Troupe.advance, if_neg h1]
    simp [hn]

theorem State.ring_modRing_countMile (s : State) (r q : Nat) (mile : Bool) :
    ((s.modRing r (Ring.countMile mile)).ring q).stream = (s.ring q).stream ∧
    ((s.modRing r (Ring.countMile mile)).ring q).grants = (s.ring q).grants := by
  have hfind : (s.modRing r (Ring.countMile mile)).ring? q =
      (s.ring? q).map fun x => if x.id == r then x.countMile mile else x :=
    find?_updWhere_of_key s.rings _ (fun x => x.id == q) _ fun x => by rw [Ring.countMile_id]
  simp only [State.ring, hfind]
  cases s.ring? q with
  | none => exact ⟨rfl, rfl⟩
  | some x =>
      simp only [Option.map_some, Option.getD_some, Ring.countMile]
      split_ifs <;> exact ⟨rfl, rfl⟩

/-! ### What a troupe keeps -/

/-- The troupe keeps everything that `ScalarFrame` names but scalar-class register `d`. -/
def Troupe.KeepsBut (t u : Troupe) (d : Nat) : Prop :=
  u.v = t.v ∧ u.w = t.w ∧ u.ac = t.ac ∧ u.sticky = t.sticky ∧ u.utag = t.utag ∧
    u.up = t.up ∧ u.down = t.down ∧ u.ops = t.ops ∧ u.vq = t.vq ∧ u.stopped = t.stopped ∧ u.age = t.age ∧
    (∀ n, n ≠ d → u.s.getD n {} = t.s.getD n {}) ∧ (∀ n, 0x80 + n ≠ d → u.k.getD n {} = t.k.getD n {})

theorem Troupe.keepsBut_self (t : Troupe) (d : Nat) : t.KeepsBut t d :=
  ⟨rfl, rfl, rfl, rfl, rfl, rfl, rfl, rfl, rfl, rfl, rfl, fun _ _ => rfl, fun _ _ => rfl⟩

theorem Troupe.keepsBut_writeS (t : Troupe) (d : BitVec 8) (x : GW) : t.KeepsBut (t.writeS d x) d.toNat := by
  simp only [KeepsBut, writeS_v, writeS_w, writeS_ac, writeS_sticky, writeS_utag, writeS_up, writeS_down, writeS_ops,
    writeS_vq, writeS_stopped, writeS_age, true_and]
  exact ⟨t.writeS_s d x, t.writeS_k d x⟩

theorem Troupe.KeepsBut.advance (h : t.KeepsBut u d) (pc : Word) : t.KeepsBut (u.advance pc) d := by
  rw [Troupe.advance]
  split <;> exact h

theorem Troupe.advance_id (t : Troupe) (pc : Word) : (t.advance pc).id = t.id := by
  rw [Troupe.advance]
  split <;> rfl

theorem scalarFrame_of_keepsBut {r : Nat} {mile : Bool} (ht : s.troupe? t.id = some t) (hid : u.id = t.id)
    (hk : t.KeepsBut u d) : ScalarFrame s ((s.setTroupe u).modRing r (Ring.countMile mile)) t d :=
  ⟨rfl, s.readLoc_setTroupe u, rfl, rfl, rfl, rfl, fun _ hne => s.troupe?_setTroupe_ne (hid.symm ▸ hne),
    fun q => (s.setTroupe u).ring_modRing_countMile r q mile, u, hid ▸ s.troupe?_setTroupe (t := u) (hid ▸ ht), hk⟩

theorem scalarFrame_endInstr (h : ScalarMay i t s) (hr : t.reports = []) : ScalarFrame s (s.endInstr t.id pc) t d := by
  obtain ⟨_, ht, hl, _⟩ := h
  rw [State.endInstr_of_unreported ht hl hr]
  exact scalarFrame_of_keepsBut ht (t.advance_id pc) ((t.keepsBut_self d).advance pc)

theorem scalarFrame_writeS (h : ScalarMay i t s) (hr : t.reports = []) (x : BitVec 8) (v : GW) :
    ScalarFrame s ((s.setTroupe (t.writeS x v)).endInstr t.id pc) t x.toNat := by
  obtain ⟨_, ht, hl, _⟩ := h
  have hid : (t.writeS x v).id = t.id := t.writeS_id x v
  have ha : ((t.writeS x v).advance pc).id = t.id := (Troupe.advance_id _ pc).trans hid
  have hu : (s.setTroupe (t.writeS x v)).troupe? (t.writeS x v).id = some (t.writeS x v) :=
    s.troupe?_setTroupe (hid ▸ ht)
  rw [← hid, State.endInstr_of_unreported hu (t.writeS_left x v ▸ hl) ((t.writeS_reports x v).trans hr),
    s.setTroupe_setTroupe (Troupe.advance_id _ pc)]
  exact scalarFrame_of_keepsBut ht ha ((t.keepsBut_writeS x v).advance pc)

/-! ### The instructions -/

/-- The scalar and mask instructions that compute write D alone (R94, R107). -/
theorem exec_eq_setD (f : Fields) (s : State) : ∀ c ∈ [Instr.sadd, .ssub, .smul, .smulhi, .sand, .sor, .sxor, .sandn,
      .smin, .smax, .sabs, .sclz, .spop, .sbrev, .sshl, .sshr, .ssra, .srol, .sins, .sxtr, .ssel, .scmp, .smov, .sli,
      .sliHi, .sadr, .kand, .kor, .kxor, .kandn, .knot, .kmov, .kset, .kget, .kpop, .kffs, .klast, .kbcast],
    ∃ value, exec (c f) s = scalarInstr (c f) s (setD value f) := by
  intro c hc
  fin_cases hc <;> exact ⟨_, rfl⟩

/-- The branches, jmp and ret go to an address and write nothing (R96, R97). -/
theorem exec_jump : ∀ c ∈ [Instr.bra, .brc, .bany, .bnone, .jmp, .ret], ScalarMay (c f) t s →
    ∃ pc, exec (c f) s = .next (s.endInstr t.id pc) := by
  simp only [List.forall_mem_cons, List.not_mem_nil, false_imp_iff, implies_true, and_true]
  exact ⟨fun h => ⟨_, exec_branch (taken := fun _ _ => true) rfl h⟩,
    fun h => ⟨_, exec_branch (taken := fun t s => brcTaken f (opA s t f).1) rfl h⟩,
    fun h => ⟨_, exec_branch (taken := fun t s => branchMask f t s != 0) rfl h⟩,
    fun h => ⟨_, exec_branch (taken := fun t s => branchMask f t s == 0) rfl h⟩,
    fun h => ⟨_, exec_goto rfl h rfl⟩, fun h => ⟨_, exec_goto rfl h rfl⟩⟩

/-- Settles O54: each instruction goes on from its troupe as it stands or with one register written. -/
theorem scalarFrames : Obligations.ScalarFrames := by
  intro f t s s1 hr _
  refine ⟨fun c hc h hx => ?_, fun c hc h hx => ?_, fun h hx => ?_⟩
  · obtain ⟨value, hi⟩ := exec_eq_setD f s c hc
    obtain rfl := Host.Outcome.next.inj ((exec_setD hi h).symm.trans hx)
    exact scalarFrame_writeS h hr f.d _
  · obtain ⟨pc, he⟩ := exec_jump c hc h
    obtain rfl := Host.Outcome.next.inj (he.symm.trans hx)
    exact scalarFrame_endInstr h hr
  · obtain rfl := Host.Outcome.next.inj ((exec_goto (i := .call f) rfl h rfl).symm.trans hx)
    exact scalarFrame_writeS h hr 127 _

end Sys2Proof.Machine
end

section
/-! PROOF. How results and replies reach the registers (R88, R230-R232, R236, R238). -/

namespace Sys2Proof.Machine

variable {s : State} {t : Troupe} {o : Op} {lane : Nat}

/-- The device's event names operation `o` of troupe `t`. -/
structure EventOf (s : State) (t : Troupe) (o : Op) : Prop where
  troupe : s.troupe? t.id = some t
  op : t.op? o.id = some o
  ring : s.ev.ring = t.id.ring
  idx : s.ev.idx = t.id.idx
  number : s.ev.op = o.id

theorem EventOf.id_eq (h : EventOf s t o) : (⟨s.ev.ring, s.ev.idx⟩ : TroupeId) = t.id := by
  rw [h.ring, h.idx]

theorem exec_longLatencyComplete (h : EventOf s t o) :
    exec .longLatencyComplete s = .next ((completeLong t.id o.id s).settle t.id) := by
  rw [← h.id_eq, ← h.number]
  rfl

theorem exec_splitLoadReply (h : EventOf s t o) :
    exec .splitLoadReply s = .next ((splitReply t.id o.id s.ev.lane s).settle t.id) := by
  rw [← h.id_eq, ← h.number]
  rfl

theorem exec_atomicReply (h : EventOf s t o) :
    exec .atomicReply s = .next ((atomicReply t.id o.id s.ev.lane s).settle t.id) := by
  rw [← h.id_eq, ← h.number]
  rfl

theorem completeLong_results (h : EventOf s t o) (hi : isLoad o.instr = false) (hl : o.lanes = [])
    (hr : o.vres ≠ [] ∨ o.sres ≠ []) : completeLong t.id o.id s = s.setTroupe ((t.writeResults o).endOp o) := by
  have hres : (!o.vres.isEmpty || !o.sres.isEmpty) = true := by simpa using hr
  simp only [completeLong, h.troupe, h.op, hi, hl, hres, List.isEmpty_nil, Bool.true_and, Bool.false_eq_true, if_false,
    if_true]

theorem completeLong_load (h : EventOf s t o) (hi : isLoad o.instr = true) (hh : o.held = true)
    (hl : ∃ l ∈ o.lanes, l.st.isReply = true) :
    completeLong t.id o.id s = deliverOp t.id o.id (s.setTroupe (t.modOp o.id Op.arriveAll)) := by
  have hany : (o.lanes.any fun l => l.st.isReply) = true := List.any_eq_true.mpr hl
  simp only [completeLong, h.troupe, h.op, hi, hh, hany, Bool.and_self, if_true]

/-- A split-phase vector load writes the lane, raises the grade and lowers the counter (R231, R232). -/
theorem splitReply_vldAc {f : Fields} {l : LaneRec} {vals : List Word} (h : EventOf s t o) (hi : o.instr = .vldAc f)
    (hh : o.held = false) (hd : f.d.toNat < 64) (hf : o.lanes.find? (fun l => l.lane == lane) = some l)
    (hl : l.st = .reply vals) :
    splitReply t.id o.id lane s =
      (s.setTroupe ((Troupe.lowerCounter { t with v := t.v.modify f.d.toNat fun _ =>
        { sh := .general ((List.range 64).map fun n => if n = lane then
              tyExtend 32 f.ty.toNat (tyInt f.ty.toNat (vals.getD 0 0).toNat) else (t.vreg f.d.toNat).sh.lane n),
          g := max (t.vreg f.d.toNat).g o.rgrade } } o.ac).setLane o.id lane .done)).tidyOp t.id o.id := by
  have hfields : (some o).bind (fun o => o.instr.fields) = some f := by rw [Option.bind_some, hi]; rfl
  simp only [splitReply, h.troupe, h.op, hfields, hf, Option.map_some, hl, hh, hi, hd, isScalarAccess, laneValue,
    isAtomic, Bool.false_eq_true, if_false, if_true]
  rfl

/-- A reply of the operation is still on its way. -/
def Troupe.awaitsReply (t : Troupe) (op : Nat) : Bool :=
  match t.op? op with
  | some o => o.lanes.any fun l => l.st.isReply
  | none => false

theorem atomicReply_eq {l : LaneRec} {vals : List Word} (h : EventOf s t o) (hi : isAtomic o.instr = true)
    (hf : o.lanes.find? (fun l => l.lane == lane) = some l) (hl : l.st = .reply vals) :
    let u := (t.setLane o.id lane (.got vals)).raise ((vals.getD 2 0).setWidth 4)
    atomicReply t.id o.id lane s =
      if u.awaitsReply o.id then s.setTroupe u else deliverOp t.id o.id (s.setTroupe u) := by
  simp only [atomicReply, h.troupe, h.op, hf, Option.map_some, hl, hi, if_true]
  rfl

/-- Settles O22: each event by what its operation is, at the operation that it names. -/
theorem repliesArrive : Obligations.RepliesArrive := by
  intro s t o ht ho hring hidx hnum
  have h : EventOf s t o := ⟨ht, ho, hring, hidx, hnum⟩
  have settled : ∀ {s1 s2 : State}, s1 = s2 → (.next (s1.settle t.id) : Out) = .next (s2.settle t.id) :=
    congrArg fun s : State => (.next (s.settle t.id) : Out)
  rw [exec_longLatencyComplete h, exec_splitLoadReply h, exec_atomicReply h]
  exact ⟨fun hi hl hr => settled (completeLong_results h hi hl hr),
    fun hi hh hl => settled (completeLong_load h hi hh hl),
    fun f l vals hi hh hd hf hl => settled (splitReply_vldAc h hi hh hd hf hl),
    fun l vals hi hf hl => settled (atomicReply_eq h hi hf hl)⟩

end Sys2Proof.Machine
end

section
/-! PROOF. Status registers, the cycle counter, the age stamp, nop and sleep (R95, R99, R100, R329). -/

namespace Sys2Proof.Machine

variable {i : Instr} {f : Fields} {t : Troupe} {s s1 : State}

theorem exec_done_of {eff : Troupe → State → SRes} (hi : exec i s = scalarInstr i s eff) (h : ScalarMay i t s)
    (he : eff t s = .done s1) : exec i s = .next (s1.endInstr t.id (t.pc + BitVec.ofNat 64 s.len)) :=
  hi.trans (scalarInstr_done h he)

/-! ### The words of rdsr (R99) -/

/-- The shape codes of 32 registers are the digits of their word to base 4. -/
theorem shapeWord_digit (t : Troupe) (first : Nat) {j : Nat} (hj : j < 32) :
    (shapeWord t first).toNat / 4 ^ j % 4 = (t.vreg (first + j)).sh.code := by
  have hcode : ∀ j, (t.vreg (first + j)).sh.code < 4 := fun j => by
    cases (t.vreg (first + j)).sh <;> simp [Shape.code]
  have hlt : _ < 2 ^ 64 := sum_digits_lt hcode 32
  rw [shapeWord, foldl_add_range fun j => (t.vreg (first + j)).sh.code * 4 ^ j, BitVec.toNat_ofNat,
    Nat.mod_eq_of_lt hlt, sum_digits_digit hcode hj]

/-- Bit j of WFLAGS stands for wait flag j. -/
theorem getLsbD_wflags (t : Troupe) (j : Nat) : t.wflags.getLsbD j = (decide (j < 12) && t.w.getD j 0 != 0) := by
  have hadd : ∀ m j : Nat, (if nth t.w j 0 = 0 then m else m + 2 ^ j) = m + (t.w.getD j 0 != 0).toNat * 2 ^ j :=
    fun m j => by
      rw [nth]
      cases t.w.getD j 0 <;> simp
  have hd : ∀ j, (t.w.getD j 0 != 0).toNat < 2 := fun j => Bool.toNat_lt _
  simp only [Troupe.wflags, hadd]
  rw [foldl_add_range fun j => (t.w.getD j 0 != 0).toNat * 2 ^ j, BitVec.getLsbD_ofNat]
  by_cases hj : j < 12
  · rw [Nat.testBit_eq_decide_div_mod_eq, sum_digits_digit hd hj]
    cases t.w.getD j 0 != 0 <;> simp [hj]
  · simp [hj]

theorem Shape.isGeneral_eq (sh : Shape) : sh.isGeneral = (sh.code == 2) := by
  cases sh <;> rfl

/-- rdsr reads at once, the shape registers where nothing is dispatched and no vector result outstanding. -/
theorem exec_rdsr (h : ScalarMay (.rdsr f) t s)
    (hq : shapeReg f.imm.toNat = true → t.vq = [] ∧ t.pending.filter (256 ≤ ·) = []) :
    exec (.rdsr f) s = .next (s.scalarNext t (t.writeS f.d (statusReg s t f.imm.toNat))) := by
  refine exec_done_of rfl h ?_
  cases hr : shapeReg f.imm.toNat
  · simp [hr]
  · obtain ⟨hv, hp⟩ := hq hr
    simp only [hr, hv, hp, List.isEmpty_nil, Bool.not_true, Bool.and_false, Bool.false_eq_true, if_false]

/-! ### sleep (R100) -/

theorem exec_sleep_begins (h : ScalarMay (.sleep f) t s) (hw : ∀ u, t.wait ≠ some (.sleep u)) :
    exec (.sleep f) s = .next (s.blockScalar t.id (.sleep (s.tickOf t.id.ring + sleepCycles f s t))) := by
  refine (scalarInstr_wait (w := .sleep (s.tickOf t.id.ring + sleepCycles f s t)) (s1 := s) h ?_)
  split
  · exact absurd ‹_› (hw _)
  · rfl

theorem exec_sleep_goesOn {u : Nat} (h : ScalarMay (.sleep f) t s) (hw : t.wait = some (.sleep u)) :
    exec (.sleep f) s = if u ≤ s.tickOf t.id.ring then .next (s.endInstr t.id (t.pc + BitVec.ofNat 64 s.len))
      else .next (s.blockScalar t.id (.sleep u)) := by
  split
  case isTrue hu => exact exec_done_of rfl h (by simp only [hw, if_pos hu])
  case isFalse hu => exact scalarInstr_wait (i := .sleep f) h (by simp only [hw, if_neg hu])

/-- Settles O6: each register number of rdsr by the digits of its word; the others by their one effect. -/
theorem statusAndClocks : Obligations.StatusAndClocks := by
  refine ⟨?status, ⟨?clocks, ?stream⟩, ?sleep⟩
  case status =>
    intro f t s n result vgen quiet
    refine ⟨fun h => ?_, fun h => exec_done_of rfl h rfl⟩
    have read : ∀ {m : Nat} {v : GW}, n = m → (shapeReg m = true → quiet) → statusReg s t m = v →
        exec (.rdsr f) s = result v := fun hn hq hv => by
      subst hn hv
      exact exec_rdsr h hq
    have calm : ∀ {m : Nat}, shapeReg m = false → shapeReg m = true → quiet := fun hm hm' => by
      rw [hm] at hm'
      cases hm'
    refine ⟨fun hn => read hn (calm rfl) rfl, fun hn hq => read hn (fun _ => hq) ?_,
      fun hn hq => ⟨shapeWord t 0, read hn (fun _ => hq) rfl, fun j hj => ?_⟩,
      fun hn hq => ⟨shapeWord t 32, read hn (fun _ => hq) rfl, fun j hj => shapeWord_digit t 32 hj⟩,
      fun hn => ⟨t.wflags.setWidth 64, read hn (calm rfl) rfl, fun j hj => ?_⟩,
      fun hn => read hn (calm rfl) rfl, fun hn => read hn (calm rfl) rfl, fun hn => read hn (calm rfl) rfl,
      fun hn => read hn (calm rfl) rfl⟩
    · simp only [statusReg, vgen, ← Shape.isGeneral_eq]
      rfl
    · rw [shapeWord_digit t 0 hj, Nat.zero_add]
    · rw [BitVec.getLsbD_setWidth, decide_eq_true hj, Bool.true_and, getLsbD_wflags]
  case clocks =>
    intro f t s now
    refine ⟨fun h => exec_done_of rfl h rfl, fun h => exec_done_of rfl h rfl,
      fun h => exec_done_of (eff := fun _ s => .done s) ?_ h rfl⟩
    show execNop f s = _
    simp only [execNop, h.1]
  case stream =>
    intro f ring st s h
    have hx : exec (.nop f) s = streamInstr (.nop f) f s fun _ s => .done s := by
      show execNop f s = _
      simp only [execNop, h.1]
    rw [hx, streamInstr_done h rfl]
  case sleep =>
    intro f t s h now n
    have hn : sleepCycles f s t = 16 * max 1 n := by
      simp only [sleepCycles, beq_iff_eq, n]
    exact ⟨fun hw => hn ▸ exec_sleep_begins h hw, fun u hw => exec_sleep_goesOn h hw⟩

end Sys2Proof.Machine
end

section
/-! PROOF. Taking a whole-instruction fault: the record it leaves and the troupe it stops; trap and sysc (R98,
R344-R346, R349, R350). -/

namespace Sys2Proof.Machine

variable {s : State} {t : Troupe} {c : Ctx} {asid : Nat}

/-! ### What posting a record changes -/

/-- The troupes, and the contexts with their counts of records and the records a handler is to act on. -/
def State.records (s : State) : List Troupe × List (Nat × Nat × List FRec) :=
  (s.troupes, s.ctxs.map fun c => (c.asid, c.fseq, c.recs))

theorem Stores.records {u : State} (h : Stores s u) : u.records = s.records := by
  rw [h]
  rfl

theorem State.records_modCtx (s : State) (a : Nat) {f : Ctx → Ctx}
    (hf : ∀ x, ((f x).asid, (f x).fseq, (f x).recs) = (x.asid, x.fseq, x.recs) := by intro _; rfl) :
    (s.modCtx a f).records = s.records := by
  simp only [State.records, State.modCtx, map_updWhere_of_eq (fun c : Ctx => (c.asid, c.fseq, c.recs)) s.ctxs _ hf]

theorem State.records_irq (s : State) (fn vec : Nat) : (s.irq fn vec).records = s.records := by
  rw [State.irq]
  split <;> rfl

theorem State.records_fqWrite {r : FRec} {s1 : State} (h : s.fqWrite c r = some s1) : s1.records = s.records := by
  simp only [State.fqWrite] at h
  split at h
  · cases h
  split at h
  · cases h
  split at h
  · cases h
  rename_i hrecord
  split at h
  · cases h
  rename_i htail
  rw [← Option.some.inj h, State.records_irq]
  exact (State.records_modCtx _ _).trans
    ((State.stores_writeBytes hrecord).trans (State.stores_writeBytes htail)).records

theorem State.records_fqFlush (asid : Nat) (rs : List FRec) (s : State) : (fqFlush asid rs s).records = s.records := by
  induction rs generalizing s with
  | nil => exact s.records_modCtx asid
  | cons r rs ih =>
      simp only [fqFlush]
      split
      · rename_i h
        exact (ih _).trans (State.records_fqWrite h)
      · exact s.records_modCtx asid

theorem State.ctx?_records (s : State) (a : Nat) :
    (s.ctx? a).map (fun c => (c.asid, c.fseq, c.recs)) = s.records.2.find? fun x => x.1 == a := by
  rw [State.records, List.find?_map]
  rfl

/-- A context whose next record waits to be posted (R349). -/
def Ctx.addRecord (r : FRec) (c : Ctx) : Ctx :=
  { c with fseq := r.fseq, recs := if r.pending then c.recs ++ [r] else c.recs, held := c.held ++ [r] }

/-- Posting a pending record gives it the next FSEQ and puts it last among its context's records (R349, R350). -/
theorem State.ctx_postRecord {r : FRec} (hc : s.ctx? asid = some c) (hp : r.pending = true) :
    ((s.postRecord asid r).ctx asid).recs = c.recs ++ [{ r with fseq := c.fseq + 1 }] ∧
    ((s.postRecord asid r).ctx asid).fseq = c.fseq + 1 := by
  have hn : s.nextFseq asid = c.fseq + 1 := by rw [State.nextFseq, State.ctx_of_ctx? hc]
  let r' : FRec := { r with fseq := c.fseq + 1 }
  have hpost : s.postRecord asid r = (s.modCtx asid (Ctx.addRecord r')).fqRetry asid := by
    rw [State.postRecord, hn]
    rfl
  have hview : ((s.postRecord asid r).ctx? asid).map (fun c => (c.asid, c.fseq, c.recs)) =
      some (c.asid, c.fseq + 1, c.recs ++ [r']) := by
    rw [State.ctx?_records, hpost, State.fqRetry, State.records_fqFlush, ← State.ctx?_records,
      s.ctx?_modCtx asid (Ctx.addRecord r') fun _ => rfl, hc]
    simp [Ctx.addRecord, r', hp]
  cases hd : (s.postRecord asid r).ctx? asid with
  | none => rw [hd] at hview; cases hview
  | some d =>
      rw [hd, Option.map_some, Option.some.injEq, Prod.mk.injEq, Prod.mk.injEq] at hview
      obtain ⟨_, hfseq, hrecs⟩ := hview
      rw [State.ctx_of_ctx? hd]
      exact ⟨hrecs, hfseq⟩

/-! ### Taking a fault (R344-R346) -/

/-- The record of a whole-instruction fault (R350). -/
def State.faultRecord (s : State) (id : TroupeId) (vside : Bool) (iaddr k0 : Word) (fi : FInfo) : FRec :=
  { s.ringRecord id.ring 0 fi.cause with
    reason := fi.reason, iaddr := iaddr, k0 := k0, aux := fi.aux, code := fi.code, ents := fi.ents,
    grade := fi.grade, tidx := id.idx, troupe := some id, vside := vside, ulen := s.len, pending := true }

/-- A troupe with no lane fault to report. -/
def Troupe.reported (t : Troupe) : Troupe := { t with reports := [] }

/-- A troupe stopped on one more record. -/
def Troupe.stopOn (n : Nat) (t : Troupe) : Troupe := { t with stopped := t.stopped ++ [n] }

theorem Troupe.reported_of_unreported (hr : t.reports = []) : t.reported = t := by
  rw [Troupe.reported, ← hr]

theorem State.reportAll_of_unreported (ht : s.troupe? t.id = some t) (hr : t.reports = []) :
    s.reportAll t.id = s.modTroupe t.id Troupe.reported := by
  simp only [State.reportAll, ht, hr]
  rfl

section TakeFault
variable (ht : s.troupe? t.id = some t) (hr : t.reports = []) (hc : s.ctx? (s.asidOf t.id.ring) = some c)
  (vside : Bool) (iaddr k0 : Word) (fi : FInfo)
include ht hr

theorem State.ctxs_takeFault : (s.takeFault t.id vside iaddr k0 fi).ctxs =
    ((s.modTroupe t.id Troupe.reported).postRecord (s.asidOf t.id.ring)
      (s.faultRecord t.id vside iaddr k0 fi)).ctxs := by
  rw [State.takeFault, State.reportAll_of_unreported ht hr]
  rfl

theorem State.troupes_takeFault : (s.takeFault t.id vside iaddr k0 fi).troupes =
    ((s.modTroupe t.id Troupe.reported).modTroupe t.id (Troupe.stopOn (s.nextFseq (s.asidOf t.id.ring)))).troupes := by
  rw [State.takeFault, State.reportAll_of_unreported ht hr]
  rfl

include hc

theorem State.troupe?_takeFault :
    (s.takeFault t.id vside iaddr k0 fi).troupe? t.id = some (t.stopOn (c.fseq + 1)) := by
  have hn : s.nextFseq (s.asidOf t.id.ring) = c.fseq + 1 := by rw [State.nextFseq, State.ctx_of_ctx? hc]
  rw [State.troupe?, State.troupes_takeFault ht hr, hn]
  refine (State.troupe?_modTroupe _ t.id (Troupe.stopOn (c.fseq + 1)) fun _ => rfl).trans ?_
  rw [s.troupe?_modTroupe t.id Troupe.reported fun _ => rfl, ht, Option.map_some, Option.map_some,
    Troupe.reported_of_unreported hr]

theorem State.ctx_takeFault :
    ((s.takeFault t.id vside iaddr k0 fi).ctx c.asid).recs =
      c.recs ++ [{ s.faultRecord t.id vside iaddr k0 fi with fseq := c.fseq + 1 }] ∧
    ((s.takeFault t.id vside iaddr k0 fi).ctx c.asid).fseq = c.fseq + 1 := by
  rw [State.ctx, State.ctx?, State.ctxs_takeFault ht hr, State.ctx?_asid hc]
  exact State.ctx_postRecord (s := s.modTroupe t.id Troupe.reported) (r := s.faultRecord t.id vside iaddr k0 fi) hc rfl

omit hc in
theorem State.troupe?_takeFault_ne {id : TroupeId} (hid : id ≠ t.id) :
    (s.takeFault t.id vside iaddr k0 fi).troupe? id = s.troupe? id := by
  rw [State.troupe?, State.troupes_takeFault ht hr]
  exact (State.troupe?_modTroupe_ne _ (Troupe.stopOn _) (fun _ => rfl) hid).trans
    (s.troupe?_modTroupe_ne Troupe.reported (fun _ => rfl) hid)

end TakeFault

/-! ### trap and sysc (R98) -/

/-- With nothing left to issue, an instruction that traps goes on and stops its troupe behind it. -/
theorem exec_trap {i : Instr} {eff : Troupe → State → SRes} {fi : FInfo} (hi : exec i s = scalarInstr i s eff)
    (h : ScalarMay i t s) (hv : t.vq = []) (he : eff t s = .trap fi) :
    exec i s = .next ((s.endInstr t.id (t.pc + BitVec.ofNat 64 s.len)).takeFault t.id false t.pc t.k0
      { fi with grade := t.gradeOf i.scalarReads }) := by
  rw [hi, scalarInstr_of_may h, scalarRun_of_may h, he]
  simp only [hv, List.isEmpty_nil, if_true]

/-- s4 to s11 as pairs (R350). -/
def syscEnts (t : Troupe) : List (Word × Word) :=
  (List.range 4).map fun l => ((t.reg (4 + 2 * l)).v, (t.reg (5 + 2 * l)).v)

/-- Settles O7: trap and sysc by their fault, the record and the troupe by what taking a fault leaves. -/
theorem trapsAndFaultRecords : Obligations.TrapsAndFaultRecords := by
  constructor
  · intro f t s hv past sreg
    refine ⟨fun h => exec_trap (fi := { cause := .trap, code := f.imm.toNat % 2 ^ 16 }) rfl h hv rfl, fun h => ?_⟩
    have he : syscEnts t = [(sreg 4, sreg 5), (sreg 6, sreg 7), (sreg 8, sreg 9), (sreg 10, sreg 11)] := rfl
    rw [← he]
    exact exec_trap (fi := { cause := .sysc, code := f.imm.toNat % 2 ^ 16, ents := syscEnts t }) rfl h hv rfl
  · intro s t c vside iaddr k0 fi ht hr hc s1
    obtain ⟨hrecs, hfseq⟩ := State.ctx_takeFault ht hr hc vside iaddr k0 fi
    exact ⟨⟨_, hrecs, hfseq, rfl, rfl, rfl, rfl, rfl, rfl, rfl, rfl, rfl, rfl, rfl, rfl, rfl, rfl, rfl⟩,
      State.troupe?_takeFault ht hr hc vside iaddr k0 fi, fun _ => State.troupe?_takeFault_ne ht hr vside iaddr k0 fi⟩

end Sys2Proof.Machine
end

section
/-! PROOF. The queues between the two sides, and QSTALL of a scalar side that waits on one (R91, R92, R108). -/

namespace Sys2Proof.Machine

variable {i : Instr} {f : Fields} {e : VEntry} {t : Troupe} {s : State} {c : Ctx}

/-! ### The scalar side (R91, R108) -/

theorem exec_sqput (h : ScalarMay (.sqput f) t s) (hd : t.down.length < 16) :
    exec (.sqput f) s = .next (s.scalarNext t { t with down := t.down ++ [readS s t f.a] }) :=
  exec_done_of rfl h (if_neg (Nat.not_le.mpr hd))

theorem exec_sqput_full (h : ScalarMay (.sqput f) t s) (hd : 16 ≤ t.down.length) :
    exec (.sqput f) s = .next (s.blockScalar t.id (.queue true)) :=
  scalarInstr_wait h (if_pos hd)

theorem exec_sqget {x : GW} {rest : List GW} (h : ScalarMay (.sqget f) t s) (hu : t.up = x :: rest) :
    exec (.sqget f) s = .next (s.scalarNext t (({ t with up := rest } : Troupe).writeS f.d x)) :=
  exec_done_of rfl h (by simp only [hu])

theorem exec_sqget_empty (h : ScalarMay (.sqget f) t s) (hu : t.up = []) :
    exec (.sqget f) s = .next (s.blockScalar t.id (.queue false)) :=
  scalarInstr_wait (i := .sqget f) (s1 := s) h (by simp only [hu])

/-! ### The vector side (R108) -/

theorem exec_vqget {x : GW} {rest : List GW} (h : VectorMay (.vqget f) e t s)
    (hroom : t.room (s.ring t.id.ring).vgen f.d) (hd : t.down = x :: rest) :
    exec (.vqget f) s = .next (s.vectorNext t ((({ t with down := rest } : Troupe).writeV
      { d := f.d, mask := e.cap.k0, sh := .uniform (x.v.setWidth 32), g := x.g }).raise 0)) := by
  have he : e.instr = .vqget f := h.2.2.2.1
  refine vectorInstr_done (i := .vqget f) (issue := vqgetIssue f) h ?_
  simp only [vqgetIssue, hd]
  exact computeIssue_oneWrite (t := { t with down := rest }) rfl hroom (by rw [he]; rfl) (by rw [he]; rfl)

/-- What vqput pushes: the lowest active lane of A, or 0 with none (R108). -/
def vqputEntry (f : Fields) (e : VEntry) (t : Troupe) : GW :=
  let a := readV t f.a e.cap.a
  { v := if e.cap.k0 = 0 then 0 else (a.sh.lane (lowestBit e.cap.k0)).setWidth 64, g := a.g }

theorem exec_vqput (h : VectorMay (.vqput f) e t s) (hu : t.up.length < 16) :
    exec (.vqput f) s = .next (s.vectorNext t { t with up := t.up ++ [vqputEntry f e t] }) :=
  vectorInstr_done (i := .vqput f) (issue := vqputIssue f) h (if_neg (Nat.not_le.mpr hu))

theorem lowestBit_eq {m : Word} {n : Nat} (hn : n < 64) (hset : m.getLsbD n = true)
    (hlow : ∀ j < n, m.getLsbD j = false) : lowestBit m = n := by
  have hfind : (List.range 64).find? (fun j => m.getLsbD j) = some n := by
    rw [List.find?_range_eq_some]
    exact ⟨hset, List.mem_range.mpr hn, fun j hj => by rw [hlow j hj]; rfl⟩
  rw [lowestBit, hfind, Option.getD_some]

/-! ### QSTALL (R92) -/

/-- A troupe whose scalar side waits. -/
def Troupe.waiting (w : Wait) (t : Troupe) : Troupe := { t with wait := some w }

theorem State.troupe?_waiting (ht : s.troupe? t.id = some t) (w : Wait) :
    (s.modTroupe t.id (Troupe.waiting w)).troupe? t.id = some (t.waiting w) := by
  rw [s.troupe?_modTroupe t.id (Troupe.waiting w) fun _ => rfl, ht, Option.map_some]

/-- The fault of a troupe whose sides wait for each other, with the grade of what its unit reads (R92, R350). -/
def State.qstall (s : State) (t : Troupe) : FInfo := { cause := .qstall, grade := t.waitGrade (s.fetchTroupe t) }

theorem State.settle_stalled (ht : s.troupe? t.id = some t) (hs : t.stalled = true) (hc : s.cur = .scalar t.id) :
    s.settle t.id = { s.takeFault t.id false t.pc t.k0 (s.qstall t) with len := s.len } := by
  have hn : (if s.cur = .scalar t.id then s.len else (s.fetchTroupe t).len) = s.len := if_pos hc
  simp only [State.settle, ht, hs, if_true, hn]
  rfl

theorem Troupe.stalled_waiting {push : Bool} (hv : t.vq = []) (hs : t.stopped = [])
    (hb : t.queueBlocks true push = true) : (t.waiting (.queue push)).stalled = true := by
  have hstuck : (t.waiting (.queue push)).scalarStuck = true := hb
  rw [Troupe.stalled, hstuck]
  simp [Troupe.waiting, hv, hs]

/-- The record of QSTALL, and the troupe that it has stopped. -/
theorem qstall_stops {push : Bool} (h : ScalarMay i t s) (hv : t.vq = []) (hs : t.stopped = []) (hr : t.reports = [])
    (hc : s.ctx? (s.asidOf t.id.ring) = some c) (hb : t.queueBlocks true push = true) :
    let s1 := s.blockScalar t.id (.queue push)
    ∃ r : FRec, (s1.ctx c.asid).recs = c.recs ++ [r] ∧ r.cause = .qstall ∧ r.iaddr = t.pc ∧
      s1.troupe? t.id = some { t with wait := some (.queue push), stopped := [c.fseq + 1] } := by
  intro s1
  let u : Troupe := t.waiting (.queue push)
  let s0 : State := s.modTroupe t.id (Troupe.waiting (.queue push))
  have hu : s0.troupe? u.id = some u := State.troupe?_waiting h.2.1 (.queue push)
  have hs1 : s1 = { s0.takeFault t.id false t.pc t.k0 (s0.qstall u) with len := s0.len } :=
    State.settle_stalled (s := s0) (t := u) hu (Troupe.stalled_waiting hv hs hb) h.1
  have hrec := (State.ctx_takeFault hu hr hc false t.pc t.k0 (s0.qstall u)).1
  have htroupe := State.troupe?_takeFault hu hr hc false t.pc t.k0 (s0.qstall u)
  rw [hs1]
  refine ⟨_, hrec, rfl, rfl, htroupe.trans ?_⟩
  simp [Troupe.stopOn, u, Troupe.waiting, hs]

/-- Settles O8: each instruction by its queue as it stands, and the full or empty queue by the fault it raises. -/
theorem queuesBetweenTheSides : Obligations.QueuesBetweenTheSides := by
  refine ⟨⟨?scalar, ?vector⟩, ?stall⟩
  case scalar =>
    intro f t s
    exact ⟨exec_sqput, fun x rest => exec_sqget⟩
  case vector =>
    intro f e t s hroom
    refine ⟨fun x rest h hd => ⟨_, fun _ _ => rfl, exec_vqget h hroom hd⟩, fun h hu => ?_⟩
    refine ⟨fun h0 => ?_, fun n hn hset hlow => ?_⟩
    · rw [exec_vqput h hu, vqputEntry, if_pos h0]
    · have h0 : e.cap.k0 ≠ 0 := by
        rintro h0
        simp [h0] at hset
      rw [exec_vqput h hu, vqputEntry, if_neg h0, lowestBit_eq hn hset hlow]
  case stall =>
    intro f t s c hv hs hr hc stalls
    refine ⟨fun h hd => ?_, fun h hu => ?_⟩
    · obtain ⟨r, hrec⟩ := qstall_stops (push := true) h hv hs hr hc (decide_eq_true hd)
      exact ⟨_, r, exec_sqput_full h hd, hrec⟩
    · obtain ⟨r, hrec⟩ := qstall_stops (push := false) h hv hs hr hc (List.isEmpty_iff.mpr hu)
      exact ⟨_, r, exec_sqget_empty h hu, hrec⟩

end Sys2Proof.Machine
end

section
/-! PROOF. The dispatch of a tuple match whose mask register is still to be written: the scalar side holds it, where
the statement of O11 asks only for the registers of its operands (R81, R90, R288). -/

namespace Sys2Proof.Machine

/-- A tread whose pattern word is s2, so that its mask M is s3. -/
def maskedMatch : Instr := .tread { a := 1, b := 2, imm := 1 }

/-- A stopped troupe before that tread: field 0 of its pattern has mode 2, and an sdiv that will write s3 is
outstanding. -/
def maskPending : Troupe :=
  { id := ⟨0, 0⟩, left := 1, seta := some 0, stopped := [1], s := (List.replicate 128 {}).set 2 { v := 2 },
    ops := [{ id := 0, instr := .sdiv { d := 3 }, sdest := [3] }], nextOp := 1 }

/-- The package with that troupe alone, its scalar side about to act. -/
def maskPendingState : State := { State.reset with cur := .scalar ⟨0, 0⟩, len := 8, troupes := [maskPending] }

theorem dispatchMay_maskedMatch : DispatchMay maskedMatch maskPending maskPendingState := by
  unfold DispatchMay
  decide +kernel

/-- How many instructions the troupe has dispatched in an outcome. -/
def dispatchedIn : Out → Option Nat
  | .next s => (s.troupe? ⟨0, 0⟩).map (·.vq.length)
  | _ => none

/-- The scalar side waits for s3 and dispatches nothing. -/
theorem dispatchedIn_maskedMatch : dispatchedIn (exec maskedMatch maskPendingState) = some 0 := by
  decide +kernel

/-- Refutes O11: `DispatchMay` holds before a tread whose mask register waits for an sdiv, and the model holds the
tread back until that register is written. -/
theorem not_vectorDispatchAndFlags : ¬ Obligations.VectorDispatchAndFlags := by
  intro h
  have hx := h.1 maskedMatch _ maskPending _ maskPendingState (some 0) rfl rfl dispatchMay_maskedMatch
    (.inr ⟨0, rfl, rfl⟩) (.inr (.inr (List.cons_ne_nil _ _)))
  have hn := dispatchedIn_maskedMatch
  rw [hx] at hn
  revert hn
  decide +kernel

end Sys2Proof.Machine
end

section
/-! PROOF. The shape of a lane-wise result by the codes of its operands' shapes, and the lanes it holds (R83, R84,
R109, R113). -/

namespace Sys2Proof.Machine

variable {lane lane' : Nat → Lane} {sh : Shape} {k n : Nat}

/-! ### Affine lanes (R83) -/

/-- Lane i holds base + i × stride. -/
def IsAffine (lane : Nat → Lane) : Prop := ∃ b st : Lane, ∀ n, lane n = b + BitVec.ofNat 32 n * st

theorem IsAffine.const (u : Lane) : IsAffine fun _ => u := ⟨u, 0, by simp⟩

theorem IsAffine.add : IsAffine lane → IsAffine lane' → IsAffine fun n => lane n + lane' n := by
  rintro ⟨b, st, h⟩ ⟨b', st', h'⟩
  exact ⟨b + b', st + st', fun n => by simp only [h, h']; ring⟩

theorem IsAffine.neg : IsAffine lane → IsAffine fun n => -lane n := by
  rintro ⟨b, st, h⟩
  exact ⟨-b, -st, fun n => by simp only [h]; ring⟩

theorem IsAffine.sub (h : IsAffine lane) (h' : IsAffine lane') : IsAffine fun n => lane n - lane' n := by
  simpa only [sub_eq_add_neg] using h.add h'.neg

theorem IsAffine.mul_const (u : Lane) : IsAffine lane → IsAffine fun n => lane n * u := by
  rintro ⟨b, st, h⟩
  exact ⟨b * u, st * u, fun n => by simp only [h]; ring⟩

theorem lane_affineOf (h : IsAffine lane) (n : Nat) : (affineOf lane).lane n = lane n := by
  obtain ⟨b, st, h⟩ := h
  simp only [affineOf, Shape.lane, h]
  simp

/-! ### Codes (R83, R84) -/

theorem Shape.lane_of_code_zero (h : sh.code = 0) (n m : Nat) : sh.lane n = sh.lane m := by
  cases sh with
  | uniform _ => rfl
  | affine _ _ | general _ => cases h

theorem Shape.isAffine_of_code_lt (h : sh.code < 2) : IsAffine sh.lane := by
  cases sh with
  | uniform u => exact .const u
  | affine b st => exact ⟨b, st, fun _ => rfl⟩
  | general _ => exact (Nat.lt_irrefl 2 h).elim

/-- The shape with a code of R83 for lanes that it can hold. -/
def shapeOf (k : Nat) (lane : Nat → Lane) : Shape :=
  match k with
  | 0 => .uniform (lane 0)
  | 1 => affineOf lane
  | _ => generalOf lane

/-- A shape with that code can hold these lanes. -/
def CanHold (k : Nat) (lane : Nat → Lane) : Prop := (k = 0 → ∀ n, lane n = lane 0) ∧ (k = 1 → IsAffine lane)

theorem lane_shapeOf (h : CanHold k lane) (hn : n < 64) : (shapeOf k lane).lane n = lane n := by
  match k with
  | 0 => exact (h.1 rfl n).symm
  | 1 => exact lane_affineOf (h.2 rfl) n
  | _ + 2 => exact Shape.lane_general_range hn

theorem isGeneral_shapeOf (k : Nat) (lane : Nat → Lane) : (shapeOf k lane).isGeneral = decide (2 ≤ k) := by
  match k with
  | 0 | 1 => rfl
  | k + 2 => exact (decide_eq_true (Nat.le_add_left 2 k)).symm

theorem code_shapeOf (hk : k ≤ 2) (lane : Nat → Lane) : (shapeOf k lane).code = k := by
  match k, hk with
  | 0, _ | 1, _ | 2, _ => rfl

/-- An affine result of stride 0 is held as uniform. -/
theorem code_norm_shapeOf (hk : k ≤ 2) (lane : Nat → Lane) : (shapeOf k lane).norm.code =
    if k = 1 ∧ (shapeOf k lane).lane 0 = (shapeOf k lane).lane 1 then 0 else k := by
  match k, hk with
  | 0, _ | 2, _ => rfl
  | 1, _ =>
    have hstride : lane 1 - lane 0 = 0 ↔ (affineOf lane).lane 0 = (affineOf lane).lane 1 := by
      rw [sub_eq_zero, eq_comm]
      simp [affineOf, Shape.lane]
    show (if lane 1 - lane 0 = 0 then Shape.uniform (lane 0) else affineOf lane).code = _
    simp only [hstride, true_and, shapeOf]
    split <;> rfl

/-- The code that R84 gives a result: its class and the shapes of its operands decide it, its lanes do not. -/
def resultCode (c : VClass) (ins : List Shape) : Nat := (resultShape c ins fun _ => 0).code

theorem resultShape_eq (c : VClass) (ins : List Shape) (lane : Nat → Lane) :
    resultShape c ins lane = shapeOf (resultCode c ins) lane := by
  cases c <;> simp only [resultCode, resultShape] <;> (repeat' split) <;> rfl

theorem resultCode_le (c : VClass) (ins : List Shape) : resultCode c ins ≤ 2 := by
  have hcode : ∀ sh : Shape, sh.code ≤ 2 := by rintro (_ | _ | _) <;> simp [Shape.code]
  exact hcode _

theorem resultCode_other (ins : List Shape) : resultCode .other ins = if ins.all Shape.isUniform then 0 else 2 := by
  simp only [resultCode, resultShape]
  split_ifs <;> rfl

theorem Shape.isUniform_eq (sh : Shape) : sh.isUniform = decide (sh.code = 0) := by
  cases sh <;> rfl

/-! ### Lane by lane (R112, R118) -/

/-- What operands of these shapes hold at one position gives the result there. -/
def LaneByLane {α : Type} (ins : List Shape) (lane : Nat → α) : Prop :=
  ∀ n m, (∀ sh ∈ ins, sh.lane n = sh.lane m) → lane n = lane m

variable {α β : Type} {ins : List Shape} {res : Nat → α}

theorem LaneByLane.map (h : LaneByLane ins res) (r : α → β) : LaneByLane ins fun n => r (res n) :=
  fun n m hs => congrArg r (h n m hs)

/-- From uniform operands alone, such a result is uniform. -/
theorem LaneByLane.canHold (h : LaneByLane ins lane) : CanHold (resultCode .other ins) lane := by
  rw [resultCode_other]
  split
  case isTrue hu =>
    refine ⟨fun _ n => h n 0 fun sh hsh => Shape.lane_of_code_zero ?_ n 0, by simp⟩
    simpa [Shape.isUniform_eq] using List.all_eq_true.mp hu sh hsh
  case isFalse => exact ⟨by simp, by simp⟩

variable {a b c : Shape} {f : Fields} {o : VOps}

theorem LaneByLane.one (h : ∀ n m, a.lane n = a.lane m → res n = res m) : LaneByLane [a] res :=
  fun n m hs => h n m (hs a (by simp))

theorem LaneByLane.two (h : ∀ n m, a.lane n = a.lane m → b.lane n = b.lane m → res n = res m) :
    LaneByLane [a, b] res :=
  fun n m hs => h n m (hs a (by simp)) (hs b (by simp))

theorem LaneByLane.three
    (h : ∀ n m, a.lane n = a.lane m → b.lane n = b.lane m → c.lane n = c.lane m → res n = res m) :
    LaneByLane [a, b, c] res :=
  fun n m hs => h n m (hs a (by simp)) (hs b (by simp)) (hs c (by simp))

/-- Operand B is read from the register where it is no immediate (R42). -/
theorem LaneByLane.shapesAB (h : ∀ n m, o.a.sh.lane n = o.a.sh.lane m →
      (f.sub.getLsbD 3 = false → o.b.sh.lane n = o.b.sh.lane m) → res n = res m) :
    LaneByLane (shapesAB f o) res := by
  intro n m hs
  rw [Machine.shapesAB] at hs
  cases hi : f.sub.getLsbD 3 <;> rw [hi] at hs
  · exact h n m (hs _ (by simp)) fun _ => hs _ (by simp)
  · exact h n m (hs _ (by simp)) fun hb => absurd (hi.symm.trans hb) (by decide)

/-- The code of the shape of operand B; an immediate is uniform. -/
def codeB (f : Fields) (o : VOps) : Nat := if f.sub.getLsbD 3 then 0 else o.b.sh.code

theorem resultCode_other_shapesAB (f : Fields) (o : VOps) :
    resultCode .other (shapesAB f o) = if o.a.sh.code = 0 ∧ codeB f o = 0 then 0 else 2 := by
  rw [resultCode_other, shapesAB, codeB]
  cases f.sub.getLsbD 3 <;> simp [Shape.isUniform_eq]

theorem resultCode_linear_shapesAB (f : Fields) (o : VOps) : resultCode .linear (shapesAB f o) =
    if o.a.sh.code < 2 ∧ codeB f o < 2 then max o.a.sh.code (codeB f o)
    else if o.a.sh.code = 0 ∧ codeB f o = 0 then 0 else 2 := by
  rw [shapesAB, codeB]
  cases f.sub.getLsbD 3 <;> cases o.a.sh <;> cases o.b.sh <;> rfl

theorem resultCode_scale_shapesAB (f : Fields) (o : VOps) : resultCode .scale (shapesAB f o) =
    if o.a.sh.code + codeB f o < 2 then o.a.sh.code + codeB f o
    else if o.a.sh.code = 0 ∧ codeB f o = 0 then 0 else 2 := by
  rw [shapesAB, codeB]
  cases f.sub.getLsbD 3 <;> cases o.a.sh <;> cases o.b.sh <;> rfl

end Sys2Proof.Machine
end

section
/-! PROOF. What an instruction that computes answers as it issues: its result at once or held until it completes, or
REGBUDGET (R85, R86, R88, R110). -/

namespace Sys2Proof.Machine

variable {i : Instr} {f : Fields} {e : VEntry} {t : Troupe} {s : State} {sh : Shape} {g : Nat} {fl : BitVec 4}

/-- The instruction issues as one write of D under k0 with numeric flags. -/
def IssuesWrite (i : Instr) (f : Fields) (e : VEntry) (t : Troupe) (s : State) (sh : Shape) (g : Nat) (fl : BitVec 4) :
    Prop :=
  ∃ out : VEntry → Troupe → State → VOut, (exec i s = vectorInstr i s fun e => computeIssue (out e) e) ∧
    out e t s = { oneWrite f e sh g with fl := fl }

/-- The operation that holds such a write until it completes (R88). -/
def heldOp (i : Instr) (f : Fields) (e : VEntry) (sh : Shape) (g : Nat) (fl : BitVec 4) : Op :=
  { id := 0, instr := i, vdest := if f.d.toNat < 64 then [f.d.toNat] else [],
    general := makesGeneral f.d e.cap.k0 sh, grade := g,
    vres := [{ d := f.d, mask := e.cap.k0, sh := sh, g := g }], fl := fl }

/-- The troupe once the instruction has issued: a producer's result is held, or its flag lowered where no lane is
active; another result is written. -/
def issuedWrite (i : Instr) (f : Fields) (e : VEntry) (t : Troupe) (sh : Shape) (g : Nat) (fl : BitVec 4) : Troupe :=
  if i.longLatency then
    if e.cap.k0 = 0 then t.lowerFlag e.flag else t.startOp e (heldOp i f e sh g fl)
  else (t.writeV { d := f.d, mask := e.cap.k0, sh := sh, g := g }).raise fl

theorem generals_oneWrite (f : Fields) (e : VEntry) (sh : Shape) (g : Nat) (fl : BitVec 4) :
    ({ oneWrite f e sh g with fl := fl } : VOut).generals = if makesGeneral f.d e.cap.k0 sh then [f.d] else [] := by
  cases h : makesGeneral f.d e.cap.k0 sh <;> simp [VOut.generals, oneWrite, h]

theorem Troupe.overBudget_of_not_room {g : Nat} {d : BitVec 8} (h : ¬t.room g d) : t.overBudget g [d] = true := by
  simp only [Troupe.room, not_or, Nat.not_le, Nat.not_lt] at h
  obtain ⟨hd, hnew, hfull⟩ := h
  simp [Troupe.overBudget, hd, hnew, Nat.lt_succ_of_le hfull]

theorem computeIssue_fits {out : Troupe → State → VOut} (ho : out t s = { oneWrite f e sh g with fl := fl })
    (hfit : makesGeneral f.d e.cap.k0 sh = true → t.room (s.ring t.id.ring).vgen f.d)
    (hslots : s.judgeSlots t.id.ring e.instr.slots = none) :
    computeIssue out e t s = .done (s.setTroupe (issuedWrite e.instr f e t sh g fl)) := by
  have hgen := generals_oneWrite f e sh g fl
  have hbudget : t.overBudget (s.ring t.id.ring).vgen
      ({ oneWrite f e sh g with fl := fl } : VOut).generals = false := by
    rw [hgen]
    split
    case isTrue hm => exact t.overBudget_of_room (hfit hm) (.inr rfl)
    case isFalse => rfl
  have hempty : (!({ oneWrite f e sh g with fl := fl } : VOut).generals.isEmpty) = makesGeneral f.d e.cap.k0 sh := by
    rw [hgen]
    cases makesGeneral f.d e.cap.k0 sh <;> rfl
  have hgrade : maxOf [g] = g := by simp [maxOf]
  simp only [computeIssue, ho, hbudget, hslots, hempty, issuedWrite, heldOp, Bool.false_eq_true, if_false]
  split
  · split
    · rfl
    · simp [oneWrite, vDests, Troupe.startOp, hgrade]
  · rfl

theorem computeIssue_over {out : Troupe → State → VOut} (ho : out t s = { oneWrite f e sh g with fl := fl })
    (hgen : makesGeneral f.d e.cap.k0 sh = true) (hroom : ¬t.room (s.ring t.id.ring).vgen f.d) :
    computeIssue out e t s = .fault { cause := .regbudget } := by
  simp only [computeIssue, ho, generals_oneWrite, hgen, if_true, Troupe.overBudget_of_not_room hroom]

theorem IssuesWrite.exec_fits (hi : IssuesWrite i f e t s sh g fl) (hm : VectorMay i e t s)
    (hfit : makesGeneral f.d e.cap.k0 sh = true → t.room (s.ring t.id.ring).vgen f.d)
    (hslots : s.judgeSlots t.id.ring i.slots = none) :
    exec i s = .next (s.vectorNext t (issuedWrite i f e t sh g fl)) := by
  obtain ⟨out, hexec, ho⟩ := hi
  obtain rfl : e.instr = i := hm.2.2.2.1
  rw [hexec, vectorInstr_done (issue := fun e => computeIssue (out e) e) hm (computeIssue_fits ho hfit hslots)]
  rfl

/-- A result that makes D general where the budget has no room (R86). -/
theorem IssuesWrite.exec_over (hi : IssuesWrite i f e t s sh g fl) (hm : VectorMay i e t s)
    (hgen : makesGeneral f.d e.cap.k0 sh = true) (hroom : ¬t.room (s.ring t.id.ring).vgen f.d) :
    exec i s = .next (s.vectorFaultOf i t e { cause := .regbudget }) := by
  obtain ⟨out, hexec, ho⟩ := hi
  rw [hexec, vectorInstr_fault (issue := fun e => computeIssue (out e) e) hm (computeIssue_over ho hgen hroom)]

variable {lane : Nat → Lane}

theorem IssuesWrite.computes (hi : IssuesWrite i f e t s sh g fl) (hlane : ∀ n < 64, sh.lane n = lane n)
    (hroom : t.room (s.ring t.id.ring).vgen f.d) (hslots : s.judgeSlots t.id.ring i.slots = none)
    (hshort : i.longLatency = false) (hm : VectorMay i e t s) : Computes i e t s f.d g lane fl := by
  refine ⟨sh, hlane, ?_⟩
  rw [hi.exec_fits hm (fun _ => hroom) hslots, issuedWrite, hshort]
  rfl

theorem IssuesWrite.produces (hi : IssuesWrite i f e t s sh g fl)
    (hlane : ∀ n < 64, e.cap.k0.getLsbD n = true → sh.lane n = lane n)
    (hroom : t.room (s.ring t.id.ring).vgen f.d) (hslots : s.judgeSlots t.id.ring i.slots = none)
    (hlong : i.longLatency = true) (hm : VectorMay i e t s) : Produces i e t s f.d g lane fl := by
  have hx := hi.exec_fits hm (fun _ => hroom) hslots
  simp only [issuedWrite, hlong, if_true] at hx
  refine ⟨fun h0 => ?_, fun h0 => ⟨sh, makesGeneral f.d e.cap.k0 sh, hlane, ?_⟩⟩
  · rw [hx, if_pos h0]
  · rw [hx, if_neg h0]
    rfl

/-! ### The shapes a result may have (R84, R86) -/

theorem makesGeneral_partial {d : BitVec 8} {m : Word} (hd : d.toNat < 64) (h0 : m ≠ 0) (hall : m ≠ allLanes)
    (sh : Shape) : makesGeneral d m sh = true := by
  simp only [makesGeneral, hd, bne_iff_ne.mpr h0, bne_iff_ne.mpr hall, decide_true, Bool.true_or, Bool.and_true]

theorem makesGeneral_allLanes {d : BitVec 8} (hd : d.toNat < 64) (sh : Shape) :
    makesGeneral d allLanes sh = sh.isGeneral := by
  have h0 : (allLanes != 0) = true := by decide
  simp only [makesGeneral, hd, h0, bne_self_eq_false, decide_true, Bool.false_or, Bool.true_and]

/-- What a result with a code of R83 answers: with every lane active it has its code, an affine one of stride 0 that
of a uniform one; a general result, and any under a partial mask, needs room in the budget. -/
def GivesCode (i : Instr) (f : Fields) (e : VEntry) (t : Troupe) (s : State) (k : Nat) : Prop :=
  (e.cap.k0 = allLanes → k < 2 ∨ t.room (s.ring t.id.ring).vgen f.d → ∃ sh g,
    sh.norm.code = (if k = 1 ∧ sh.lane 0 = sh.lane 1 then 0 else k) ∧
    exec i s = .next (s.vectorNext t ((t.writeV { d := f.d, mask := allLanes, sh := sh, g := g }).raise 0))) ∧
  ((e.cap.k0 ≠ 0 ∧ e.cap.k0 ≠ allLanes) ∨ (e.cap.k0 = allLanes ∧ k = 2) →
    ¬t.room (s.ring t.id.ring).vgen f.d → exec i s = .next (s.vectorFaultOf i t e { cause := .regbudget }))

/-- The same for a long-latency producer: the operation that holds the result counts as general where it will be. -/
def HoldsCode (i : Instr) (f : Fields) (e : VEntry) (t : Troupe) (s : State) (k : Nat) : Prop :=
  (e.cap.k0 = allLanes → k < 2 ∨ t.room (s.ring t.id.ring).vgen f.d → ∃ x : Op,
    exec i s = .next (s.vectorNext t (t.startOp e x)) ∧ x.general = decide (k = 2) ∧ x.vdest = [f.d.toNat] ∧
    ∀ w ∈ x.vres, w.sh.code = k) ∧
  (e.cap.k0 ≠ 0 ∧ e.cap.k0 ≠ allLanes → t.room (s.ring t.id.ring).vgen f.d → ∃ x : Op,
    exec i s = .next (s.vectorNext t (t.startOp e x)) ∧ x.general = true) ∧
  ((e.cap.k0 ≠ 0 ∧ e.cap.k0 ≠ allLanes) ∨ (e.cap.k0 = allLanes ∧ k = 2) →
    ¬t.room (s.ring t.id.ring).vgen f.d → exec i s = .next (s.vectorFaultOf i t e { cause := .regbudget }))

section Codes
variable {k : Nat} {room : Prop} (hd : f.d.toNat < 64)
include hd

theorem makesGeneral_of_over (h : (e.cap.k0 ≠ 0 ∧ e.cap.k0 ≠ allLanes) ∨ (e.cap.k0 = allLanes ∧ k = 2)) :
    makesGeneral f.d e.cap.k0 (shapeOf k lane) = true := by
  obtain ⟨h0, hall⟩ | ⟨hall, rfl⟩ := h
  · exact makesGeneral_partial hd h0 hall _
  · rw [hall, makesGeneral_allLanes hd]
    rfl

theorem fits_of_code (hall : e.cap.k0 = allLanes) (h : k < 2 ∨ room) :
    makesGeneral f.d e.cap.k0 (shapeOf k lane) = true → room := by
  rw [hall, makesGeneral_allLanes hd, isGeneral_shapeOf, decide_eq_true_eq]
  exact fun hk => h.resolve_left (Nat.not_lt.mpr hk)

theorem IssuesWrite.gives_code (hi : IssuesWrite i f e t s (shapeOf k lane) g 0) (hk : k ≤ 2) (hslots : i.slots = [])
    (hshort : i.longLatency = false) (hm : VectorMay i e t s) : GivesCode i f e t s k := by
  refine ⟨fun hall hroom => ⟨shapeOf k lane, g, code_norm_shapeOf hk lane, ?_⟩,
    fun hover => hi.exec_over hm (makesGeneral_of_over hd hover)⟩
  rw [hi.exec_fits hm (fits_of_code hd hall hroom) (hslots ▸ rfl), issuedWrite, hshort, hall]
  rfl

theorem IssuesWrite.holds_code (hi : IssuesWrite i f e t s (shapeOf k lane) g fl) (hk : k = 0 ∨ k = 2)
    (hslots : i.slots = []) (hlong : i.longLatency = true) (hm : VectorMay i e t s) : HoldsCode i f e t s k := by
  let x := heldOp i f e (shapeOf k lane) g fl
  have hx : e.cap.k0 ≠ 0 →
      (makesGeneral f.d e.cap.k0 (shapeOf k lane) = true → t.room (s.ring t.id.ring).vgen f.d) →
      exec i s = .next (s.vectorNext t (t.startOp e x)) := fun h0 hfit => by
    rw [hi.exec_fits hm hfit (hslots ▸ rfl), issuedWrite, if_pos hlong, if_neg h0]
  refine ⟨fun hall hroom => ⟨x, hx (by rw [hall]; decide) (fits_of_code hd hall hroom), ?_, if_pos hd, ?_⟩,
    fun hpart hroom => ⟨x, hx hpart.1 fun _ => hroom, makesGeneral_partial hd hpart.1 hpart.2 _⟩,
    fun hover => hi.exec_over hm (makesGeneral_of_over hd hover)⟩
  · show makesGeneral f.d e.cap.k0 (shapeOf k lane) = decide (k = 2)
    rw [hall, makesGeneral_allLanes hd, isGeneral_shapeOf]
    obtain rfl | rfl := hk <;> rfl
  · intro w hw
    obtain rfl := List.mem_singleton.mp hw
    exact code_shapeOf (by omega) lane

end Codes

end Sys2Proof.Machine
end

section
/-! PROOF. The vector integer instructions and shifts: their lanes, and the shapes of their results (R84-R86, R104,
R111-R116). -/

namespace Sys2Proof.Machine

variable {i : Instr} {f : Fields} {e : VEntry} {t : Troupe} {s : State} {o : VOps} {n m : Nat}

/-! ### Operands of 32 bits (R113) -/

/-- The classes linear and scale apply: w is 32 and SAT is clear. -/
abbrev Wide (f : Fields) : Prop := (f.ty = 2 ∨ f.ty = 6) ∧ f.sat = 0

theorem wideClass_eq (c : VClass) (f : Fields) : wideClass c f = if Wide f then c else .other := by
  simp [wideClass, Wide]

theorem Wide.tyWidth (h : Wide f) : tyWidth f.ty.toNat = 32 := by
  obtain ⟨hty | hty, -⟩ := h <;> rw [hty] <;> rfl

/-- No bit of an exact result is lost or added beyond the reduction mod 2^32. -/
theorem Wide.laneResult (h : Wide f) (x : Int) : laneResult f x = BitVec.ofInt 32 x := by
  obtain ⟨hty | hty, hsat⟩ := h <;> rw [Machine.laneResult, tyExtend_eq, hty, hsat]
  · exact BitVec.signExtend_eq _
  · exact BitVec.setWidth_eq _

theorem Wide.ofInt_tyInt (h : Wide f) (x : Lane) : BitVec.ofInt 32 (tyInt f.ty.toNat x.toNat) = x := by
  obtain ⟨hty | hty, -⟩ := h <;> rw [tyInt_eq, hty]
  · exact (congrArg (fun y : Lane => BitVec.ofInt 32 y.toInt) (BitVec.ofNat_toNat 32 x)).trans (by simp)
  · exact (congrArg (fun y : Lane => BitVec.ofInt 32 (y.toNat : Int)) (BitVec.ofNat_toNat 32 x)).trans (by simp)

theorem Wide.isAffine_laneA (h : Wide f) (ha : o.a.sh.code < 2) :
    IsAffine fun n => BitVec.ofInt 32 (laneA f o n) := by
  simpa only [laneA, h.ofInt_tyInt] using Shape.isAffine_of_code_lt ha

theorem Wide.isAffine_laneB (h : Wide f) (hb : codeB f o < 2) : IsAffine fun n => BitVec.ofInt 32 (laneB f o n) := by
  cases hi : f.sub.getLsbD 3
  · simp only [codeB, hi, Bool.false_eq_true, if_false] at hb
    simpa only [laneB, hi, Bool.false_eq_true, if_false, h.ofInt_tyInt] using Shape.isAffine_of_code_lt hb
  · simpa only [laneB, hi, if_true] using .const _

theorem laneA_congr (ha : o.a.sh.lane n = o.a.sh.lane m) : laneA f o n = laneA f o m := by
  rw [laneA, laneA, ha]

theorem laneB_congr (hb : f.sub.getLsbD 3 = false → o.b.sh.lane n = o.b.sh.lane m) : laneB f o n = laneB f o m := by
  cases hi : f.sub.getLsbD 3
  · simp only [laneB, hb hi]
  · simp only [laneB, hi, if_true]

theorem laneShift_congr (hb : f.sub.getLsbD 3 = false → o.b.sh.lane n = o.b.sh.lane m) :
    laneShift f o n = laneShift f o m := by
  cases hi : f.sub.getLsbD 3
  · simp only [laneShift, hb hi]
  · simp only [laneShift, hi, if_true]

theorem lane_of_codeB_zero (h : codeB f o = 0) (n m : Nat) (hi : f.sub.getLsbD 3 = false) :
    o.b.sh.lane n = o.b.sh.lane m := by
  rw [codeB, hi] at h
  exact Shape.lane_of_code_zero h n m

/-! ### Which shapes hold which lanes (R84, R113) -/

/-- The code of a result of the class "other" from A and B. -/
def otherCode (f : Fields) (o : VOps) : Nat := if o.a.sh.code = 0 ∧ codeB f o = 0 then 0 else 2

/-- The code of a linear result from A and B. -/
def linearCode (f : Fields) (o : VOps) : Nat :=
  if Wide f ∧ o.a.sh.code < 2 ∧ codeB f o < 2 then max o.a.sh.code (codeB f o) else otherCode f o

/-- The code of a product of A and B. -/
def scaleCode (f : Fields) (o : VOps) : Nat :=
  if Wide f ∧ o.a.sh.code + codeB f o < 2 then o.a.sh.code + codeB f o else otherCode f o

/-- The code of A shifted left: only one amount for all lanes keeps an affine A affine. -/
def shiftCode (f : Fields) (o : VOps) : Nat :=
  if Wide f ∧ o.a.sh.code < 2 ∧ codeB f o = 0 then o.a.sh.code else otherCode f o

/-- The code of a negation of A. -/
def negCode (f : Fields) (o : VOps) : Nat :=
  if Wide f ∧ o.a.sh.code < 2 then o.a.sh.code else if o.a.sh.code = 0 then 0 else 2

theorem otherCode_ne_one (f : Fields) (o : VOps) : otherCode f o ≠ 1 := by
  rw [otherCode]; split <;> decide

theorem resultCode_linear (f : Fields) (o : VOps) :
    resultCode (wideClass .linear f) (shapesAB f o) = linearCode f o := by
  rw [wideClass_eq, linearCode, otherCode]
  by_cases hw : Wide f
  · simp only [eq_true hw, if_true, true_and, resultCode_linear_shapesAB]
  · simp only [eq_false hw, if_false, false_and, resultCode_other_shapesAB]

theorem resultCode_scale (f : Fields) (o : VOps) :
    resultCode (wideClass .scale f) (shapesAB f o) = scaleCode f o := by
  rw [wideClass_eq, scaleCode, otherCode]
  by_cases hw : Wide f
  · simp only [eq_true hw, if_true, true_and, resultCode_scale_shapesAB]
  · simp only [eq_false hw, if_false, false_and, resultCode_other_shapesAB]

theorem resultCode_other_one (a : Shape) : resultCode .other [a] = if a.code = 0 then 0 else 2 := by
  cases a <;> rfl

theorem resultCode_neg (f : Fields) (o : VOps) : resultCode (wideClass .linear f) [o.a.sh] = negCode f o := by
  rw [wideClass_eq, negCode]
  by_cases hw : Wide f
  · simp only [eq_true hw, if_true, true_and]
    cases o.a.sh <;> rfl
  · simp only [eq_false hw, if_false, false_and]
    exact resultCode_other_one _

theorem resultCode_other_three (a b c : Shape) :
    resultCode .other [a, b, c] = if a.code = 0 ∧ b.code = 0 ∧ c.code = 0 then 0 else 2 := by
  simp [resultCode_other, Shape.isUniform_eq]

/-- The class of a shift left once the shape of the amount is known. -/
theorem resultCode_shift (f : Fields) (o : VOps) :
    resultCode (if !f.sub.getLsbD 3 && !o.b.sh.isUniform then .other else wideClass .scale f) (shapesAB f o) =
      shiftCode f o := by
  have huniform : (!f.sub.getLsbD 3 && !o.b.sh.isUniform) = decide (codeB f o ≠ 0) := by
    rw [codeB, Shape.isUniform_eq]
    cases f.sub.getLsbD 3 <;> simp
  rw [huniform, shiftCode]
  by_cases hb : codeB f o = 0
  · simp [hb, resultCode_scale, scaleCode]
  · simp [hb, resultCode_other_shapesAB, otherCode]

section Lanes
variable {op : Int → Int → Int}

theorem laneByLane_binary (op : Int → Int → Int) (f : Fields) (o : VOps) :
    LaneByLane (shapesAB f o) fun n => laneResult f (op (laneA f o n) (laneB f o n)) :=
  .shapesAB fun _ _ ha hb => by simp only [laneA_congr ha, laneB_congr hb]

theorem canHold_other (op : Int → Int → Int) (f : Fields) (o : VOps) :
    CanHold (otherCode f o) fun n => laneResult f (op (laneA f o n) (laneB f o n)) := by
  rw [otherCode, ← resultCode_other_shapesAB]
  exact (laneByLane_binary op f o).canHold

/-- With A and B uniform a binary result is uniform, whatever its class. -/
theorem canHold_of_other {lane : Nat → Lane} {k : Nat} (h : CanHold (otherCode f o) lane)
    (h0 : k = 0 → otherCode f o = 0) (h1 : k = 1 → IsAffine lane) : CanHold k lane :=
  ⟨fun hk => h.1 (h0 hk), h1⟩

theorem canHold_linear (hop : ∀ x y : Nat → Int, IsAffine (fun n => BitVec.ofInt 32 (x n)) →
      IsAffine (fun n => BitVec.ofInt 32 (y n)) → IsAffine fun n => BitVec.ofInt 32 (op (x n) (y n))) :
    CanHold (linearCode f o) fun n => laneResult f (op (laneA f o n) (laneB f o n)) := by
  rw [linearCode]
  split
  case isTrue h =>
    obtain ⟨hw, ha, hb⟩ := h
    refine canHold_of_other (canHold_other op f o) (fun hk => if_pos (by omega)) fun _ => ?_
    simpa only [hw.laneResult] using hop _ _ (hw.isAffine_laneA ha) (hw.isAffine_laneB hb)
  case isFalse => exact canHold_other op f o

theorem canHold_add (f : Fields) (o : VOps) :
    CanHold (linearCode f o) fun n => laneResult f (laneA f o n + laneB f o n) :=
  canHold_linear fun _ _ hx hy => by simpa only [BitVec.ofInt_add] using hx.add hy

theorem canHold_sub (f : Fields) (o : VOps) :
    CanHold (linearCode f o) fun n => laneResult f (laneA f o n - laneB f o n) :=
  canHold_linear fun _ _ hx hy => by
    simpa only [sub_eq_add_neg, BitVec.ofInt_add, BitVec.ofInt_neg] using hx.sub hy

theorem canHold_mul (f : Fields) (o : VOps) :
    CanHold (scaleCode f o) fun n => laneResult f (laneA f o n * laneB f o n) := by
  rw [scaleCode]
  split
  case isTrue h =>
    obtain ⟨hw, hab⟩ := h
    refine canHold_of_other (canHold_other (· * ·) f o) (fun hk => if_pos (by omega)) fun hk => ?_
    simp only [hw.laneResult, BitVec.ofInt_mul]
    rcases Nat.eq_zero_or_pos (codeB f o) with hb | hb
    · have hconst : ∀ n, laneB f o n = laneB f o 0 := fun n => laneB_congr (lane_of_codeB_zero hb n 0)
      simp only [hconst]
      exact (hw.isAffine_laneA (by omega)).mul_const _
    · have hconst : ∀ n, laneA f o n = laneA f o 0 := fun n => laneA_congr (Shape.lane_of_code_zero (by omega) n 0)
      simp only [hconst, mul_comm (BitVec.ofInt 32 (laneA f o 0))]
      exact (hw.isAffine_laneB (by omega)).mul_const _
  case isFalse => exact canHold_other (· * ·) f o

theorem laneByLane_unary (op : Nat → Int → Int) (f : Fields) (o : VOps) :
    LaneByLane [o.a.sh] fun n => laneResult f (op f.ty.toNat (laneA f o n)) :=
  .one fun _ _ ha => by simp only [laneA_congr ha]

theorem canHold_unary (op : Nat → Int → Int) (f : Fields) (o : VOps) :
    CanHold (if o.a.sh.code = 0 then 0 else 2) fun n => laneResult f (op f.ty.toNat (laneA f o n)) := by
  rw [← resultCode_other_one]
  exact (laneByLane_unary op f o).canHold

theorem canHold_neg (f : Fields) (o : VOps) : CanHold (negCode f o) fun n => laneResult f (-laneA f o n) := by
  have hother := canHold_unary negTy f o
  rw [negCode]
  split
  case isTrue h =>
    obtain ⟨hw, ha⟩ := h
    refine ⟨fun hk => hother.1 (if_pos hk), fun _ => ?_⟩
    simpa only [hw.laneResult, BitVec.ofInt_neg] using (hw.isAffine_laneA ha).neg
  case isFalse => exact hother

theorem laneByLane_mad (f : Fields) (o : VOps) :
    LaneByLane [o.a.sh, o.b.sh, o.c.sh] fun n => laneResult f (laneA f o n * laneB f o n + laneC f o n) :=
  .three fun _ _ ha hb hc => by simp only [laneA_congr ha, laneB_congr fun _ => hb, laneC, hc]

/-! ### Shifts (R104, R113) -/

/-- The w bits of a lane of A shifted, as its type, to 32 bits. -/
def shiftedLane (op : Nat → Nat → Nat → Int) (f : Fields) (o : VOps) (n : Nat) : Lane :=
  laneResult f (op (tyWidth f.ty.toNat) ((o.a.sh.lane n).toNat % 2 ^ tyWidth f.ty.toNat) (laneShift f o n))

theorem canHold_shift (op : Nat → Nat → Nat → Int) (f : Fields) (o : VOps) :
    CanHold (otherCode f o) (shiftedLane op f o) := by
  rw [otherCode, ← resultCode_other_shapesAB]
  exact LaneByLane.canHold (.shapesAB fun _ _ ha hb => by simp only [shiftedLane, ha, laneShift_congr hb])

/-- An affine A shifted by one amount is A times a power of two. -/
theorem canHold_shl (f : Fields) (o : VOps) : CanHold (shiftCode f o) (shiftedLane shl f o) := by
  rw [shiftCode]
  split
  case isTrue h =>
    obtain ⟨hw, ha, hb⟩ := h
    refine canHold_of_other (canHold_shift shl f o) (fun hk => if_pos ⟨hk, hb⟩) fun _ => ?_
    have hconst : ∀ n, laneShift f o n = laneShift f o 0 := fun n => laneShift_congr (lane_of_codeB_zero hb n 0)
    have hlane : ∀ n, shiftedLane shl f o n = o.a.sh.lane n * BitVec.twoPow 32 (laneShift f o 0) := fun n => by
      rw [shiftedLane, hw.laneResult, hw.tyWidth, Nat.mod_eq_of_lt (o.a.sh.lane n).isLt, shl_eq, hconst,
        BitVec.shiftLeft_eq_mul_twoPow]
    simpa only [funext hlane] using (Shape.isAffine_of_code_lt ha).mul_const _
  case isFalse => exact canHold_shift shl f o

/-- What a shift gives without SAT: its w bits, extended (R111). -/
theorem shiftedLane_eq (hsat : f.sat = 0) {op : Nat → Nat → Nat → Int}
    {sh : BitVec (tyWidth f.ty.toNat) → Nat → BitVec (tyWidth f.ty.toNat)}
    (hop : ∀ x n, BitVec.ofInt (tyWidth f.ty.toNat) (op (tyWidth f.ty.toNat) x.toNat n) = sh x n) (o : VOps) (n : Nat) :
    shiftedLane op f o n =
      if tySigned f.ty.toNat then (sh ((o.a.sh.lane n).setWidth _) (laneShift f o n)).signExtend 32
      else (sh ((o.a.sh.lane n).setWidth _) (laneShift f o n)).setWidth 32 := by
  rw [← hop, ← tyExtend_eq, BitVec.toNat_setWidth, shiftedLane, laneResult, hsat]
  rfl

end Lanes

/-! ### What each instruction writes -/

/-- The instruction writes D with a shape of code `k` that holds the lanes `lane`, and raises no flag. -/
def WritesLanes (i : Instr) (f : Fields) (e : VEntry) (t : Troupe) (s : State) (k : Nat) (lane : Nat → Lane) (g : Nat) :
    Prop :=
  k ≤ 2 ∧ IssuesWrite i f e t s (shapeOf k lane) g 0 ∧ CanHold k lane

section Writes
variable {c : VClass} {k : Nat}

theorem writes_binary {op : Int → Int → Int}
    (hi : exec i s = vectorInstr i s fun e => computeIssue (vBinary c op f e) e)
    (hk : resultCode c (shapesAB f (readOps f e t)) = k)
    (hl : CanHold k fun n => laneResult f (op (laneA f (readOps f e t) n) (laneB f (readOps f e t) n))) :
    WritesLanes i f e t s k (fun n => laneResult f (op (laneA f (readOps f e t) n) (laneB f (readOps f e t) n)))
      (gradeAB f (readOps f e t)) :=
  ⟨hk ▸ resultCode_le _ _, ⟨vBinary c op f, hi, by rw [← hk, ← resultShape_eq]; rfl⟩, hl⟩

theorem writes_binary_other {op : Int → Int → Int}
    (hi : exec i s = vectorInstr i s fun e => computeIssue (vBinary .other op f e) e) :
    WritesLanes i f e t s (otherCode f (readOps f e t))
      (fun n => laneResult f (op (laneA f (readOps f e t) n) (laneB f (readOps f e t) n)))
      (gradeAB f (readOps f e t)) :=
  writes_binary hi (resultCode_other_shapesAB _ _) (canHold_other op f _)

theorem writes_unary {op : Nat → Int → Int}
    (hi : exec i s = vectorInstr i s fun e => computeIssue (vUnary c op f e) e)
    (hk : resultCode c [(readOps f e t).a.sh] = k)
    (hl : CanHold k fun n => laneResult f (op f.ty.toNat (laneA f (readOps f e t) n))) :
    WritesLanes i f e t s k (fun n => laneResult f (op f.ty.toNat (laneA f (readOps f e t) n))) (readOps f e t).a.g :=
  ⟨hk ▸ resultCode_le _ _, ⟨vUnary c op f, hi, by rw [← hk, ← resultShape_eq]; rfl⟩, hl⟩

theorem writes_unary_other {op : Nat → Int → Int}
    (hi : exec i s = vectorInstr i s fun e => computeIssue (vUnary .other op f e) e) :
    WritesLanes i f e t s (if (readOps f e t).a.sh.code = 0 then 0 else 2)
      (fun n => laneResult f (op f.ty.toNat (laneA f (readOps f e t) n))) (readOps f e t).a.g :=
  writes_unary hi (resultCode_other_one _) (canHold_unary op f _)

theorem writes_shift {op : Nat → Nat → Nat → Int}
    (hi : exec i s = vectorInstr i s fun e => computeIssue (vShift c op f e) e)
    (hk : resultCode (if !f.sub.getLsbD 3 && !(readOps f e t).b.sh.isUniform then .other else c)
      (shapesAB f (readOps f e t)) = k)
    (hl : CanHold k (shiftedLane op f (readOps f e t))) :
    WritesLanes i f e t s k (shiftedLane op f (readOps f e t)) (gradeAB f (readOps f e t)) :=
  ⟨hk ▸ resultCode_le _ _, ⟨vShift c op f, hi, by rw [← hk, ← resultShape_eq]; rfl⟩, hl⟩

theorem writes_shift_right {op : Nat → Nat → Nat → Int}
    (hi : exec i s = vectorInstr i s fun e => computeIssue (vShift .other op f e) e) :
    WritesLanes i f e t s (otherCode f (readOps f e t)) (shiftedLane op f (readOps f e t))
      (gradeAB f (readOps f e t)) :=
  writes_shift hi (by rw [ite_self, resultCode_other_shapesAB, otherCode]) (canHold_shift op f _)

section Instructions
variable (f : Fields) (e : VEntry) (t : Troupe) (s : State)

theorem writes_vadd :
    let o := readOps f e t
    WritesLanes (.vadd f) f e t s (linearCode f o) (fun n => laneResult f (laneA f o n + laneB f o n)) (gradeAB f o) :=
  writes_binary rfl (resultCode_linear f _) (canHold_add f _)

theorem writes_vsub :
    let o := readOps f e t
    WritesLanes (.vsub f) f e t s (linearCode f o) (fun n => laneResult f (laneA f o n - laneB f o n)) (gradeAB f o) :=
  writes_binary rfl (resultCode_linear f _) (canHold_sub f _)

theorem writes_vmul :
    let o := readOps f e t
    WritesLanes (.vmul f) f e t s (scaleCode f o) (fun n => laneResult f (laneA f o n * laneB f o n)) (gradeAB f o) :=
  writes_binary rfl (resultCode_scale f _) (canHold_mul f _)

theorem writes_vneg :
    let o := readOps f e t
    WritesLanes (.vneg f) f e t s (negCode f o) (fun n => laneResult f (-laneA f o n)) o.a.g :=
  writes_unary (op := negTy) rfl (resultCode_neg f _) (canHold_neg f _)

theorem writes_vshl :
    let o := readOps f e t
    WritesLanes (.vshl f) f e t s (shiftCode f o) (shiftedLane shl f o) (gradeAB f o) :=
  writes_shift rfl (resultCode_shift f _) (canHold_shl f _)

theorem writes_vmad :
    let o := readOps f e t
    WritesLanes (.vmad f) f e t s (if o.a.sh.code = 0 ∧ o.b.sh.code = 0 ∧ o.c.sh.code = 0 then 0 else 2)
      (fun n => laneResult f (laneA f o n * laneB f o n + laneC f o n)) (max o.a.g (max o.b.g o.c.g)) := by
  intro o
  rw [← resultCode_other_three]
  exact ⟨resultCode_le _ _, ⟨vMad f, rfl, by rw [← resultShape_eq]; rfl⟩, (laneByLane_mad f _).canHold⟩

/-! ### Moves and lane builders (R115) -/

theorem resultCode_move (a : Shape) : resultCode .move [a] = a.code := by
  cases a <;> rfl

theorem writes_vmov :
    let o := readOps f e t
    WritesLanes (.vmov f) f e t s o.a.sh.code o.a.sh.lane o.a.g := by
  intro o
  refine ⟨resultCode_move o.a.sh ▸ resultCode_le _ _, ⟨vMove f, rfl, ?_⟩,
    fun h0 n => Shape.lane_of_code_zero h0 n 0, fun h1 => Shape.isAffine_of_code_lt (by omega)⟩
  rw [← resultCode_move, ← resultShape_eq]
  rfl

theorem writes_vbcast :
    let o := readOps f e t
    WritesLanes (.vbcast f) f e t s 0 (fun _ => o.a.sh.lane (laneIndex f o)) (gradeAB f o) :=
  ⟨by decide, ⟨vBroadcast f, rfl, rfl⟩, fun _ _ => rfl, fun _ => .const _⟩

/-- Lane i of vsplat: lane 0 of A plus i times the stride. -/
def splatLane (f : Fields) (o : VOps) (n : Nat) : Lane :=
  o.a.sh.lane 0 + BitVec.ofNat 32 n * (if f.sub.getLsbD 3 then f.imm else o.b.sh.lane 0)

theorem affineOf_splatLane (f : Fields) (o : VOps) : affineOf (splatLane f o) =
    .affine (o.a.sh.lane 0) (if f.sub.getLsbD 3 then f.imm else o.b.sh.lane 0) := by
  simp only [affineOf, splatLane, Shape.affine.injEq]
  exact ⟨by simp, by simp⟩

theorem writes_vsplat :
    let o := readOps f e t
    WritesLanes (.vsplat f) f e t s 1 (splatLane f o) (gradeAB f o) :=
  ⟨by decide, ⟨vSplat f, rfl, by rw [shapeOf, affineOf_splatLane]; rfl⟩, by simp, fun _ => ⟨_, _, fun _ => rfl⟩⟩

theorem writes_vsel :
    let o := readOps f e t
    WritesLanes (.vsel f) f e t s 2 (fun n => if e.cap.c.v.getLsbD n then o.a.sh.lane n else o.b.sh.lane n)
      (max (max o.a.g o.b.g) e.cap.c.g) :=
  ⟨le_rfl, ⟨vSelect f, rfl, rfl⟩, by simp, by simp⟩

/-! ### Producers (R116, R117) -/

/-- The lane of A that vperm moves to lane i. -/
def permutedLane (f : Fields) (o : VOps) (n : Nat) : Lane :=
  o.a.sh.lane (if f.sub = 0 then (o.b.sh.lane n).toNat % 64
    else if f.sub.toNat % 8 = 1 then (n + laneIndex f o) % 64 else n ^^^ laneIndex f o)

theorem issues_vperm :
    let o := readOps f e t
    IssuesWrite (.vperm f) f e t s (shapeOf 2 (permutedLane f o)) (gradeAB f o) 0 :=
  ⟨vPermute f, rfl, by simp only [vPermute, beq_iff_eq]; rfl⟩

/-- What a reduction or scan writes in lane i. -/
def reducedLane (f : Fields) (fm : Fmt) (a : Shape) (k0 : Word) (scan : Bool) (n : Nat) : Lane :=
  match (redLanes f fm a k0 scan).1.find? fun y => y.1 == n with | some y => y.2 | none => 0

/-- What a reduction writes in every active lane. -/
def reducedValue (f : Fields) (fm : Fmt) (a : Shape) (k0 : Word) : Lane :=
  match (redLanes f fm a k0 false).1 with | y :: _ => y.2 | [] => 0

theorem issues_vscan :
    let a := (readOps f e t).a
    let fm := s.slotFmt t.id.ring f.ty.toNat
    IssuesWrite (.vscan f) f e t s (shapeOf 2 (reducedLane f fm a.sh e.cap.k0 true)) a.g
      (redLanes f fm a.sh e.cap.k0 true).2 :=
  ⟨vReduce true f, rfl, rfl⟩

theorem issues_vred :
    let a := (readOps f e t).a
    let fm := s.slotFmt t.id.ring f.ty.toNat
    IssuesWrite (.vred f) f e t s (shapeOf 0 fun _ => reducedValue f fm a.sh e.cap.k0) a.g
      (redLanes f fm a.sh e.cap.k0 false).2 :=
  ⟨vReduce false f, rfl, rfl⟩

end Instructions

theorem WritesLanes.computes {lane : Nat → Lane} {g : Nat} (h : WritesLanes i f e t s k lane g)
    (hroom : t.room (s.ring t.id.ring).vgen f.d) (hslots : i.slots = []) (hshort : i.longLatency = false)
    (hm : VectorMay i e t s) : Computes i e t s f.d g lane 0 :=
  h.2.1.computes (fun _ hn => lane_shapeOf h.2.2 hn) hroom (hslots ▸ rfl) hshort hm

theorem WritesLanes.gives_code {lane : Nat → Lane} {g : Nat} (h : WritesLanes i f e t s k lane g)
    (hd : f.d.toNat < 64) (hslots : i.slots = []) (hshort : i.longLatency = false) (hm : VectorMay i e t s) :
    GivesCode i f e t s k :=
  h.2.1.gives_code hd h.1 hslots hshort hm

end Writes

/-- Settles O13: the lanes and the code of each instruction's result, and how a result with that code issues. -/
theorem vectorIntegerAndShift : Obligations.VectorIntegerAndShift := by
  refine ⟨fun f e t s hroom => ?lanes, fun f e t s hroom hsat => ?shifts, fun f e t s hd => ?shapes⟩
  case lanes =>
    intro ty w o a b c g gives
    refine ⟨(writes_vadd f e t s).computes hroom rfl rfl,
      (writes_vsub f e t s).computes hroom rfl rfl,
      (writes_vmul f e t s).computes hroom rfl rfl,
      (writes_binary_other (i := .vmulhi f) (op := mulHi ty) rfl).computes hroom rfl rfl,
      (writes_vmad f e t s).computes hroom rfl rfl,
      (writes_binary_other (i := .vand f) (op := intAnd) rfl).computes hroom rfl rfl,
      (writes_binary_other (i := .vor f) (op := intOr) rfl).computes hroom rfl rfl,
      (writes_binary_other (i := .vxor f) (op := intXor) rfl).computes hroom rfl rfl,
      (writes_binary_other (i := .vandn f) (op := intAndn) rfl).computes hroom rfl rfl,
      (writes_binary_other (i := .vmin f) (op := min) rfl).computes hroom rfl rfl,
      (writes_binary_other (i := .vmax f) (op := max) rfl).computes hroom rfl rfl,
      ?vabs,
      (writes_vneg f e t s).computes hroom rfl rfl,
      (writes_unary_other (i := .vclz f) (op := clzTy) rfl).computes hroom rfl rfl,
      (writes_unary_other (i := .vpop f) (op := popTy) rfl).computes hroom rfl rfl⟩
    case vabs =>
      have habs : (fun n => laneResult f (absTy ty (laneA f o n))) =
          fun n => laneResult f (if a n < 0 then -(a n) else a n) := funext fun n => by rw [absTy_eq]; rfl
      exact fun hm => habs ▸ (writes_unary_other (i := .vabs f) (op := absTy) rfl).computes hroom rfl rfl hm
  case shifts =>
    intro ty w o a k ext g
    have shift : ∀ {i op code} {sh : BitVec w → Nat → BitVec w}, (∀ x n, BitVec.ofInt w (op w x.toNat n) = sh x n) →
        WritesLanes i f e t s code (shiftedLane op f o) g → i.slots = [] → i.longLatency = false →
        VectorMay i e t s → Computes i e t s f.d g (fun n => ext (sh (a n) (k n))) 0 := fun hop hw hslots hshort hm =>
      (funext (shiftedLane_eq hsat hop o)) ▸ hw.computes hroom hslots hshort hm
    exact ⟨shift shl_eq (writes_vshl f e t s) rfl rfl,
      shift shr_eq (writes_shift_right (i := .vshr f) (op := shr) rfl) rfl rfl,
      shift sra_eq (writes_shift_right (i := .vsra f) (op := sra) rfl) rfl rfl⟩
  case shapes =>
    intro o a b wide other alone room some_ over_ gives holds
    refine ⟨?linear, (writes_vneg f e t s).gives_code hd rfl rfl, (writes_vmul f e t s).gives_code hd rfl rfl,
      (writes_vshl f e t s).gives_code hd rfl rfl, ?other, ?unary, (writes_vmad f e t s).gives_code hd rfl rfl,
      (writes_vmov f e t s).gives_code hd rfl rfl, (writes_vbcast f e t s).gives_code hd rfl rfl,
      (writes_vsplat f e t s).gives_code hd rfl rfl, (writes_vsel f e t s).gives_code hd rfl rfl,
      (issues_vperm f e t s).holds_code hd (.inr rfl) rfl rfl, fun hint => ⟨?vscan, ?vred⟩⟩
    case linear =>
      intro c hc
      fin_cases hc
      · exact (writes_vadd f e t s).gives_code hd rfl rfl
      · exact (writes_vsub f e t s).gives_code hd rfl rfl
    case other =>
      intro c hc
      fin_cases hc
      · exact (writes_binary_other (i := .vmulhi f) (op := mulHi f.ty.toNat) rfl).gives_code hd rfl rfl
      · exact (writes_binary_other (i := .vand f) (op := intAnd) rfl).gives_code hd rfl rfl
      · exact (writes_binary_other (i := .vor f) (op := intOr) rfl).gives_code hd rfl rfl
      · exact (writes_binary_other (i := .vxor f) (op := intXor) rfl).gives_code hd rfl rfl
      · exact (writes_binary_other (i := .vandn f) (op := intAndn) rfl).gives_code hd rfl rfl
      · exact (writes_shift_right (i := .vshr f) (op := shr) rfl).gives_code hd rfl rfl
      · exact (writes_shift_right (i := .vsra f) (op := sra) rfl).gives_code hd rfl rfl
      · exact (writes_binary_other (i := .vmin f) (op := min) rfl).gives_code hd rfl rfl
      · exact (writes_binary_other (i := .vmax f) (op := max) rfl).gives_code hd rfl rfl
    case unary =>
      intro c hc
      fin_cases hc
      · exact (writes_unary_other (i := .vabs f) (op := absTy) rfl).gives_code hd rfl rfl
      · exact (writes_unary_other (i := .vclz f) (op := clzTy) rfl).gives_code hd rfl rfl
      · exact (writes_unary_other (i := .vpop f) (op := popTy) rfl).gives_code hd rfl rfl
    case vscan => exact (issues_vscan f e t s).holds_code hd (.inr rfl) (if_neg (Bool.eq_false_iff.mp hint)) rfl
    case vred => exact (issues_vred f e t s).holds_code hd (.inl rfl) (if_neg (Bool.eq_false_iff.mp hint)) rfl

end Sys2Proof.Machine
end

section
/-! PROOF. Vector selects, moves and broadcasts; the masks that vcmp and fcmp write (R85, R110, R114, R115, R122). -/

namespace Sys2Proof.Machine

variable {i : Instr} {f : Fields} {e : VEntry} {t : Troupe} {s : State} {n : Nat}

/-! ### Scalar results of the vector side -/

theorem computeIssue_scalar {out : Troupe → State → VOut} {ss : List SWrite} {fl : BitVec 4}
    (ho : out t s = { ss := ss, fl := fl }) (hslots : s.judgeSlots t.id.ring e.instr.slots = none)
    (hshort : e.instr.longLatency = false) :
    computeIssue out e t s = .done (s.setTroupe ((ss.foldl (fun t w => t.writeS w.d w.v) t).raise fl)) := by
  have hbudget : t.overBudget (s.ring t.id.ring).vgen ({ ss := ss, fl := fl } : VOut).generals = false := rfl
  simp only [computeIssue, ho, hbudget, hslots, hshort, Bool.false_eq_true, if_false]
  rfl

theorem exec_scalarResult {out : VEntry → Troupe → State → VOut} {ss : List SWrite} {fl : BitVec 4}
    (hi : exec i s = vectorInstr i s fun e => computeIssue (out e) e) (ho : out e t s = { ss := ss, fl := fl })
    (hslots : s.judgeSlots t.id.ring i.slots = none) (hshort : i.longLatency = false) (hm : VectorMay i e t s) :
    exec i s = .next (s.vectorNext t ((ss.foldl (fun t w => t.writeS w.d w.v) t).raise fl)) := by
  obtain rfl : e.instr = i := hm.2.2.2.1
  rw [hi, vectorInstr_done (issue := fun e => computeIssue (out e) e) hm (computeIssue_scalar ho hslots hshort)]
  rfl

theorem Troupe.raise_zero (t : Troupe) : t.raise 0 = t := by
  simp [Troupe.raise]

theorem exec_vlane (hm : VectorMay (.vlane f) e t s) :
    let o := readOps f e t
    exec (.vlane f) s = .next (s.vectorNext t (if e.cap.k0 = 0 then t else t.writeS f.d
      { v := tyExtend 64 f.ty.toNat (tyInt f.ty.toNat (o.a.sh.lane (laneIndex f o)).toNat), g := o.a.g })) := by
  intro o
  have hout : vLane f e t s = { ss := if e.cap.k0 = 0 then [] else
      [{ d := f.d, v := { v := tyExtend 64 f.ty.toNat (tyInt f.ty.toNat (o.a.sh.lane (laneIndex f o)).toNat),
                          g := o.a.g } }] } := by
    simp only [vLane]
    split <;> rfl
  rw [exec_scalarResult (out := vLane f) rfl hout rfl rfl hm, Troupe.raise_zero]
  split <;> rfl

/-! ### Masks (R114) -/

theorem getLsbD_maskOf (l : List Nat) (hn : n < 64) : (maskOf l).getLsbD n = decide (n ∈ l) := by
  have hfold : ∀ m : Word, (l.foldl (fun m j => m ||| (1#64 <<< j)) m).getLsbD n =
      (m.getLsbD n || decide (n ∈ l)) := by
    induction l with
    | nil => simp
    | cons j l ih =>
        intro m
        have hbit : (1#64 <<< j).getLsbD n = decide (n = j) := by
          simp only [BitVec.getLsbD_shiftLeft, hn, decide_true, Bool.true_and, BitVec.getLsbD_one]
          rw [Bool.eq_iff_iff]
          simp only [Bool.and_eq_true, Bool.not_eq_true', decide_eq_false_iff_not, decide_eq_true_eq]
          omega
        rw [List.foldl_cons, ih, BitVec.getLsbD_or, hbit, Bool.or_assoc, ← Bool.decide_or]
        simp only [List.mem_cons]
  exact (hfold 0).trans (by simp)

/-- The bits of `old` where the mask is clear, elsewhere whether the condition holds. -/
def replaceBits (old k0 : Word) (holds : Nat → Bool) : Word :=
  (old &&& ~~~k0) ||| (maskOf ((List.range 64).filter holds) &&& k0)

theorem getLsbD_replaceBits (old k0 : Word) (holds : Nat → Bool) (hn : n < 64) :
    (replaceBits old k0 holds).getLsbD n = if k0.getLsbD n then holds n else old.getLsbD n := by
  have hmem : decide (n ∈ (List.range 64).filter holds) = holds n := by simp [hn]
  simp only [replaceBits, BitVec.getLsbD_or, BitVec.getLsbD_and, BitVec.getLsbD_not, getLsbD_maskOf _ hn, hmem, hn]
  cases k0.getLsbD n <;> simp

theorem foldl_maskWrite (f : Fields) (e : VEntry) (t : Troupe) (g : Nat) (holds : Nat → Bool) :
    let old := if f.d.toNat < 0xE0 then t.reg f.d.toNat else {}
    (maskWrite f e t g holds).foldl (fun t w => t.writeS w.d w.v) t =
      if e.cap.k0 = 0 then t else t.writeS f.d
        { v := replaceBits old.v e.cap.k0 holds, g := if e.cap.k0 = allLanes then g else max old.g g } := by
  intro old
  rw [maskWrite]
  split <;> rfl

/-- A compare writes its active bits of D and keeps the others. -/
theorem exec_maskResult {out : VEntry → Troupe → State → VOut} {g : Nat} {holds : Nat → Bool} {fl : BitVec 4}
    (hi : exec i s = vectorInstr i s fun e => computeIssue (out e) e)
    (ho : out e t s = { ss := maskWrite f e t g holds, fl := fl })
    (hslots : s.judgeSlots t.id.ring i.slots = none) (hshort : i.longLatency = false) (hm : VectorMay i e t s) :
    let old := if f.d.toNat < 0xE0 then t.reg f.d.toNat else {}
    exec i s = .next (s.vectorNext t ((if e.cap.k0 = 0 then t else t.writeS f.d
      { v := replaceBits old.v e.cap.k0 holds,
        g := if e.cap.k0 = allLanes then g else max old.g g }).raise fl)) := by
  intro old
  rw [exec_scalarResult hi ho hslots hshort hm, foldl_maskWrite]

/-! ### Conditions of fcmp (R122) -/

theorem fcmpHolds_fst (c : Nat) (a b : FV) : c < 8 → (fcmpHolds c a b).1 =
    if a.isNan || b.isNan then c == 1 || c == 6
    else match c with
      | 0 => a.le b && b.le a | 1 => !(a.le b && b.le a)
      | 2 => a.lt b | 3 => b.le a | 4 => a.le b | 5 => b.lt a | 6 => false | _ => true := by
  intro hc
  rw [fcmpHolds]
  split
  · rfl
  · interval_cases c <;> rfl

theorem fcmpHolds_snd (c : Nat) (a b : FV) : (fcmpHolds c a b).2 = true ↔
    (a.isNan = true ∨ b.isNan = true) ∧ 2 ≤ c ∧ c ≤ 5 := by
  rw [fcmpHolds, ← Bool.or_eq_true]
  split
  case isTrue h => simp [h]
  case isFalse h => simp [h]

theorem flAll_map_flIf {α : Type} (l : List α) (p : α → Bool) (fl : BitVec 4) :
    flAll (l.map fun x => flIf (p x) fl) = flIf (l.any p) fl := by
  have hfold : ∀ a, (l.map fun x => flIf (p x) fl).foldl (· ||| ·) a = a ||| flIf (l.any p) fl := by
    induction l with
    | nil => intro a; simp [flIf]
    | cons x l ih =>
        intro a
        rw [List.map_cons, List.foldl_cons, ih, List.any_cons, BitVec.or_assoc]
        cases p x <;> cases l.any p <;> simp [flIf]
  exact (hfold 0).trans BitVec.zero_or

theorem flIf_one (p : Bool) : (flIf p 1 = 1 ↔ p = true) ∧ (flIf p 1 = 0 ∨ flIf p 1 = 1) := by
  cases p <;> decide

theorem mem_lanesOf {k0 : Word} : n ∈ lanesOf k0 ↔ n < 64 ∧ k0.getLsbD n = true := by
  simp [lanesOf]

/-- Settles O14: the moves by the lanes they write, the compares by the bits they replace. -/
theorem vectorMovesAndMasks : Obligations.VectorMovesAndMasks := by
  refine ⟨fun f e t s hroom => ?moves, fun f e t s => ?masks⟩
  case moves =>
    intro o j g
    exact ⟨(writes_vsel f e t s).computes hroom rfl rfl, (writes_vmov f e t s).computes hroom rfl rfl,
      (writes_vbcast f e t s).computes hroom rfl rfl, (writes_vsplat f e t s).computes hroom rfl rfl, exec_vlane⟩
  case masks =>
    intro o g old k0 writes a b fm x y
    refine ⟨fun hm => ⟨_, fun n hn => (getLsbD_replaceBits old.v k0 _ hn).trans ?vcmp,
      exec_maskResult (out := vCompare f) rfl rfl rfl rfl hm⟩, fun hm hslots => ?fcmp⟩
    case vcmp =>
      exact congrArg (fun p : Bool => if k0.getLsbD n then p else old.v.getLsbD n) (cmpHolds_eq _ (a n) (b n))
    case fcmp =>
      let holds := fun n => fcmpHolds (f.sub.toNat % 8) (x n) (y n)
      let invalid := (lanesOf k0).any fun n => (holds n).2
      have hinvalid : invalid = true ↔ ∃ n < 64, k0.getLsbD n = true ∧ ((x n).isNan = true ∨ (y n).isNan = true) ∧
          2 ≤ f.sub.toNat % 8 ∧ f.sub.toNat % 8 ≤ 5 := by
        simp only [invalid, holds, List.any_eq_true, mem_lanesOf, fcmpHolds_snd, and_assoc]
      refine ⟨flIf invalid 1, (flIf_one invalid).1.trans hinvalid, (flIf_one invalid).2, _,
        fun n hn => (getLsbD_replaceBits old.v k0 (fun n => (holds n).1) hn).trans ?_,
        exec_maskResult (out := fCompare f) rfl ?_ hslots rfl hm⟩
      · exact congrArg (fun p : Bool => if k0.getLsbD n then p else old.v.getLsbD n)
          (fcmpHolds_fst _ (x n) (y n) (Nat.mod_lt _ (by decide)))
      · rw [← flAll_map_flIf]
        rfl

end Sys2Proof.Machine
end

section
/-! PROOF. The vector float operations and conversions: their lanes and their flags (R118-R121, R124-R128). -/

namespace Sys2Proof.Machine

variable {i : Instr} {f : Fields} {e : VEntry} {t : Troupe} {s : State} {o : VOps} {n m : Nat}

/-- Where an instruction decodes, its SUB is one that its row defines (R46). -/
theorem subOk_of_decodeFault_eq_none {st : Bool} {r : Row} (h : decodeFault st i = none) (hr : i.row = some r)
    (hf : i.fields = some f) : subOk r f = true := by
  simp only [decodeFault, hr, hf] at h
  split at h
  · cases hr
  · split_ifs at h with _ hsub
    simpa using hsub

theorem fLaneB_congr {fm : Fmt} (hb : f.sub.getLsbD 3 = false → o.b.sh.lane n = o.b.sh.lane m) :
    fLaneB f fm o n = fLaneB f fm o m := by
  cases hi : f.sub.getLsbD 3
  · simp only [fLaneB, hb hi]
  · simp only [fLaneB, hi, if_true]

/-- fma has no immediate form. -/
theorem fLaneB_fma (hm : VectorMay (.fma f) e t s) (fm : Fmt) (o : VOps) (n : Nat) :
    fLaneB f fm o n = fm.decode (o.b.sh.lane n).toNat := by
  have hsub : f.sub = 0 := by
    have hok := subOk_of_decodeFault_eq_none hm.2.2.2.2.1 rfl rfl
    exact BitVec.eq_of_toNat_eq (by simpa [subOk] using hok)
  rw [fLaneB, hsub]
  rfl

section Results
variable {out : VEntry → Troupe → State → VOut} {ins : List Shape} {g : Nat} {lane : Nat → Nat × BitVec 4}

/-- The shape of a float result; its flags are those of the active lanes. -/
theorem issues_fLanes (hi : exec i s = vectorInstr i s fun e => computeIssue (out e) e)
    (ho : out e t s = fLanes f e ins g lane) :
    IssuesWrite i f e t s (shapeOf (resultCode .other ins) fun n => BitVec.ofNat 32 (lane n).1) g
      (flAll ((lanesOf e.cap.k0).map fun n => (lane n).2)) :=
  ⟨out, hi, by rw [ho, fLanes, resultShape_eq]⟩

theorem lane_fLanes (hl : LaneByLane ins lane) {n : Nat} (hn : n < 64) :
    (shapeOf (resultCode .other ins) fun n => BitVec.ofNat 32 (lane n).1).lane n = BitVec.ofNat 32 (lane n).1 :=
  lane_shapeOf (hl.map fun x => BitVec.ofNat 32 x.1).canHold hn

theorem computes_fLanes (hi : exec i s = vectorInstr i s fun e => computeIssue (out e) e)
    (ho : out e t s = fLanes f e ins g lane) (hl : LaneByLane ins lane)
    (hroom : t.room (s.ring t.id.ring).vgen f.d) (hslots : s.judgeSlots t.id.ring i.slots = none)
    (hshort : i.longLatency = false) (hm : VectorMay i e t s) :
    Computes i e t s f.d g (fun n => BitVec.ofNat 32 (lane n).1) (flAll ((lanesOf e.cap.k0).map fun n => (lane n).2)) :=
  (issues_fLanes hi ho).computes (fun _ hn => lane_fLanes hl hn) hroom hslots hshort hm

theorem produces_fLanes (hi : exec i s = vectorInstr i s fun e => computeIssue (out e) e)
    (ho : out e t s = fLanes f e ins g lane) (hl : LaneByLane ins lane)
    (hroom : t.room (s.ring t.id.ring).vgen f.d) (hslots : s.judgeSlots t.id.ring i.slots = none)
    (hlong : i.longLatency = true) (hm : VectorMay i e t s) :
    Produces i e t s f.d g (fun n => BitVec.ofNat 32 (lane n).1) (flAll ((lanesOf e.cap.k0).map fun n => (lane n).2)) :=
  (issues_fLanes hi ho).produces (fun _ hn _ => lane_fLanes hl hn) hroom hslots hlong hm

end Results

/-- The random bits of fsrnd: with r = 0 operand B is not read. -/
theorem laneByLane_stochastic {α : Type} (f : Fields) (o : VOps) (res : Lane → Nat → α) :
    LaneByLane (if f.imm.toNat = 0 then [o.a.sh] else [o.a.sh, o.b.sh])
      fun n => res (o.a.sh.lane n) ((o.b.sh.lane n).toNat % 2 ^ f.imm.toNat) := by
  split
  case isTrue hr => exact .one fun _ _ ha => by simp only [ha, hr, pow_zero, Nat.mod_one]
  case isFalse => exact .two fun _ _ ha hb => by simp only [ha, hb]

/-- Settles O15: each operation is its exact result on the decoded lanes, rounded lane by lane. -/
theorem vectorFloatAndConversions : Obligations.VectorFloatAndConversions := by
  refine ⟨fun f e t s hroom hslots => ?operations, fun f e t s hroom hslots => ?conversions⟩
  case operations =>
    intro o fm a b c sat mode g gives
    have hA : ∀ {n m}, o.a.sh.lane n = o.a.sh.lane m → a n = a m := congrArg fun x : Lane => fm.decode x.toNat
    have binary : ∀ {i} {out : VEntry → Troupe → State → VOut} {lane},
        (exec i s = vectorInstr i s fun e => computeIssue (out e) e) →
        out e t s = fLanes f e (shapesAB f o) g lane → (∀ n m, a n = a m → b n = b m → lane n = lane m) →
        s.judgeSlots t.id.ring i.slots = none → i.longLatency = false → gives i g lane :=
      fun hi ho hl => computes_fLanes hi ho (.shapesAB fun n m ha hb => hl n m (hA ha) (fLaneB_congr hb)) hroom
    have unary : ∀ {i} {out : VEntry → Troupe → State → VOut} {lane},
        (exec i s = vectorInstr i s fun e => computeIssue (out e) e) →
        out e t s = fLanes f e [o.a.sh] o.a.g lane → (∀ n m, o.a.sh.lane n = o.a.sh.lane m → lane n = lane m) →
        s.judgeSlots t.id.ring i.slots = none → i.longLatency = false → gives i o.a.g lane :=
      fun hi ho hl => computes_fLanes hi ho (.one hl) hroom
    have ternary : ∀ {i} {out : VEntry → Troupe → State → VOut} {lane},
        (exec i s = vectorInstr i s fun e => computeIssue (out e) e) →
        out e t s = fLanes f e [o.a.sh, o.b.sh, o.c.sh] (max o.a.g (max o.b.g o.c.g)) lane →
        (∀ n m, o.a.sh.lane n = o.a.sh.lane m → o.b.sh.lane n = o.b.sh.lane m → o.c.sh.lane n = o.c.sh.lane m →
          lane n = lane m) →
        s.judgeSlots t.id.ring i.slots = none → i.longLatency = false → gives i (max o.a.g (max o.b.g o.c.g)) lane :=
      fun hi ho hl => computes_fLanes hi ho (.three hl) hroom
    refine ⟨binary (i := .fadd f) (out := fBinary FV.add f) rfl rfl (fun _ _ ha hb => by simp only [ha, hb]) hslots rfl,
      binary (i := .fsub f) (out := fBinary (fun x y => x.add y.negate) f) rfl rfl
        (fun _ _ ha hb => by simp only [ha, hb]) hslots rfl,
      binary (i := .fmul f) (out := fBinary FV.mul f) rfl rfl (fun _ _ ha hb => by simp only [ha, hb]) hslots rfl,
      ?fma,
      binary (i := .fmin f) (out := fPick FV.min f) rfl rfl (fun _ _ ha hb => by simp only [ha, hb]) hslots rfl,
      binary (i := .fmax f) (out := fPick FV.max f) rfl rfl (fun _ _ ha hb => by simp only [ha, hb]) hslots rfl,
      unary (i := .fabs f) (out := fUnary (fun x => (x.abs, 0)) f) rfl rfl
        (fun _ _ ha => by simp only [a, ha]) hslots rfl,
      unary (i := .fneg f) (out := fUnary (fun x => (x.negate, 0)) f) rfl rfl
        (fun _ _ ha => by simp only [a, ha]) hslots rfl,
      ?fscale,
      unary (i := .frnd f) (out := fRound f) rfl rfl (fun _ _ ha => by simp only [a, ha]) hslots rfl,
      unary (i := .fclass f) (out := fClass f) rfl rfl (fun _ _ ha => by simp only [ha]) hslots rfl,
      unary (i := .fcvtFromInt f) (out := fCvtFromInt f) rfl rfl (fun _ _ ha => by simp only [ha]) hslots rfl,
      unary (i := .fcvtToInt f) (out := fCvtToInt f) rfl rfl (fun _ _ ha => by simp only [a, ha]) hslots rfl,
      ternary (i := .fdot f) (out := fDot f) rfl rfl (fun _ _ ha hb hc => by simp only [ha, hb, hc]) hslots rfl,
      ?fzpt⟩
    case fma =>
      intro hm
      have hreg : ∀ n, b n = fm.decode (o.b.sh.lane n).toNat := fLaneB_fma hm fm o
      simp only [hreg]
      exact ternary (out := fMulAdd f) rfl rfl (fun _ _ ha hb hc => by simp only [a, c, ha, hb, hc]) hslots rfl hm
    case fscale =>
      refine computes_fLanes (i := .fscale f) (out := fScale f) rfl rfl (.shapesAB (o := o) fun n m ha hb => ?_) hroom
        hslots rfl
      cases hi : f.sub.getLsbD 3
      · simp only [hA ha, hb hi]
      · simp only [hA ha, if_true]
    case fzpt =>
      refine ternary (i := .fzpt f) (out := fZeroPoint f) rfl ?_ (fun _ _ ha hb hc => by simp only [ha, hb, hc]) hslots
        rfl
      simp only [fZeroPoint, beq_iff_eq]
      rfl
  case conversions =>
    intro o fm src a r gives
    refine ⟨computes_fLanes (out := fCvtSlot f) rfl rfl (.one (a := o.a.sh) fun _ _ ha => ?_) hroom hslots rfl,
      computes_fLanes (out := fStochastic f) rfl rfl
        (laneByLane_stochastic f o fun x rho => finish1 fm (src.decode x.toNat, 0)
          (.stoch rho r (src.gridExp (src.decode x.toNat))) (f.sat == 1)) hroom hslots rfl⟩
    simp only [a, ha]

end Sys2Proof.Machine
end

section
/-! PROOF. Reductions and scans as folds over the active lanes, and the results that producers hold until they complete
(R88, R116-R118, R123). -/

namespace Sys2Proof.Machine

variable {i : Instr} {f : Fields} {e : VEntry} {t : Troupe} {s : State} {n : Nat}

/-! ### Running values (R117) -/

section Scan
variable {α : Type} (step : α → Nat → α) (first : Nat → α)

/-- The value after one more lane. -/
def scanStep (acc : Option α) (i : Nat) : α :=
  match acc with
  | none => first i
  | some a => step a i

/-- The value after a list of lanes. -/
def scanFold (acc : Option α) (l : List Nat) : Option α := l.foldl (fun a i => some (scanStep step first a i)) acc

theorem scanLanes_cons (i : Nat) (l : List Nat) (acc : Option α) : scanLanes step first (i :: l) acc =
    (i, acc, scanStep step first acc i) :: scanLanes step first l (some (scanStep step first acc i)) := by
  cases acc <;> rfl

theorem map_fst_scanLanes (l : List Nat) (acc : Option α) : (scanLanes step first l acc).map (·.1) = l := by
  induction l generalizing acc with
  | nil => rfl
  | cons i l ih => rw [scanLanes_cons, List.map_cons, ih]

theorem getLast?_scanLanes (l : List Nat) (acc : Option α) :
    (((scanLanes step first l acc).getLast?).map fun y => y.2.2).or acc = scanFold step first acc l := by
  induction l generalizing acc with
  | nil => rfl
  | cons i l ih =>
      rw [scanLanes_cons, List.getLast?_cons, scanFold, List.foldl_cons, ← scanFold, ← ih]
      cases (scanLanes step first l (some (scanStep step first acc i))).getLast? <;> rfl

/-- At an active lane the values before and after are those of the lanes below it, and of it with them. -/
theorem find?_scanLanes {l : List Nat} (hl : l.Pairwise (· < ·)) (hn : n ∈ l) (acc : Option α) :
    ∃ y, (scanLanes step first l acc).find? (fun y => y.1 == n) =
        some (n, scanFold step first acc (l.filter fun m => decide (m < n)), y) ∧
      scanFold step first acc (l.filter fun m => decide (m ≤ n)) = some y := by
  induction l generalizing acc with
  | nil => simp at hn
  | cons i l ih =>
      obtain ⟨hi, hl⟩ := List.pairwise_cons.mp hl
      rw [scanLanes_cons, List.find?_cons]
      by_cases hin : i = n
      · subst hin
        have hbelow : (i :: l).filter (fun m => decide (m < i)) = [] := by
          simpa using fun m hm => (hi m hm).le
        have hupto : (i :: l).filter (fun m => decide (m ≤ i)) = [i] := by
          simpa using fun m hm => hi m hm
        refine ⟨scanStep step first acc i, ?_, ?_⟩
        · rw [hbelow]
          simp [scanFold]
        · rw [hupto]
          rfl
      · have hmem : n ∈ l := (List.mem_cons.mp hn).resolve_left (Ne.symm hin)
        have hlt : i < n := hi n hmem
        obtain ⟨y, hy, hupto⟩ := ih hl hmem (some (scanStep step first acc i))
        have hbelow : (i :: l).filter (fun m => decide (m < n)) = i :: l.filter fun m => decide (m < n) :=
          List.filter_cons_of_pos (decide_eq_true hlt)
        have hle : (i :: l).filter (fun m => decide (m ≤ n)) = i :: l.filter fun m => decide (m ≤ n) :=
          List.filter_cons_of_pos (decide_eq_true hlt.le)
        refine ⟨y, ?_, ?_⟩
        · rw [beq_false_of_ne hin, hbelow]
          exact hy
        · rw [hle]
          exact hupto

end Scan

theorem pairwise_lanesOf (k0 : Word) : (lanesOf k0).Pairwise (· < ·) :=
  List.pairwise_lt_range.filter _

/-! ### Integer steps (R117) -/

theorem beq_eq_beq_toNat {w : Nat} (x y : BitVec w) : (x == y) = (x.toNat == y.toNat) := by
  rw [Bool.eq_iff_iff, beq_iff_eq, beq_iff_eq, BitVec.toNat_inj]

/-- One step of an integer reduction: the operation, clamped where SAT asks for it, in w bits. -/
theorem redStepInt_eq (f : Fields) (p q : Int) : redStepInt f p q =
    let y := match f.sub.toNat with
      | 0 => tySat f.ty.toNat (f.sat == 1) (p + q) | 1 => min p q | 2 => max p q
      | 3 => intAnd p q | 4 => intOr p q | _ => intXor p q
    tyInt f.ty.toNat (y % 2 ^ tyWidth f.ty.toNat).toNat := by
  simp only [redStepInt, beq_eq_beq_toNat f.sub]
  generalize f.sub.toNat = k
  match k with
  | 0 | 1 | 2 | 3 | 4 | _ + 5 => rfl

theorem redIdentity_eq (f : Fields) : redIdentity f = match f.sub.toNat with
    | 1 => tyGreatest f.ty.toNat | 2 => tyLeast f.ty.toNat
    | 3 => tyInt f.ty.toNat (2 ^ tyWidth f.ty.toNat - 1) | _ => 0 := by
  simp only [redIdentity, beq_eq_beq_toNat f.sub]
  generalize f.sub.toNat = k
  match k with
  | 0 | 1 | 2 | 3 | _ + 4 => rfl

/-- What an integer reduction of these lanes gives. -/
def foldInt (f : Fields) (a : Shape) (l : List Nat) : Int :=
  (scanFold (fun acc i => redStepInt f acc (tyInt f.ty.toNat (a.lane i).toNat))
    (fun i => tyInt f.ty.toNat (a.lane i).toNat) none l).getD (redIdentity f)

theorem foldInt_eq (f : Fields) (a : Shape) (l : List Nat) : foldInt f a l = match l with
    | [] => redIdentity f
    | n :: rest => (rest.map fun i => tyInt f.ty.toNat (a.lane i).toNat).foldl (redStepInt f)
        (tyInt f.ty.toNat (a.lane n).toNat) := by
  cases l with
  | nil => rfl
  | cons n rest =>
      have hfold : ∀ acc, scanFold (fun acc i => redStepInt f acc (tyInt f.ty.toNat (a.lane i).toNat))
          (fun i => tyInt f.ty.toNat (a.lane i).toNat) (some acc) rest =
          some ((rest.map fun i => tyInt f.ty.toNat (a.lane i).toNat).foldl (redStepInt f) acc) := by
        induction rest with
        | nil => exact fun _ => rfl
        | cons m rest ih => exact fun acc => ih (redStepInt f acc (tyInt f.ty.toNat (a.lane m).toNat))
      exact congrArg (Option.getD · (redIdentity f)) (hfold _)

/-! ### What each active lane receives -/

theorem find?_map_pair {α : Type} {l : List Nat} (hn : n ∈ l) (g : Nat → α) :
    (l.map fun i => (i, g i)).find? (fun y => y.1 == n) = some (n, g n) := by
  induction l with
  | nil => simp at hn
  | cons i l ih =>
      rw [List.map_cons, List.find?_cons]
      by_cases hi : i = n
      · simp [hi]
      · rw [beq_false_of_ne hi]
        exact ih ((List.mem_cons.mp hn).resolve_left (Ne.symm hi))

section Reduced
variable {fm : Fmt} {a : Shape} {k0 : Word}

/-- Every lane that a scan passes, with one value for all. -/
theorem map_scanLanes_const {α β : Type} (step : α → Nat → α) (first : Nat → α) (l : List Nat) (x : β) :
    ((scanLanes step first l none).map fun y => (y.1, x)) = l.map fun i => (i, x) := by
  conv_rhs => rw [← map_fst_scanLanes step first l none, List.map_map]
  rfl

/-- A reduction gives every active lane one value. -/
theorem redLanes_red (f : Fields) (fm : Fmt) (a : Shape) (k0 : Word) :
    ∃ x, (redLanes f fm a k0 false).1 = (lanesOf k0).map fun i => (i, x) := by
  cases hf : f.modx.getLsbD 0
  · simp only [redLanes, hf, Bool.false_eq_true, if_false]
    exact ⟨_, map_scanLanes_const _ _ _ _⟩
  · simp only [redLanes, hf, if_true, Bool.false_eq_true, if_false, List.map_map, Function.comp_def]
    exact ⟨_, map_scanLanes_const _ _ _ _⟩

theorem redLanes_red_int (hint : f.modx.getLsbD 0 = false) : (redLanes f fm a k0 false).1 =
    (lanesOf k0).map fun i => (i, tyExtend 32 f.ty.toNat (foldInt f a (lanesOf k0))) := by
  simp only [redLanes, hint, Bool.false_eq_true, if_false, foldInt]
  rw [map_scanLanes_const, ← getLast?_scanLanes, Option.or_none]

theorem reducedValue_of_redLanes {x : Lane} (hx : (redLanes f fm a k0 false).1 = (lanesOf k0).map fun i => (i, x))
    (hn : n ∈ lanesOf k0) : reducedValue f fm a k0 = x := by
  rw [reducedValue, hx]
  cases hl : lanesOf k0 with
  | nil => simp [hl] at hn
  | cons i l => rfl

theorem reducedLane_red (hn : n ∈ lanesOf k0) : reducedLane f fm a k0 false n = reducedValue f fm a k0 := by
  obtain ⟨x, hx⟩ := redLanes_red f fm a k0
  rw [reducedLane, reducedValue_of_redLanes hx hn, hx, find?_map_pair hn fun _ => x]

theorem reducedValue_int (hint : f.modx.getLsbD 0 = false) (hn : n ∈ lanesOf k0) :
    reducedValue f fm a k0 = tyExtend 32 f.ty.toNat (foldInt f a (lanesOf k0)) :=
  reducedValue_of_redLanes (redLanes_red_int hint) hn

theorem reducedLane_scan_int (hint : f.modx.getLsbD 0 = false) (hn : n ∈ lanesOf k0) :
    reducedLane f fm a k0 true n = tyExtend 32 f.ty.toNat (foldInt f a ((lanesOf k0).filter fun m =>
      if f.modx.getLsbD 1 then decide (m < n) else decide (m ≤ n))) := by
  let value := fun i => tyInt f.ty.toNat (a.lane i).toNat
  obtain ⟨y, hy, hupto⟩ := find?_scanLanes (fun acc i => redStepInt f acc (value i)) value (pairwise_lanesOf k0) hn none
  simp only [reducedLane, redLanes, hint, Bool.false_eq_true, if_false, if_true, List.find?_map, Function.comp_def,
    Bool.true_and, foldInt]
  rw [hy]
  cases f.modx.getLsbD 1
  · simp only [Option.map_some, Bool.false_eq_true, if_false]
    rw [hupto]
  · rfl

end Reduced

theorem redLanes_flags_int {fm : Fmt} {a : Shape} {k0 : Word} (hint : f.modx.getLsbD 0 = false) (scan : Bool) :
    (redLanes f fm a k0 scan).2 = 0 := by
  simp only [redLanes, hint, Bool.false_eq_true, if_false]

/-- A reduction or scan holds, for each active lane, what `redLanes` gives it. -/
theorem produces_reduction (f : Fields) (e : VEntry) (t : Troupe) (s : State) (scan : Bool)
    (hroom : t.room (s.ring t.id.ring).vgen f.d)
    (hslots : s.judgeSlots t.id.ring (if scan then Instr.vscan f else .vred f).slots = none) :
    let a := (readOps f e t).a
    let fm := s.slotFmt t.id.ring f.ty.toNat
    VectorMay (if scan then .vscan f else .vred f) e t s →
      Produces (if scan then .vscan f else .vred f) e t s f.d a.g (reducedLane f fm a.sh e.cap.k0 scan)
        (redLanes f fm a.sh e.cap.k0 scan).2 := by
  intro a fm
  cases scan
  · exact (issues_vred f e t s).produces (fun n hn hk => (reducedLane_red (mem_lanesOf.mpr ⟨hn, hk⟩)).symm) hroom hslots
      rfl
  · exact (issues_vscan f e t s).produces (fun n hn _ => Shape.lane_general_range hn) hroom hslots rfl

theorem Produces.congr {d : BitVec 8} {g : Nat} {lane lane' : Nat → Lane} {fl : BitVec 4}
    (h : Produces i e t s d g lane fl) (hl : ∀ n < 64, e.cap.k0.getLsbD n = true → lane n = lane' n) :
    Produces i e t s d g lane' fl := by
  refine ⟨h.1, fun h0 => ?_⟩
  obtain ⟨sh, general, hlane, hx⟩ := h.2 h0
  exact ⟨sh, general, fun n hn hk => (hlane n hn hk).trans (hl n hn hk), hx⟩

/-- Settles O16: each function is held as its rounded lanes, vperm as the lanes it moves, a reduction or scan as the
folds of the active lanes. -/
theorem producersAndReductions : Obligations.ProducersAndReductions := by
  refine ⟨fun f e t s hroom => ?functions, fun f e t s hroom => ?reductions⟩
  case functions =>
    intro o fm gives j
    have function : ∀ {i op}, (exec i s = vectorInstr i s fun e => computeIssue (fUnary op f e) e) →
        i.slots = [f.ty.toNat] → i.longLatency = true → gives i op := fun hi hs hlong hm hslots =>
      produces_fLanes (out := fUnary _ f) hi rfl (.one (a := o.a.sh) fun _ _ ha => by simp only [ha]) hroom
        (hs ▸ hslots) hlong hm
    exact ⟨function rfl rfl rfl, function rfl rfl rfl, function rfl rfl rfl, function rfl rfl rfl, function rfl rfl rfl,
      function rfl rfl rfl, function rfl rfl rfl, function rfl rfl rfl,
      (issues_vperm f e t s).produces (fun n hn _ => Shape.lane_general_range hn) hroom rfl rfl⟩
  case reductions =>
    intro o ty x step unit fold
    have hfold : ∀ l, foldInt f o.a.sh l = fold l := fun l => by
      rw [foldInt_eq]
      cases l with
      | nil => exact redIdentity_eq f
      | cons n rest => exact congrArg (fun st => (rest.map x).foldl st (x n)) (funext₂ (redStepInt_eq f))
    refine ⟨fun hint => ?int, fun hslot hslots scan hm => ?slot⟩
    case int =>
      have held := fun scan => produces_reduction f e t s scan hroom
      simp only [redLanes_flags_int hint] at held
      refine ⟨fun hm => (held false ?_ hm).congr fun n hn hk => ?_, fun hm => (held true ?_ hm).congr fun n hn hk => ?_⟩
      · exact congrArg (s.judgeSlots t.id.ring) (if_neg (Bool.eq_false_iff.mp hint))
      · have hmem := mem_lanesOf.mpr ⟨hn, hk⟩
        rw [reducedLane_red hmem, reducedValue_int hint hmem, hfold]
      · exact congrArg (s.judgeSlots t.id.ring) (if_neg (Bool.eq_false_iff.mp hint))
      · rw [reducedLane_scan_int hint (mem_lanesOf.mpr ⟨hn, hk⟩), hfold]
    case slot =>
      refine (produces_reduction f e t s scan hroom ?_ hm).congr fun n _ _ => ?_
      · have hnames : (if scan then Instr.vscan f else .vred f).slots = [ty] := by cases scan <;> exact if_pos hslot
        rw [hnames, hslots]
      · rfl

end Sys2Proof.Machine
end

section
/-! PROOF. fmreq, fmfence, fmq, fmq.hash and fmrel (R142-R146). -/

namespace Sys2Proof.Machine

variable {i : Instr} {f : Fields} {e : VEntry} {t t1 : Troupe} {s : State} {j slot upto : Nat}

/-! ### Requests and queries (R142, R143, R145) -/

theorem exec_fmreq (h : ScalarMay (.fmreq f) t s) (hn : t.nameFlag (.fmreq f) = .named j t1) :
    let a := readS s t f.a
    let asked := s.setTroupe (t1.startOp (t.scalarEntry (.fmreq f) (some j))
      { id := 0, instr := .fmreq f, sdest := sNum f.d, grade := a.g })
    let r : FmReq := { asid := s.asidOf t.id.ring, slot := f.ty.toNat, addr := a.v, grade := a.g,
                       by_ := some (t.id, t.nextOp), ring := t.id.ring }
    exec (.fmreq f) s = .next ((asked.modFw fun w => { w with fm := w.fm ++ [r] }).endInstr
      t.id (t.pc + BitVec.ofNat 64 s.len)) :=
  exec_done_of rfl h (by simp only [hn])

/-- A query with a flag to name holds its answer as the result of an operation. -/
theorem exec_query (hi : exec i s = scalarInstr i s fun t s => scalarQuery i f (fmqAnswer f t s) t s)
    (h : ScalarMay i t s) (hn : t.nameFlag i = .named j t1) :
    exec i s = .next (s.scalarNext t (t1.startOp (t.scalarEntry i (some j))
      { id := 0, instr := i, sdest := sNum f.d, sres := [{ d := f.d, v := { v := fmqAnswer f t s, g := 0 } }] })) :=
  exec_done_of hi h (by simp only [scalarQuery, hn])

/-- The state word of fmq by its fields (R145). -/
def slotWord (avail rel : Bool) (users frame state : Nat) : Word :=
  BitVec.ofNat 64 (avail.toNat * 2 ^ 17 + rel.toNat * 2 ^ 16 + users * 2 ^ 8 + frame * 2 ^ 4 + state)

theorem slotWord_fields (avail rel : Bool) {users frame state : Nat} (hu : users < 256) (hf : frame < 16)
    (hs : state < 16) :
    let w := slotWord avail rel users frame state
    w.toNat % 16 = state ∧ w.toNat / 16 % 16 = frame ∧ w.getLsbD 16 = rel ∧ w.getLsbD 17 = avail := by
  have ha := avail.toNat_lt
  have hr := rel.toNat_lt
  have hw : (slotWord avail rel users frame state).toNat =
      avail.toNat * 2 ^ 17 + rel.toNat * 2 ^ 16 + users * 2 ^ 8 + frame * 2 ^ 4 + state := by
    rw [slotWord, BitVec.toNat_ofNat]
    omega
  intro w
  simp only [w, BitVec.getLsbD, hw, Nat.testBit_eq_decide_div_mod_eq]
  refine ⟨by omega, by omega, ?_, ?_⟩
  · cases rel <;> simp only [Bool.toNat_false, Bool.toNat_true, decide_eq_false_iff_not, decide_eq_true_eq] <;> omega
  · cases avail <;> simp only [Bool.toNat_false, Bool.toNat_true, decide_eq_false_iff_not, decide_eq_true_eq] <;> omega

theorem fmqWord_of_resident {ring : Nat} (h : slot < 8) : fmqWord s ring slot =
    slotWord true false ((s.core (s.ring ring).core).frames.getD slot {}).users slot 4 := by
  simp [fmqWord, slotWord, if_pos h, nth]

/-- The frame of a loadable slot on a core, 15 for none (R145). -/
def SlotEnt.frameOn (e : SlotEnt) (core : Nat) : Nat := ((e.map.find? fun m => m.1 == core).map (·.2)).getD 15

theorem SlotEnt.frameOn_lt {e : SlotEnt} (h : ∀ m ∈ e.map, m.2 < 16) (core : Nat) : e.frameOn core < 16 := by
  unfold SlotEnt.frameOn
  cases hm : e.map.find? fun m => m.1 == core with
  | none => simp
  | some m => simpa using h m (List.mem_of_find?_eq_some hm)

theorem fmqWord_of_loadable {ring : Nat} (h : 8 ≤ slot) :
    let ent := s.slotEnt (s.asidOf ring) slot
    ∃ users < 256, fmqWord s ring slot =
      slotWord (s.slotAvail ring slot) ent.rel users (ent.frameOn (s.ring ring).core) ent.state := by
  intro ent
  refine ⟨_, ?_, (if_neg (Nat.not_lt.mpr h)).trans rfl⟩
  split
  · exact Nat.mod_lt _ (by decide)
  · decide

/-! ### fmfence (R144) -/

/-- The copies of a ring that an fmfence waits for are none. -/
def State.copiesClear (s : State) (t : Troupe) (ring_ : Bool) (slot upto : Nat) : Prop :=
  ∀ x ∈ (s.core (s.ring t.id.ring).core).cq0 ++ (s.core (s.ring t.id.ring).core).cq1, x.ring = t.id.ring →
    (ring_ = true ∨ x.uid = t.uid) → x.id < upto → x.names s slot = false

theorem fenceWaits_eq_false {ring_ : Bool} {op : Option Nat} (hops : ∀ o ∈ t.ops, slot ∉ o.instr.slots)
    (hcopies : s.copiesClear t ring_ slot upto)
    (hstream : ring_ = true → (s.ring t.id.ring).streamUses slot = false ∨
      op ≠ (s.ring t.id.ring).stream.map Stream.nth_) : fenceWaits ring_ slot upto op t s = false := by
  have hown : (t.ops.any fun o => o.instr.slots.contains slot) = false := by simpa using hops
  have hcopy : (((s.core (s.ring t.id.ring).core).cq0 ++ (s.core (s.ring t.id.ring).core).cq1).any fun e =>
      e.ring == t.id.ring && (ring_ || e.uid == t.uid) && e.id < upto && e.names s slot) = false := by
    rw [List.any_eq_false]
    intro x hx hall
    simp only [Bool.and_eq_true, Bool.or_eq_true, beq_iff_eq, decide_eq_true_eq] at hall
    obtain ⟨⟨⟨hring, howner⟩, hid⟩, hname⟩ := hall
    exact Bool.false_ne_true ((hcopies x hx hring howner hid).symm.trans hname)
  have hstr : (ring_ && (s.ring t.id.ring).streamUses slot &&
      op == (s.ring t.id.ring).stream.map Stream.nth_) = false := by
    cases hr : ring_
    · rfl
    · rcases hstream hr with hu | hne
      · rw [hu, Bool.and_false, Bool.false_and]
      · rw [beq_false_of_ne hne, Bool.and_false]
  simp only [fenceWaits, hown, hcopy, hstr, Bool.or_self]

/-- The mark that fmfence keeps while it waits, or sets when it begins: the copies issued before it, and the stream's
instruction (R144). -/
def State.fenceMark (s : State) (t : Troupe) : Nat × Option Nat :=
  match t.vwait with
  | some (.fmfence n op) => (n, op)
  | _ => (s.fresh, (s.ring t.id.ring).stream.bind fun st => if st.issued then some st.nth_ else none)

theorem exec_fmfence (h : VectorMay (.fmfence f) e t s)
    (hw : fenceWaits (f.sub == 1) f.ty.toNat (s.fenceMark t).1 (s.fenceMark t).2 t s = false) :
    exec (.fmfence f) s = .next (s.vectorEnd t.id) := by
  refine vectorInstr_done (i := .fmfence f) (issue := fun _ t s =>
    if fenceWaits (f.sub == 1) f.ty.toNat (s.fenceMark t).1 (s.fenceMark t).2 t s then
      .wait (.fmfence (s.fenceMark t).1 (s.fenceMark t).2) s else .done s) h ?_
  rw [hw]
  rfl

theorem fenceMark_of_begun {n : Nat} {op : Option Nat} (hw : t.vwait = some (.fmfence n op)) :
    s.fenceMark t = (n, op) := by
  simp only [State.fenceMark, hw]

theorem fenceMark_of_new (hw : ∀ n op, t.vwait ≠ some (.fmfence n op)) : s.fenceMark t =
    (s.fresh, (s.ring t.id.ring).stream.bind fun st => if st.issued then some st.nth_ else none) := by
  unfold State.fenceMark
  split
  · exact absurd ‹_› (hw _ _)
  · rfl

/-- A stream whose instruction has not issued is none that a beginning fmfence waits for. -/
theorem issued_op_ne {r : Ring} (hi : ∀ st, r.stream = some st → st.issued = false) (hu : r.streamUses slot = true) :
    (r.stream.bind fun st => if st.issued then some st.nth_ else none) ≠ r.stream.map Stream.nth_ := by
  cases hr : r.stream with
  | none => simp [Ring.streamUses, hr] at hu
  | some st => simp [hi st hr]

theorem exec_fmfence_begins (h : VectorMay (.fmfence f) e t s) (hops : ∀ o ∈ t.ops, f.ty.toNat ∉ o.instr.slots)
    (hw : ∀ n op, t.vwait ≠ some (.fmfence n op)) (hcopies : s.copiesClear t (f.sub == 1) f.ty.toNat s.fresh)
    (hstream : (f.sub == 1) = true → (s.ring t.id.ring).streamUses f.ty.toNat = false ∨
      ∀ st, (s.ring t.id.ring).stream = some st → st.issued = false) :
    exec (.fmfence f) s = .next (s.vectorEnd t.id) := by
  refine exec_fmfence h ?_
  rw [fenceMark_of_new hw]
  refine fenceWaits_eq_false hops hcopies fun hs => ?_
  cases hu : (s.ring t.id.ring).streamUses f.ty.toNat with
  | false => exact .inl rfl
  | true => exact .inr (issued_op_ne ((hstream hs).resolve_left (by simp [hu])) hu)

theorem exec_fmfence_goesOn {n : Nat} {op : Option Nat} (h : VectorMay (.fmfence f) e t s)
    (hops : ∀ o ∈ t.ops, f.ty.toNat ∉ o.instr.slots) (hw : t.vwait = some (.fmfence n op))
    (hcopies : s.copiesClear t (f.sub == 1) f.ty.toNat n)
    (hstream : (f.sub == 1) = true → (s.ring t.id.ring).streamUses f.ty.toNat = false ∨
      op ≠ (s.ring t.id.ring).stream.map Stream.nth_) :
    exec (.fmfence f) s = .next (s.vectorEnd t.id) := by
  refine exec_fmfence h ?_
  rw [fenceMark_of_begun hw]
  exact fenceWaits_eq_false hops hcopies hstream

/-! ### fmrel (R146) -/

/-- fmrel writes its answer to D, whatever else it has done. -/
def State.fmrelWrites (s : State) (f : Fields) (t : Troupe) (n : Word) : State :=
  s.modTroupe t.id fun t => t.writeS f.d { v := n, g := 0 }

/-- The slot is not bound, or its release is pending already: fmrel answers NOTBOUND (R146). -/
def State.relRefused (s : State) (asid slot : Nat) : Bool :=
  (s.slotEnt asid slot).rel || ((s.slotEnt asid slot).state == 0 && !s.slotAsked asid slot)

theorem State.relRefused_iff {asid : Nat} : s.relRefused asid slot = true ↔ (s.slotEnt asid slot).rel = true ∨
    ((s.slotEnt asid slot).state = 0 ∧ ∀ r ∈ s.fw.fm, r.asid = asid → r.slot ≠ slot) := by
  simp [State.relRefused, State.slotAsked]

theorem exec_fmrel (h : ScalarMay (.fmrel f) t s) :
    let asid := s.asidOf t.id.ring
    exec (.fmrel f) s = .next ((if s.relRefused asid f.ty.toNat then s.fmrelWrites f t 9
      else if (s.slotEnt asid f.ty.toNat).state = 0 then s.fmrelWrites f t 0
      else (s.modSlot asid f.ty.toNat fun e =>
        { e with rel := true, state := if e.state = 3 then 1 else e.state }).fmrelWrites f t 0).endInstr
      t.id (t.pc + BitVec.ofNat 64 s.len)) := by
  intro asid
  refine exec_done_of rfl h ?_
  show (if s.relRefused asid f.ty.toNat then _ else _) = _
  split
  · rfl
  · split <;> rfl

/-- Settles O36: each instruction by what its effect answers; the state word by its fields. -/
theorem formatInstructions : Obligations.FormatInstructions := by
  intro f t t1 s j ring asid slot ent core waits on
  refine ⟨exec_fmreq, ?fence, ?query, ?rel⟩
  case fence =>
    intro e h hops clear
    have copies : ∀ {upto}, clear upto → s.copiesClear t (f.sub == 1) slot upto := fun hc x hx hring howner =>
      hc x hx hring (howner.imp_left beq_iff_eq.mp)
    exact ⟨fun hw hc hs => exec_fmfence_begins h hops hw (copies hc) fun h1 => hs (beq_iff_eq.mp h1),
      fun n op hw hc hs => exec_fmfence_goesOn h hops hw (copies hc) fun h1 => hs (beq_iff_eq.mp h1)⟩
  case query =>
    intro c hc h hn
    have hexec : exec (c f) s = scalarInstr (c f) s fun t s => scalarQuery (c f) f (fmqAnswer f t s) t s := by
      fin_cases hc <;> rfl
    refine ⟨fmqAnswer f t s, exec_query hexec h hn, fun hs => ?_, fun hs hslot hu => ?_,
      fun hs hslot hstate hmap => ?_⟩
    · rw [fmqAnswer, hs]
      rfl
    · have hw : fmqAnswer f t s = slotWord true false ((s.core core).frames.getD slot {}).users slot 4 :=
        (if_neg (mt beq_iff_eq.mp hs)).trans (fmqWord_of_resident hslot)
      rw [hw]
      exact slotWord_fields true false hu (by omega) (by decide)
    · obtain ⟨users, hu, hword⟩ := fmqWord_of_loadable (s := s) (ring := ring) hslot
      have hw : fmqAnswer f t s = slotWord (s.slotAvail ring slot) ent.rel users (ent.frameOn core) ent.state :=
        (if_neg (mt beq_iff_eq.mp hs)).trans hword
      obtain ⟨h0, h4, h16, h17⟩ :=
        slotWord_fields (s.slotAvail ring slot) ent.rel hu (SlotEnt.frameOn_lt hmap core) hstate
      rw [hw]
      exact ⟨h0, h16, h4, h17⟩
  case rel =>
    intro h writes
    have hexec := exec_fmrel h
    have mayRelease : ent.rel = false → (ent.state = 0 → ∃ r ∈ s.fw.fm, r.asid = asid ∧ r.slot = slot) →
        ¬s.relRefused asid slot = true := fun hr hasked hno => by
      rcases State.relRefused_iff.mp hno with hr' | ⟨h0, hnone⟩
      · exact Bool.false_ne_true (hr.symm.trans hr')
      · obtain ⟨r, hmem, ha, hs⟩ := hasked h0
        exact hnone r hmem ha hs
    refine ⟨fun hno => hexec.trans ?_, fun h0 hr hasked => hexec.trans ?_, fun h0 hr => hexec.trans ?_⟩
    · rw [if_pos (State.relRefused_iff.mpr hno)]
      rfl
    · rw [if_neg (mayRelease hr fun _ => hasked), if_pos h0]
      rfl
    · rw [if_neg (mayRelease hr fun h => absurd h h0), if_neg h0]
      rfl

end Sys2Proof.Machine
end

section
/-! PROOF. A request is checked, its slot drains, and its frames become ready (R133, R135-R137, R146). -/

namespace Sys2Proof.Machine

variable {s u : State} {r : FmReq} {asid slot : Nat} {hash : List Byte} {f : Fmt}

/-! ### Slots, and what moving frames leaves -/

theorem State.slotEnt_of_ctxs (h : u.ctxs = s.ctxs) (asid slot : Nat) : u.slotEnt asid slot = s.slotEnt asid slot := by
  simp only [State.slotEnt, State.ctx, State.ctx?, h]

/-- A slot that is not UNBOUND is one of a live context's. -/
theorem State.slotEnt_live (h : (s.slotEnt asid slot).state ≠ 0) :
    ∃ c, s.ctx? asid = some c ∧ slot - 8 < c.slots.length := by
  rw [State.slotEnt, State.ctx] at h
  cases hc : s.ctx? asid with
  | none =>
    have hempty : nth ({ asid := asid } : Ctx).slots (slot - 8) {} = {} := by
      show (List.replicate 8 ({} : SlotEnt)).getD (slot - 8) {} = {}
      rw [List.getD_eq_getElem?_getD, List.getElem?_getD_replicate_default_eq]
    rw [hc, Option.getD_none, hempty] at h
    exact absurd rfl h
  | some c =>
    refine ⟨c, rfl, ?_⟩
    by_contra hge
    rw [hc, Option.getD_some, nth, List.getD_eq_default _ _ (Nat.not_lt.mp hge)] at h
    exact h rfl

theorem State.slotEnt_modSlot {g : SlotEnt → SlotEnt} (h : (s.slotEnt asid slot).state ≠ 0) :
    (s.modSlot asid slot g).slotEnt asid slot = g (s.slotEnt asid slot) := by
  obtain ⟨c, hc, hlt⟩ := State.slotEnt_live h
  have hctx := s.ctx?_modCtx asid (fun c => { c with slots := upd c.slots (slot - 8) g }) fun _ => rfl
  simp only [State.slotEnt, State.ctx, State.modSlot, hctx, hc, Option.map_some, Option.getD_some]
  simp [nth, upd, List.getD_eq_getElem?_getD, hlt]

/-- The parts of the package that moving frames, launches and queued copies leaves: memory, troupes, contexts and the
firmware complex. -/
def State.beside (s : State) : List Host.Cell × List Troupe × List Ctx × Fw := (s.mem, s.troupes, s.ctxs, s.fw)

theorem State.beside_modFrames {α : Type} (core j : α → Nat) (g : α → Frame → Frame) (l : List α) (s : State) :
    (l.foldl (fun s x => s.modFrame (core x) (j x) (g x)) s).beside = s.beside :=
  foldl_keeps State.beside (fun u x => show (u.modFrame (core x) (j x) (g x)).beside = _ from rfl) l s

theorem State.beside_modSlot (h : u.beside = s.beside) (asid slot : Nat) (g : SlotEnt → SlotEnt) :
    (u.modSlot asid slot g).beside = (s.modSlot asid slot g).beside := by
  simp only [State.beside, State.modSlot, State.modCtx, Prod.mk.injEq] at h ⊢
  obtain ⟨hmem, htroupes, hctxs, hfw⟩ := h
  exact ⟨hmem, htroupes, by rw [hctxs], hfw⟩

theorem State.beside_makeAvail (s : State) (ring slot : Nat) : (s.makeAvail ring slot).beside = s.beside := by
  unfold State.makeAvail
  split <;> rfl

/-! ### FORMAT_CHECK_COMPLETE (R133, R136, R137) -/

theorem exec_formatCheck_fails {st : Nat} (hr : s.nextRequest = some r)
    (hc : s.checkPackage r.asid r.addr r.grade = .error st) :
    exec .formatCheckComplete s = .next ((s.dropRequest r).endRequest r st) := by
  show execFormatCheckComplete s = _
  simp only [execFormatCheckComplete, hr, hc]

theorem exec_formatCheck_passes (hr : s.nextRequest = some r)
    (hc : s.checkPackage r.asid r.addr r.grade = .ok (hash, f)) :
    exec .formatCheckComplete s = .next (s.beginRequest r hash f) := by
  show execFormatCheckComplete s = _
  simp only [execFormatCheckComplete, hr, hc]

/-- The slot of a request is BOUND to an image. -/
def State.boundTo (s : State) (r : FmReq) (hash : List Byte) : Prop :=
  (s.slotEnt r.asid r.slot).state = 3 ∧ (s.slotEnt r.asid r.slot).ihash = hash

theorem State.beginRequest_of_other (h : ¬s.boundTo r hash) (f : Fmt) : s.beginRequest r hash f =
    match s.chooseAll hash (s.slotEnt r.asid r.slot) (s.slotCores r.asid r.slot r.ring) with
    | none => (s.dropRequest r).endRequest r 8
    | some l => ((l.foldl (State.takeFrame hash) s).modSlot r.asid r.slot fun e =>
        { e with state := 1, next := some (hash, f, l.map fun x => (x.1, x.2.1)) }).modFw fun w =>
          { w with fm := w.fm.map fun x => if x = r then { x with going := true } else x } := by
  have hsame : ((s.slotEnt r.asid r.slot).state == 3 && (s.slotEnt r.asid r.slot).ihash == hash) = false := by
    simpa [State.boundTo] using h
  simp only [State.beginRequest, hsame, Bool.false_and, Bool.not_false, List.filter_true, Bool.false_eq_true, if_false]
  rfl

/-- A request for the image that is BOUND, on cores that all hold it, chooses no frame. -/
theorem State.beginRequest_of_bound (h : s.boundTo r hash)
    (hm : ∀ c ∈ s.slotCores r.asid r.slot r.ring, ∃ m ∈ (s.slotEnt r.asid r.slot).map, m.1 = c) (f : Fmt) :
    s.beginRequest r hash f = (((s.modSlot r.asid r.slot fun e => { e with map := e.map ++ [] }).makeAvail
      r.ring r.slot).dropRequest r).endRequest r 0 := by
  obtain ⟨hstate, hhash⟩ := h
  have hnone : (s.slotCores r.asid r.slot r.ring).filter
      (fun c => !(true && (s.slotEnt r.asid r.slot).map.any fun m => m.1 == c)) = [] := by
    simpa using hm
  simp only [State.beginRequest, hstate, hhash, beq_self_eq_true, Bool.and_self, hnone]
  rfl

/-! ### SLOT_DRAIN_COMPLETE (R135, R137) -/

theorem exec_slotDrain (h1 : (s.slotEnt s.ev.asid s.ev.num).state = 1)
    (hb : s.slotBusy s.ev.asid s.ev.num = false) : ∃ s1, exec .slotDrainComplete s = .next s1 ∧
      s1.beside = (s.modSlot s.ev.asid s.ev.num fun e => { e with state := 2 }).beside := by
  have hexec : exec .slotDrainComplete s = execSlotDrainComplete s := rfl
  rw [hexec, execSlotDrainComplete, if_pos ⟨h1, hb⟩]
  dsimp only
  split
  · exact ⟨_, rfl, State.beside_modFrames _ _ _ _ _⟩
  · exact ⟨_, rfl, rfl⟩

/-! ### FRAME_READY (R129, R135, R137, R146) -/

theorem exec_frameReady_frame (h : s.ev.on = true) : exec .frameReady s =
    .next (s.modFrame s.ev.core s.ev.num fun fr => if fr.state = 2 then { fr with state := 3 } else fr) :=
  if_pos h

theorem exec_frameReady_slot (hon : s.ev.on = false) (h2 : (s.slotEnt s.ev.asid s.ev.num).state = 2)
    (hf : s.framesReady s.ev.asid s.ev.num = true) :
    exec .frameReady s = .next (s.bindSlot s.ev.asid s.ev.num) := by
  have hexec : exec .frameReady s = execFrameReady s := rfl
  rw [hexec, execFrameReady, if_neg (by simp [hon]), if_pos (by simp [h2, hf])]

/-- A slot at the end of LOADING: UNBOUND when a release is pending, else BOUND to the image chosen (R135, R146). -/
def SlotEnt.loaded (e : SlotEnt) : SlotEnt :=
  if e.rel then {}
  else
    match e.next with
    | some (hash, f, l) => { state := 3, ihash := hash, fmt := some f, map := l }
    | none => { e with state := 3 }

theorem SlotEnt.loaded_of_next {e : SlotEnt} {l : List (Nat × Nat)} (h : e.next = some (hash, f, l)) :
    e.loaded = if e.rel then {} else { state := 3, ihash := hash, fmt := some f, map := l } := by
  simp only [SlotEnt.loaded, h]

theorem State.framesReady_iff {l : List (Nat × Nat)} (h : (s.slotEnt asid slot).next = some (hash, f, l)) :
    s.framesReady asid slot = true ↔ ∀ x ∈ l,
      ((s.core x.1).frames.getD x.2 {}).state = 3 ∧ ((s.core x.1).frames.getD x.2 {}).pend = false := by
  simp [State.framesReady, SlotEnt.chosen, h, nth]

/-- The end of LOADING is the slot's new state and the end of the request it was for. -/
theorem State.bindSlot_request
    (hr : s.fw.fm.find? (fun r => r.going && r.asid == asid && r.slot == slot) = some r) :
    ∃ s1 : State, s1.beside = (s.modSlot asid slot SlotEnt.loaded).beside ∧
      s.bindSlot asid slot = (s1.dropRequest r).endRequest r 0 := by
  unfold State.bindSlot
  extract_lets e new old s1 s2
  have h2 : s2.beside = (s.modSlot asid slot SlotEnt.loaded).beside :=
    State.beside_modSlot (State.beside_modFrames _ _ _ old s) ..
  have hfw : s2.fw = s.fw := congrArg (·.2.2.2) h2
  rw [hfw, hr]
  dsimp -zeta only
  extract_lets s3
  have h3 : s3.beside = s2.beside := by
    unfold s3
    split
    · rfl
    · exact State.beside_makeAvail ..
  refine ⟨_, ?_, rfl⟩
  refine Eq.trans ?_ (h3.trans h2)
  split
  · split <;> rfl
  · rfl

/-- Settles O37: a request by what its package and its slot are; a drained or loaded slot by the entry that stands in
its context, which moving frames leaves. -/
theorem formatEvents : Obligations.FormatEvents := by
  refine ⟨fun s r hr => ⟨fun st hc => exec_formatCheck_fails hr hc, ?begins⟩, fun s => ?slot⟩
  case begins =>
    intro hash f hc e same cores
    have hexec := exec_formatCheck_passes hr hc
    refine ⟨fun hs hl => hexec.trans ?_, fun l hs hl => hexec.trans ?_, fun hs hm => hexec.trans ?_⟩
    · rw [State.beginRequest_of_other hs, hl]
    · rw [State.beginRequest_of_other hs, hl]
    · rw [State.beginRequest_of_bound hs hm]
  case slot =>
    intro asid slot e
    refine ⟨fun h1 hb => ?drains, exec_frameReady_frame, fun r hash f l hon h2 hnext hready hr => ?loads⟩
    case drains =>
      obtain ⟨s1, hexec, hs1⟩ := exec_slotDrain h1 hb
      simp only [State.beside, Prod.mk.injEq] at hs1
      obtain ⟨hmem, htroupes, hctxs, -⟩ := hs1
      refine ⟨s1, hexec, ?_, hmem, htroupes⟩
      rw [State.slotEnt_of_ctxs hctxs, State.slotEnt_modSlot (ne_of_eq_of_ne h1 Nat.one_ne_zero)]
    case loads =>
      have hf : s.framesReady asid slot = true := (State.framesReady_iff hnext).mpr hready
      obtain ⟨s1, hs1, hbind⟩ := State.bindSlot_request hr
      simp only [State.beside, Prod.mk.injEq] at hs1
      obtain ⟨hmem, htroupes, hctxs, -⟩ := hs1
      refine ⟨s1, hmem, htroupes, ?_, (exec_frameReady_slot hon h2 hf).trans (congrArg _ hbind)⟩
      rw [State.slotEnt_of_ctxs hctxs, State.slotEnt_modSlot (ne_of_eq_of_ne h2 two_ne_zero),
        SlotEnt.loaded_of_next hnext]

end Sys2Proof.Machine
end

section
/-! PROOF. The 128 bits of a barrier object, its updates and the waiters they wake, and the barrier instructions
(R166-R170, R389). -/

namespace Sys2Proof.Machine

variable {i : Instr} {f : Fields} {e : VEntry} {t : Troupe} {s : State} {p : Nat × Nat} {o : BObj} {n b : Nat}
  {ok : BObj → Bool} {d : BitVec 8} {v : GW}

/-! ### The 128 bits (R166) -/

/-- A field of one bit is the number of its truth value. -/
theorem toNat_bitsOf_beq_one (w k : Nat) : (bitsOf w k k == 1).toNat = bitsOf w k k := by
  have hlt : bitsOf w k k < 2 := by
    rw [bitsOf, show k + 1 - k = 1 by omega]
    exact Nat.mod_lt _ (by decide)
  obtain h | h : bitsOf w k k = 0 ∨ bitsOf w k k = 1 := by omega
  all_goals rw [h]; rfl

/-- PENDB as a signed number of 24 bits, and back. -/
theorem toNat_signed24 {n : Nat} (h : n < 2 ^ 24) :
    ((if 2 ^ 23 ≤ n then (n : Int) - 2 ^ 24 else (n : Int)) % 2 ^ 24 : Int).toNat = n := by
  split <;> omega

theorem BObj.toNat_ofNat {w : Nat} (h : w < 2 ^ 128) : (BObj.ofNat w).toNat = w := by
  have hpendb : bitsOf w 87 64 < 2 ^ 24 := Nat.mod_lt _ (by decide)
  simp only [BObj.toNat, BObj.ofNat, toNat_bitsOf_beq_one, toNat_signed24 hpendb]
  simp only [bitsOf]
  omega

/-! ### The advance rule (R167) -/

theorem BObj.advance_of_over (h : o.valid = true ∧ o.penda = 0 ∧ o.pendb = 0 ∧ o.faulted = false) : o.advance =
    { o with phase := (o.phase + 1) % 2 ^ 16, penda := o.expa, pendb := 0, expb := 0, cancelled := false } := by
  obtain ⟨hv, ha, hb, hf⟩ := h
  simp [BObj.advance, hv, ha, hb, hf]

theorem BObj.advance_of_not_over (h : ¬(o.valid = true ∧ o.penda = 0 ∧ o.pendb = 0 ∧ o.faulted = false)) :
    o.advance = o := by
  rw [BObj.advance, if_neg]
  simpa [and_assoc] using h

/-! ### Replacing an object, and the waiters it wakes (R169, R170) -/

theorem State.stores_spadPut (s : State) (core off n v g : Nat) : Stores s (s.spadPut core off n v g) :=
  s.stores_writeLocs _ _ g

theorem State.troupes_spadPut (s : State) (core off n v g : Nat) : (s.spadPut core off n v g).troupes = s.troupes := by
  rw [s.stores_spadPut core off n v g]

theorem State.ctxs_spadPut (s : State) (core off n v g : Nat) : (s.spadPut core off n v g).ctxs = s.ctxs := by
  rw [s.stores_spadPut core off n v g]

theorem State.mem_writeLoc_spad (s : State) (c a : Nat) (b : Byte) (g : Nat) : (s.writeLoc (.spad c a) b g).mem = s.mem :=
  rfl

theorem State.mem_spadPut (s : State) (core off n v g : Nat) : (s.spadPut core off n v g).mem = s.mem := by
  refine List.foldlRecOn (motive := fun u : State => u.mem = s.mem) _ _ rfl fun u hu x hx => ?_
  obtain ⟨k, -, hk⟩ := List.mem_map.mp (List.of_mem_zip hx).1
  rw [← hk, State.mem_writeLoc_spad, hu]

theorem State.wakeTroupe_of_not_waiting (h : t.vwait ≠ some .barrier) : s.wakeTroupe p o t = t := by
  unfold State.wakeTroupe
  split
  · exact absurd ‹_› h
  · rfl

/-- Waking a troupe changes only what its vector side waits for. -/
theorem State.wakeTroupe_eq (s : State) (p : Nat × Nat) (o : BObj) (t : Troupe) :
    ∃ w, s.wakeTroupe p o t = { t with vwait := w } := by
  unfold State.wakeTroupe
  split
  · split
    · dsimp only
      split <;> exact ⟨_, rfl⟩
    · exact ⟨_, rfl⟩
  · exact ⟨_, rfl⟩

theorem State.wakeTroupe_id (s : State) (p : Nat × Nat) (o : BObj) (t : Troupe) : (s.wakeTroupe p o t).id = t.id := by
  obtain ⟨w, hw⟩ := s.wakeTroupe_eq p o t
  rw [hw]

/-- A bwait on the object whose condition the update meets is to return with its status word. -/
theorem State.wakeTroupe_of_met {rest : List VEntry} (hw : t.vwait = some .barrier) (hq : t.vq = e :: rest)
    (hi : e.instr = .bwait f) (hp : s.objectAt t.id.ring (objAddr f e) 16 = some p)
    (ho : o.ready (f.sub == 1) e.cap.b.v = true ∨ o.faulted = true) :
    s.wakeTroupe p o t = { t with vwait := some (.barrierOver (o.status (f.sub == 1) e.cap.b.v)) } := by
  have hc : (s.objectAt t.id.ring (objAddr f e) 16 == some p && (o.ready (f.sub == 1) e.cap.b.v || o.faulted)) = true := by
    rw [hp, beq_self_eq_true, Bool.true_and, Bool.or_eq_true]
    exact ho
  simp only [State.wakeTroupe, hw, hq, hi, if_pos hc]

theorem State.troupe?_putBarrier (s : State) (p : Nat × Nat) (o : BObj) (g : Nat) (id : TroupeId) :
    (s.putBarrier p o g).troupe? id = (s.troupe? id).map (s.wakeTroupe p o) := by
  have hid : (fun u : Troupe => u.id == id) ∘ s.wakeTroupe p o = fun u => u.id == id :=
    funext fun u => congrArg (· == id) (s.wakeTroupe_id p o u)
  simp only [State.troupe?, State.putBarrier, State.troupes_spadPut, List.find?_map, hid]

theorem State.parts_putBarrier (s : State) (p : Nat × Nat) (o : BObj) (g : Nat) :
    (s.putBarrier p o g).mem = s.mem ∧ (s.putBarrier p o g).cores = (s.spadPut p.1 p.2 16 o.toNat g).cores ∧
      (s.putBarrier p o g).ctxs = s.ctxs := by
  simp only [State.putBarrier, State.mem_spadPut, State.ctxs_spadPut, and_self]

/-! ### Scalar results of the vector side (R88) -/

theorem scalarResult_short (h : e.instr.longLatency = false) :
    scalarResult e t s d v = s.setTroupe (t.writeS d v) := by
  rw [scalarResult, h]
  rfl

theorem scalarResult_long (h : e.instr.longLatency = true) : scalarResult e t s d v =
    s.setTroupe (t.startOp e { id := 0, instr := e.instr, sdest := sNum d, grade := v.g, sres := [{ d := d, v := v }] }) :=
  if_pos h

/-- A short scalar result is written, and the vector side goes on. -/
theorem exec_writesS {issue : VEntry → Troupe → State → VRes} (hm : VectorMay i e t s)
    (hi : exec i s = vectorInstr i s issue) (hshort : i.longLatency = false)
    (he : issue e t s = .done (scalarResult e t s d v)) : exec i s = .next (s.vectorNext t (t.writeS d v)) := by
  obtain rfl : e.instr = i := hm.2.2.2.1
  rw [hi, vectorInstr_done hm he, scalarResult_short hshort]
  rfl

/-! ### The frames of the barrier instructions (R168, R389) -/

section AtObject

variable (hp : s.objectAt t.id.ring (objAddr f e) 16 = some p) (ha : objAddr f e % 16 = 0)
include hp ha

theorem objectInstr_of_place {eff : Nat × Nat → VRes} : objectInstr f e t s eff = eff p := by
  simp [objectInstr, hp, ha]

theorem barrierInstr_of_bad {eff : Nat × Nat → BObj → Nat → VRes} (hbad : s.spadBad p 16 = true) :
    barrierInstr f e t s eff = .fault { cause := .memerr } := by
  rw [barrierInstr, objectInstr_of_place hp ha, if_pos hbad]

theorem exec_bini (hm : VectorMay (.bini f) e t s) (h1 : 1 ≤ e.cap.b.v.toNat) (h2 : e.cap.b.v.toNat < 4096) :
    exec (.bini f) s = .next ((s.putBarrier p { penda := e.cap.b.v.toNat, expa := e.cap.b.v.toNat }
      e.cap.b.g).vectorEnd t.id) := by
  refine vectorInstr_done (i := .bini f) hm ?_
  dsimp only
  rw [objectInstr_of_place hp ha, if_neg (by omega)]
  rfl

/-- On an object in error every barrier instruction but bini raises MEMERR. -/
theorem exec_barrier_of_bad (hbad : s.spadBad p 16 = true) {c : Fields → Instr}
    (hc : c ∈ [Instr.barr, .barrN, .barrExp, .bexp, .bwait, .btest, .bcan]) (hm : VectorMay (c f) e t s) :
    exec (c f) s = .next (s.vectorFaultOf (c f) t e { cause := .memerr }) := by
  have faults : ∀ {issue : VEntry → Troupe → State → VRes} {eff : Nat × Nat → BObj → Nat → VRes},
      exec (c f) s = vectorInstr (c f) s issue → issue e t s = barrierInstr f e t s eff →
      exec (c f) s = .next (s.vectorFaultOf (c f) t e { cause := .memerr }) := fun hx hi =>
    hx.trans (vectorInstr_fault hm (hi.trans (barrierInstr_of_bad hp ha hbad)))
  simp only [List.mem_cons, List.not_mem_nil, or_false] at hc
  rcases hc with rfl | rfl | rfl | rfl | rfl | rfl | rfl <;> exact faults rfl rfl

variable (hgood : s.spadBad p 16 = false) (hv : (s.barrierObj p).valid = true)
include hgood hv

theorem barrierInstr_of_valid {eff : Nat × Nat → BObj → Nat → VRes} :
    barrierInstr f e t s eff = eff p (s.barrierObj p) (s.lineGrade p.1 p.2) := by
  rw [barrierInstr, objectInstr_of_place hp ha, hgood]
  simp [hv]

/-- A legal arrival updates the object, and its operation will give the phase before the update. -/
theorem exec_arrives {issue : VEntry → Troupe → State → VRes} (hm : VectorMay i e t s)
    (hi : exec i s = vectorInstr i s issue) (hlong : i.longLatency = true)
    (hissue : issue e t s = arriveAt f e t s ok n b) (hok : ok (s.barrierObj p) = true) :
    exec i s = .next (((s.putBarrier p ((s.barrierObj p).arrive n b) e.cap.b.g).setTroupe (t.startOp e
      { id := 0, instr := i, sdest := sNum f.d, grade := s.lineGrade p.1 p.2,
        sres := [{ d := f.d, v := { v := BitVec.ofNat 64 (s.barrierObj p).phase, g := s.lineGrade p.1 p.2 } }] })).vectorEnd
      t.id) := by
  obtain rfl : e.instr = i := hm.2.2.2.1
  have hdone : issue e t s = .done (scalarResult e t (s.putBarrier p ((s.barrierObj p).arrive n b) e.cap.b.g) f.d
      { v := BitVec.ofNat 64 (s.barrierObj p).phase, g := s.lineGrade p.1 p.2 }) := by
    rw [hissue, arriveAt, barrierInstr_of_valid hp ha hgood hv, hok]
    rfl
  rw [hi, vectorInstr_done hm hdone, scalarResult_long hlong]

theorem exec_bexp (hm : VectorMay (.bexp f) e t s) (hok : (s.barrierObj p).expectOk e.cap.b.v.toNat = true) :
    exec (.bexp f) s =
      .next ((s.putBarrier p ((s.barrierObj p).arrive 0 e.cap.b.v.toNat) e.cap.b.g).vectorEnd t.id) := by
  refine vectorInstr_done (i := .bexp f) hm ?_
  dsimp only
  rw [barrierInstr_of_valid hp ha hgood hv, hok]
  rfl

theorem exec_bwait_of_over {w : Word} (hm : VectorMay (.bwait f) e t s) (hw : t.vwait = some (.barrierOver w)) :
    exec (.bwait f) s = .next (s.vectorNext t (t.writeS f.d { v := w, g := s.lineGrade p.1 p.2 })) := by
  refine exec_writesS hm rfl rfl ?_
  rw [barrierInstr_of_valid hp ha hgood hv, hw]

theorem exec_bwait_of_ready (hm : VectorMay (.bwait f) e t s) (hw : ∀ w, t.vwait ≠ some (.barrierOver w))
    (hr : (s.barrierObj p).ready (f.sub == 1) e.cap.b.v = true ∨ (s.barrierObj p).faulted = true) :
    exec (.bwait f) s = .next (s.vectorNext t (t.writeS f.d
      { v := (s.barrierObj p).status (f.sub == 1) e.cap.b.v, g := s.lineGrade p.1 p.2 })) := by
  refine exec_writesS hm rfl rfl ?_
  rw [barrierInstr_of_valid hp ha hgood hv]
  split
  · exact absurd ‹_› (hw _)
  · exact if_pos (by rw [Bool.or_eq_true]; exact hr)

theorem exec_btest (hm : VectorMay (.btest f) e t s) :
    exec (.btest f) s = .next (s.vectorNext t (t.startOp e
      { id := 0, instr := .btest f, sdest := sNum f.d, grade := s.lineGrade p.1 p.2,
        sres := [{ d := f.d, v := { v := (s.barrierObj p).status (f.sub == 1) e.cap.b.v,
                                    g := s.lineGrade p.1 p.2 } }] })) := by
  have hi : e.instr = .btest f := hm.2.2.2.1
  refine vectorInstr_done (i := .btest f) hm ?_
  rw [barrierInstr_of_valid hp ha hgood hv, scalarResult_long (by rw [hi]; rfl), hi]

theorem exec_bcan (hm : VectorMay (.bcan f) e t s) :
    exec (.bcan f) s = .next ((s.putBarrier p (s.barrierObj p).cancel 0).vectorEnd t.id) := by
  refine vectorInstr_done (i := .bcan f) hm ?_
  rw [barrierInstr_of_valid hp ha hgood hv]
  rfl

end AtObject

/-! ### The statement -/

theorem BObj.expectOk_iff : o.expectOk b = true ↔
    b < 2 ^ 23 ∧ o.expb + b < 2 ^ 24 ∧ (o.faulted = true ∨ o.pendb + b < 2 ^ 23) := by
  simp [BObj.expectOk, and_assoc]

/-- Settles O26: the fields by the digits of the number; an update by the waiters it wakes; each instruction by the
frame it shares, which at a sound and VALID object is its own effect. -/
theorem barrierObjects : Obligations.BarrierObjects := by
  refine ⟨⟨fun w hw => BObj.toNat_ofNat hw, fun o => ⟨BObj.advance_of_over, BObj.advance_of_not_over⟩,
    fun s p o g => ?replaced⟩, fun f e t s p => ?instructions⟩
  case replaced =>
    obtain ⟨hmem, hcores, hctxs⟩ := s.parts_putBarrier p o g
    refine ⟨hmem, hcores, hctxs, fun t ht => ⟨s.wakeTroupe p o t, ?_, ?_, State.wakeTroupe_of_not_waiting, ?_⟩⟩
    · rw [s.troupe?_putBarrier, ht]
      rfl
    · obtain ⟨w, hw⟩ := s.wakeTroupe_eq p o t
      rw [hw]
    · intro f e rest hw hq hi hat ho
      rw [State.wakeTroupe_of_met hw hq hi hat ho]
  case instructions =>
    intro va hp ha b o g put gets arrived fits
    refine ⟨exec_bini hp ha, fun hbad c hc hm => exec_barrier_of_bad hp ha hbad hc hm, fun hv hgood => ?_⟩
    refine ⟨fun hm h0 => ?_, fun hm h1 hle => ?_, fun hm h0 hfits => ?_, fun hm hfits => ?_, fun hm => ⟨fun w hw => ?_,
      fun hw hr => ?_⟩, exec_btest hp ha hgood hv, exec_bcan hp ha hgood hv⟩
    · exact exec_arrives hp ha hgood hv hm rfl rfl rfl (bne_iff_ne.mpr h0)
    · exact exec_arrives hp ha hgood hv hm rfl rfl rfl
        (by rw [Bool.and_eq_true, bne_iff_ne, decide_eq_true_eq]; exact ⟨Nat.ne_of_gt h1, hle⟩)
    · exact exec_arrives hp ha hgood hv hm rfl rfl rfl
        (by rw [Bool.and_eq_true, bne_iff_ne]; exact ⟨h0, BObj.expectOk_iff.mpr hfits⟩)
    · exact exec_bexp hp ha hgood hv hm (BObj.expectOk_iff.mpr hfits)
    · exact exec_bwait_of_over hp ha hgood hv hm hw
    · exact exec_bwait_of_ready hp ha hgood hv hm hw hr

end Sys2Proof.Machine
end

section
/-! PROOF. Named queues: the header as its fields, and what nqini, nqsend, nqrecv, nqret and nqtry do at a place of a
queue (R171, R172). -/

namespace Sys2Proof.Machine

variable {f : Fields} {e : VEntry} {t : Troupe} {s : State} {p a : Nat × Nat} {q : NQ}

/-! ### The header (R171) -/

theorem NQ.toNat_of_valid (h : q.valid = true) :
    q.toNat = q.nslot + q.head * 2 ^ 8 + q.count * 2 ^ 16 + q.allow * 2 ^ 24 + 2 ^ 32 := by
  rw [NQ.toNat, h]
  rfl

theorem NQ.valid_ofNat {w : Nat} (h : bitsOf w 32 32 = 1) : (NQ.ofNat w).valid = true :=
  beq_iff_eq.mpr h

/-- The header at a place. -/
def State.queueAt (s : State) (p : Nat × Nat) : NQ := NQ.ofNat (s.spadNat p.1 p.2 8)

/-- The header once its oldest handle is taken (R172). -/
def NQ.taken (q : NQ) : NQ := { q with count := q.count - 1, head := (q.head + 1) % q.nslot }

/-- The value of a slot, with the grade of its line. -/
def State.handleAt (s : State) (a : Nat × Nat) : GW :=
  { v := BitVec.ofNat 64 (s.spadNat a.1 a.2 8), g := s.lineGrade a.1 a.2 }

/-! ### The queue instructions (R172) -/

section AtQueue

variable (hp : s.objectAt t.id.ring (objAddr f e) 16 = some p) (ha : objAddr f e % 16 = 0)
include hp ha

theorem exec_nqini (hm : VectorMay (.nqini f) e t s) (h1 : 1 ≤ e.cap.b.v.toNat) (h2 : e.cap.b.v.toNat ≤ 255)
    (hc : e.cap.c.v.toNat ≤ 255) (hslots : s.objectAt t.id.ring (objAddr f e) (16 + 8 * e.cap.b.v.toNat) ≠ none) :
    exec (.nqini f) s = .next ((s.spadPut p.1 p.2 16 ({ allow := e.cap.c.v.toNat, nslot := e.cap.b.v.toNat } : NQ).toNat
      (max e.cap.b.g e.cap.c.g)).vectorEnd t.id) := by
  have hb : decide (e.cap.b.v.toNat = 0 ∨ 255 < e.cap.b.v.toNat) = false := decide_eq_false (by omega)
  have hin : (s.objectAt t.id.ring (objAddr f e) (16 + 8 * e.cap.b.v.toNat)).isNone = false := by
    rw [Option.isNone_eq_false_iff, Option.isSome_iff_ne_none]
    exact hslots
  have hc' : ¬255 < e.cap.c.v.toNat := by omega
  refine vectorInstr_done (i := .nqini f) hm ?_
  simp only [objectInstr_of_place hp ha, hb, hin, hc', Bool.not_false, Bool.and_false, Bool.false_or, decide_false,
    Bool.false_eq_true, if_false]

variable (hgood : s.spadBad p 8 = false) (hv : (s.queueAt p).valid = true)
include hgood hv

theorem queueInstr_of_valid {eff : Nat × Nat → NQ → VRes} : queueInstr f e t s eff = eff p (s.queueAt p) := by
  rw [queueInstr, objectInstr_of_place hp ha, hgood]
  exact (if_neg Bool.false_ne_true).trans (if_neg (by rw [Bool.not_eq_true', Bool.not_eq_false]; exact hv))

theorem exec_nqsend (hm : VectorMay (.nqsend f) e t s) (hb : e.cap.b.v ≠ BitVec.allOnes 64)
    (hallow : 1 ≤ (s.queueAt p).allow) (hroom : (s.queueAt p).count < (s.queueAt p).nslot)
    (hbehind : s.nqBehind t true p = false)
    (hslot : s.slotPlace t.id.ring f e (((s.queueAt p).head + (s.queueAt p).count) % (s.queueAt p).nslot) = some a) :
    exec (.nqsend f) s = .next (((s.spadPut a.1 a.2 8 e.cap.b.v.toNat e.cap.b.g).spadPut p.1 p.2 8
      { s.queueAt p with count := (s.queueAt p).count + 1, allow := (s.queueAt p).allow - 1 }.toNat 0).vectorEnd t.id) := by
  have hfree : ¬((s.queueAt p).allow = 0 ∨ (s.queueAt p).nslot ≤ (s.queueAt p).count ∨ s.nqBehind t true p = true) := by
    simp only [hbehind, Bool.false_eq_true, or_false]
    omega
  refine vectorInstr_done (i := .nqsend f) hm ?_
  rw [queueInstr_of_valid hp ha hgood hv, if_neg (by rwa [beq_iff_eq]), if_neg hfree, hslot]

theorem exec_nqret (hm : VectorMay (.nqret f) e t s) (h1 : 1 ≤ e.cap.b.v.toNat) (h2 : e.cap.b.v.toNat ≤ 255) :
    exec (.nqret f) s = .next ((s.spadPut p.1 p.2 8
      { s.queueAt p with allow := min 255 ((s.queueAt p).allow + e.cap.b.v.toNat) }.toNat e.cap.b.g).vectorEnd t.id) := by
  refine vectorInstr_done (i := .nqret f) hm ?_
  rw [queueInstr_of_valid hp ha hgood hv, if_neg (by omega)]

theorem exec_nqtry_of_empty (hm : VectorMay (.nqtry f) e t s) (hc : (s.queueAt p).count = 0) :
    exec (.nqtry f) s = .next (s.vectorNext t (t.writeS f.d { v := BitVec.allOnes 64, g := 0 })) := by
  refine exec_writesS hm rfl rfl ?_
  rw [queueInstr_of_valid hp ha hgood hv, if_pos hc]
  rfl

/-- An instruction that may take the oldest handle takes it from its slot into D. -/
theorem exec_takes {i : Instr} {issue : VEntry → Troupe → State → VRes} {eff : Nat × Nat → NQ → VRes}
    (hm : VectorMay i e t s) (hi : exec i s = vectorInstr i s issue) (hshort : i.longLatency = false)
    (hissue : issue e t s = queueInstr f e t s eff) (heff : eff p (s.queueAt p) = nqTake f e t s p (s.queueAt p))
    (hslot : s.slotPlace t.id.ring f e (s.queueAt p).head = some a) (hsound : s.spadBad a 8 = false) :
    exec i s = .next (((s.spadPut p.1 p.2 8 (s.queueAt p).taken.toNat 0).setTroupe
      (t.writeS f.d (s.handleAt a))).vectorEnd t.id) := by
  obtain rfl : e.instr = i := hm.2.2.2.1
  have hdone : issue e t s =
      .done (scalarResult e t (s.spadPut p.1 p.2 8 (s.queueAt p).taken.toNat 0) f.d (s.handleAt a)) := by
    rw [hissue, queueInstr_of_valid hp ha hgood hv, heff, nqTake, hslot]
    exact if_neg (by rw [hsound]; exact Bool.false_ne_true)
  rw [hi, vectorInstr_done hm hdone, scalarResult_short hshort]

theorem exec_nqrecv (hm : VectorMay (.nqrecv f) e t s) (hc : 1 ≤ (s.queueAt p).count)
    (hbehind : s.nqBehind t false p = false) (hslot : s.slotPlace t.id.ring f e (s.queueAt p).head = some a)
    (hsound : s.spadBad a 8 = false) :
    exec (.nqrecv f) s = .next (((s.spadPut p.1 p.2 8 (s.queueAt p).taken.toNat 0).setTroupe
      (t.writeS f.d (s.handleAt a))).vectorEnd t.id) := by
  refine exec_takes hp ha hgood hv hm rfl rfl rfl (if_neg ?_) hslot hsound
  simp only [hbehind, Bool.false_eq_true, or_false]
  omega

theorem exec_nqtry (hm : VectorMay (.nqtry f) e t s) (hc : 1 ≤ (s.queueAt p).count)
    (hslot : s.slotPlace t.id.ring f e (s.queueAt p).head = some a) (hsound : s.spadBad a 8 = false) :
    exec (.nqtry f) s = .next (((s.spadPut p.1 p.2 8 (s.queueAt p).taken.toNat 0).setTroupe
      (t.writeS f.d (s.handleAt a))).vectorEnd t.id) :=
  exec_takes hp ha hgood hv hm rfl rfl rfl (if_neg (Nat.ne_of_gt hc)) hslot hsound

end AtQueue

end Sys2Proof.Machine
end

section
/-! PROOF. Arrivals at numbered barriers and at the local part of tree barriers; nbsync, nbarv, tbsync and tbarv; the
release of a tree barrier (R173, R174). -/

namespace Sys2Proof.Machine

variable {f : Fields} {e : VEntry} {t : Troupe} {s s1 : State} {b : NB} {n live j ring phase : Nat} {tree : Bool}
  {who : Option Nat}

/-! ### Arrivals (R173) -/

/-- The count of a barrier's current phase once a party has arrived naming `n`. -/
def NB.target (b : NB) (n live : Nat) : Nat := if b.fixed = true then b.count else if n = 0 then live else n

/-- An arrival naming `n` is the first of its phase, or names what the first named. -/
def NB.agrees (b : NB) (n : Nat) : Prop := b.fixed = false ∨ ((b.zero = true ↔ n = 0) ∧ (n = 0 ∨ b.count = n))

/-- A barrier one party has arrived at, its phase not over. -/
def NB.joined (b : NB) (n live : Nat) (who : Option Nat) : NB :=
  { b with fixed := true, zero := if b.fixed then b.zero else n == 0, count := b.target n live,
           arrived := b.arrived + 1, mask := b.mask ++ who.toList }

theorem NB.arrive_eq_none (hf : b.fixed ≠ false) (h : (b.zero = true ↔ n ≠ 0) ∨ (n ≠ 0 ∧ b.count ≠ n)) :
    b.arrive n live who = none := by
  have hzero : (b.zero != (n == 0)) = true ↔ (b.zero = true ↔ n ≠ 0) := by
    cases b.zero <;> by_cases hn : n = 0 <;> simp [hn]
  refine if_pos ?_
  simpa [hf, hzero] using h

theorem NB.arrive_of_agrees (h : b.agrees n) : b.arrive n live who =
    some (if b.target n live ≤ b.arrived + 1 then { phase := b.phase + 1 } else b.joined n live who) := by
  have hlegal : ¬(b.fixed && (b.zero != (n == 0) || (n != 0 && b.count != n))) = true := by
    rcases h with hf | ⟨hz, hc⟩
    · simp [hf]
    · cases hb : b.zero <;> by_cases hn : n = 0 <;> simp_all
  rw [NB.arrive, if_neg hlegal]
  cases hf : b.fixed <;> simp [NB.close, NB.joined, NB.target, hf]

/-- A ring whose barrier `j` has become `b`. -/
def Ring.putNb (tree : Bool) (j : Nat) (b : NB) (r : Ring) : Ring :=
  if tree then { r with bts := upd r.bts j fun _ => b } else { r with nbs := upd r.nbs j fun _ => b }

/-- The barriers of a ring, or its parts of the tree barriers. -/
def Ring.barriers (tree : Bool) (r : Ring) : List NB := if tree then r.bts else r.nbs

theorem Ring.putNb_id (tree : Bool) (j : Nat) (b : NB) (r : Ring) : (r.putNb tree j b).id = r.id := by
  cases tree <;> rfl

theorem Ring.putNb_nb (tree : Bool) (j : Nat) (b : NB) (r : Ring) : (r.putNb tree j b).nb = r.nb := by
  cases tree <;> rfl

theorem Ring.barriers_putNb {r : Ring} (h : j < (r.barriers tree).length) :
    ((r.putNb tree j b).barriers tree).getD j {} = b := by
  cases tree
  all_goals
    simp only [Ring.barriers, Bool.false_eq_true, if_false, if_true] at h
    simp [Ring.barriers, Ring.putNb, upd, List.getD_eq_getElem?_getD, h]

theorem State.nbArrive_eq (s : State) (ring : Nat) (tree : Bool) (j n : Nat) (who : Option Nat) :
    s.nbArrive ring tree j n who =
      ((((s.ring ring).barriers tree).getD j {}).arrive n (s.activeTroupes ring).length who).map fun b1 =>
        ((((s.ring ring).barriers tree).getD j {}).phase,
          if tree then (s.modRing ring (Ring.putNb tree j b1)).treeCheck (s.ring ring).nb
          else s.modRing ring (Ring.putNb tree j b1)) := by
  simp only [State.nbArrive, nth]
  cases tree
  all_goals
    simp only [Ring.barriers, Bool.false_eq_true, if_false, if_true]
    split
    next hnone => rw [hnone]; rfl
    next hsome => rw [hsome]; rfl

theorem State.nbArrive_keeps (h : s.nbArrive ring tree j n who = some (phase, s1)) :
    s1.troupes = s.troupes ∧ s1.mem = s.mem := by
  rw [s.nbArrive_eq, Option.map_eq_some_iff] at h
  obtain ⟨b1, -, heq⟩ := h
  obtain ⟨-, rfl⟩ := Prod.mk.inj heq
  split
  · rw [State.treeCheck_eq]
    exact ⟨rfl, rfl⟩
  · exact ⟨rfl, rfl⟩

theorem State.nbArrive_of_agrees (h : (((s.ring ring).barriers tree).getD j {}).agrees n) :
    ∃ p s1, s.nbArrive ring tree j n who = some (p, s1) := by
  rw [s.nbArrive_eq, NB.arrive_of_agrees h]
  exact ⟨_, _, rfl⟩

theorem State.multiRing_modRing {g : Ring → Ring} (hg : ∀ r, (g r).nb = r.nb) (s : State) (ring nb : Nat) :
    (s.modRing ring g).multiRing nb = s.multiRing nb := by
  have hlen : ((s.modRing ring g).ringsOf nb).length = (s.ringsOf nb).length := by
    simp only [State.ringsOf, State.modRing, updWhere, List.filter_map, List.length_map]
    congr 2
    funext r
    by_cases hr : r.id = ring <;> simp [hr, hg]
  rw [State.multiRing, State.multiRing, hlen]

/-- An arrival that completes its phase within one ring: the phase is over at once. -/
theorem State.nbArrive_completes {r : Ring} (hr : s.ring? ring = some r) (hj : j < (r.barriers tree).length)
    (hagrees : ((r.barriers tree).getD j {}).agrees n)
    (hcount : ((r.barriers tree).getD j {}).target n (s.activeTroupes ring).length ≤
      ((r.barriers tree).getD j {}).arrived + 1)
    (hlocal : tree = true → s.multiRing r.nb = false) :
    ∃ p s1, s.nbArrive ring tree j n who = some (p, s1) ∧ s1.nbOver ring tree j p = true := by
  let b1 : NB := { phase := ((r.barriers tree).getD j {}).phase + 1 }
  let u : State := s.modRing ring (Ring.putNb tree j b1)
  have hring : s.ring ring = r := by rw [State.ring, hr]; rfl
  have hring' : u.ring ring = r.putNb tree j b1 := by
    rw [State.ring, s.ring?_modRing ring _ (Ring.putNb_id tree j b1), hr]
    rfl
  have hmulti : u.multiRing r.nb = s.multiRing r.nb := State.multiRing_modRing (Ring.putNb_nb tree j b1) s ring r.nb
  have hput : ((r.putNb tree j b1).barriers tree).getD j {} = b1 := Ring.barriers_putNb hj
  refine ⟨((r.barriers tree).getD j {}).phase, u, ?_, ?_⟩
  · rw [s.nbArrive_eq, hring, NB.arrive_of_agrees hagrees, if_pos hcount]
    cases tree with
    | false => rfl
    | true =>
        have hcheck : u.treeCheck r.nb = u := if_neg (by rw [hmulti, hlocal rfl]; exact Bool.false_ne_true)
        exact congrArg (fun x => some (_, x)) hcheck
  · simp only [State.nbOver, hring', Ring.putNb_nb, hmulti, nth]
    cases tree with
    | false => exact decide_eq_true (Nat.lt_of_lt_of_eq (Nat.lt_succ_self _) (congrArg NB.phase hput).symm)
    | true =>
        rw [if_pos rfl, hlocal rfl]
        exact decide_eq_true (Nat.lt_of_lt_of_eq (Nat.lt_succ_self _) (congrArg NB.phase hput).symm)

/-! ### Going on (R88) -/

/-- A calm troupe whose first dispatched instruction is over has issued it. -/
theorem issued_vectorEnd (ht : s.troupe? t.id = some t) (hc : t.calm) :
    Issued t t.issued (s.vectorEnd t.id) ∧ (s.vectorEnd t.id).mem = s.mem := by
  have hfind : (s.modTroupe t.id Troupe.issued).troupe? t.id = some t.issued := by
    rw [s.troupe?_modTroupe t.id Troupe.issued fun _ => rfl, ht]
    rfl
  have hend : s.vectorEnd t.id = s.modTroupe t.id Troupe.issued :=
    State.settle_of_quiet (t := t.issued) hfind (Troupe.quiet_of_unreported hc.1 hc.2)
  rw [hend]
  exact ⟨⟨hfind, rfl, rfl, rfl, rfl⟩, rfl⟩

/-! ### The barrier instructions (R173, R174) -/

/-- nbarv and tbarv. -/
def arvInstr (tree : Bool) (f : Fields) : Instr := if tree then .tbarv f else .nbarv f

/-- nbsync and tbsync. -/
def syncInstr (tree : Bool) (f : Fields) : Instr := if tree then .tbsync f else .nbsync f

theorem exec_arvInstr_eq (tree : Bool) (f : Fields) (s : State) :
    exec (arvInstr tree f) s = vectorInstr (arvInstr tree f) s (nbInstr tree false f) := by
  cases tree <;> rfl

theorem exec_syncInstr_eq (tree : Bool) (f : Fields) (s : State) :
    exec (syncInstr tree f) s = vectorInstr (syncInstr tree f) s (nbInstr tree true f) := by
  cases tree <;> rfl

/-- The vector side does not wait at a barrier: its instruction has still to arrive. -/
def Troupe.fresh (t : Troupe) : Prop := (∀ x p, t.vwait ≠ some (.nb x p)) ∧ ∀ x p, t.vwait ≠ some (.tb x p)

theorem nbInstr_of_fresh {sync : Bool} (hf : t.fresh)
    (ha : s.nbArrive t.id.ring tree f.sel.toNat f.imm.toNat (some t.id.idx) = some (phase, s1)) :
    nbInstr tree sync f e t s = if sync && !s1.nbOver t.id.ring tree f.sel.toNat phase then
      .wait (if tree then .tb f.sel.toNat phase else .nb f.sel.toNat phase) s1 else .done s1 := by
  unfold nbInstr
  split
  next hw => exact absurd hw (hf.1 _ _)
  next hw => exact absurd hw (hf.2 _ _)
  next => simp only [ha]

theorem nbInstr_of_over {x : Nat} {sync : Bool} (hw : t.vwait = some (.nb x phase) ∨ t.vwait = some (.tb x phase))
    (ho : s.nbOver t.id.ring tree f.sel.toNat phase = true) : nbInstr tree sync f e t s = .done s := by
  rcases hw with hw | hw <;> simp only [nbInstr, hw, ho, if_true]

theorem exec_arvInstr (hm : VectorMay (arvInstr tree f) e t s) (hf : t.fresh)
    (ha : s.nbArrive t.id.ring tree f.sel.toNat f.imm.toNat (some t.id.idx) = some (phase, s1)) :
    exec (arvInstr tree f) s = .next (s1.vectorEnd t.id) :=
  (exec_arvInstr_eq tree f s).trans (vectorInstr_done hm (nbInstr_of_fresh hf ha))

theorem exec_syncInstr (hm : VectorMay (syncInstr tree f) e t s) (hf : t.fresh)
    (ha : s.nbArrive t.id.ring tree f.sel.toNat f.imm.toNat (some t.id.idx) = some (phase, s1)) :
    exec (syncInstr tree f) s = if s1.nbOver t.id.ring tree f.sel.toNat phase then .next (s1.vectorEnd t.id)
      else .next (s1.blockVector t.id (if tree then .tb f.sel.toNat phase else .nb f.sel.toNat phase)) := by
  rw [exec_syncInstr_eq]
  cases ho : s1.nbOver t.id.ring tree f.sel.toNat phase
  · exact vectorInstr_wait hm ((nbInstr_of_fresh hf ha).trans (if_pos (by rw [ho]; rfl)))
  · exact vectorInstr_done hm ((nbInstr_of_fresh hf ha).trans (if_neg (by rw [ho]; exact Bool.false_ne_true)))

theorem exec_syncInstr_of_over {x : Nat} (hm : VectorMay (syncInstr tree f) e t s)
    (hw : t.vwait = some (.nb x phase) ∨ t.vwait = some (.tb x phase))
    (ho : s.nbOver t.id.ring tree f.sel.toNat phase = true) : exec (syncInstr tree f) s = .next (s.vectorEnd t.id) :=
  (exec_syncInstr_eq tree f s).trans (vectorInstr_done hm (nbInstr_of_over hw ho))

/-- An instruction that only arrives has issued, and changes no memory. -/
theorem arrived_issues {i : Instr} (ht : s.troupe? t.id = some t) (hc : t.calm)
    (ha : s.nbArrive t.id.ring tree j n who = some (phase, s1)) (hx : exec i s = .next (s1.vectorEnd t.id)) :
    ∃ s2 u, exec i s = .next s2 ∧ Issued t u s2 ∧ s2.mem = s.mem := by
  obtain ⟨htroupes, hmem⟩ := State.nbArrive_keeps ha
  obtain ⟨hissued, hsame⟩ := issued_vectorEnd (s := s1) (by rw [State.troupe?, htroupes]; exact ht) hc
  exact ⟨_, _, hx, hissued, hsame.trans hmem⟩

/-! ### The release of a tree barrier (R174) -/

theorem exec_treeBarrierRelease {x : Nat × Nat}
    (h : (s.nbhd s.ev.obj).release.find? (fun x => x.1 == s.ev.num) = some x) :
    exec .treeBarrierRelease s = .next (((s.modDie (s.nbhd s.ev.obj).die fun d =>
      { d with tick := max d.tick x.2 }).modNbhd s.ev.obj fun n =>
        { n with release := n.release.filter fun y => y.1 != s.ev.num,
                 tphase := n.tphase.modify s.ev.num (· + 1) }).treeCheck s.ev.obj) := by
  show execTreeBarrierRelease s = _
  simp only [execTreeBarrierRelease, h, upd]

/-! ### The statement -/

/-- Settles O27: a queue instruction by the header it reads and the slot it names; an arrival by whether it agrees
with its phase, and an instruction that arrives by that arrival. -/
theorem numberedBarriers : Obligations.NumberedBarriers := by
  refine ⟨fun f e t s p => ?queues, fun b n live who => ?arrivals, fun f e t s => ?barriers,
    fun s x h => exec_treeBarrierRelease h⟩
  case queues =>
    intro va hp ha b c w nslot head count allow hdr slot takes
    have hdr_eq : ∀ {q : NQ}, q.valid = true → q.toNat = hdr q.nslot q.head q.count q.allow := NQ.toNat_of_valid
    refine ⟨fun hm h1 h2 hc hslots => ?_, fun hvalid hgood => ?_⟩
    · rw [exec_nqini hp ha hm h1 h2 hc hslots, hdr_eq rfl]
    have hv : (s.queueAt p).valid = true := NQ.valid_ofNat hvalid
    refine ⟨fun hm hb hallow hroom hbehind a hslot => ?_, fun hm hc hbehind a hslot hsound => ?_, fun hm h1 h2 => ?_,
      fun hm => ⟨fun hc => exec_nqtry_of_empty hp ha hgood hv hm hc, fun hc a hslot hsound => ?_⟩⟩
    · rw [exec_nqsend hp ha hgood hv hm hb hallow hroom hbehind hslot, hdr_eq (by exact hv)]
      rfl
    · rw [exec_nqrecv hp ha hgood hv hm hc hbehind hslot hsound, hdr_eq (by exact hv)]
      rfl
    · rw [exec_nqret hp ha hgood hv hm h1 h2, hdr_eq (by exact hv)]
      rfl
    · rw [exec_nqtry hp ha hgood hv hm hc hslot hsound, hdr_eq (by exact hv)]
      rfl
  case arrivals =>
    intro first count
    refine ⟨NB.arrive_eq_none, fun h => ?_⟩
    have hcount : count = b.target n live := by
      cases hf : b.fixed <;> simp [count, first, NB.target, hf]
    have harrive := NB.arrive_of_agrees (live := live) (who := who) h
    rw [hcount]
    refine ⟨fun hle => harrive.trans (by rw [if_pos hle]), fun hlt => ⟨b.joined n live who, ?_, rfl, rfl, rfl, rfl⟩⟩
    rw [harrive, if_neg (Nat.not_le.mpr hlt)]
  case barriers =>
    intro j n fresh
    refine ⟨fun tree p s1 hf ha => ⟨fun hm => exec_arvInstr hm hf ha, fun hm => exec_syncInstr hm hf ha⟩,
      fun tree hf hc hagrees => ⟨fun hm => ?_, fun hm hr hj hle hlocal => ?_⟩,
      fun x p hw hm ho => exec_syncInstr_of_over (tree := false) hm (.inl hw) ho,
      fun x p hw hm ho => exec_syncInstr_of_over (tree := true) hm (.inr hw) ho⟩
    · obtain ⟨p, s1, ha⟩ := State.nbArrive_of_agrees (who := some t.id.idx) (tree := tree) hagrees
      exact arrived_issues hm.2.1 hc ha (exec_arvInstr hm hf ha)
    · obtain ⟨p, s1, ha, ho⟩ := State.nbArrive_completes (who := some t.id.idx) hr hj hagrees hle hlocal
      exact arrived_issues hm.2.1 hc ha ((exec_syncInstr hm hf ha).trans (if_pos ho))

end Sys2Proof.Machine
end


section
/-! PROOF. What an access that passes the checks has been checked for (R225, R227, R228, R240, R373, R375). -/

namespace Sys2Proof.Machine

variable {s : State} {p : Party} {va : Nat} {w : Want} {l : Leaf} {site : Site}

/-! ### One check after another -/

/-- An access that passes has passed the check that would have ended it. -/
theorem Acc.ok_of_ite {c : Prop} [Decidable c] {a b : Acc} (ha : a ≠ .ok site) (h : (if c then a else b) = .ok site) :
    ¬c ∧ b = .ok site := by
  split at h
  · exact absurd h ha
  · exact ⟨‹_›, h⟩

theorem Acc.final_ne_ok {c : Cause} {r : Nat} : Acc.final c r ≠ .ok site := Acc.noConfusion

theorem State.xlatFault_ne_ok {asid reason level : Nat} {c : Cause} : s.xlatFault asid w c reason level ≠ .ok site := by
  unfold State.xlatFault
  (repeat' split) <;> exact Acc.noConfusion

/-! ### An access through a leaf -/

/-- Where an access through a leaf lands: the bytes the leaf gives, under its grade, outside the windows; the
reduction window is one of the package's, and a key goes with pooled bytes only (R249, R381). -/
structure Site.ThroughLeaf (s : State) (va : Nat) (w : Want) (l : Leaf) (site : Site) : Prop where
  locs : site.locs = (List.range w.n).map fun i => leafLoc s l (va + i)
  g : site.g = l.grade
  scratch : site.scratch = false
  leaf : site.leaf = l
  win : ∀ x, site.win = some x → x ∈ s.fw.wins
  key : (∀ x ∈ site.locs, x.pooled = false) → site.key = none

theorem State.leafAccess_passes (h : s.leafAccess p va w l = .ok site) :
    site.ThroughLeaf s va w l ∧
    (w.rd = true → l.rd = true) ∧ (w.wr = true → l.wr = true) ∧ (w.ex = true → l.ex = true) ∧
    (l.kind = 1 ↔ w.tuple = true) ∧ (w.atomic = true → l.kind = 2 → w.splitOk = true) ∧
    (w.atomic = true → l.kind = 0 → tierOf l.frame = .host → w.hostOk = true) ∧
    (w.wr = true → (s.ctx p.asid).prot = true → l.dom = true) ∧
    (w.wr = true → w.gradeChk = true → w.g ≤ l.grade) := by
  unfold State.leafAccess at h
  extract_lets locs win home ctx at h
  obtain ⟨-, h⟩ := Acc.ok_of_ite State.xlatFault_ne_ok h
  obtain ⟨hrd, h⟩ := Acc.ok_of_ite Acc.final_ne_ok h
  obtain ⟨hwr, h⟩ := Acc.ok_of_ite Acc.final_ne_ok h
  obtain ⟨hex, h⟩ := Acc.ok_of_ite Acc.final_ne_ok h
  obtain ⟨-, h⟩ := Acc.ok_of_ite State.xlatFault_ne_ok h
  obtain ⟨htuple, h⟩ := Acc.ok_of_ite Acc.final_ne_ok h
  obtain ⟨-, h⟩ := Acc.ok_of_ite Acc.final_ne_ok h
  obtain ⟨hsplit, h⟩ := Acc.ok_of_ite Acc.final_ne_ok h
  obtain ⟨hhost, h⟩ := Acc.ok_of_ite Acc.final_ne_ok h
  obtain ⟨hdom, h⟩ := Acc.ok_of_ite Acc.final_ne_ok h
  obtain ⟨-, h⟩ := Acc.ok_of_ite Acc.final_ne_ok h
  obtain ⟨hgrade, h⟩ := Acc.ok_of_ite Acc.final_ne_ok h
  obtain ⟨-, h⟩ := Acc.ok_of_ite Acc.final_ne_ok h
  cases h
  refine ⟨⟨rfl, rfl, rfl, rfl, fun x hx => ?win, fun hp => if_neg ?key⟩, ?_⟩
  case win =>
    simp only [win] at hx
    split at hx
    · exact List.mem_of_find?_eq_some hx
    · cases hx
  case key => simpa using hp
  simp only [Bool.and_eq_true, Bool.not_eq_true', decide_eq_true_eq, beq_iff_eq, not_and, Bool.not_eq_false,
    bne_iff_ne, ne_eq, not_not, Nat.not_lt] at hrd hwr hex htuple hsplit hhost hdom hgrade
  exact ⟨hrd, hwr, hex, by rw [← htuple, beq_iff_eq], fun ha hk => hsplit ⟨ha, hk⟩, fun ha hk ht => hhost ⟨⟨ha, hk⟩, ht⟩,
    fun hw hp => hdom ⟨hw, hp⟩, fun hw hc => hgrade ⟨hw, hc⟩⟩

/-! ### Any access -/

/-- An access that passes lands in a window, or on a page through the leaf for its address. -/
theorem State.access_cases (h : s.access p va w = .ok site) : va < 2 ^ 57 ∧ va % w.align = 0 ∧
    ((inWindows va = true ∧ w.ex = false ∧ w.atomic = false ∧ w.maint = false ∧ w.tuple = false ∧
        ∃ c o r, s.scratchAt p.ring va w.n = some (c, o, r) ∧
          (w.rd = true → ∀ i < w.n, s.poisoned (.spad c (o + i)) = false) ∧
          site = { locs := (List.range w.n).map fun i => Loc.spad c (o + i), g := s.lineGrade c o, scratch := true }) ∨
      (inWindows va = false ∧ w.mustScratch = false ∧
        ∃ l, s.leafFor p.asid p.core va = .leaf l ∧ s.leafAccess p va w l = .ok site)) := by
  unfold State.access at h
  obtain ⟨hmust, h⟩ := Acc.ok_of_ite Acc.final_ne_ok h
  obtain ⟨hhigh, h⟩ := Acc.ok_of_ite Acc.final_ne_ok h
  refine ⟨Nat.not_le.mp hhigh, ?_⟩
  cases hwin : inWindows va
  · rw [hwin] at h hmust
    simp only [Bool.false_eq_true, if_false] at h
    obtain ⟨halign, h⟩ := Acc.ok_of_ite Acc.final_ne_ok h
    cases hleaf : s.leafFor p.asid p.core va with
    | fault r lvl => rw [hleaf] at h; exact absurd h State.xlatFault_ne_ok
    | leaf l => rw [hleaf] at h; exact ⟨by simpa using halign, .inr ⟨rfl, by simpa using hmust, l, rfl, h⟩⟩
  · rw [hwin, if_pos rfl] at h
    obtain ⟨hex, h⟩ := Acc.ok_of_ite Acc.final_ne_ok h
    cases hat : s.scratchAt p.ring va w.n with
    | none => rw [hat] at h; exact absurd h Acc.final_ne_ok
    | some x =>
        obtain ⟨c, o, r⟩ := x
        simp only [hat] at h
        obtain ⟨hkind, h⟩ := Acc.ok_of_ite Acc.final_ne_ok h
        obtain ⟨halign, h⟩ := Acc.ok_of_ite Acc.final_ne_ok h
        obtain ⟨hbad, h⟩ := Acc.ok_of_ite Acc.final_ne_ok h
        cases h
        simp only [Bool.or_eq_true, not_or, Bool.not_eq_true] at hkind hex
        obtain ⟨⟨hatomic, hmaint⟩, htuple⟩ := hkind
        refine ⟨by simpa using halign, .inl ⟨rfl, hex, hatomic, hmaint, htuple, c, o, r, rfl, fun hr => ?_, rfl⟩⟩
        simpa [hr] using hbad

/-- Settles O21: in a window by the allocation that the address lies in, on a page by the checks of its leaf. -/
theorem accessChecks : Obligations.AccessChecks := by
  intro s p va w site h
  obtain ⟨hlow, halign, ⟨hin, hex, hatomic, hmaint, -, c, o, r, hat, -, rfl⟩ | ⟨hout, hmust, l, -, hleaf⟩⟩ :=
    State.access_cases h
  · refine ⟨hlow, halign, by simp, fun _ => ⟨rfl, hatomic, hmaint, hex, c, o, r, hat, rfl⟩, fun hout => ?_⟩
    rw [hin] at hout
    cases hout
  · obtain ⟨hsite, hrd, hwr, hexec, htuple, hsplit, hhost, hdom, hgrade⟩ := State.leafAccess_passes hleaf
    refine ⟨hlow, halign, by simp [hsite.locs], fun hin => ?_, fun _ => ?_⟩
    · rw [hout] at hin
      cases hin
    · rw [hsite.leaf]
      exact ⟨hmust, hsite.scratch, hrd, hwr, hexec, hgrade, hsite.g, hdom, hsplit, hhost, htuple⟩

end Sys2Proof.Machine
end

section
/-! PROOF. How a memory instruction issues: its lanes are performed, or stand behind earlier accesses of the troupe, or it
has none (R88, R226, R230, R231, R235, R269, R270, R347). -/

namespace Sys2Proof.Machine

variable {i : Instr} {f : Fields} {e : VEntry} {t : Troupe} {s s1 : State}

/-! ### The memory instructions -/

/-- The instruction with these fields is one that issues as a memory instruction. -/
structure IsMemory (i : Instr) (f : Fields) : Prop where
  exec : ∀ s, exec i s = vectorInstr i s (memIssue f)
  fields : i.fields = some f

theorem isMemory : ∀ c ∈ [Instr.lds, .sts, .ldsb, .ld, .ldAc, .st, .vld, .vldAc, .vst, .vldw, .vstw, .pref, .cfl,
    .aadd, .amin, .amax, .aand, .aor, .axor, .axch, .acas, .ainb, .ainw, .adecp, .aflim, .aaddf,
    .redadd, .redmin, .redmax, .redand, .redor, .redxor, .redaddf], IsMemory (c f) f := by
  intro c hc
  fin_cases hc <;> exact ⟨fun _ => rfl, rfl⟩

theorem exec_memory_done (hi : IsMemory i f) (hm : VectorMay i e t s) (h : memIssue f e t s = .done s1) :
    exec i s = .next (s1.vectorEnd t.id) := (hi.exec s).trans (vectorInstr_done hm h)

theorem exec_memory_wait (hi : IsMemory i f) (hm : VectorMay i e t s) {w : Wait} (h : memIssue f e t s = .wait w s1) :
    exec i s = .next (s1.blockVector t.id w) := (hi.exec s).trans (vectorInstr_wait hm h)

/-! ### The operation that a memory instruction issues -/

/-- The operation of a memory instruction as it stands among its troupe's. -/
def issuedOp (f : Fields) (e : VEntry) (t : Troupe) : Op :=
  { memOp f e t with id := t.nextOp, instr := e.instr, iaddr := e.iaddr, cap := e.cap, flag := e.flag, cno := e.cno }

/-- All that issuing an operation changes of its troupe: a split-phase load also counts on its arrival counter and
makes its destination general (R231, R232). -/
theorem Troupe.startMem_eq (f : Fields) (e : VEntry) (t : Troupe) : ∃ ac v, t.startMem f e =
      { t with ops := t.ops ++ [issuedOp f e t], nextOp := t.nextOp + 1, ac := ac, v := v } ∧
    (splitCounter e.instr = none → v = t.v) := by
  have hac : (memOp f e t).ac = splitCounter e.instr := rfl
  cases hsplit : splitCounter e.instr with
  | none =>
      refine ⟨t.ac, t.v, ?_, fun _ => rfl⟩
      simp only [Troupe.startMem, hac, hsplit]
      rfl
  | some j =>
      simp only [Troupe.startMem, hac, hsplit, Troupe.makeGeneral]
      (repeat' split) <;> exact ⟨_, _, rfl, nofun⟩

@[simp] theorem Troupe.startMem_id (f : Fields) (e : VEntry) (t : Troupe) : (t.startMem f e).id = t.id := by
  obtain ⟨ac, v, h, -⟩ := t.startMem_eq f e
  rw [h]

@[simp] theorem Troupe.startMem_ops (f : Fields) (e : VEntry) (t : Troupe) :
    (t.startMem f e).ops = t.ops ++ [issuedOp f e t] := by
  obtain ⟨ac, v, h, -⟩ := t.startMem_eq f e
  rw [h]

theorem lanes_issuedOp (f : Fields) (e : VEntry) (t : Troupe) : (issuedOp f e t).lanes = laneRecs e.instr f e t := rfl

theorem laneRecs_ne_nil (h : accessLanes i e.cap.k0 ≠ []) : laneRecs i f e t ≠ [] := by
  simpa [laneRecs] using h

theorem redo_of_mem_laneRecs {l : LaneRec} (h : l ∈ laneRecs i f e t) : l.st = .redo := by
  obtain ⟨n, -, rfl⟩ := List.mem_map.mp h
  rfl

/-! ### The ways on from its issue -/

/-- The troupe with the operation issued and its lanes behind earlier accesses. -/
def Troupe.startBehind (t : Troupe) (f : Fields) (e : VEntry) : Troupe :=
  (t.startMem f e).setLanes t.nextOp .redo .behind

/-- Nothing but earlier accesses of its troupe keeps a memory instruction from accessing (R86, R226, R231, R347). -/
structure MayAccess (i : Instr) (f : Fields) (e : VEntry) (t : Troupe) (s : State) : Prop where
  budget : t.overBudget (s.ring t.id.ring).vgen (loadDests i f e.cap.k0) = false
  lanes : accessLanes i e.cap.k0 ≠ []
  window : s.windowWaits t.uid f.ord.toNat f.scp.toNat (· == f.col.toNat) = false
  log : i.logged = true → t.freeSlot ≠ none
  counter : counterFull i t (accessLanes i e.cap.k0).length = false

theorem memIssue_noLane (he : e.instr = i) (hb : t.overBudget (s.ring t.id.ring).vgen (loadDests i f e.cap.k0) = false)
    (hl : accessLanes i e.cap.k0 = []) : memIssue f e t s = .done (s.setTroupe (t.lowerFlag e.flag)) := by
  subst he
  simp [memIssue, hb, hl]

theorem memIssue_accesses (he : e.instr = i) (h : MayAccess i f e t s) : memIssue f e t s = .done
    (if t.behind s (memOp f e t) then s.setTroupe (t.startBehind f e)
      else performOp t.id t.nextOp (s.setTroupe (t.startMem f e))) := by
  subst he
  have hlog : (e.instr.logged && t.freeSlot.isNone) = false := by
    cases hi : e.instr.logged
    · rfl
    · simpa [Option.isSome_iff_ne_none] using h.log hi
  simp only [memIssue, h.budget, List.isEmpty_eq_false_iff.mpr h.lanes, h.window, hlog, h.counter, Bool.or_self,
    Bool.false_eq_true, if_false]
  split <;> rfl

/-- Within the budget a memory instruction accesses nothing, waits at issue, stands behind or is performed. -/
theorem memIssue_cases (f : Fields) (e : VEntry) (t : Troupe) (s : State)
    (hb : t.overBudget (s.ring t.id.ring).vgen (loadDests e.instr f e.cap.k0) = false) :
    memIssue f e t s = .done (s.setTroupe (t.lowerFlag e.flag)) ∨ memIssue f e t s = .wait .issue s ∨
    memIssue f e t s = .done (s.setTroupe (t.startBehind f e)) ∨
    memIssue f e t s = .done (performOp t.id t.nextOp (s.setTroupe (t.startMem f e))) := by
  simp only [memIssue, hb, Bool.false_eq_true, if_false]
  split
  · exact .inl rfl
  split
  · exact .inr (.inl rfl)
  split
  · exact .inr (.inl rfl)
  split
  · exact .inr (.inr (.inl rfl))
  · exact .inr (.inr (.inr rfl))

/-- Every lane of the operation of `startBehind` stands behind. -/
theorem Troupe.exists_op_startBehind (he : e.instr = i) (hl : accessLanes i e.cap.k0 ≠ []) :
    ∃ o ∈ (t.startBehind f e).ops, o.id = t.nextOp ∧ o.instr = i ∧ o.lanes ≠ [] ∧ ∀ l ∈ o.lanes, l.st = .behind := by
  subst he
  refine ⟨{ issuedOp f e t with lanes := updWhere (laneRecs e.instr f e t) (fun l => l.st == .redo) fun l =>
      { l with st := .behind } }, List.mem_map.mpr ⟨issuedOp f e t, by simp, ?_⟩, rfl, rfl, ?_, ?_⟩
  · exact if_pos (beq_self_eq_true _)
  · simpa [updWhere] using laneRecs_ne_nil hl
  · intro l hl
    obtain ⟨r, hr, rfl⟩ := List.mem_map.mp hl
    simp [redo_of_mem_laneRecs hr]

/-- Settles O17: the ways on of `memIssue`, each from what it rests on. -/
theorem memoryIssueAndOrder : Obligations.MemoryIssueAndOrder := by
  refine ⟨fun c hc f e t s hm hb => ?_, fun c hc f e t s hm hb hl hw hlog hcount hbehind _ => ?_⟩
  · have hi := isMemory (f := f) c hc
    have he : e.instr = c f := hm.2.2.2.1
    refine ⟨fun hl => exec_memory_done hi hm (memIssue_noLane he hb hl), fun hl hw hlog hcount hbehind => ?_⟩
    have h := memIssue_accesses he ⟨hb, hl, hw, hlog, hcount⟩
    rw [if_neg (by rw [hbehind]; exact Bool.false_ne_true)] at h
    exact exec_memory_done hi hm h
  · have hi : IsMemory (c f) f := by fin_cases hc <;> exact ⟨fun _ => rfl, rfl⟩
    have he : e.instr = c f := hm.2.2.2.1
    have h := memIssue_accesses he ⟨hb, hl, hw, hlog, hcount⟩
    rw [if_pos hbehind] at h
    exact ⟨t.startBehind f e, exec_memory_done hi hm h, t.startMem_id f e, Troupe.exists_op_startBehind he hl⟩

end Sys2Proof.Machine
end

section
/-! PROOF. Arrival counters, fences and copy tags (R164, R165, R233, R235, R242). -/

namespace Sys2Proof.Machine

variable {i : Instr} {f : Fields} {e : VEntry} {t : Troupe} {s : State} {j : Nat} {a : Word}

/-! ### Arrival counters (R233) -/

theorem exec_acwait (hm : VectorMay (.acwait f) e t s) (h : t.ac.getD f.sel.toNat 0 ≤ f.imm.toNat) :
    exec (.acwait f) s = .next (s.vectorEnd t.id) :=
  vectorInstr_done hm (if_neg (Nat.not_lt.mpr h))

theorem exec_acget (hm : VectorMay (.acget f) e t s) : exec (.acget f) s =
    .next (s.vectorNext t (t.writeS f.d { v := BitVec.ofNat 64 (t.ac.getD f.sel.toNat 0), g := 0 })) :=
  vectorInstr_done hm rfl

/-- The troupe once the outstanding replies of a counter are discarded. -/
def Troupe.discarded (t : Troupe) (j : Nat) : Troupe :=
  { t with
    ac := t.ac.modify j fun _ => 0
    reports := t.reports.filter fun r => !((t.countedOn j).map (·.id)).contains r
    ops := (t.ops.map fun o => if o.ac == some j then o.discarded else o).filter fun o =>
      !(o.ac == some j && o.lanes.isEmpty) }

theorem State.troupe?_discardCounter (ht : s.troupe? t.id = some t) :
    (s.discardCounter t.id j).troupe? t.id = some (t.discarded j) := by
  have h := s.troupe?_setTroupe (t := t.discarded j) ht
  simp only [State.discardCounter, ht]
  exact h

theorem State.mem_discardCounter (s : State) (id : TroupeId) (j : Nat) : (s.discardCounter id j).mem = s.mem := by
  unfold State.discardCounter
  split <;> rfl

/-- Discarding leaves no lane of a split-phase load. -/
theorem Op.lanes_discarded_of_isLoad {o : Op} (h : isLoad o.instr = true) : o.discarded.lanes = [] := by
  simp [Op.discarded, h]

theorem Troupe.ac_ne_of_mem_discarded {o : Op} (ho : o ∈ (t.discarded j).ops) (hload : isLoad o.instr = true) :
    o.ac ≠ some j := by
  obtain ⟨hmem, hkept⟩ := List.mem_filter.mp ho
  obtain ⟨o', -, rfl⟩ := List.mem_map.mp hmem
  intro hac
  have hcounted : o'.ac = some j := by
    by_contra hne
    rw [if_neg (by simpa using hne)] at hac
    exact hne hac
  rw [if_pos (by simpa using hcounted)] at hkept hload
  have hnone : o'.discarded.lanes = [] := Op.lanes_discarded_of_isLoad (o := o') hload
  have hac' : o'.discarded.ac = some j := hcounted
  simp [hnone, hac'] at hkept

/-! ### Fences (R235, R242) -/

theorem exec_fence (hm : VectorMay (.fence f) e t s)
    (hw : s.windowWaits t.uid f.ord.toNat f.scp.toNat (fun c => f.imm.getLsbD c) = false) :
    let o : Op := { id := t.nextOp, instr := .fence f, held := false }
    exec (.fence f) s = .next ((if t.behind s o then s.setTroupe (t.startOp e o) else s).vectorEnd t.id) :=
  vectorInstr_done hm (if_neg (by rw [hw]; exact Bool.false_ne_true))

/-! ### Copy tags (R165) -/

/-- Tag `j` is one of the ring's that the mask names. -/
def Ring.named (r : Ring) (a : Word) (j : Nat) : Prop := j < 64 ∧ j < r.tags ∧ a.getLsbD j = true

theorem Ring.mem_namedTags {r : Ring} : j ∈ namedTags r a ↔ r.named a j := by
  simp only [namedTags, List.mem_filter, mem_lanesOf, decide_eq_true_eq, Ring.named]
  tauto

theorem Ring.tagIdle_iff {r : Ring} : tagIdle r j = true ↔ r.tagcnt.getD j 0 = 0 ∧ ¬r.tagmap.getLsbD j = true := by
  simp [tagIdle, tagReady, nth]

theorem Ring.anyTag_iff {r : Ring} : anyTag r a = true ↔ (∃ j, r.named a j ∧ r.tagmap.getLsbD j = true) ∨
    ∀ j, r.named a j → r.tagcnt.getD j 0 = 0 ∧ ¬r.tagmap.getLsbD j = true := by
  simp only [anyTag, Bool.or_eq_true, List.any_eq_true, List.all_eq_true, Ring.mem_namedTags, Ring.tagIdle_iff]
  rfl

theorem Ring.allTags_iff {r : Ring} : allTags r a = true ↔ ∀ j, r.named a j →
    r.tagmap.getLsbD j = true ∨ (r.tagcnt.getD j 0 = 0 ∧ ¬r.tagmap.getLsbD j = true) := by
  simp only [allTags, List.all_eq_true, Bool.or_eq_true, Ring.mem_namedTags, Ring.tagIdle_iff]
  rfl

/-- An instruction that waits for tags answers once its condition holds. -/
theorem exec_tagWait {cond : Ring → Word → Bool} (hi : exec i s = vectorInstr i s (tagWait cond f))
    (hshort : i.longLatency = false) (hm : VectorMay i e t s) (hc : cond (s.ring t.id.ring) e.cap.a.v = true) :
    exec i s = .next (s.vectorNext t (t.writeS f.d { v := (s.ring t.id.ring).tagmap &&& e.cap.a.v, g := 0 })) :=
  exec_writesS hm hi hshort (if_pos hc)

/-- The first lane of a mask is its lowest set bit. -/
theorem head_lanesOf (m : Word) : (match lanesOf m with | n :: _ => n | [] => 64) = lowestBit m := by
  rw [lowestBit, ← List.head?_filter]
  show _ = (lanesOf m).head?.getD 64
  cases lanesOf m <;> rfl

/-- No bit below the lowest set bit is set. -/
theorem lowestBit_spec (m : Word) : (m = 0 ∧ lowestBit m = 64) ∨
    (lowestBit m < 64 ∧ m.getLsbD (lowestBit m) = true ∧ ∀ j < lowestBit m, m.getLsbD j = false) := by
  rcases isBitIndex_lowestBit m with h | ⟨hlt, hset, hle⟩
  · exact .inl h
  · refine .inr ⟨hlt, hset, fun j hj => ?_⟩
    by_contra hbit
    exact absurd (hle j (hj.trans hlt) (by simpa using hbit)) (Nat.not_le.mpr hj)

theorem exec_tgffr (hm : VectorMay (.tgffr f) e t s) : exec (.tgffr f) s = .next (s.vectorNext t (t.writeS f.d
    { v := BitVec.ofNat 64 (lowestBit ((s.ring t.id.ring).tagmap &&& e.cap.a.v)), g := 0 })) := by
  rw [← head_lanesOf]
  exact exec_writesS hm rfl rfl rfl

/-- What tgget answers: by SUB the ready bits, the error bits, or the tags with outstanding copies. -/
def tggetValue (f : Fields) (r : Ring) : Word :=
  if f.sub == 0 then r.tagmap else if f.sub == 1 then r.tagerr
  else maskOf ((List.range 64).filter fun j => 0 < nth r.tagcnt j 0)

theorem exec_tgget (hm : VectorMay (.tgget f) e t s) :
    exec (.tgget f) s = .next (s.vectorNext t (t.writeS f.d { v := tggetValue f (s.ring t.id.ring), g := 0 })) :=
  exec_writesS hm rfl rfl rfl

/-- Settles O23: each instruction by its one effect; the tags by the ring's bits and counts. -/
theorem countersAndFences : Obligations.CountersAndFences := by
  refine ⟨⟨fun f e t s => ⟨exec_acwait, exec_acget, fun hm => ?_⟩, fun f e t s => exec_fence⟩, fun f e t s => ?_⟩
  · exact ⟨s.discardCounter t.id f.sel.toNat, t.discarded f.sel.toNat, vectorInstr_done hm rfl,
      State.troupe?_discardCounter hm.2.1, s.mem_discardCounter _ _, rfl, rfl, rfl, rfl, rfl,
      fun o => Troupe.ac_ne_of_mem_discarded⟩
  · refine ⟨fun hm hc => exec_tagWait (cond := anyTag) rfl rfl hm (Ring.anyTag_iff.mpr hc),
      fun hm hc => exec_tagWait (cond := allTags) rfl rfl hm (Ring.allTags_iff.mpr hc),
      fun hm => ⟨_, exec_tgffr hm, lowestBit_spec _⟩, fun hm => vectorInstr_done hm rfl,
      fun hm => ⟨_, exec_tgget hm, fun h => ?_, fun h => ?_, fun h j hj => ?_⟩⟩
    · rw [tggetValue, h]
      rfl
    · rw [tggetValue, h]
      rfl
    · rw [tggetValue, h]
      refine (getLsbD_maskOf _ hj).trans ?_
      simp only [List.mem_filter, List.mem_range, hj, decide_eq_true_eq, true_and]
      rfl

end Sys2Proof.Machine
end

section
/-! PROOF. What writing bytes to places leaves there and elsewhere, the lines of pooled memory that a write takes from
another key among them (R4, R154, R381, R382). -/

namespace Sys2Proof.Machine

variable {s u : State} {site : Site} {x y : Loc} {b : Byte} {g key a n : Nat} {ls : List Loc} {bs : List Byte}

@[simp] theorem length_leBytes (w n : Nat) : (leBytes w n).length = n := by
  induction n generalizing w with
  | zero => rfl
  | succ n ih => simp [leBytes, ih]

/-! ### One byte -/

/-- The place is one that the state has: a byte of memory, or of a core's scratchpad. -/
def Loc.within (x : Loc) (s : State) : Prop := ∀ c o, x = .spad c o → c < s.cores.length

theorem State.readLoc_of_spad (hmem : u.mem = s.mem) (hspad : ∀ c, (u.core c).spad = (s.core c).spad) (x : Loc) :
    u.readLoc x = s.readLoc x := by
  cases x <;> simp only [State.readLoc, hmem, hspad]

theorem State.length_cores_writeLoc (s : State) (x : Loc) (b : Byte) (g : Nat) :
    (s.writeLoc x b g).cores.length = s.cores.length := by
  cases x <;> simp [State.writeLoc, State.modCore, upd]

theorem State.readLoc_writeLoc_self (h : x.within s) : (s.writeLoc x b g).readLoc x = b := by
  cases x with
  | phys a => exact cellRead_write_self ..
  | spad c o =>
      simp only [State.readLoc, State.writeLoc]
      rw [s.core_modCore _ (h c o rfl)]
      exact cellRead_write_self ..

theorem State.readLoc_writeLoc_ne (h : y ≠ x) : (s.writeLoc x b g).readLoc y = s.readLoc y := by
  cases x with
  | phys a =>
      cases y with
      | phys a' => exact cellRead_write_ne _ _ fun ha => h (congrArg Loc.phys ha)
      | spad c o => rfl
  | spad c o =>
      cases y with
      | phys a => rfl
      | spad c' o' =>
          simp only [State.readLoc, State.writeLoc]
          rcases s.core_modCore_cases c c' _ with hc | hc
          · rw [hc]
          · by_cases hcc : c' = c
            · rw [hc]
              exact cellRead_write_ne _ _ fun ho => h (by rw [hcc, ho])
            · rw [s.core_modCore_ne _ hcc]

/-! ### Bytes one after the other -/

theorem State.readLoc_writeLocs_of_not_mem (h : x ∉ ls) : (s.writeLocs ls bs g).readLoc x = s.readLoc x := by
  induction ls generalizing s bs with
  | nil => rfl
  | cons y ys ih =>
      rw [List.mem_cons, not_or] at h
      obtain ⟨hy, hys⟩ := h
      cases bs with
      | nil => rfl
      | cons b bs => exact (ih hys).trans (State.readLoc_writeLoc_ne hy)

theorem State.map_readLoc_writeLocs (hn : ls.Nodup) (hw : ∀ x ∈ ls, x.within s) (hl : bs.length = ls.length) :
    ls.map (s.writeLocs ls bs g).readLoc = bs := by
  induction ls generalizing s bs with
  | nil => exact (List.length_eq_zero_iff.mp hl).symm
  | cons y ys ih =>
      obtain ⟨hy, hys⟩ := List.nodup_cons.mp hn
      cases bs with
      | nil => cases hl
      | cons b bs =>
          refine congrArg₂ List.cons ?_ (ih hys (fun x hx c o hxc => ?_) (by simpa using hl))
          · exact (State.readLoc_writeLocs_of_not_mem hy).trans (State.readLoc_writeLoc_self (hw y (by simp)))
          · rw [s.length_cores_writeLoc]
            exact hw x (by simp [hx]) c o hxc

/-! ### Lines taken from another key -/

/-- The bytes name a place in line `n` that was written under another key than the one at hand. -/
def State.takesLine (s : State) (key : Nat) (ls : List Loc) (n : Nat) : Prop :=
  ∃ b, Loc.phys b ∈ ls ∧ n = b / 128 ∧ s.otherKey (some key) (.phys b) = true

/-- A line as a reader with the key decrypts it, written over what memory holds there. -/
def State.reopen (s : State) (key : Nat) (m : List Host.Cell) (x : Loc) : List Host.Cell :=
  match x with
  | .phys a =>
      if s.otherKey (some key) x then cellWriteN m (a / 128 * 128) (padTo 128 ((s.openedLine key (a / 128)).take 128))
      else m
  | .spad .. => m

theorem length_padTo_take (n : Nat) (l : List Byte) : (padTo n (l.take n)).length = n := by
  simp only [padTo, zeroBytes, List.length_append, List.length_take, List.length_replicate]
  omega

/-- Padding a list with zeros changes no byte that is read with zero as the default. -/
theorem getD_padTo_take {n j : Nat} (h : j < n) (l : List Byte) : (padTo n (l.take n)).getD j 0 = l.getD j 0 := by
  simp only [padTo, zeroBytes, List.getD_eq_getElem?_getD]
  by_cases hin : j < l.length
  · rw [List.getElem?_append_left (by simp; omega), List.getElem?_take_of_lt h]
  · rw [List.getElem?_append_right (by simp; omega), List.getElem?_eq_none (Nat.not_lt.mp hin), List.getElem?_replicate]
    split <;> rfl

theorem cellRead_line (m : List Host.Cell) (line : List Byte) (n a : Nat) :
    cellRead (cellWriteN m (n * 128) (padTo 128 (line.take 128))) a =
      if a / 128 = n then line.getD (a % 128) 0 else cellRead m a := by
  rw [cellRead_cellWriteN, length_padTo_take]
  by_cases h : a / 128 = n
  · have hoff : a - n * 128 = a % 128 := by omega
    rw [if_pos (by omega), if_pos h, hoff, getD_padTo_take (Nat.mod_lt _ (by decide))]
  · rw [if_neg (by omega), if_neg h]

theorem State.cellRead_reopen (s : State) (key : Nat) (m : List Host.Cell) (b a : Nat) :
    cellRead (s.reopen key m (.phys b)) a =
      if a / 128 = b / 128 ∧ s.otherKey (some key) (.phys b) = true then (s.openedLine key (a / 128)).getD (a % 128) 0
      else cellRead m a := by
  simp only [State.reopen]
  split
  · rename_i hk
    rw [cellRead_line]
    by_cases h : a / 128 = b / 128 <;> simp [h, hk]
  · rename_i hk
    rw [if_neg fun h => hk h.2]

theorem State.cellRead_foldl_reopen (s : State) (key : Nat) (ls : List Loc) (m : List Host.Cell) (a : Nat) :
    (s.takesLine key ls (a / 128) → cellRead (ls.foldl (s.reopen key) m) a = (s.openedLine key (a / 128)).getD (a % 128) 0) ∧
    (¬s.takesLine key ls (a / 128) → cellRead (ls.foldl (s.reopen key) m) a = cellRead m a) := by
  induction ls generalizing m with
  | nil => exact ⟨fun ⟨_, h, _⟩ => absurd h List.not_mem_nil, fun _ => rfl⟩
  | cons x xs ih =>
      obtain ⟨hin, hout⟩ := ih (s.reopen key m x)
      by_cases hxs : s.takesLine key xs (a / 128)
      · exact ⟨fun _ => hin hxs, fun h => absurd (hxs.imp fun b hb => ⟨List.mem_cons_of_mem _ hb.1, hb.2⟩) h⟩
      · rw [List.foldl_cons, hout hxs]
        cases x with
        | phys b =>
            rw [s.cellRead_reopen]
            refine ⟨fun ⟨b', hb', hline, hkey⟩ => ?_, fun h => if_neg fun hb => h ⟨b, by simp, hb⟩⟩
            rcases List.mem_cons.mp hb' with hbb | hbxs
            · cases hbb
              exact if_pos ⟨hline, hkey⟩
            · exact absurd ⟨b', hbxs, hline, hkey⟩ hxs
        | spad c o =>
            refine ⟨fun ⟨b', hb', hline, hkey⟩ => ?_, fun _ => rfl⟩
            exact absurd ⟨b', (List.mem_cons.mp hb').resolve_left Loc.noConfusion, hline, hkey⟩ hxs

/-! ### The bytes of a site -/

theorem rekeyed_phys_iff {k : Nat} (hk : site.key = some k) :
    Rekeyed s site (.phys a) ↔ s.takesLine k site.locs (a / 128) := by
  simp only [Rekeyed, State.takesLine, hk]
  constructor
  · rintro ⟨a', b, ha, hb, hline, hkey⟩
    cases ha
    exact ⟨b, hb, hline, hkey⟩
  · rintro ⟨b, hb, hline, hkey⟩
    exact ⟨a, b, rfl, hb, hline, hkey⟩

theorem not_rekeyed_of_key_eq_none (h : site.key = none) : ¬Rekeyed s site x := by
  rintro ⟨a, b, -, -, -, hkey⟩
  rw [h] at hkey
  cases hkey

theorem State.cores_keySite (s : State) (site : Site) : (s.keySite site).cores = s.cores := by
  unfold State.keySite
  split <;> rfl

theorem State.readLoc_keySite (h : ¬Rekeyed s site x) : (s.keySite site).readLoc x = s.readLoc x := by
  unfold State.keySite
  split
  · rename_i k hk
    cases x with
    | phys a => exact (s.cellRead_foldl_reopen k site.locs s.mem a).2 ((rekeyed_phys_iff hk).not.mp h)
    | spad c o => rfl
  · rfl

theorem State.readSite_writeSite (hn : site.locs.Nodup) (hw : ∀ x ∈ site.locs, x.within s)
    (hl : bs.length = site.locs.length) : (s.writeSite site bs g).readSite site = bs :=
  State.map_readLoc_writeLocs hn (fun x hx c o hxc => by rw [s.cores_keySite]; exact hw x hx c o hxc) hl

theorem State.readLoc_writeSite (hx : x ∉ site.locs) (h : ¬Rekeyed s site x) :
    (s.writeSite site bs g).readLoc x = s.readLoc x :=
  (State.readLoc_writeLocs_of_not_mem hx).trans (State.readLoc_keySite h)

/-- Outside a site, the line that a write takes from another key becomes what its own key decrypts. -/
theorem State.readLoc_writeSite_rekeyed {k : Nat} (hx : Loc.phys a ∉ site.locs) (h : Rekeyed s site (.phys a))
    (hk : site.key = some k) :
    (s.writeSite site bs g).readLoc (.phys a) = (s.openedLine k (a / 128)).getD (a % 128) 0 := by
  refine (State.readLoc_writeLocs_of_not_mem hx).trans ?_
  simp only [State.keySite, hk]
  exact (s.cellRead_foldl_reopen k site.locs s.mem a).1 ((rekeyed_phys_iff hk).mp h)

end Sys2Proof.Machine
end

section
/-! PROOF. One lane of a memory instruction: what checking and reaching its place leaves, what it writes there, how it
then stands (R225, R227, R228, R230, R236, R238, R241, R347, R380). -/

namespace Sys2Proof.Machine

variable {i : Instr} {f : Fields} {id : TroupeId} {o : Op} {l : LaneRec} {t : Troupe} {s u v : State} {p : Party}
  {va g a : Nat} {w : Want} {site : Site} {red : Bool} {x : Loc}

/-! ### Reaching a place -/

/-- The TLBs once an access used a leaf, and the fabric once it took its flit (R256, R380). -/
def State.reach (s : State) (p : Party) (va : Nat) (site : Site) (red : Bool) : State := (s.touch p va site).sendTo site red

/-- A state that differs in its TLBs and in what its links have counted only. -/
structure Reached (s u : State) : Prop where
  parts : u = { s with cores := u.cores, dies := u.dies, fw := u.fw }
  length : u.cores.length = s.cores.length
  spad : ∀ c, (u.core c).spad = (s.core c).spad
  spBad : ∀ c, (u.core c).spBad = (s.core c).spBad
  tick : (u.die 0).tick = (s.die 0).tick
  links : ∃ l, u.fw = { s.fw with links := l }
  port : u.fabricPort = s.fabricPort

theorem Reached.refl (s : State) : Reached s s := ⟨rfl, rfl, fun _ => rfl, fun _ => rfl, rfl, ⟨_, rfl⟩, rfl⟩

theorem Reached.trans (h : Reached s u) (k : Reached u v) : Reached s v := by
  obtain ⟨l, hl⟩ := h.links
  obtain ⟨l', hl'⟩ := k.links
  refine ⟨by rw [k.parts, h.parts], k.length.trans h.length, fun c => (k.spad c).trans (h.spad c),
    fun c => (k.spBad c).trans (h.spBad c), k.tick.trans h.tick, ⟨l', by rw [hl', hl]⟩, k.port.trans h.port⟩

theorem State.core_tlbFill (s : State) (asid core va : Nat) (leaf : Leaf) (c : Nat) :
    ∃ tlb, (s.tlbFill asid core va leaf).core c = { s.core c with tlb := tlb } := by
  rcases s.core_modCore_cases core c fun k => { k with tlb := _ } with h | h
  · exact ⟨(s.core c).tlb, h⟩
  · exact ⟨_, h⟩

theorem State.reached_tlbFill (s : State) (asid core va : Nat) (leaf : Leaf) : Reached s (s.tlbFill asid core va leaf) := by
  have hcore := s.core_tlbFill asid core va leaf
  refine ⟨rfl, by simp [State.tlbFill, State.modCore, upd], fun c => ?_, fun c => ?_, ?_, ⟨_, rfl⟩, rfl⟩
  · obtain ⟨tlb, h⟩ := hcore c
    rw [h]
  · obtain ⟨tlb, h⟩ := hcore c
    rw [h]
  · rw [State.tick_die, State.tick_die]
    exact congrArg (fun ticks : List Nat => ticks.getD 0 0) (State.ticks_modDie _ _)

theorem State.reached_touch (s : State) (p : Party) (va : Nat) (site : Site) : Reached s (s.touch p va site) := by
  unfold State.touch
  split
  · split
    · exact Reached.refl s
    · exact s.reached_tlbFill _ _ _ _
  · exact Reached.refl s

theorem State.fabricPort_modLink (s : State) (n : Nat) {k : Link → Link} (hk : ∀ x, (k x).state = x.state) :
    (s.modLink n k).fabricPort = s.fabricPort := by
  have hstate : ∀ (ls : List Link) (j : Nat), (nth ls j {}).state = (ls.map (·.state)).getD j 0 := fun ls j => by
    simp only [nth, List.getD_eq_getElem?_getD, List.getElem?_map]
    cases ls[j]? <;> rfl
  simp only [State.fabricPort, hstate, State.modLink, State.modFw, map_upd_of_eq (·.state) s.fw.links n hk]

theorem State.reached_sendTo (s : State) (site : Site) (red : Bool) : Reached s (s.sendTo site red) := by
  unfold State.sendTo State.sendFlits
  split
  · split
    · refine ⟨rfl, rfl, fun _ => rfl, fun _ => rfl, rfl, ⟨_, rfl⟩, s.fabricPort_modLink _ fun k => ?_⟩
      unfold Link.carry
      split <;> rfl
    · exact Reached.refl s
  · exact Reached.refl s

theorem State.reached_reach (s : State) (p : Party) (va : Nat) (site : Site) (red : Bool) :
    Reached s (s.reach p va site red) := (s.reached_touch p va site).trans (State.reached_sendTo _ site red)

/-! What reaching a place leaves of the bytes. -/

theorem State.readLoc_modTroupe (s : State) (id : TroupeId) (g : Troupe → Troupe) (x : Loc) :
    (s.modTroupe id g).readLoc x = s.readLoc x := by
  cases x <;> rfl

theorem Reached.mem (h : Reached s u) : u.mem = s.mem := by rw [h.parts]
theorem Reached.pkeys (h : Reached s u) : u.pkeys = s.pkeys := by rw [h.parts]
theorem Reached.troupes (h : Reached s u) : u.troupes = s.troupes := by rw [h.parts]

theorem Reached.readLoc (h : Reached s u) (x : Loc) : u.readLoc x = s.readLoc x := State.readLoc_of_spad h.mem h.spad x

theorem otherKey_of_pkeys (h : u.pkeys = s.pkeys) (key : Option Nat) (x : Loc) : u.otherKey key x = s.otherKey key x := by
  cases key <;> cases x <;> simp only [State.otherKey, h]

theorem openedLine_of_pkeys (h : u.pkeys = s.pkeys) (hm : u.mem = s.mem) (key n : Nat) :
    u.openedLine key n = s.openedLine key n := by
  simp only [State.openedLine, State.lineBytes, h, hm]

theorem rekeyed_of_pkeys (h : u.pkeys = s.pkeys) (site : Site) (x : Loc) : Rekeyed u site x ↔ Rekeyed s site x := by
  simp only [Rekeyed, otherKey_of_pkeys h]

theorem physByte_of_parts (hm : cellRead u.mem a = cellRead s.mem a) (hctxs : u.ctxs = s.ctxs)
    (hchoice : u.choice = s.choice) (htick : (u.die 0).tick = (s.die 0).tick) : u.physByte a = s.physByte a := by
  have hreused : u.reused a = s.reused a := by simp only [State.reused, hctxs]
  unfold State.physByte
  rw [hreused, hchoice, htick, hm]

theorem Reached.seenByte (h : Reached s u) (key : Option Nat) (x : Loc) : u.seenByte key x = s.seenByte key x := by
  cases x with
  | phys a =>
      show (if u.otherKey key (.phys a) = true then nth (u.openedLine (key.getD 0) (a / 128)) (a % 128) 0
        else u.physByte a) = _
      rw [otherKey_of_pkeys h.pkeys, openedLine_of_pkeys h.pkeys h.mem,
        physByte_of_parts (by rw [h.mem]) (by rw [h.parts]) (by rw [h.parts]) h.tick]
      rfl
  | spad c o => exact h.readLoc (.spad c o)

theorem Reached.loadSite (h : Reached s u) (site : Site) : u.loadSite site = s.loadSite site :=
  List.map_congr_left fun x _ => h.seenByte site.key x

/-! ### What a lane writes, and how it then stands -/

/-- New value, returned value, failure and flags of a lane of an atomic or reduction (R238). -/
def atomicResult (i : Instr) (f : Fields) (l : LaneRec) (old : Nat) : Nat × Nat × Bool × BitVec 4 :=
  atomicOp i f old (l.data.toNat % 2 ^ (if isFloatAtomic i then 8 * accessBytes i f else 32)) l.dold.toNat

/-- The bytes that a lane writes at its place where it finds the number `old`, if it writes (R230, R236, R241). -/
def laneWrites (i : Instr) (f : Fields) (l : LaneRec) (old : Nat) : Option (List Byte) :=
  if isLoad i || isMaint i then none
  else if isAtomic i || isReduction i then
    if (atomicResult i f l old).1 = old then none else some (leBytes (atomicResult i f l old).1 (accessBytes i f))
  else some (leBytes l.data.toNat (accessBytes i f))

/-- How a lane stands once performed at a place where it finds the number `old` (R230, R236). -/
def laneStands (i : Instr) (f : Fields) (l : LaneRec) (old : Nat) : LaneSt :=
  if isLoad i then .reply [BitVec.ofNat 64 old]
  else if isAtomic i then
    let r := atomicResult i f l old
    .reply [BitVec.ofNat 64 r.2.1, if r.2.2.1 then 1 else 0, r.2.2.2.setWidth 64]
  else .done

/-- The grade that a performed lane has read (R82). -/
def laneGrade (i : Instr) (site : Site) : Nat := if isLoad i || isAtomic i || isReduction i then site.g else 0

/-- The bytes put at a site, where there are any. -/
def State.put (s : State) (site : Site) (bs : Option (List Byte)) (g : Nat) : State :=
  match bs with
  | some bs => s.writeSite site bs g
  | none => s

theorem State.troupes_put (s : State) (site : Site) (bs : Option (List Byte)) (g : Nat) :
    (s.put site bs g).troupes = s.troupes := by
  cases bs with
  | none => rfl
  | some bs => rw [State.put, s.stores_writeSite site bs g]

theorem State.readLoc_put {bs : Option (List Byte)} (h : bs = none ∨ (x ∉ site.locs ∧ ¬Rekeyed s site x)) :
    (s.put site bs g).readLoc x = s.readLoc x := by
  cases bs with
  | none => rfl
  | some bs =>
      obtain ⟨hx, hk⟩ := h.resolve_left nofun
      exact State.readLoc_writeSite hx hk

theorem not_isAtomic_of_isMaint (h : isMaint i = true) : isAtomic i = false ∧ isReduction i = false ∧ isLoad i = false := by
  unfold isMaint at h
  split at h
  · exact ⟨rfl, rfl, rfl⟩
  · exact ⟨rfl, rfl, rfl⟩
  · cases h

theorem kind_of_isAtomic (h : isAtomic i = true) : isLoad i = false ∧ isMaint i = false ∧ isReduction i = false := by
  have hmaint : isMaint i = false := by
    by_contra hm
    rw [(not_isAtomic_of_isMaint (Bool.eq_true_of_not_eq_false hm)).1] at h
    cases h
  unfold isAtomic at h
  cases hrow : i.row with
  | none =>
      rw [hrow] at h
      cases h
  | some r =>
      simp only [hrow, Bool.and_eq_true, decide_eq_true_eq] at h
      refine ⟨?_, hmaint, ?_⟩
      · simp only [isLoad, hrow, Bool.or_eq_false_iff, beq_eq_false_iff_ne]
        omega
      · simp only [isReduction, hrow, Bool.and_eq_false_iff, decide_eq_false_iff_not]
        omega

theorem length_of_laneWrites {old : Nat} {bs : List Byte} (h : laneWrites i f l old = some bs) :
    bs.length = accessBytes i f := by
  unfold laneWrites at h
  split at h
  · cases h
  split at h
  · split at h
    · cases h
    · cases h
      exact length_leBytes _ _
  · cases h
    exact length_leBytes _ _

/-- What a lane does at a place that lies in no reduction window, or that it does not reduce into. -/
theorem doAccess_eq (h : isReduction i = true → site.win = none) (dg : Nat) : doAccess i f id dg l site s =
    (s.put site (laneWrites i f l (leNat (s.loadSite site))) dg, laneStands i f l (leNat (s.loadSite site)),
      laneGrade i site) := by
  have hwin : (isReduction i && site.win.isSome) = false := by
    cases hr : isReduction i
    · rfl
    · rw [h hr]
      rfl
  unfold doAccess laneWrites laneStands laneGrade
  rw [hwin]
  generalize hold : leNat (s.loadSite site) = old
  cases hload : isLoad i
  case true => rfl
  case false =>
    cases hmaint : isMaint i
    case true =>
      obtain ⟨ha, hr, -⟩ := not_isAtomic_of_isMaint hmaint
      simp only [ha, hr]
      rfl
    case false =>
      cases hor : isAtomic i || isReduction i
      case true =>
        have hput : (if (atomicResult i f l old).1 = old then s
            else s.writeSite site (leBytes (atomicResult i f l old).1 (accessBytes i f)) dg) =
            s.put site (if (atomicResult i f l old).1 = old then none
              else some (leBytes (atomicResult i f l old).1 (accessBytes i f))) dg := by
          split <;> rfl
        simp only [Bool.false_or, hor, if_true, Bool.false_eq_true, if_false]
        exact congrArg (·, _, _) hput
      case false =>
        obtain ⟨ha, hr⟩ := Bool.or_eq_false_iff.mp hor
        simp only [ha, hr]
        rfl

/-! ### Performing a lane -/

/-- The troupe with a lane of an operation performed: how it stands, and the grade it has read. -/
def Troupe.perform (t : Troupe) (op lane : Nat) (st : LaneSt) (g : Nat) : Troupe :=
  (t.setLane op lane st).modOp op fun o => { o with rgrade := max o.rgrade g }

theorem performLane_final {c : Cause} {r : Nat} (hm : isMaint o.instr = false)
    (ha : s.access (s.ringParty id.ring) l.addr.toNat (accessWant o.instr f o.dgrade) = .final c r) :
    performLane id o f s l = s.faultLane id o.id l.lane c r := by
  simp only [performLane, ha, hm, Bool.false_and, Bool.false_eq_true, if_false]

theorem performLane_cutOff (ha : s.access (s.ringParty id.ring) l.addr.toNat (accessWant o.instr f o.dgrade) = .ok site)
    (hc : s.cutOff site (isReduction o.instr) = true) :
    performLane id o f s l = s.modTroupe id fun t => t.setLane o.id l.lane .behind := by
  simp only [performLane, ha, hc, if_true]

theorem performLane_reaches
    (ha : s.access (s.ringParty id.ring) l.addr.toNat (accessWant o.instr f o.dgrade) = .ok site)
    (hc : s.cutOff site (isReduction o.instr) = false) :
    let u := s.reach (s.ringParty id.ring) l.addr.toNat site (isReduction o.instr)
    let r := doAccess o.instr f id o.dgrade l site u
    performLane id o f s l = r.1.modTroupe id fun t => t.perform o.id l.lane r.2.1 r.2.2 := by
  simp only [performLane, ha, hc, Bool.false_eq_true, if_false]
  rfl

section Reaches

variable (ha : s.access (s.ringParty id.ring) l.addr.toNat (accessWant o.instr f o.dgrade) = .ok site)
  (hc : s.cutOff site (isReduction o.instr) = false) (hr : isReduction o.instr = true → site.win = none)
include ha hc hr

theorem performLane_ok : performLane id o f s l =
    ((s.reach (s.ringParty id.ring) l.addr.toNat site (isReduction o.instr)).put site
      (laneWrites o.instr f l (leNat (s.loadSite site))) o.dgrade).modTroupe id fun t =>
        t.perform o.id l.lane (laneStands o.instr f l (leNat (s.loadSite site))) (laneGrade o.instr site) := by
  have hload := (s.reached_reach (s.ringParty id.ring) l.addr.toNat site (isReduction o.instr)).loadSite site
  rw [performLane_reaches ha hc, doAccess_eq hr, hload]

theorem troupe?_performLane_ok : (performLane id o f s l).troupe? id = (s.troupe? id).map fun t =>
    t.perform o.id l.lane (laneStands o.instr f l (leNat (s.loadSite site))) (laneGrade o.instr site) := by
  rw [performLane_ok ha hc hr, State.troupe?_modTroupe]
  · rw [State.troupe?, State.troupes_put, (State.reached_reach ..).troupes]
    rfl
  · exact fun _ => rfl

theorem mem_performLane_ok (h : laneWrites o.instr f l (leNat (s.loadSite site)) = none) :
    (performLane id o f s l).mem = s.mem := by
  rw [performLane_ok ha hc hr, h]
  exact (s.reached_reach ..).mem

theorem readLoc_performLane_ok (h : laneWrites o.instr f l (leNat (s.loadSite site)) = none ∨
    (x ∉ site.locs ∧ ¬Rekeyed s site x)) : (performLane id o f s l).readLoc x = s.readLoc x := by
  have hreach := s.reached_reach (s.ringParty id.ring) l.addr.toNat site (isReduction o.instr)
  rw [performLane_ok ha hc hr, State.readLoc_modTroupe, State.readLoc_put, hreach.readLoc]
  rwa [rekeyed_of_pkeys hreach.pkeys]

/-- A lane that writes leaves its bytes at its place. -/
theorem readSite_performLane_ok {bs : List Byte} (h : laneWrites o.instr f l (leNat (s.loadSite site)) = some bs)
    (hn : site.locs.Nodup) (hw : ∀ x ∈ site.locs, x.within s) : (performLane id o f s l).readSite site = bs := by
  have hreach := s.reached_reach (s.ringParty id.ring) l.addr.toNat site (isReduction o.instr)
  obtain ⟨-, -, hlen, -⟩ := accessChecks _ _ _ _ _ ha
  have hmod : ∀ (u : State) g, (u.modTroupe id g).readSite site = u.readSite site := fun u g =>
    List.map_congr_left fun x _ => u.readLoc_modTroupe id g x
  rw [performLane_ok ha hc hr, h, hmod]
  refine State.readSite_writeSite hn (fun x hx c o hxc => ?_) ?_
  · rw [hreach.length]
    exact hw x hx c o hxc
  · rw [length_of_laneWrites h, hlen]
    rfl

/-- A lane that writes leaves the line that it takes from another key as its own key decrypts it (R382). -/
theorem readLoc_performLane_rekeyed {bs : List Byte} {k : Nat}
    (h : laneWrites o.instr f l (leNat (s.loadSite site)) = some bs) (hx : Loc.phys a ∉ site.locs)
    (hk : Rekeyed s site (.phys a)) (hkey : site.key = some k) :
    (performLane id o f s l).readLoc (.phys a) = (s.openedLine k (a / 128)).getD (a % 128) 0 := by
  have hreach := s.reached_reach (s.ringParty id.ring) l.addr.toNat site (isReduction o.instr)
  rw [performLane_ok ha hc hr, h, State.readLoc_modTroupe, State.put,
    State.readLoc_writeSite_rekeyed hx ((rekeyed_of_pkeys hreach.pkeys ..).mpr hk) hkey,
    openedLine_of_pkeys hreach.pkeys hreach.mem]

end Reaches

/-! ### The statements on one lane -/

theorem kind_of_store : ∀ i ∈ [Instr.st f, .vst f, .vstw f, .sts f], isReduction i = false ∧
    ∀ l old, laneWrites i f l old = some (leBytes l.data.toNat (accessBytes i f)) := by
  simp only [List.forall_mem_cons, List.not_mem_nil, false_imp_iff, implies_true, and_true]
  exact ⟨⟨rfl, fun _ _ => rfl⟩, ⟨rfl, fun _ _ => rfl⟩, ⟨rfl, fun _ _ => rfl⟩, rfl, fun _ _ => rfl⟩

theorem laneWrites_of_isLoad (h : isLoad i = true) (f : Fields) (l : LaneRec) (old : Nat) : laneWrites i f l old = none := by
  simp [laneWrites, h]

theorem laneStands_of_isLoad (h : isLoad i = true) (f : Fields) (l : LaneRec) (old : Nat) :
    laneStands i f l old = .reply [BitVec.ofNat 64 old] := by
  simp [laneStands, h]

/-- Settles O19: a store by what writing to its places leaves, a load by what reaching its place leaves, a final fault
by what marking its lane leaves. -/
theorem accessingLanes : Obligations.AccessingLanes := by
  refine ⟨fun id o f s l site hi ha hc hn hw => ?store, fun t o f s l site hi ht ha hc => ?load,
    fun t o f s l c r ht hm ha => ?final⟩
  case store =>
    obtain ⟨hred, hwrites⟩ := kind_of_store (f := f) o.instr hi
    have hr : isReduction o.instr = true → site.win = none := by simp [hred]
    replace hc : s.cutOff site (isReduction o.instr) = false := by
      rw [hred]
      exact hc
    exact ⟨readSite_performLane_ok ha hc hr (hwrites l _) hn fun x hx c o hxc => hw c o (hxc ▸ hx),
      fun x hx hk => readLoc_performLane_ok ha hc hr (.inr ⟨hx, hk⟩),
      fun a k hx hk hkey => readLoc_performLane_rekeyed ha hc hr (hwrites l _) hx hk hkey⟩
  case load =>
    have hkind : isLoad o.instr = true ∧ isReduction o.instr = false := by
      revert hi
      simp only [List.mem_cons, List.not_mem_nil, or_false]
      rintro (h | h | h | h | h | h | h) <;> rw [h] <;> exact ⟨rfl, rfl⟩
    obtain ⟨hload, hred⟩ := hkind
    have hr : isReduction o.instr = true → site.win = none := by simp [hred]
    replace hc : s.cutOff site (isReduction o.instr) = false := by
      rw [hred]
      exact hc
    have hnone := laneWrites_of_isLoad hload f l (leNat (s.loadSite site))
    refine ⟨mem_performLane_ok ha hc hr hnone, fun x => readLoc_performLane_ok ha hc hr (.inl hnone), ?_⟩
    rw [troupe?_performLane_ok ha hc hr, ht, laneStands_of_isLoad hload, laneGrade, hload]
    rfl
  case final =>
    rw [performLane_final hm ha]
    refine ⟨rfl, rfl, ?_⟩
    rw [State.faultLane, State.troupe?_modTroupe, ht]
    · simp
    · exact fun _ => rfl

end Sys2Proof.Machine
end

section
/-! PROOF. What the atomic operations compute, and what a lane of one leaves (R236, R237, R238, R241). -/

namespace Sys2Proof.Machine

variable {f : Fields} {old c d x ty : Nat}

/-- What an integer atomic or reduction answers whose new value, before it is cut to a word, is `x`. -/
def wordResult (old x : Nat) : Nat × Nat × Bool × BitVec 4 := (x % 2 ^ 32, old, false, 0)

theorem wordResult_of_lt (h : x < 2 ^ 32) : wordResult old x = (x, old, false, 0) := by
  rw [wordResult, Nat.mod_eq_of_lt h]

/-- A word read as i32 or n32. -/
theorem tyInt_word (hty : ty = 2 ∨ ty = 6) (hx : x < 2 ^ 32) :
    tyInt ty x = if ty = 2 ∧ 2 ^ 31 ≤ x then (x - 2 ^ 32 : Int) else (x : Int) := by
  have hwidth : tyWidth ty = 32 := by rcases hty with rfl | rfl <;> rfl
  simp only [tyInt, tySigned, hwidth, Nat.mod_eq_of_lt hx]
  rcases hty with rfl | rfl <;> simp

/-- amin and redmin give the operand that is the minimum. -/
theorem atomicOp_min (hold : old < 2 ^ 32) (hc : c < 2 ^ 32) : ∃ x, atomicOp (.amin f) f old c d = (x, old, false, 0) ∧
    atomicOp (.redmin f) f old c d = (x, old, false, 0) ∧
    tyInt f.ty.toNat x = min (tyInt f.ty.toNat old) (tyInt f.ty.toNat c) := by
  by_cases h : tyInt f.ty.toNat c ≤ tyInt f.ty.toNat old
  · refine ⟨c, ?_, ?_, (min_eq_right h).symm⟩
    all_goals exact .trans (congrArg (wordResult old) (if_pos (decide_eq_true h))) (wordResult_of_lt hc)
  · refine ⟨old, ?_, ?_, (min_eq_left (le_of_not_ge h)).symm⟩
    all_goals exact .trans (congrArg (wordResult old) (if_neg (by simpa using h))) (wordResult_of_lt hold)

/-- amax and redmax give the operand that is the maximum. -/
theorem atomicOp_max (hold : old < 2 ^ 32) (hc : c < 2 ^ 32) : ∃ x, atomicOp (.amax f) f old c d = (x, old, false, 0) ∧
    atomicOp (.redmax f) f old c d = (x, old, false, 0) ∧
    tyInt f.ty.toNat x = max (tyInt f.ty.toNat old) (tyInt f.ty.toNat c) := by
  by_cases h : tyInt f.ty.toNat old ≤ tyInt f.ty.toNat c
  · refine ⟨c, ?_, ?_, (max_eq_right h).symm⟩
    all_goals exact .trans (congrArg (wordResult old) (if_pos (decide_eq_true h))) (wordResult_of_lt hc)
  · refine ⟨old, ?_, ?_, (max_eq_left (le_of_not_ge h)).symm⟩
    all_goals exact .trans (congrArg (wordResult old) (if_neg (by simpa using h))) (wordResult_of_lt hold)

/-- adecp lowers a positive value by one. -/
theorem atomicOp_adecp (hty : f.ty.toNat = 2 ∨ f.ty.toNat = 6) (hold : old < 2 ^ 32)
    (h : 0 < tyInt f.ty.toNat old) :
    atomicOp (.adecp f) f old c d = ((old + 2 ^ 32 - 1) % 2 ^ 32, old, false, 0) := by
  refine .trans (congrArg (wordResult old) (if_pos h)) ?_
  rw [tyInt_word hty hold] at h
  have hpos : 0 < old := by
    split at h <;> omega
  exact congrArg (fun n => (n, old, false, (0 : BitVec 4))) (by omega)

/-- aflim adds to the low word of its pair, or fails past the limit in the high one. -/
theorem atomicOp_aflim (hty : f.ty.toNat = 2 ∨ f.ty.toNat = 6) (hold : old < 2 ^ 32) (hc : c < 2 ^ 32) (lim : Nat) :
    atomicOp (.aflim f) f (old + lim * 2 ^ 32) c d =
    if tyInt f.ty.toNat lim < tyInt f.ty.toNat old + tyInt f.ty.toNat c then (old + lim * 2 ^ 32, old, true, 0)
    else ((old + c) % 2 ^ 32 + lim * 2 ^ 32, old, false, 0) := by
  have hlow : (old + lim * 2 ^ 32) % 2 ^ 32 = old := by omega
  have hhigh : (old + lim * 2 ^ 32) / 2 ^ 32 = lim := by omega
  have hsum : ((tyInt f.ty.toNat old + tyInt f.ty.toNat c) % 2 ^ 32).toNat = (old + c) % 2 ^ 32 := by
    rw [tyInt_word hty hold, tyInt_word hty hc]
    split <;> split <;> omega
  show (if tyInt f.ty.toNat ((old + lim * 2 ^ 32) / 2 ^ 32) < tyInt f.ty.toNat ((old + lim * 2 ^ 32) % 2 ^ 32) +
      tyInt f.ty.toNat c then (old + lim * 2 ^ 32, (old + lim * 2 ^ 32) % 2 ^ 32, true, 0)
    else (((tyInt f.ty.toNat ((old + lim * 2 ^ 32) % 2 ^ 32) + tyInt f.ty.toNat c) % ((2 ^ 32 : Nat) : Int)).toNat +
      (old + lim * 2 ^ 32) / 2 ^ 32 * 2 ^ 32, (old + lim * 2 ^ 32) % 2 ^ 32, false, (0 : BitVec 4))) = _
  rw [hlow, hhigh]
  exact congrArg (fun n => ite _ _ (n + lim * 2 ^ 32, old, false, 0)) hsum

/-- Settles O20: each operation by its new word, and an atomic lane by what it writes at its place. -/
theorem atomics : Obligations.Atomics := by
  refine ⟨fun f old c d hty hold hc hd => ?values, fun t o f s l site ha ht hacc hcut hn hspad => ?lane⟩
  case values =>
    have hty' : f.ty.toNat = 2 ∨ f.ty.toNat = 6 := hty.imp (fun h => by rw [h]; rfl) fun h => by rw [h]; rfl
    have below : ∀ {i : Instr} {x : Nat}, atomicOp i f old c d = wordResult old x → x < 2 ^ 32 →
      atomicOp i f old c d = (x, old, false, 0) := fun h hx => h.trans (wordResult_of_lt hx)
    refine ⟨rfl, rfl, atomicOp_min hold hc, atomicOp_max hold hc, below rfl (Nat.and_lt_two_pow _ hc),
      below rfl (Nat.and_lt_two_pow _ hc), below rfl (Nat.or_lt_two_pow hold hc), below rfl (Nat.or_lt_two_pow hold hc),
      below rfl (Nat.xor_lt_two_pow hold hc), below rfl (Nat.xor_lt_two_pow hold hc), below rfl hc,
      below rfl (by split <;> assumption), fun h => congrArg (wordResult old) (if_pos (by simpa using h)),
      fun h => .trans (congrArg (wordResult old) (if_neg (by simpa using h))) (wordResult_of_lt hold),
      fun h => congrArg (wordResult old) (if_pos (decide_eq_true h)),
      fun h => congrArg (wordResult old) (if_neg (by simpa using h)), atomicOp_adecp hty' hold,
      fun h => .trans (congrArg (wordResult old) (if_neg (Int.not_lt.mpr h))) (wordResult_of_lt hold),
      fun lim _ => atomicOp_aflim hty' hold hc lim⟩
  case lane =>
    obtain ⟨hload, hmaint, hred⟩ := kind_of_isAtomic ha
    have hr : isReduction o.instr = true → site.win = none := by simp [hred]
    replace hcut : s.cutOff site (isReduction o.instr) = false := by
      rw [hred]
      exact hcut
    intro n old c r s1
    have hwrites : laneWrites o.instr f l old = if r.1 = old then none else some (leBytes r.1 n) := by
      simp only [laneWrites, hload, hmaint, ha, Bool.or_false, Bool.true_or, Bool.false_eq_true, if_false, if_true]
      rfl
    refine ⟨fun hne => ?_, fun heq x => ?_, fun x hx hk => readLoc_performLane_ok hacc hcut hr (.inr ⟨hx, hk⟩), ?_⟩
    · exact readSite_performLane_ok hacc hcut hr (hwrites.trans (if_neg hne)) hn
        fun x hx c o hxc => absurd (hxc ▸ hx) (hspad c o)
    · exact readLoc_performLane_ok hacc hcut hr (.inl (hwrites.trans (if_pos heq)))
    · have hstands : laneStands o.instr f l old =
          .reply [BitVec.ofNat 64 r.2.1, if r.2.2.1 then 1 else 0, r.2.2.2.setWidth 64] := by
        simp only [laneStands, hload, ha, Bool.false_eq_true, if_false, if_true]
        rfl
      rw [troupe?_performLane_ok hacc hcut hr, ht, ← hstands, laneGrade, hload, ha]
      rfl

end Sys2Proof.Machine
end

section
/-! PROOF. What keeps a place within reach while other lanes of its instruction are performed: the leaf that its core
holds, or its scratchpad (R148, R225, R227, R256). -/

namespace Sys2Proof.Machine

variable {s u v : State} {p : Party} {va ring asid c : Nat} {w : Want} {site : Site} {l : Leaf} {x : Loc}

/-! ### States alike to the checks -/

/-- A state that performed lanes may have left: its bytes and troupes may differ, what the checks of an access through
a leaf at hand or in a window look at does not, but that scratchpad bytes written are no longer in error (R389). -/
structure Alike (s u : State) : Prop where
  parts : u = { s with mem := u.mem, cores := u.cores, dies := u.dies, fw := u.fw, troupes := u.troupes }
  length : u.cores.length = s.cores.length
  tlb : ∀ c, (u.core c).tlb = (s.core c).tlb
  spBad : ∀ c, ∀ o ∈ (u.core c).spBad, o ∈ (s.core c).spBad
  tick : (u.die 0).tick = (s.die 0).tick
  links : ∃ ls, u.fw = { s.fw with links := ls }

theorem Alike.refl (s : State) : Alike s s := ⟨rfl, rfl, fun _ => rfl, fun _ _ ho => ho, rfl, ⟨_, rfl⟩⟩

theorem Alike.trans (h : Alike s u) (k : Alike u v) : Alike s v := by
  obtain ⟨ls, hl⟩ := h.links
  obtain ⟨ls', hl'⟩ := k.links
  exact ⟨by rw [k.parts, h.parts], k.length.trans h.length, fun c => (k.tlb c).trans (h.tlb c),
    fun c o ho => h.spBad c o (k.spBad c o ho), k.tick.trans h.tick, ⟨ls', by rw [hl', hl]⟩⟩

theorem State.alike_modTroupe (s : State) (id : TroupeId) (f : Troupe → Troupe) : Alike s (s.modTroupe id f) :=
  ⟨rfl, rfl, fun _ => rfl, fun _ _ ho => ho, rfl, ⟨_, rfl⟩⟩

theorem Reached.alike (h : Reached s u) (ht : ∀ c, (u.core c).tlb = (s.core c).tlb) : Alike s u :=
  ⟨by rw [h.parts], h.length, ht, fun c o ho => h.spBad c ▸ ho, h.tick, h.links⟩

theorem State.alike_writeLoc (s : State) (x : Loc) (b : Byte) (g : Nat) : Alike s (s.writeLoc x b g) := by
  cases x with
  | phys a => exact ⟨rfl, rfl, fun _ => rfl, fun _ _ ho => ho, rfl, ⟨_, rfl⟩⟩
  | spad c o =>
      refine ⟨rfl, s.length_cores_writeLoc (.spad c o) b g, fun d => ?_, fun d => ?_, rfl, ⟨_, rfl⟩⟩
      all_goals
        simp only [State.writeLoc]
        rcases s.core_modCore_cases c d _ with h | h <;> rw [h]
      · exact fun o ho => ho
      · exact fun o ho => List.mem_of_mem_filter ho

theorem State.alike_writeSite (s : State) (bs : List Byte) (g : Nat) (hk : site.key = none) :
    Alike s (s.writeSite site bs g) := by
  simp only [State.writeSite, State.keySite, hk]
  exact List.foldlRecOn (motive := Alike s) _ _ (Alike.refl s) fun u hu x _ => hu.trans (u.alike_writeLoc _ _ _)

/-! ### What the checks see in a state alike -/

theorem Alike.pkeys (h : Alike s u) : u.pkeys = s.pkeys := by rw [h.parts]

theorem Alike.ctx (h : Alike s u) (a : Nat) : u.ctx a = s.ctx a := by
  rw [h.parts]
  rfl

theorem Alike.ringParty (h : Alike s u) (ring : Nat) : u.ringParty ring = s.ringParty ring := by
  rw [h.parts]
  rfl

theorem Alike.scratchAt (h : Alike s u) (ring : Option Nat) (va n : Nat) : u.scratchAt ring va n = s.scratchAt ring va n := by
  rw [h.parts]
  rfl

theorem Alike.wins (h : Alike s u) : u.fw.wins = s.fw.wins ∧ u.fw.pkg = s.fw.pkg ∧ u.fw.rosters = s.fw.rosters := by
  obtain ⟨ls, hl⟩ := h.links
  rw [hl]
  exact ⟨rfl, rfl, rfl⟩

theorem Alike.leafLoc (h : Alike s u) : leafLoc u = leafLoc s := by
  obtain ⟨hw, hp, -⟩ := h.wins
  funext l va
  simp only [Machine.leafLoc, State.homeAddr, hw, hp]

theorem Alike.lineError (h : Alike s u) : u.lineError = s.lineError := by
  rw [h.parts]
  rfl

theorem leafLoc_phys (s : State) (l : Leaf) (va : Nat) : ∃ a, leafLoc s l va = .phys a := by
  simp only [leafLoc]
  (repeat' split) <;> exact ⟨_, rfl⟩

theorem Alike.keyFor (h : Alike s u) (asid : Nat) (l : Leaf) : u.keyFor asid l = s.keyFor asid l := by
  obtain ⟨ls, hl⟩ := h.links
  simp only [State.keyFor, State.domainKey, h.ctx, hl]

/-- Of a place in physical memory that is not pooled, only an uncorrectable error makes it unreadable (R382, R389). -/
theorem Alike.unreadable (h : Alike s u) (key : Nat) (hx : ∃ a, x = .phys a) (hp : x.pooled = false) (b : Bool) :
    (u.poisoned x && b || u.lineLost key x) = (s.poisoned x && b || s.lineLost key x) := by
  obtain ⟨a, rfl⟩ := hx
  simp only [State.poisoned, h.lineError, State.lineLost, hp, Bool.false_and]

/-- Through a leaf to places that are not pooled, an access fares in a state alike as in the first. -/
theorem Alike.leafAccess (h : Alike s u) (hp : ∀ i < w.n, (Machine.leafLoc s l (va + i)).pooled = false) :
    u.leafAccess p va w l = s.leafAccess p va w l := by
  obtain ⟨hwins, hpkg, hrosters⟩ := h.wins
  have hext : u.extentAbsent = s.extentAbsent := by
    rw [h.parts]
    rfl
  have hfault : u.xlatFault = s.xlatFault := by
    funext
    simp only [State.xlatFault, h.ctx]
  have hroster : u.onRoster = s.onRoster := by
    funext
    simp only [State.onRoster, h.ctx, hrosters]
  have hread : (((List.range w.n).map fun i => Machine.leafLoc s l (va + i)).any fun x =>
        u.poisoned x && (w.rd || w.ex || x.pooled) || u.lineLost (s.keyFor p.asid l) x) =
      ((List.range w.n).map fun i => Machine.leafLoc s l (va + i)).any fun x =>
        s.poisoned x && (w.rd || w.ex || x.pooled) || s.lineLost (s.keyFor p.asid l) x := by
    rw [Bool.eq_iff_iff, List.any_eq_true, List.any_eq_true]
    refine exists_congr fun x => and_congr_right fun hx => ?_
    obtain ⟨i, hi, rfl⟩ := List.mem_map.mp hx
    rw [h.unreadable _ (leafLoc_phys ..) (hp i (List.mem_range.mp hi)) _]
  unfold State.leafAccess
  dsimp only
  rw [hext, hfault, hroster, hwins, hpkg, h.leafLoc, h.ctx, h.keyFor, hread]

theorem Alike.leafFor (h : Alike s u) (hc : (s.core c).tlb.any (fun x => x.covers asid va) = true) :
    u.leafFor asid (some c) va = s.leafFor asid (some c) va := by
  obtain ⟨x, hx⟩ := Option.isSome_iff_exists.mp (List.find?_isSome.mpr (List.any_eq_true.mp hc))
  simp only [State.leafFor, h.tlb, hx]

/-! ### Firm places -/

/-- An access to an allocation of the ring passes in its window (R148, R228). -/
theorem State.access_window {c o r : Nat} (hlow : va < 2 ^ 57) (halign : va % w.align = 0) (hin : inWindows va = true)
    (hex : w.ex = false) (hkind : w.atomic = false ∧ w.maint = false ∧ w.tuple = false)
    (hat : s.scratchAt p.ring va w.n = some (c, o, r))
    (hgood : w.rd = true → ∀ i < w.n, s.poisoned (.spad c (o + i)) = false) : s.access p va w =
      .ok { locs := (List.range w.n).map fun i => .spad c (o + i), g := s.lineGrade c o, scratch := true } := by
  obtain ⟨hatomic, hmaint, htuple⟩ := hkind
  have hbad : (w.rd && (List.range w.n).any fun i => s.poisoned (.spad c (o + i))) = false := by
    cases hrd : w.rd
    · rfl
    · simpa using hgood hrd
  simp only [State.access, hin, Nat.not_le.mpr hlow, hex, hat, hatomic, hmaint, htuple, halign, hbad]
  simp

/-- An access outside the windows passes where it does through the leaf for its address. -/
theorem State.access_page (hlow : va < 2 ^ 57) (halign : va % w.align = 0) (hout : inWindows va = false)
    (hmust : w.mustScratch = false) (hleaf : s.leafFor p.asid p.core va = .leaf l) :
    s.access p va w = s.leafAccess p va w l := by
  simp only [State.access, hout, Nat.not_le.mpr hlow, hmust, hleaf, halign]
  simp

/-- A place in a scratchpad or on a page at hand lies in no reduction window, and no key goes with it. -/
theorem Firm.plain (hf : Firm s ring va site) (ha : s.access p va w = .ok site) :
    site.win = none ∧ site.key = none ∧ ∀ x ∈ site.locs, x.pooled = false := by
  obtain ⟨-, -, ⟨-, -, -, -, -, c, o, r, -, -, rfl⟩ | ⟨-, -, l, -, hleaf⟩⟩ := State.access_cases ha
  · refine ⟨rfl, rfl, fun x hx => ?_⟩
    obtain ⟨i, -, rfl⟩ := List.mem_map.mp hx
    rfl
  · obtain ⟨hsite, -⟩ := State.leafAccess_passes hleaf
    rcases hf with hs | ⟨hwin, hpool, -⟩
    · rw [hsite.scratch] at hs
      cases hs
    · exact ⟨hwin, hsite.key hpool, hpool⟩

/-- A firm place passes the checks in a state alike as in the first; only the grade of a scratchpad line may have risen
(R151). -/
theorem Alike.access (h : Alike s u) (hf : Firm s ring va site) (ha : s.access (s.ringParty ring) va w = .ok site) :
    ∃ g, u.access (u.ringParty ring) va w = .ok { site with g := g } := by
  obtain ⟨-, -, hpool⟩ := hf.plain ha
  rw [h.ringParty]
  obtain ⟨hlow, halign, ⟨hin, hex, hatomic, hmaint, htuple, c, o, r, hat, hgood, rfl⟩ | ⟨hout, hmust, l, hfor, hleaf⟩⟩ :=
    State.access_cases ha
  · refine ⟨u.lineGrade c o, State.access_window hlow halign hin hex ⟨hatomic, hmaint, htuple⟩
      ((h.scratchAt ..).trans hat) fun hrd i hi => ?_⟩
    have hs : o + i ∉ (s.core c).spBad := by simpa [State.poisoned] using hgood hrd i hi
    simpa [State.poisoned] using fun ho => hs (h.spBad c _ ho)
  · obtain ⟨hsite, -⟩ := State.leafAccess_passes hleaf
    have hcov := (hf.resolve_left (by rw [hsite.scratch]; exact Bool.false_ne_true)).2.2
    refine ⟨site.g, ?_⟩
    rw [State.access_page hlow halign hout hmust ((h.leafFor hcov).trans hfor), h.leafAccess fun i hi => ?_, hleaf]
    exact hpool _ (hsite.locs ▸ List.mem_map.mpr ⟨i, List.mem_range.mpr hi, rfl⟩)

theorem Alike.firm (h : Alike s u) (hf : Firm s ring va site) (g : Nat) : Firm u ring va { site with g := g } := by
  refine hf.imp_right fun ⟨hwin, hpool, hcov⟩ => ⟨hwin, hpool, ?_⟩
  have hring : u.ring ring = s.ring ring ∧ u.asidOf ring = s.asidOf ring := by
    rw [h.parts]
    exact ⟨rfl, rfl⟩
  rw [hring.1, hring.2, h.tlb]
  exact hcov

theorem Alike.loadSite (h : Alike s u) (hpool : ∀ x ∈ site.locs, x.pooled = false)
    (hsame : ∀ x ∈ site.locs, u.readLoc x = s.readLoc x) : u.loadSite site = s.loadSite site := by
  refine List.map_congr_left fun x hx => ?_
  cases x with
  | phys a =>
      have hother : ∀ v : State, v.otherKey site.key (.phys a) = false := fun v => by
        cases hk : site.key <;> simp only [State.otherKey, hpool _ hx, Bool.false_and]
      simp only [State.seenByte, hother, Bool.false_eq_true, if_false]
      exact physByte_of_parts (hsame _ hx) (by rw [h.parts]) (by rw [h.parts]) h.tick
  | spad c o => exact hsame _ hx

/-- Reaching a firm place changes no L1 TLB (R256). -/
theorem Firm.tlb_reach (hf : Firm s ring va site) (red : Bool) (c : Nat) :
    ((s.reach (s.ringParty ring) va site red).core c).tlb = (s.core c).tlb := by
  have hsend : ∀ v : State, (v.sendTo site red).core c = v.core c := fun v => by
    unfold State.sendTo State.sendFlits
    (repeat' split) <;> rfl
  rw [State.reach, hsend]
  simp only [State.touch, State.ringParty]
  split
  · rfl
  · rename_i hscratch
    have hcov := (hf.resolve_left hscratch).2.2
    by_cases hc : c = (s.ring ring).core
    · subst hc
      rcases s.core_modCore_cases (s.ring ring).core (s.ring ring).core fun k => { k with tlb := _ } with h | h
      · exact congrArg CoreSt.tlb h
      · exact (congrArg CoreSt.tlb h).trans (if_pos hcov)
    · exact congrArg CoreSt.tlb (s.core_modCore_ne _ hc)

/-- A lane performed at a firm place leaves a state alike. -/
theorem Firm.alike_performLane {id : TroupeId} {o : Op} {f : Fields} {l : LaneRec} (hf : Firm s id.ring l.addr.toNat site)
    (ha : s.access (s.ringParty id.ring) l.addr.toNat (accessWant o.instr f o.dgrade) = .ok site) :
    Alike s (performLane id o f s l) := by
  obtain ⟨hwin, hkey, -⟩ := hf.plain ha
  have hcut : s.cutOff site (isReduction o.instr) = false := by
    simp only [State.cutOff, State.leaves, hwin, Bool.false_and]
  have hreach := (s.reached_reach (s.ringParty id.ring) l.addr.toNat site (isReduction o.instr)).alike (hf.tlb_reach _)
  rw [performLane_ok ha hcut fun _ => hwin]
  refine Alike.trans ?_ (State.alike_modTroupe _ _ _)
  cases laneWrites o.instr f l (leNat (s.loadSite site)) with
  | none => exact hreach
  | some bs => exact hreach.trans (State.alike_writeSite _ _ _ hkey)

end Sys2Proof.Machine
end

section
/-! PROOF. The lanes of a memory instruction, performed one after the other (R226, R230, R237, R347). -/

namespace Sys2Proof.Machine

/-! ### The operations of a troupe -/

theorem Troupe.modOp_modOp (t : Troupe) (n : Nat) {F G : Op → Op} (hF : ∀ o, (F o).id = o.id) :
    (t.modOp n F).modOp n G = t.modOp n fun o => G (F o) := by
  simp only [Troupe.modOp, updWhere, List.map_map]
  congr 2
  funext o
  by_cases ho : o.id = n <;> simp [ho, hF]

/-- The troupe with an operation's lanes, and the grade they have read. -/
def Troupe.withLanes (t : Troupe) (n : Nat) (ls : List LaneRec) (g : Nat) : Troupe :=
  t.modOp n fun o => { o with lanes := ls, rgrade := g }

theorem Troupe.perform_withLanes (t : Troupe) (n lane : Nat) (ls : List LaneRec) (st : LaneSt) (g g' : Nat) :
    (t.withLanes n ls g).perform n lane st g' =
      t.withLanes n (updWhere ls (fun l => l.lane == lane) fun l => { l with st := st }) (max g g') := by
  simp only [Troupe.perform, Troupe.setLane, Troupe.withLanes]
  rw [Troupe.modOp_modOp, Troupe.modOp_modOp] <;> exact fun _ => rfl

theorem updWhere_of_forall_not {α : Type} {l : List α} {p : α → Bool} (f : α → α) (h : ∀ x ∈ l, p x = false) :
    updWhere l p f = l :=
  (List.map_congr_left fun x hx => by simp [h x hx]).trans (List.map_id l)

/-! ### An instruction and the places of its lanes -/

/-- The value that acas is to find in a lane, no other instruction any (R238). -/
def laneOld (i : Instr) (f : Fields) (t : Troupe) (n : Nat) : Lane :=
  match i with
  | .acas _ => if f.d.toNat < 64 then (t.vreg f.d.toNat).sh.lane n else 0
  | _ => 0

/-- A memory instruction that its troupe's vector side stands before, in a state, with a place for each lane. -/
structure Accesses where
  f : Fields
  e : VEntry
  t : Troupe
  s : State
  site : Nat → Site

namespace Accesses

variable (a : Accesses) {u : State} {done rest : List Nat} {n g : Nat}

/-- Its accessing lanes. -/
def lanes : List Nat := accessLanes a.e.instr a.e.cap.k0

/-- A lane as it is issued. -/
def lane (n : Nat) : LaneRec :=
  { lane := n, addr := lanePlace a.e.instr a.f a.e a.t n,
    data := if isScalarAccess a.e.instr then a.e.cap.c.v
      else if hasData a.e.instr then ((readV a.t a.f.c a.e.cap.c).sh.lane n).setWidth 64 else 0,
    dold := laneOld a.e.instr a.f a.t n,
    st := .redo }

/-- The troupe with the operation issued. -/
def issued : Troupe := a.t.startMem a.f a.e

/-- The state in which the lanes are to be performed. -/
def start : State := a.s.setTroupe a.issued

/-- What every lane's access wants. -/
def want : Want := accessWant a.e.instr a.f (dataGrade a.e.instr a.f a.e a.t)

/-- A lane's access passes its checks at its place. -/
def passes (n : Nat) : Prop :=
  a.s.access (a.s.ringParty a.t.id.ring) (lanePlace a.e.instr a.f a.e a.t n).toNat a.want = .ok (a.site n)

/-- What a lane writes at its place, from what it finds there. -/
def writes (n : Nat) : Option (List Byte) := laneWrites a.e.instr a.f (a.lane n) (leNat (a.s.loadSite (a.site n)))

/-- How a lane stands once performed. -/
def stands (n : Nat) : LaneSt := laneStands a.e.instr a.f (a.lane n) (leNat (a.s.loadSite (a.site n)))

/-- The lanes where those of one list have been performed and those of the other not yet. -/
def lanesAt (done rest : List Nat) : List LaneRec :=
  done.map (fun n => { a.lane n with st := a.stands n }) ++ rest.map a.lane

/-- The operation while its lanes are performed: how they stand, and the grade they have read. -/
def op (ls : List LaneRec) (g : Nat) : Op := { issuedOp a.f a.e a.t with lanes := ls, rgrade := g }

/-- The troupe while the lanes are performed. -/
def performing (ls : List LaneRec) (g : Nat) : Troupe := a.issued.withLanes a.t.nextOp ls g

/-- Perform one lane. -/
def step (u : State) (n : Nat) : State := performLane a.t.id (issuedOp a.f a.e a.t) a.f u (a.lane n)

/-- The lanes' places are ones the state has, each byte once, and do not overlap. -/
def Sound : Prop :=
  (∀ n ∈ a.lanes, (a.site n).locs.Nodup ∧ ∀ x ∈ (a.site n).locs, x.within a.s) ∧ Apart a.e.instr a.e a.site

/-- No lane changes what another finds, or what a lane finds does not matter. -/
def Independent : Prop :=
  (∀ n ∈ a.lanes, ∀ m ∈ a.lanes, n ≠ m → a.writes m = none ∨ ∀ x ∈ (a.site n).locs, x ∉ (a.site m).locs) ∨
  ∀ l x y, laneWrites a.e.instr a.f l x = laneWrites a.e.instr a.f l y ∧
    laneStands a.e.instr a.f l x = laneStands a.e.instr a.f l y

/-- The lanes of one list have been performed, those of the other not yet. -/
structure Performed (done rest : List Nat) (u : State) : Prop where
  troupe : ∃ g, u.troupe? a.t.id = some (a.performing (a.lanesAt done rest) g)
  bytes : ∀ x, (∀ n ∈ done, a.writes n = none ∨ (x ∉ (a.site n).locs ∧ ¬Rekeyed a.s (a.site n) x)) →
    u.readLoc x = a.s.readLoc x
  laid : a.Sound → ∀ n ∈ done, ∀ bs, a.writes n = some bs → u.readSite (a.site n) = bs

variable {a}

theorem lanes_issuedOp : (issuedOp a.f a.e a.t).lanes = a.lanes.map a.lane := rfl

theorem alike_start : Alike a.s a.start := State.alike_modTroupe _ _ _

/-- All that the troupe differs in from before the instruction. -/
theorem performing_eq (hids : ∀ o ∈ a.t.ops, o.id < a.t.nextOp) (ls : List LaneRec) (g : Nat) :
    ∃ ac v, a.performing ls g = { a.t with ops := a.t.ops ++ [a.op ls g], nextOp := a.t.nextOp + 1, ac := ac, v := v } ∧
    (splitCounter a.e.instr = none → v = a.t.v) := by
  obtain ⟨ac, v, h, hv⟩ := a.t.startMem_eq a.f a.e
  refine ⟨ac, v, ?_, hv⟩
  have hold : updWhere a.t.ops (fun o => o.id == a.t.nextOp) (fun o => { o with lanes := ls, rgrade := g }) = a.t.ops :=
    updWhere_of_forall_not _ fun o ho => beq_false_of_ne (Nat.ne_of_lt (hids o ho))
  have hnew : (issuedOp a.f a.e a.t).id = a.t.nextOp := rfl
  rw [updWhere] at hold
  simp only [performing, issued, h, Troupe.withLanes, Troupe.modOp, updWhere, List.map_append, hold, List.map_cons,
    List.map_nil, hnew, beq_self_eq_true, if_true]
  rfl

theorem performed_start (ht : a.s.troupe? a.t.id = some a.t) (hids : ∀ o ∈ a.t.ops, o.id < a.t.nextOp) :
    a.Performed [] a.lanes a.start := by
  refine ⟨⟨(issuedOp a.f a.e a.t).rgrade, ?_⟩, fun x _ => State.readLoc_setTroupe .., fun _ _ h => absurd h List.not_mem_nil⟩
  have hid : a.issued.id = a.t.id := Troupe.startMem_id ..
  have hsame : a.performing (a.lanesAt [] a.lanes) (issuedOp a.f a.e a.t).rgrade = a.issued := by
    have hops : updWhere a.issued.ops (fun o => o.id == a.t.nextOp) (fun o =>
        { o with lanes := a.lanes.map a.lane, rgrade := (issuedOp a.f a.e a.t).rgrade }) = a.issued.ops := by
      refine (List.map_congr_left fun o ho => ?_).trans (List.map_id _)
      rw [issued, Troupe.startMem_ops] at ho
      rcases List.mem_append.mp ho with ho | ho
      · simp [Nat.ne_of_lt (hids o ho)]
      · obtain rfl := List.mem_singleton.mp ho
        simp [← lanes_issuedOp]
    simp only [performing, Troupe.withLanes, Troupe.modOp, lanesAt, List.map_nil, List.nil_append]
    rw [hops]
  rw [hsame, start, ← hid]
  exact a.s.troupe?_setTroupe (hid ▸ ht)

theorem performing_perform (hdone : n ∉ done) (hrest : n ∉ rest) (g g' : Nat) :
    (a.performing (a.lanesAt done (n :: rest)) g).perform a.t.nextOp n (a.stands n) g' =
      a.performing (a.lanesAt (done ++ [n]) rest) (max g g') := by
  have hlane : ∀ m, (a.lane m).lane = m := fun _ => rfl
  have hold : updWhere (done.map fun m => { a.lane m with st := a.stands m }) (fun l => l.lane == n)
      (fun l => { l with st := a.stands n }) = done.map fun m => { a.lane m with st := a.stands m } := by
    refine updWhere_of_forall_not _ fun l hl => ?_
    obtain ⟨m, hm, rfl⟩ := List.mem_map.mp hl
    exact beq_false_of_ne fun h : m = n => hdone (h ▸ hm)
  have hnew : updWhere (rest.map a.lane) (fun l => l.lane == n) (fun l => { l with st := a.stands n }) =
      rest.map a.lane := by
    refine updWhere_of_forall_not _ fun l hl => ?_
    obtain ⟨m, hm, rfl⟩ := List.mem_map.mp hl
    exact beq_false_of_ne fun h : m = n => hrest (h ▸ hm)
  rw [updWhere] at hold hnew
  refine (Troupe.perform_withLanes ..).trans (congrArg (a.performing · _) ?_)
  rw [lanesAt, updWhere, List.map_append, hold, List.map_cons, List.map_cons, hnew, if_pos (by simp [hlane])]
  simp [lanesAt]

/-- One more lane, where it finds at its place what it would have found first. -/
theorem Performed.step (hp : a.Performed done (n :: rest) u) (hk : Alike a.s u) (hdone : n ∉ done) (hrest : n ∉ rest)
    (hmem : ∀ m ∈ n :: done, m ∈ a.lanes)
    (ha : u.access (u.ringParty a.t.id.ring) (a.lane n).addr.toNat a.want = .ok { a.site n with g := g })
    (hc : u.cutOff { a.site n with g := g } (isReduction a.e.instr) = false)
    (hr : isReduction a.e.instr = true → (a.site n).win = none)
    (hw : laneWrites a.e.instr a.f (a.lane n) (leNat (u.loadSite (a.site n))) = a.writes n)
    (hs : laneStands a.e.instr a.f (a.lane n) (leNat (u.loadSite (a.site n))) = a.stands n)
    (hkey : done = [] ∨ (a.site n).key = none) : a.Performed (done ++ [n]) rest (a.step u n) := by
  have hread : ∀ {x}, (a.writes n = none ∨ (x ∉ (a.site n).locs ∧ ¬Rekeyed a.s (a.site n) x)) →
      (a.step u n).readLoc x = u.readLoc x := fun {x} h => by
    refine readLoc_performLane_ok (o := issuedOp a.f a.e a.t) ha hc hr (h.imp (fun h => hw.trans h) fun h => ⟨h.1, ?_⟩)
    exact (rekeyed_of_pkeys hk.pkeys (a.site n) x).not.mpr h.2
  refine ⟨?_, fun x hx => ?_, fun hsound m hm bs hbs => ?_⟩
  · obtain ⟨g0, htroupe⟩ := hp.troupe
    refine ⟨max g0 (laneGrade a.e.instr { a.site n with g := g }), ?_⟩
    refine (troupe?_performLane_ok (o := issuedOp a.f a.e a.t) ha hc hr).trans ?_
    rw [htroupe, Option.map_some]
    have hst : laneStands (issuedOp a.f a.e a.t).instr a.f (a.lane n) (leNat (u.loadSite { a.site n with g := g })) =
        a.stands n := hs
    rw [hst]
    exact congrArg some (performing_perform hdone hrest ..)
  · rw [hread (hx n (by simp)), hp.bytes x fun m hm => hx m (by simp [hm])]
  · rcases List.mem_append.mp hm with hm | hm
    · have hne : m ≠ n := fun h => hdone (h ▸ hm)
      have hplain := hkey.resolve_left (List.ne_nil_of_mem hm)
      refine .trans (List.map_congr_left fun x hx => hread (.inr ⟨?_, not_rekeyed_of_key_eq_none hplain⟩))
        (hp.laid hsound m hm bs hbs)
      exact hsound.2 m (hmem m (by simp [hm])) n (hmem n (by simp)) hne x hx
    · obtain rfl := List.mem_singleton.mp hm
      obtain ⟨hnodup, hwithin⟩ := hsound.1 m (hmem m (by simp))
      refine readSite_performLane_ok (o := issuedOp a.f a.e a.t) ha hc hr (hw.trans hbs) hnodup fun x hx c o hxc => ?_
      rw [hk.length]
      exact hwithin x hx c o hxc

/-! ### All lanes -/

theorem nodup_lanes : a.lanes.Nodup := by
  unfold lanes accessLanes
  split
  · exact List.nodup_singleton 0
  · exact (pairwise_lanesOf _).imp Nat.ne_of_lt

/-- A lane to be performed stands neither among those performed nor again among the rest. -/
theorem not_mem_of_lanes (h : done ++ n :: rest = a.lanes) : n ∉ done ∧ n ∉ rest := by
  have hnodup : (done ++ n :: rest).Nodup := h ▸ nodup_lanes
  obtain ⟨-, htail, hapart⟩ := List.nodup_append.mp hnodup
  exact ⟨fun hn => hapart n hn n (by simp) rfl, (List.nodup_cons.mp htail).1⟩

/-- One accessing lane is performed in the state as it is. -/
theorem performed_one (h0 : a.Performed [] a.lanes a.start) (hl : a.lanes = [n]) (hp : a.passes n)
    (hc : a.s.cutOff (a.site n) (isReduction a.e.instr) = false)
    (hr : isReduction a.e.instr = true → (a.site n).win = none) :
    a.Performed a.lanes [] (a.lanes.foldl a.step a.start) := by
  rw [hl] at h0 ⊢
  exact h0.step (g := (a.site n).g) alike_start List.not_mem_nil List.not_mem_nil (by simp [hl]) hp hc hr rfl rfl (.inl rfl)

/-- Lanes at firm places are performed one after the other. -/
theorem performed_firm (h0 : a.Performed [] a.lanes a.start)
    (hf : ∀ n ∈ a.lanes, Firm a.s a.t.id.ring (lanePlace a.e.instr a.f a.e a.t n).toNat (a.site n))
    (hp : ∀ n ∈ a.lanes, a.passes n) (hind : a.Independent) :
    a.Performed a.lanes [] (a.lanes.foldl a.step a.start) := by
  have hall : ∀ (rest done : List Nat) (u : State), done ++ rest = a.lanes → a.Performed done rest u → Alike a.s u →
      a.Performed a.lanes [] (rest.foldl a.step u) := by
    intro rest
    induction rest with
    | nil =>
        intro done u hl hu _
        rwa [← hl, List.append_nil]
    | cons n rest ih =>
        intro done u hl hu hk
        obtain ⟨hdone, hrest⟩ := not_mem_of_lanes hl
        have hmem : ∀ m ∈ done ++ n :: rest, m ∈ a.lanes := fun m hm => hl ▸ hm
        have hn : n ∈ a.lanes := hmem n (by simp)
        obtain ⟨hwin, hkey, hpool⟩ := (hf n hn).plain (hp n hn)
        obtain ⟨g, hacc⟩ := hk.access (hf n hn) (hp n hn)
        have hcut : ∀ v red, State.cutOff v { a.site n with g := g } red = false := fun v red => by
          simp only [State.cutOff, State.leaves, hwin, Bool.false_and]
        have hfinds : laneWrites a.e.instr a.f (a.lane n) (leNat (u.loadSite (a.site n))) = a.writes n ∧
            laneStands a.e.instr a.f (a.lane n) (leNat (u.loadSite (a.site n))) = a.stands n := by
          rcases hind with hfree | hsame
          · have hload : u.loadSite (a.site n) = a.s.loadSite (a.site n) := by
              refine hk.loadSite hpool fun x hx => hu.bytes x fun m hm => ?_
              have hne : n ≠ m := fun h => hdone (h ▸ hm)
              have hm' : m ∈ a.lanes := hmem m (by simp [hm])
              refine (hfree n hn m hm' hne).imp_right fun h => ⟨h x hx, not_rekeyed_of_key_eq_none ?_⟩
              exact ((hf m hm').plain (hp m hm')).2.1
            rw [hload]
            exact ⟨rfl, rfl⟩
          · exact hsame _ _ _
        refine ih (done ++ [n]) (a.step u n) (by simpa using hl) ?_ (hk.trans ?_)
        · exact hu.step hk hdone hrest (fun m hm => hmem m (by grind)) hacc (hcut u _) (fun _ => hwin) hfinds.1 hfinds.2
            (.inr hkey)
        · exact (hk.firm (hf n hn) g).alike_performLane hacc
  exact hall a.lanes [] a.start rfl h0 alike_start

end Accesses

end Sys2Proof.Machine
end

section
/-! PROOF. A memory instruction whose lanes reach their places completes: what it leaves in memory, and the operation that
stands for its replies (R88, R230, R231, R236, R238, R242). -/

namespace Sys2Proof.Machine

variable {i : Instr} {f : Fields} {e : VEntry} {t : Troupe} {s : State} {site : Nat → Site} {n : Nat}

/-! ### Going on -/

theorem State.tidyOp_keeps (s : State) (id : TroupeId) (op : Nat) (x : Loc) :
    (s.tidyOp id op).readLoc x = s.readLoc x ∧ (s.tidyOp id op).fw = s.fw ∧ (s.tidyOp id op).mem = s.mem := by
  unfold State.tidyOp
  (repeat' split) <;> exact ⟨by cases x <;> rfl, rfl, rfl⟩

/-- Where nothing follows of itself, the vector side only goes on (R92, R347). -/
theorem State.vectorEnd_of_quiet (ht : s.troupe? t.id = some t) (hq : t.issued.quiet = true) :
    s.vectorEnd t.id = s.modTroupe t.id Troupe.issued ∧ (s.vectorEnd t.id).troupe? t.id = some t.issued := by
  have hfind : (s.modTroupe t.id Troupe.issued).troupe? t.id = some t.issued := by
    rw [s.troupe?_modTroupe t.id Troupe.issued fun _ => rfl, ht]
    rfl
  have hend : s.vectorEnd t.id = s.modTroupe t.id Troupe.issued := State.settle_of_quiet (t := t.issued) hfind hq
  exact ⟨hend, hend ▸ hfind⟩

/-- The newest operation of a troupe, by its number. -/
theorem Troupe.op?_newest {ops : List Op} {o : Op} (h : t.ops = ops ++ [o]) (hold : ∀ x ∈ ops, x.id < o.id) :
    t.op? o.id = some o := by
  have hnone : ops.find? (fun x => x.id == o.id) = none :=
    List.find?_eq_none.mpr fun x hx hxo => Nat.ne_of_lt (hold x hx) (eq_of_beq hxo)
  rw [Troupe.op?, h, List.find?_append, hnone, Option.none_or, List.find?_cons, beq_self_eq_true]

/-- What issuing and ending operations leaves of a troupe: all but its operations, the counts of its wait flags and arrival
counters, and its vector registers. -/
def Troupe.Starts (t u : Troupe) : Prop :=
  u = { t with ops := u.ops, nextOp := u.nextOp, ac := u.ac, v := u.v, w := u.w }

namespace Accesses

variable {a : Accesses} {ls : List LaneRec} {g : Nat} {u : State}

/-- The lanes performed, in increasing order, and the operation ended where they are all complete. -/
def performed (a : Accesses) : State := (a.lanes.foldl a.step a.start).tidyOp a.t.id a.t.nextOp

/-- Performing the operation just issued performs its lanes. -/
theorem performOp_start (hi : IsMemory a.e.instr a.f) (ht : a.s.troupe? a.t.id = some a.t)
    (hids : ∀ o ∈ a.t.ops, o.id < a.t.nextOp) : performOp a.t.id a.t.nextOp a.start = a.performed := by
  have hid : a.issued.id = a.t.id := Troupe.startMem_id ..
  have hfind : a.start.troupe? a.t.id = some a.issued := by
    rw [start, ← hid]
    exact a.s.troupe?_setTroupe (hid ▸ ht)
  have hop : a.issued.op? a.t.nextOp = some (issuedOp a.f a.e a.t) := Troupe.op?_newest (Troupe.startMem_ops ..) hids
  have hfields : (issuedOp a.f a.e a.t).instr.fields = some a.f := hi.fields
  have hredo : (issuedOp a.f a.e a.t).lanes.filter (fun l => l.st == .redo) = a.lanes.map a.lane := by
    refine List.filter_eq_self.mpr fun l hl => ?_
    rw [redo_of_mem_laneRecs hl]
    rfl
  simp only [performOp, hfind, hop, hfields, hredo, List.foldl_map]
  rfl

/-- The troupe once its operation has been tidied: ended where its lanes are all complete. -/
theorem troupe?_tidyOp (hids : ∀ o ∈ a.t.ops, o.id < a.t.nextOp) (hu : u.troupe? a.t.id = some (a.performing ls g)) :
    ∃ t1, (u.tidyOp a.t.id a.t.nextOp).troupe? a.t.id = some t1 ∧ a.t.Starts t1 ∧
      (splitCounter a.e.instr = none → t1.v = a.t.v) ∧
      t1.ops = if ls.all (fun l => l.st == .done) then a.t.ops else a.t.ops ++ [a.op ls g] := by
  obtain ⟨ac, v, ht, hv⟩ := performing_eq hids ls g
  have hops : (a.performing ls g).ops = a.t.ops ++ [a.op ls g] := by rw [ht]
  have hop : (a.performing ls g).op? a.t.nextOp = some (a.op ls g) := Troupe.op?_newest hops hids
  simp only [State.tidyOp, hu, hop]
  rw [show (a.op ls g).allDone = ls.all (fun l => l.st == .done) from rfl]
  cases hdone : ls.all fun l => l.st == .done
  · exact ⟨_, hu, by rw [ht]; rfl, by rwa [ht], hops⟩
  · have hend : ((a.performing ls g).endOp (a.op ls g)).id = a.t.id := by
      rw [Troupe.endOp_id, ht]
    have hfilter : (a.performing ls g).ops.filter (fun x => x.id != a.t.nextOp) = a.t.ops := by
      rw [hops, List.filter_append, List.filter_eq_self.mpr fun x hx => by simpa using Nat.ne_of_lt (hids x hx)]
      exact List.append_right_eq_self.mpr (by simp [op, issuedOp])
    refine ⟨(a.performing ls g).endOp (a.op ls g), ?_, ?_, ?_, hfilter⟩
    · rw [if_pos rfl, ← hend]
      exact u.troupe?_setTroupe (hend ▸ hu)
    · rw [ht]
      cases hfl : (a.op ls g).flag <;> simp only [Troupe.Starts, Troupe.endOp, Troupe.lowerFlag, hfl]
    · rwa [Troupe.endOp_v, ht]

/-- What a memory instruction leaves that accesses at once: where its lanes are all complete its operation is over, else
it stands among the troupe's. -/
structure Completes (a : Accesses) (ls : List LaneRec) (g : Nat) (s1 : State) (u : Troupe) : Prop where
  exec : exec a.e.instr a.s = .next s1
  issued : Issued a.t u s1
  ops : u.ops = if ls.all (fun l => l.st == .done) then a.t.ops else a.t.ops ++ [a.op ls g]
  readLoc : ∀ x, s1.readLoc x = (a.lanes.foldl a.step a.start).readLoc x
  fw : s1.fw = (a.lanes.foldl a.step a.start).fw

theorem Completes.readSite {s1 : State} {v : Troupe} (h : a.Completes ls g s1 v) (w : Site) :
    s1.readSite w = (a.lanes.foldl a.step a.start).readSite w := List.map_congr_left fun x _ => h.readLoc x

theorem completes (hi : IsMemory a.e.instr a.f) (hm : MemoryMay a.e.instr a.f a.e a.t a.s)
    (hu : (a.lanes.foldl a.step a.start).troupe? a.t.id = some (a.performing ls g)) :
    ∃ s1 u, a.Completes ls g s1 u := by
  obtain ⟨hmay, hcalm, hlanes, hids, hbudget, hwindow, hlog, hcounter, hbehind⟩ := hm
  have hdone := memIssue_accesses rfl ⟨hbudget, hlanes, hwindow, hlog, hcounter⟩
  rw [if_neg (by rw [hbehind]; exact Bool.false_ne_true)] at hdone
  have hexec := exec_memory_done hi hmay (hdone.trans (congrArg VRes.done (performOp_start hi hmay.2.1 hids)))
  obtain ⟨t1, ht1, hstarts, -, hops⟩ := troupe?_tidyOp hids hu
  have hid : t1.id = a.t.id := by rw [hstarts]
  have hquiet : t1.issued.quiet = true :=
    Troupe.quiet_of_unreported (by rw [hstarts]; exact hcalm.1) (by rw [hstarts]; exact hcalm.2)
  rw [← hid] at ht1
  obtain ⟨hend, hfind⟩ := State.vectorEnd_of_quiet ht1 hquiet
  rw [hid] at hend hfind
  refine ⟨_, t1.issued, hexec, ⟨hfind, ?_, rfl, ?_, ?_⟩, hops, fun x => ?_, ?_⟩
  · rw [hstarts]
    rfl
  · rw [hstarts]
    rfl
  · rw [hstarts]
    rfl
  · show ((a.performed).vectorEnd a.t.id).readLoc x = _
    rw [performed, hend, State.readLoc_modTroupe]
    exact (State.tidyOp_keeps ..).1
  · show ((a.performed).vectorEnd a.t.id).fw = _
    rw [performed, hend]
    exact (State.tidyOp_keeps _ _ _ (.phys 0)).2.1

/-! ### Lanes that reach their places -/

/-- Every lane reaches its place, and none changes what another reaches. -/
structure Reaching (a : Accesses) : Prop where
  may : MemoryMay a.e.instr a.f a.e a.t a.s
  steady : Steady a.e.instr a.f a.e a.t a.s a.site
  reaches : ∀ n ∈ a.lanes, Reaches a.e.instr a.f a.e a.t a.s n (a.site n)

theorem Reaching.passes (h : a.Reaching) (hn : n ∈ a.lanes) : a.passes n := (h.reaches n hn).1

theorem Reaching.sound (h : a.Reaching) (hapart : Apart a.e.instr a.e a.site) : a.Sound := by
  refine ⟨fun n hn => ?_, hapart⟩
  obtain ⟨-, -, hnodup, hwithin⟩ := h.reaches n hn
  exact ⟨hnodup, fun x hx c o hxc => hwithin c o (hxc ▸ hx)⟩

/-- Reaching lanes are performed one after the other. -/
theorem Reaching.performed (h : a.Reaching) (hred : isReduction a.e.instr = true → ∀ n ∈ a.lanes, (a.site n).win = none)
    (hind : a.Independent) : a.Performed a.lanes [] (a.lanes.foldl a.step a.start) := by
  obtain ⟨⟨-, ht, -⟩, -, -, hids, -⟩ := h.may
  have h0 := performed_start ht hids
  rcases h.steady with ⟨n, hl⟩ | hf
  · have hn : n ∈ a.lanes := by
      rw [show a.lanes = [n] from hl]
      exact List.mem_singleton_self n
    exact performed_one h0 hl (h.passes hn) (h.reaches n hn).2.1 fun hr => hred hr n hn
  · exact performed_firm h0 hf (fun n hn => h.passes hn) hind

/-- Where several lanes access, none takes a line from another key. -/
theorem Reaching.not_rekeyed (h : a.Reaching) {m : Nat} (hn : n ∈ a.lanes) (hm : m ∈ a.lanes) (hne : n ≠ m) (x : Loc) :
    ¬Rekeyed a.s (a.site m) x := by
  rcases h.steady with ⟨k, hl⟩ | hf
  · replace hl : a.lanes = [k] := hl
    rw [hl, List.mem_singleton] at hn hm
    exact absurd (hn.trans hm.symm) hne
  · exact not_rekeyed_of_key_eq_none ((hf m hm).plain (h.passes hm)).2.1

/-- Where the places are apart, a lane that writes nothing finds its place at the end as it was. -/
theorem Reaching.readLoc_of_writes_none (h : a.Reaching) (hp : a.Performed a.lanes [] u) (hapart : Apart a.e.instr a.e a.site)
    (hn : n ∈ a.lanes) (hw : a.writes n = none) {x : Loc} (hx : x ∈ (a.site n).locs) : u.readLoc x = a.s.readLoc x := by
  refine hp.bytes x fun m hm => ?_
  by_cases hmn : m = n
  · exact .inl (hmn ▸ hw)
  · exact .inr ⟨hapart n hn m hm (Ne.symm hmn) x hx, h.not_rekeyed hn hm (Ne.symm hmn) x⟩

theorem independent_of_apart (hapart : Apart a.e.instr a.e a.site) : a.Independent :=
  .inl fun n hn m hm hne => .inr (hapart n hn m hm hne)

/-- What performing reaching lanes leaves once the troupe has gone on. -/
theorem Reaching.completes (h : a.Reaching) (hi : IsMemory a.e.instr a.f)
    (hp : a.Performed a.lanes [] (a.lanes.foldl a.step a.start)) :
    ∃ s1 u g, a.Completes (a.lanesAt a.lanes []) g s1 u := by
  obtain ⟨g, hu⟩ := hp.troupe
  obtain ⟨s1, u, hc⟩ := Accesses.completes hi h.may hu
  exact ⟨s1, u, g, hc⟩

/-- Where every lane is complete, no operation is left of the instruction. -/
theorem Completes.no_op {s1 : State} {v : Troupe} (h : a.Completes (a.lanesAt a.lanes []) g s1 v)
    (hids : ∀ o ∈ a.t.ops, o.id < a.t.nextOp) (hdone : ∀ n ∈ a.lanes, a.stands n = .done) :
    ∀ o ∈ v.ops, o.id ≠ a.t.nextOp := by
  have hall : (a.lanesAt a.lanes []).all (fun l => l.st == .done) = true := by
    simpa [lanesAt] using hdone
  intro o ho
  rw [h.ops, hall, if_pos rfl] at ho
  exact Nat.ne_of_lt (hids o ho)

/-- Where a lane waits for its reply, the operation stands with every lane as performed. -/
theorem Completes.held {s1 : State} {v : Troupe} (h : a.Completes (a.lanesAt a.lanes []) g s1 v) (hlanes : a.lanes ≠ [])
    (hreply : ∀ n ∈ a.lanes, a.stands n ≠ .done) :
    ∃ o ∈ v.ops, o.id = a.t.nextOp ∧ o.instr = a.e.instr ∧
      ∀ n ∈ a.lanes, ∃ l ∈ o.lanes, l.lane = n ∧ l.st = a.stands n := by
  have hall : (a.lanesAt a.lanes []).all (fun l => l.st == .done) = false := by
    obtain ⟨n, hn⟩ := List.exists_mem_of_ne_nil _ hlanes
    refine List.all_eq_false.mpr ⟨{ a.lane n with st := a.stands n }, ?_, by simpa using hreply n hn⟩
    exact List.mem_append_left _ (List.mem_map.mpr ⟨n, hn, rfl⟩)
  refine ⟨a.op (a.lanesAt a.lanes []) g, ?_, rfl, rfl, fun n hn => ⟨{ a.lane n with st := a.stands n }, ?_, rfl, rfl⟩⟩
  · rw [h.ops, hall]
    simp
  · exact List.mem_append_left _ (List.mem_map.mpr ⟨n, hn, rfl⟩)

end Accesses

end Sys2Proof.Machine
end

section
/-! PROOF. The memory instructions of each kind complete where their lanes reach their places (R230, R231, R234, R236,
R238, R241, R242). -/

namespace Sys2Proof.Machine

variable {i : Instr} {f : Fields} {e : VEntry} {t : Troupe} {s u : State} {site : Nat → Site} {n : Nat} {l : LaneRec}

/-! ### What the instructions of a kind share -/

theorem kind_of_load : ∀ c ∈ [Instr.lds, .ldsb, .ld, .ldAc, .vld, .vldAc, .vldw],
    IsMemory (c f) f ∧ isLoad (c f) = true ∧ isReduction (c f) = false := by
  intro c hc
  fin_cases hc <;> exact ⟨⟨fun _ => rfl, rfl⟩, rfl, rfl⟩

/-- The instruction writes data of a lane at the lane's place. -/
structure WritesData (i : Instr) (f : Fields) : Prop where
  memory : IsMemory i f
  data : hasData i = true
  load : isLoad i = false
  maint : isMaint i = false

theorem writesData_of_store : ∀ c ∈ [Instr.sts, .st, .vst, .vstw],
    WritesData (c f) f ∧ isAtomic (c f) = false ∧ isReduction (c f) = false := by
  intro c hc
  fin_cases hc <;> exact ⟨⟨⟨fun _ => rfl, rfl⟩, rfl, rfl, rfl⟩, rfl, rfl⟩

theorem writesData_of_atomic : ∀ c ∈ ([(Instr.aadd, false), (.amin, false), (.amax, false), (.aand, false), (.aor, false),
    (.axor, false), (.axch, false), (.acas, true), (.ainb, false), (.ainw, false), (.adecp, false), (.aflim, false),
    (.aaddf, false)] : List ((Fields → Instr) × Bool)), WritesData (c.1 f) f ∧ isAtomic (c.1 f) = true ∧
    isScalarAccess (c.1 f) = false ∧
    ∀ t n, laneOld (c.1 f) f t n = if c.2 = true ∧ f.d.toNat < 64 then (t.vreg f.d.toNat).sh.lane n else 0 := by
  intro c hc
  fin_cases hc <;> refine ⟨⟨⟨fun _ => rfl, rfl⟩, rfl, rfl, rfl⟩, rfl, rfl, fun t n => ?_⟩ <;> simp [laneOld]

theorem writesData_of_reduction : ∀ c ∈ [Instr.redadd, .redmin, .redmax, .redand, .redor, .redxor, .redaddf],
    WritesData (c f) f ∧ isAtomic (c f) = false ∧ isReduction (c f) = true ∧ isScalarAccess (c f) = false ∧
    ∀ t n, laneOld (c f) f t n = 0 := by
  intro c hc
  fin_cases hc <;> exact ⟨⟨⟨fun _ => rfl, rfl⟩, rfl, rfl, rfl⟩, rfl, rfl, rfl, fun _ _ => rfl⟩

theorem isMemory_of_maint : ∀ c ∈ [Instr.pref, .cfl], IsMemory (c f) f ∧ isMaint (c f) = true := by
  intro c hc
  fin_cases hc <;> exact ⟨⟨fun _ => rfl, rfl⟩, rfl⟩

theorem laneWrites_of_atomic (hi : WritesData i f) (h : isAtomic i = true ∨ isReduction i = true) (old : Nat) :
    laneWrites i f l old = if (atomicResult i f l old).1 = old then none
      else some (leBytes (atomicResult i f l old).1 (accessBytes i f)) := by
  have hor : (isAtomic i || isReduction i) = true := Bool.or_eq_true_iff.mpr h
  simp [laneWrites, hi.load, hi.maint, hor]

theorem laneWrites_of_store (hi : WritesData i f) (ha : isAtomic i = false) (hr : isReduction i = false) (old : Nat) :
    laneWrites i f l old = some (leBytes l.data.toNat (accessBytes i f)) := by
  simp [laneWrites, hi.load, hi.maint, ha, hr]

theorem laneStands_of_store (hload : isLoad i = false) (ha : isAtomic i = false) (old : Nat) :
    laneStands i f l old = .done := by
  simp [laneStands, hload, ha]

theorem laneStands_of_isAtomic (h : isAtomic i = true) (old : Nat) : laneStands i f l old =
    .reply [BitVec.ofNat 64 (atomicResult i f l old).2.1, if (atomicResult i f l old).2.2.1 then 1 else 0,
      (atomicResult i f l old).2.2.2.setWidth 64] := by
  simp [laneStands, h, (kind_of_isAtomic h).1]

/-! ### A contribution to a reduction window (R242) -/

/-- A contribution leaves for the home of its window. -/
def State.contribute (s : State) (x : Contrib) : State :=
  { s.modFw fun w => { w with contribs := w.contribs ++ [x] } with fresh := s.fresh + 1 }

theorem performLane_contributes {id : TroupeId} {o : Op} {w : Site} {a : Nat} {locs : List Loc} (hi : WritesData o.instr f)
    (hr : isReduction o.instr = true)
    (ha : s.access (s.ringParty id.ring) l.addr.toNat (accessWant o.instr f o.dgrade) = .ok w)
    (hc : s.cutOff w (isReduction o.instr) = false) (hw : w.win ≠ none) (hl : w.locs = .phys a :: locs) :
    ∃ (x : Contrib) (u : State), x.instr = o.instr ∧ x.addr = a ∧ x.c = l.data.setWidth 32 ∧ x.key = w.key ∧ Reached s u ∧
      performLane id o f s l = (u.contribute x).modTroupe id fun t => t.perform o.id l.lane .done 0 := by
  have hwin : (isReduction o.instr && w.win.isSome) = true := by
    rw [hr, Bool.true_and, Option.isSome_iff_ne_none]
    exact hw
  have hacc : ∀ u : State, ∃ x : Contrib, x.instr = o.instr ∧ x.addr = a ∧ x.c = l.data.setWidth 32 ∧ x.key = w.key ∧
      doAccess o.instr f id o.dgrade l w u = (u.contribute x, .done, 0) := fun u => by
    simp only [doAccess, hi.load, hi.maint, hwin, hl, if_true, Bool.false_eq_true, if_false]
    exact ⟨_, rfl, rfl, rfl, rfl, rfl⟩
  obtain ⟨x, hinstr, haddr, hdata, hkey, hx⟩ := hacc (s.reach (s.ringParty id.ring) l.addr.toNat w (isReduction o.instr))
  refine ⟨x, _, hinstr, haddr, hdata, hkey, s.reached_reach (s.ringParty id.ring) l.addr.toNat w (isReduction o.instr), ?_⟩
  rw [performLane_reaches ha hc, hx]

/-! ### Prefetch and flush (R234) -/

/-- A link of the fabric is up, or no window of the package has its home in another (R380, R400). -/
def State.linked (s : State) : Prop := s.fabricPort ≠ none ∨ ∀ w ∈ s.fw.wins, w.home = s.fw.pkg

theorem Reached.linked (h : Reached s u) (hs : s.linked) : u.linked := by
  obtain ⟨ls, hl⟩ := h.links
  refine hs.imp (fun hp => h.port ▸ hp) fun hw => ?_
  rw [hl]
  exact hw

/-- Where no access is cut off from another package, only reductions may be. -/
theorem State.linked.cutOff {p : Party} {va : Nat} {w : Want} {x : Site} (h : s.linked) (ha : s.access p va w = .ok x) :
    s.cutOff x false = false := by
  rcases h with hp | hhome
  · rw [State.cutOff, Option.isNone_eq_false_iff.mpr (Option.isSome_iff_ne_none.mpr hp), Bool.and_false]
  · have hleaves : s.leaves x false = false := by
      obtain ⟨-, -, ⟨-, -, -, -, -, c, o, r, -, -, rfl⟩ | ⟨-, -, l, -, hleaf⟩⟩ := State.access_cases ha
      · rfl
      · cases hw : x.win with
        | none => simp only [State.leaves, hw]
        | some y => simp [State.leaves, hw, hhome y ((State.leafAccess_passes hleaf).1.win y hw)]
    rw [State.cutOff, hleaves, Bool.false_and]

theorem Troupe.perform_zero (t : Troupe) (op lane : Nat) (st : LaneSt) : t.perform op lane st 0 = t.setLane op lane st := by
  rw [Troupe.perform, Troupe.setLane]
  refine (Troupe.modOp_modOp _ _ ?_).trans ?_
  · exact fun _ => rfl
  · simp only [Nat.max_zero]

/-- A lane of a prefetch or flush outside the windows is done, whatever its check answers. -/
theorem performLane_maint {id : TroupeId} {o : Op} (hm : isMaint o.instr = true) (hin : inWindows l.addr.toNat = false)
    (hs : s.linked) : ∃ u g, Reached s u ∧
      performLane id o f s l = u.modTroupe id fun t => t.perform o.id l.lane .done g := by
  obtain ⟨hatomic, hred, hload⟩ := not_isAtomic_of_isMaint hm
  cases ha : s.access (s.ringParty id.ring) l.addr.toNat (accessWant o.instr f o.dgrade) with
  | final c r =>
      refine ⟨s, 0, .refl s, ?_⟩
      simp only [performLane, ha, hm, hin, Bool.not_false, Bool.and_self, if_true, Troupe.perform_zero]
  | replay c level =>
      refine ⟨s, 0, .refl s, ?_⟩
      simp only [performLane, ha, hm, if_true, Troupe.perform_zero]
  | ok x =>
      have hwrites : ∀ old, laneWrites o.instr f l old = none := fun old => by simp [laneWrites, hm]
      refine ⟨_, laneGrade o.instr x, s.reached_reach (s.ringParty id.ring) l.addr.toNat x (isReduction o.instr), ?_⟩
      rw [performLane_ok ha (by rw [hred]; exact hs.cutOff ha) (by simp [hred]), hwrites,
        laneStands_of_store hload hatomic]
      rfl

namespace Accesses

variable {a : Accesses}

/-- The data of a lane: the scalar operand, or the lane of the vector one. -/
theorem data_lane (hi : WritesData a.e.instr a.f) (n : Nat) : (a.lane n).data.toNat =
    if isScalarAccess a.e.instr then a.e.cap.c.v.toNat else ((readV a.t a.f.c a.e.cap.c).sh.lane n).toNat := by
  simp only [lane, hi.data]
  split
  · rfl
  · rw [if_pos trivial, BitVec.toNat_setWidth]
    exact Nat.mod_eq_of_lt (by omega)

/-! ### The clauses -/

theorem Reaching.load (h : a.Reaching) (hi : IsMemory a.e.instr a.f) (hload : isLoad a.e.instr = true)
    (hred : isReduction a.e.instr = false) :
    ∃ s1 u, exec a.e.instr a.s = .next s1 ∧ Issued a.t u s1 ∧ (∀ x, s1.readLoc x = a.s.readLoc x) ∧
      ∃ o ∈ u.ops, o.id = a.t.nextOp ∧ o.instr = a.e.instr ∧ ∀ n ∈ a.lanes, ∃ l ∈ o.lanes, l.lane = n ∧
        l.st = .reply [BitVec.ofNat 64 (leNat (a.s.loadSite (a.site n)))] := by
  have hwrites : ∀ n, a.writes n = none := fun n => laneWrites_of_isLoad hload ..
  have hstands : ∀ n, a.stands n = .reply [BitVec.ofNat 64 (leNat (a.s.loadSite (a.site n)))] := fun n =>
    laneStands_of_isLoad hload ..
  have hp := h.performed (by simp [hred]) (.inl fun _ _ m _ _ => .inl (hwrites m))
  obtain ⟨s1, u, g, hc⟩ := h.completes hi hp
  refine ⟨s1, u, hc.exec, hc.issued, fun x => (hc.readLoc x).trans (hp.bytes x fun n _ => .inl (hwrites n)), ?_⟩
  have hheld := hc.held h.may.2.2.1 fun n _ => by simp [hstands]
  simpa only [hstands] using hheld

theorem Reaching.store (h : a.Reaching) (hi : WritesData a.e.instr a.f) (hatomic : isAtomic a.e.instr = false)
    (hred : isReduction a.e.instr = false) (hapart : Apart a.e.instr a.e a.site) :
    ∃ s1 u, exec a.e.instr a.s = .next s1 ∧ Issued a.t u s1 ∧ (∀ o ∈ u.ops, o.id ≠ a.t.nextOp) ∧
      (∀ x, (∀ n ∈ a.lanes, x ∉ (a.site n).locs ∧ ¬Rekeyed a.s (a.site n) x) → s1.readLoc x = a.s.readLoc x) ∧
      ∀ n ∈ a.lanes, s1.readSite (a.site n) = leBytes (a.lane n).data.toNat (accessBytes a.e.instr a.f) := by
  have hp := h.performed (by simp [hred]) (independent_of_apart hapart)
  obtain ⟨s1, u, g, hc⟩ := h.completes hi.memory hp
  refine ⟨s1, u, hc.exec, hc.issued, hc.no_op h.may.2.2.2.1 fun n _ => laneStands_of_store hi.load hatomic _,
    fun x hx => (hc.readLoc x).trans (hp.bytes x fun n hn => .inr (hx n hn)), fun n hn => ?_⟩
  exact (hc.readSite _).trans (hp.laid (h.sound hapart) n hn _ (laneWrites_of_store hi hatomic hred _))

/-- The new value of a lane of an atomic or reduction is at its place. -/
def Leaves (a : Accesses) (s1 : State) (n : Nat) : Prop :=
  let r := atomicResult a.e.instr a.f (a.lane n) (leNat (a.s.loadSite (a.site n)))
  if r.1 = leNat (a.s.loadSite (a.site n)) then ∀ x ∈ (a.site n).locs, s1.readLoc x = a.s.readLoc x
  else s1.readSite (a.site n) = leBytes r.1 (accessBytes a.e.instr a.f)

theorem Reaching.leaves (h : a.Reaching) (hi : WritesData a.e.instr a.f)
    (hkind : isAtomic a.e.instr = true ∨ isReduction a.e.instr = true)
    (hp : a.Performed a.lanes [] u) (hapart : Apart a.e.instr a.e a.site) (hn : n ∈ a.lanes) : a.Leaves u n := by
  have hw := laneWrites_of_atomic (l := a.lane n) hi hkind (leNat (a.s.loadSite (a.site n)))
  simp only [Leaves]
  split
  next hsame => exact fun x hx => h.readLoc_of_writes_none hp hapart hn (hw.trans (if_pos hsame)) hx
  next hnew => exact hp.laid (h.sound hapart) n hn _ (hw.trans (if_neg hnew))

theorem Completes.leaves {s1 : State} {v : Troupe} {ls : List LaneRec} {g : Nat} (h : a.Completes ls g s1 v)
    (hl : a.Leaves (a.lanes.foldl a.step a.start) n) : a.Leaves s1 n := by
  simpa only [Leaves, h.readLoc, h.readSite] using hl

theorem Reaching.atomic (h : a.Reaching) (hi : WritesData a.e.instr a.f) (hatomic : isAtomic a.e.instr = true)
    (hapart : Apart a.e.instr a.e a.site) :
    ∃ s1 u, exec a.e.instr a.s = .next s1 ∧ Issued a.t u s1 ∧
      (∀ x, (∀ n ∈ a.lanes, x ∉ (a.site n).locs ∧ ¬Rekeyed a.s (a.site n) x) → s1.readLoc x = a.s.readLoc x) ∧
      (∀ n ∈ a.lanes, a.Leaves s1 n) ∧
      ∃ o ∈ u.ops, o.id = a.t.nextOp ∧ o.instr = a.e.instr ∧
        ∀ n ∈ a.lanes, ∃ l ∈ o.lanes, l.lane = n ∧ l.st = a.stands n := by
  have hred := (kind_of_isAtomic hatomic).2.2
  have hp := h.performed (by simp [hred]) (independent_of_apart hapart)
  obtain ⟨s1, u, g, hc⟩ := h.completes hi.memory hp
  refine ⟨s1, u, hc.exec, hc.issued, fun x hx => (hc.readLoc x).trans (hp.bytes x fun n hn => .inr (hx n hn)),
    fun n hn => hc.leaves (h.leaves hi (.inl hatomic) hp hapart hn), hc.held h.may.2.2.1 fun n _ => ?_⟩
  rw [stands, laneStands_of_isAtomic hatomic]
  nofun

theorem Reaching.reduction (h : a.Reaching) (hi : WritesData a.e.instr a.f) (hatomic : isAtomic a.e.instr = false)
    (hred : isReduction a.e.instr = true) (hapart : Apart a.e.instr a.e a.site) (hwin : ∀ n ∈ a.lanes, (a.site n).win = none) :
    ∃ s1 u, exec a.e.instr a.s = .next s1 ∧ Issued a.t u s1 ∧ (∀ o ∈ u.ops, o.id ≠ a.t.nextOp) ∧
      (∀ x, (∀ n ∈ a.lanes, x ∉ (a.site n).locs ∧ ¬Rekeyed a.s (a.site n) x) → s1.readLoc x = a.s.readLoc x) ∧
      ∀ n ∈ a.lanes, a.Leaves s1 n := by
  have hp := h.performed (fun _ => hwin) (independent_of_apart hapart)
  obtain ⟨s1, u, g, hc⟩ := h.completes hi.memory hp
  exact ⟨s1, u, hc.exec, hc.issued, hc.no_op h.may.2.2.2.1 fun n _ => laneStands_of_store hi.load hatomic _,
    fun x hx => (hc.readLoc x).trans (hp.bytes x fun n hn => .inr (hx n hn)),
    fun n hn => hc.leaves (h.leaves hi (.inr hred) hp hapart hn)⟩

theorem Reaching.contributes (h : a.Reaching) (hi : WritesData a.e.instr a.f) (hatomic : isAtomic a.e.instr = false)
    (hred : isReduction a.e.instr = true) {b : Nat} {locs : List Loc} (hn : a.lanes = [n]) (hwin : (a.site n).win ≠ none)
    (hlocs : (a.site n).locs = .phys b :: locs) :
    ∃ s1 u, exec a.e.instr a.s = .next s1 ∧ Issued a.t u s1 ∧ (∀ x, s1.readLoc x = a.s.readLoc x) ∧
      ∃ x : Contrib, x.instr = a.e.instr ∧ x.addr = b ∧ x.c = (a.lane n).data.setWidth 32 ∧ x.key = (a.site n).key ∧
        s1.fw.contribs = a.s.fw.contribs ++ [x] := by
  obtain ⟨⟨-, ht, -⟩, -, -, hids, -⟩ := h.may
  have hmem : n ∈ a.lanes := by
    rw [hn]
    exact List.mem_singleton_self n
  obtain ⟨x, v, hinstr, haddr, hc, hkey, hreach, hstep⟩ := performLane_contributes (s := a.start) (f := a.f)
    (o := issuedOp a.f a.e a.t) (l := a.lane n) hi hred (h.passes hmem) (h.reaches n hmem).2.1 hwin hlocs
  have hfold : a.lanes.foldl a.step a.start =
      (v.contribute x).modTroupe a.t.id fun t => t.perform a.t.nextOp n .done 0 := by
    rw [hn]
    exact hstep
  have hp := performed_start ht hids
  rw [hn] at hp
  obtain ⟨g, htroupe⟩ := hp.troupe
  have hu : (a.lanes.foldl a.step a.start).troupe? a.t.id = some (a.performing (a.lanesAt a.lanes []) (max g 0)) := by
    have hv : (v.contribute x).troupe? a.t.id = a.start.troupe? a.t.id := by
      rw [State.troupe?, State.troupe?, ← hreach.troupes]
      rfl
    rw [hfold, State.troupe?_modTroupe, hv, htroupe,
      ← show a.stands n = .done from laneStands_of_store hi.load hatomic _, hn]
    · exact congrArg some (performing_perform List.not_mem_nil List.not_mem_nil ..)
    · exact fun _ => rfl
  obtain ⟨s1, u, hdone⟩ := Accesses.completes hi.memory h.may hu
  refine ⟨s1, u, hdone.exec, hdone.issued, fun y => ?_, x, hinstr, haddr, hc, hkey, ?_⟩
  · rw [hdone.readLoc, hfold, State.readLoc_modTroupe, ← hp.bytes y nofun, ← hreach.readLoc]
    cases y <;> rfl
  · obtain ⟨ls, hlinks⟩ := hreach.links
    rw [hdone.fw, hfold]
    exact congrArg (fun w => w.contribs ++ [x]) hlinks

/-- Lanes of a prefetch or flush outside the windows are performed one after the other. -/
theorem performed_maint (h0 : a.Performed [] a.lanes a.start) (hm : isMaint a.e.instr = true)
    (hin : ∀ n ∈ a.lanes, inWindows (lanePlace a.e.instr a.f a.e a.t n).toNat = false) (hs : a.s.linked) :
    a.Performed a.lanes [] (a.lanes.foldl a.step a.start) := by
  obtain ⟨hatomic, -, hload⟩ := not_isAtomic_of_isMaint hm
  have hwrites : ∀ n, a.writes n = none := fun n => by simp [writes, laneWrites, hm]
  have hstands : ∀ n, a.stands n = .done := fun n => laneStands_of_store hload hatomic _
  have hall : ∀ (rest done : List Nat) (u : State), done ++ rest = a.lanes → a.Performed done rest u → u.linked →
      a.Performed a.lanes [] (rest.foldl a.step u) := by
    intro rest
    induction rest with
    | nil =>
        intro done u hl hu _
        rwa [← hl, List.append_nil]
    | cons n rest ih =>
        intro done u hl hu hlinked
        obtain ⟨hdone, hrest⟩ := not_mem_of_lanes hl
        have hn : n ∈ a.lanes := hl ▸ by simp
        obtain ⟨v, g, hreach, hstep⟩ := performLane_maint (id := a.t.id) (o := issuedOp a.f a.e a.t) (f := a.f) (l := a.lane n)
          hm (hin n hn) hlinked
        replace hstep : a.step u n = v.modTroupe a.t.id fun t => t.perform a.t.nextOp n .done g := hstep
        refine ih (done ++ [n]) (a.step u n) (by simpa using hl) ⟨?_, fun x _ => ?_, ?_⟩ ?_
        · obtain ⟨g0, htroupe⟩ := hu.troupe
          refine ⟨max g0 g, ?_⟩
          have hv : v.troupe? a.t.id = u.troupe? a.t.id := by rw [State.troupe?, State.troupe?, hreach.troupes]
          rw [hstep, State.troupe?_modTroupe, hv, htroupe, ← hstands n]
          · exact congrArg some (performing_perform hdone hrest ..)
          · exact fun _ => rfl
        · rw [hstep, State.readLoc_modTroupe, hreach.readLoc]
          exact hu.bytes x fun m _ => .inl (hwrites m)
        · intro _ m _ bs hbs
          rw [hwrites] at hbs
          cases hbs
        · rw [hstep]
          exact hreach.linked hlinked
  exact hall a.lanes [] a.start rfl h0 hs

theorem maint (hi : IsMemory a.e.instr a.f) (hm : isMaint a.e.instr = true) (hmay : MemoryMay a.e.instr a.f a.e a.t a.s)
    (hin : ∀ n ∈ a.lanes, inWindows (lanePlace a.e.instr a.f a.e a.t n).toNat = false) (hs : a.s.linked) :
    ∃ s1 u, exec a.e.instr a.s = .next s1 ∧ Issued a.t u s1 ∧ (∀ o ∈ u.ops, o.id ≠ a.t.nextOp) ∧
      ∀ x, s1.readLoc x = a.s.readLoc x := by
  have ⟨⟨_, ht, _⟩, _, _, hids, _⟩ := hmay
  obtain ⟨hatomic, -, hload⟩ := not_isAtomic_of_isMaint hm
  have hp := performed_maint (performed_start ht hids) hm hin hs
  obtain ⟨g, hu⟩ := hp.troupe
  obtain ⟨s1, u, hc⟩ := completes hi hmay hu
  exact ⟨s1, u, hc.exec, hc.issued, hc.no_op hids fun n _ => laneStands_of_store hload hatomic _,
    fun x => (hc.readLoc x).trans (hp.bytes x fun n _ => .inl (by simp [writes, laneWrites, hm]))⟩

end Accesses

/-- Settles O24: per kind of instruction, by what performing its lanes one after the other leaves. -/
theorem memoryAccessesComplete : Obligations.MemoryAccessesComplete := by
  intro f e t s site reached same rest held data leaves result
  let a : Accesses := { f := f, e := e, t := t, s := s, site := site }
  have hreach : ∀ i, reached i → e.instr = i ∧ a.Reaching := by
    rintro i ⟨hm, hs, hr⟩
    obtain rfl : e.instr = i := hm.1.2.2.2.1
    exact ⟨rfl, hm, hs, hr⟩
  have hdata : WritesData e.instr f → isScalarAccess e.instr = false → ∀ n, (a.lane n).data.toNat = data n := by
    intro hw hscalar n
    exact (Accesses.data_lane (a := a) hw n).trans (if_neg (by simp [a, hscalar]))
  have hresult : WritesData e.instr f → isScalarAccess e.instr = false → ∀ n,
      atomicResult e.instr f (a.lane n) (leNat (s.loadSite (site n))) = result e.instr n (laneOld e.instr f t n).toNat := by
    intro hw hscalar n
    rw [atomicResult, hdata hw hscalar n]
    rfl
  have hleft : ∀ {s1 n d}, a.Leaves s1 n →
      atomicResult e.instr f (a.lane n) (leNat (s.loadSite (site n))) = result e.instr n d →
      leaves s1 n (result e.instr n d).1 (accessBytes e.instr f) := fun hl hd => hd ▸ hl
  refine ⟨fun c hc hr => ?load, fun c hc hr hapart => ?store, fun c hc hr hapart => ?atomic, fun c hc hr => ?reduction,
    fun c hc hm hin hs => ?maint⟩
  case load =>
    obtain ⟨he, h⟩ := hreach _ hr
    obtain ⟨hi, hload, hred⟩ := kind_of_load (f := f) c hc
    rw [← he] at hi hload hred ⊢
    exact h.load hi hload hred
  case store =>
    obtain ⟨he, h⟩ := hreach _ hr
    obtain ⟨hi, hatomic, hred⟩ := writesData_of_store (f := f) c hc
    rw [← he] at hi hatomic hred hapart ⊢
    obtain ⟨s1, u, hexec, hissued, hgone, hrest, hlaid⟩ := h.store hi hatomic hred hapart
    exact ⟨s1, u, hexec, hissued, hgone, hrest, fun n hn => by rw [hlaid n hn, Accesses.data_lane hi]⟩
  case atomic =>
    obtain ⟨he, h⟩ := hreach _ hr
    obtain ⟨hi, hatomic, hscalar, hold⟩ := writesData_of_atomic (f := f) c hc
    rw [← he] at hi hatomic hscalar hold hapart ⊢
    obtain ⟨s1, u, hexec, hissued, hrest, hleaves, hheld⟩ := h.atomic hi hatomic hapart
    have hr := fun n => (hresult hi hscalar n).trans (by rw [hold, apply_ite BitVec.toNat])
    obtain ⟨o, ho, hid, hinstr, hlanes⟩ := hheld
    refine ⟨s1, u, hexec, hissued, hrest, fun n hn => hleft (hleaves n hn) (hr n), o, ho, hid, hinstr, fun n hn => ?_⟩
    obtain ⟨l, hl, hn, hst⟩ := hlanes n hn
    have hreply := laneStands_of_isAtomic (f := f) (l := a.lane n) hatomic (leNat (s.loadSite (site n)))
    rw [hr n] at hreply
    exact ⟨l, hl, hn, hst.trans hreply⟩
  case reduction =>
    obtain ⟨he, h⟩ := hreach _ hr
    obtain ⟨hi, hatomic, hred, hscalar, hold⟩ := writesData_of_reduction (f := f) c hc
    rw [← he] at hi hatomic hscalar hold hred ⊢
    refine ⟨fun hapart hwin => ?_, fun n b locs hn hwin hlocs => ?_⟩
    · obtain ⟨s1, u, hexec, hissued, hgone, hrest, hleaves⟩ := h.reduction hi hatomic hred hapart hwin
      have hr := fun n => (hresult hi hscalar n).trans (by rw [hold])
      exact ⟨s1, u, hexec, hissued, hgone, hrest, fun n hn => hleft (hleaves n hn) (hr n)⟩
    · obtain ⟨s1, u, hexec, hissued, hsame, x, hinstr, haddr, hx, hkey, hcontribs⟩ :=
        h.contributes hi hatomic hred hn hwin hlocs
      refine ⟨s1, u, hexec, hissued, hsame, x, hinstr, haddr, ?_, hkey, hcontribs⟩
      rw [hx, BitVec.toNat_setWidth, hdata hi hscalar]
      exact Nat.mod_eq_of_lt (BitVec.isLt _)
  case maint =>
    obtain ⟨hi, hmaint⟩ := isMemory_of_maint (f := f) c hc
    have he : e.instr = c f := hm.1.2.2.2.1
    rw [← he] at hi hmaint hm hin ⊢
    exact Accesses.maint (a := a) hi hmaint hm hin hs

end Sys2Proof.Machine
end

section
/-! PROOF. What loads and stores leave unchanged (R154, R225, R230). -/

namespace Sys2Proof.Machine

variable {i : Instr} {f : Fields} {e : VEntry} {t v : Troupe} {s u s1 : State} {id : TroupeId} {o : Op} {l : LaneRec}
  {j n : Nat}

/-! ### A scalar side that is not stuck -/

/-- The arrival counter that an instruction waits for, reads or clears (R233). -/
def readCounter : Instr → Option Nat
  | .acwait f => some f.sel.toNat
  | .acget f => some f.sel.toNat
  | .acclr f => some f.sel.toNat
  | _ => none

theorem Troupe.mem_unissued {r : Nat} : r ∈ t.unissued ↔ ∃ x ∈ t.vq, r ∈ scalarNums x.instr.writes ∨
    ∃ j, readCounter x.instr = some j ∧ r ∈ t.countedDests j := by
  simp only [Troupe.unissued, List.mem_flatMap, List.mem_append]
  refine exists_congr fun x => and_congr_right fun _ => or_congr_right ?_
  split
  next h => simp [h, readCounter]
  next h => simp [h, readCounter]
  next h => simp [h, readCounter]
  next h1 h2 h3 =>
    unfold readCounter
    split
    next h => exact absurd h (h1 _)
    next h => exact absurd h (h2 _)
    next h => exact absurd h (h3 _)
    next => simp

/-- The scalar-class registers that operations counted on a counter may still write are waited for already: they
were counted, or the instruction at the head of the vector side's queue writes them (R81). -/
def Troupe.CountedIn (t : Troupe) (e : VEntry) (u : Troupe) : Prop :=
  ∀ j, ∀ r ∈ u.countedDests j, r ∈ t.countedDests j ∨ r ∈ scalarNums e.instr.writes

/-- Issuing the first dispatched instruction leaves no more registers waited for. -/
theorem Troupe.unissued_issued (hvq : v.vq = t.vq) (he : t.vq.head? = some e) (hc : t.CountedIn e v) {r : Nat}
    (hr : r ∈ v.issued.unissued) : r ∈ t.unissued := by
  obtain ⟨x, hx, hw | ⟨j, hj, hcount⟩⟩ := Troupe.mem_unissued.mp hr
  · exact Troupe.mem_unissued.mpr ⟨x, hvq ▸ List.mem_of_mem_tail hx, .inl hw⟩
  · rcases hc j r hcount with h | h
    · exact Troupe.mem_unissued.mpr ⟨x, hvq ▸ List.mem_of_mem_tail hx, .inr ⟨j, hj, h⟩⟩
    · exact Troupe.mem_unissued.mpr ⟨e, List.mem_of_head? he, .inl h⟩

/-- A scalar side that is not stuck is not stuck once the first dispatched instruction has issued (R92). -/
theorem Troupe.scalarStuck_issued (hs : t.Starts v) (he : t.vq.head? = some e) (hc : t.CountedIn e v)
    (h : t.scalarStuck = false) : v.issued.scalarStuck = false := by
  have hvq : v.vq = t.vq := by rw [hs]
  have hwait : v.issued.wait = t.wait := by rw [hs]; rfl
  have htail : v.issued.vq = t.vq.tail := by rw [hs]; rfl
  have hqueue : ∀ p, v.issued.queueBlocks true p = t.queueBlocks true p := fun p => by rw [hs]; rfl
  unfold Troupe.scalarStuck at h ⊢
  rw [hwait]
  split at h
  next p => simp only [hqueue, h]
  next regs =>
    simp only [List.any_eq_false, List.contains_iff_mem] at h ⊢
    exact fun r hr hin => h r hr (Troupe.unissued_issued hvq he hc hin)
  next m =>
    simp only [htail, List.any_eq_false] at h ⊢
    exact fun x hx => h x (List.mem_of_mem_tail hx)
  next =>
    obtain ⟨rest, hrest⟩ := List.head?_eq_some_iff.mp he
    rw [hrest] at h
    cases h
  next => rfl

theorem Troupe.quiet_of_not_stuck (hs : t.scalarStuck = false) (hr : t.reports = []) : t.quiet = true := by
  simp [Troupe.quiet, Troupe.stalled, Troupe.mustReport, hs, hr]

/-! ### The ways on, and what they keep -/

/-- A state with the memory of another, and a troupe's scalar and mask registers and flags as they were; its vector
registers too, but for the destination of a split-phase load. -/
structure Frames (t : Troupe) (i : Instr) (u s1 : State) : Prop where
  mem : s1.mem = u.mem
  readLoc : ∀ x, s1.readLoc x = u.readLoc x
  regs : ∃ v, s1.troupe? t.id = some v ∧ v.s = t.s ∧ v.k = t.k ∧ (splitCounter i = none → v.v = t.v) ∧ v.sticky = t.sticky

/-- Nothing follows of itself once the first dispatched instruction has issued, for the troupe in any shape that
issuing it leaves. -/
structure Calm (t : Troupe) (e : VEntry) : Prop where
  head : t.vq.head? = some e
  reports : t.reports = []
  stuck : t.scalarStuck = false

theorem Calm.frames_vectorEnd (h : Calm t e) (hu : u.troupe? t.id = some v) (hs : t.Starts v) (hc : t.CountedIn e v)
    (hv : splitCounter i = none → v.v = t.v) : Frames t i u (u.vectorEnd t.id) := by
  have hid : v.id = t.id := by rw [hs]
  have hreports : v.issued.reports = [] := by
    rw [hs]
    exact h.reports
  have hquiet := Troupe.quiet_of_not_stuck (Troupe.scalarStuck_issued hs h.head hc h.stuck) hreports
  obtain ⟨hend, hfind⟩ := State.vectorEnd_of_quiet (hid.symm ▸ hu) hquiet
  rw [hid] at hend hfind
  refine ⟨by rw [hend]; rfl, fun x => by rw [hend]; exact State.readLoc_modTroupe .., v.issued, hfind, ?_, ?_, hv, ?_⟩
  all_goals
    rw [hs]
    rfl

theorem Calm.frames_blockVector (h : Calm t e) (hu : s.troupe? t.id = some t) (w : Wait) :
    Frames t i s (s.blockVector t.id w) := by
  have hfind : (s.modTroupe t.id fun t => { t with vwait := some w }).troupe? t.id = some { t with vwait := some w } := by
    rw [State.troupe?_modTroupe, hu]
    · rfl
    · exact fun _ => rfl
  have hquiet : ({ t with vwait := some w } : Troupe).quiet = true := Troupe.quiet_of_not_stuck h.stuck h.reports
  have hend : s.blockVector t.id w = s.modTroupe t.id fun t => { t with vwait := some w } :=
    State.settle_of_quiet (t := { t with vwait := some w }) hfind hquiet
  rw [hend]
  exact ⟨rfl, fun x => State.readLoc_modTroupe .., _, hfind, rfl, rfl, fun _ => rfl, rfl⟩

theorem Calm.frames_setTroupe (h : Calm t e) (hu : s.troupe? t.id = some t) (hs : t.Starts v) (hc : t.CountedIn e v)
    (hv : splitCounter i = none → v.v = t.v) : Frames t i s ((s.setTroupe v).vectorEnd t.id) := by
  have hid : v.id = t.id := by rw [hs]
  have hfind : (s.setTroupe v).troupe? t.id = some v := by
    rw [← hid] at hu ⊢
    exact s.troupe?_setTroupe hu
  obtain ⟨hmem, hread, hregs⟩ := h.frames_vectorEnd hfind hs hc hv
  exact ⟨hmem, fun x => (hread x).trans (State.readLoc_setTroupe ..), hregs⟩

/-! ### The operation issued -/

theorem Troupe.starts_lowerFlag (t : Troupe) (w : Option Nat) : t.Starts (t.lowerFlag w) := by
  cases w <;> rfl

theorem Troupe.starts_startBehind (f : Fields) (e : VEntry) (t : Troupe) : t.Starts (t.startBehind f e) := by
  obtain ⟨ac, v, h, -⟩ := t.startMem_eq f e
  rw [Troupe.startBehind, h]
  rfl

theorem Troupe.v_startBehind (h : splitCounter e.instr = none) : (t.startBehind f e).v = t.v := by
  obtain ⟨ac, v, hm, hv⟩ := t.startMem_eq f e
  rw [Troupe.startBehind, hm]
  exact hv h

/-- The scalar-class destination of a split-phase load is one that its instruction writes. -/
def SplitWrites (f : Fields) (e : VEntry) (t : Troupe) : Prop :=
  splitCounter e.instr ≠ none → ∀ r ∈ (memOp f e t).sdest, r ∈ scalarNums e.instr.writes

/-- Where only the operation of the instruction is new among a troupe's, no other register is counted. -/
theorem SplitWrites.countedIn (h : SplitWrites f e t)
    (hv : ∀ o ∈ v.ops, (∃ b ∈ t.ops, o.ac = b.ac ∧ o.sdest = b.sdest) ∨
      (o.ac = splitCounter e.instr ∧ o.sdest = (memOp f e t).sdest)) : t.CountedIn e v := by
  intro j r hr
  obtain ⟨o, ho, hro⟩ := List.mem_flatMap.mp hr
  split at hro
  next hac =>
    rcases hv o ho with ⟨b, hb, hbac, hbdest⟩ | ⟨hoac, hodest⟩
    · exact .inl (List.mem_flatMap.mpr ⟨b, hb, by rwa [← hbac, if_pos hac, ← hbdest]⟩)
    · refine .inr (h ?_ r (hodest ▸ hro))
      rw [← hoac, eq_of_beq hac]
      nofun
  next => cases hro

theorem SplitWrites.countedIn_startBehind (h : SplitWrites f e t) : t.CountedIn e (t.startBehind f e) := by
  refine h.countedIn fun o ho => ?_
  simp only [Troupe.startBehind, Troupe.setLanes, Troupe.modOp, Troupe.startMem_ops, updWhere, List.mem_map,
    List.mem_append, List.mem_singleton] at ho
  obtain ⟨b, hb, rfl⟩ := ho
  rcases hb with hb | rfl
  · exact .inl ⟨b, hb, by split <;> rfl, by split <;> rfl⟩
  · exact .inr ⟨by split <;> rfl, by split <;> rfl⟩

namespace Accesses

variable {a : Accesses} {ls : List LaneRec} {g : Nat}

/-- The vector side stands before a memory instruction within its troupe's budget, and nothing follows of itself. -/
structure Before (a : Accesses) : Prop where
  calm : Calm a.t a.e
  memory : IsMemory a.e.instr a.f
  may : VectorMay a.e.instr a.e a.t a.s
  budget : a.t.overBudget (a.s.ring a.t.id.ring).vgen (loadDests a.e.instr a.f a.e.cap.k0) = false
  ids : ∀ o ∈ a.t.ops, o.id < a.t.nextOp
  split : SplitWrites a.f a.e a.t

theorem Before.performed_start (h : a.Before) : a.Performed [] a.lanes a.start := Accesses.performed_start h.may.2.1 h.ids

/-- A memory instruction within its budget leaves memory as it was, or as performing its lanes does. -/
theorem Before.frames (h : a.Before) (hx : exec a.e.instr a.s = .next s1) :
    Frames a.t a.e.instr a.s s1 ∨ s1 = a.performed.vectorEnd a.t.id := by
  have ht : a.s.troupe? a.t.id = some a.t := h.may.2.1
  have next_inj : ∀ {w}, exec a.e.instr a.s = .next w → s1 = w := fun h => by
    cases hx.symm.trans h
    rfl
  rcases memIssue_cases a.f a.e a.t a.s h.budget with hidle | hwait | hbehind | hdone
  · rw [next_inj (exec_memory_done h.memory h.may hidle)]
    have hlower : (a.t.lowerFlag a.e.flag).ops = a.t.ops ∧ (a.t.lowerFlag a.e.flag).v = a.t.v := by
      cases a.e.flag <;> exact ⟨rfl, rfl⟩
    have hcount := h.split.countedIn (v := a.t.lowerFlag a.e.flag) fun o ho => .inl ⟨o, hlower.1 ▸ ho, rfl, rfl⟩
    exact .inl (h.calm.frames_setTroupe ht (Troupe.starts_lowerFlag ..) hcount fun _ => hlower.2)
  · rw [next_inj (exec_memory_wait h.memory h.may hwait)]
    exact .inl (h.calm.frames_blockVector ht _)
  · rw [next_inj (exec_memory_done h.memory h.may hbehind)]
    exact .inl (h.calm.frames_setTroupe ht (Troupe.starts_startBehind ..) h.split.countedIn_startBehind
      Troupe.v_startBehind)
  · have hperform := hdone.trans (congrArg VRes.done (performOp_start h.memory ht h.ids))
    exact .inr (next_inj (exec_memory_done h.memory h.may hperform))

/-- Where its lanes have been performed with no fault, the troupe goes on. -/
theorem Before.frames_performed (h : a.Before)
    (hu : (a.lanes.foldl a.step a.start).troupe? a.t.id = some (a.performing ls g)) :
    Frames a.t a.e.instr (a.lanes.foldl a.step a.start) (a.performed.vectorEnd a.t.id) := by
  obtain ⟨t1, ht1, hstarts, hv, hops⟩ := troupe?_tidyOp h.ids hu
  have hcount : a.t.CountedIn a.e t1 := h.split.countedIn fun o ho => by
    rw [hops] at ho
    split at ho
    · exact .inl ⟨o, ho, rfl, rfl⟩
    · rcases List.mem_append.mp ho with ho | ho
      · exact .inl ⟨o, ho, rfl, rfl⟩
      · obtain rfl := List.mem_singleton.mp ho
        exact .inr ⟨rfl, rfl⟩
  obtain ⟨hmem, hread, hregs⟩ := h.calm.frames_vectorEnd ht1 hstarts hcount hv
  obtain ⟨-, -, htidy⟩ := State.tidyOp_keeps (a.lanes.foldl a.step a.start) a.t.id a.t.nextOp (.phys 0)
  exact ⟨hmem.trans htidy, fun x => (hread x).trans (State.tidyOp_keeps ..).1, hregs⟩

end Accesses

/-! ### Loads change no memory -/

/-- A state with the memory of another, and with a troupe of that number that stands in its clause as one did. -/
structure Undisturbed (t : Troupe) (s u : State) : Prop where
  mem : u.mem = s.mem
  readLoc : ∀ x, u.readLoc x = s.readLoc x
  troupe : ∃ v, u.troupe? t.id = some v ∧ v.id = t.id ∧ v.left = t.left ∧ v.wait = t.wait ∧ v.stopped = t.stopped

theorem Undisturbed.of_troupes {v : State} (h : Undisturbed t s u) (hm : v.mem = u.mem)
    (hr : ∀ x, v.readLoc x = u.readLoc x) (ht : v.troupes = u.troupes) : Undisturbed t s v := by
  obtain ⟨w, hw⟩ := h.troupe
  exact ⟨hm.trans h.mem, fun x => (hr x).trans (h.readLoc x), w, by rwa [State.troupe?, ht]⟩

theorem Undisturbed.modTroupe (h : Undisturbed t s u) {F : Troupe → Troupe}
    (hF : ∀ v, (F v).id = v.id ∧ (F v).left = v.left ∧ (F v).wait = v.wait ∧ (F v).stopped = v.stopped) :
    Undisturbed t s (u.modTroupe t.id F) := by
  obtain ⟨v, hv, hid, hleft, hwait, hstopped⟩ := h.troupe
  obtain ⟨h1, h2, h3, h4⟩ := hF v
  refine ⟨h.mem, fun x => (State.readLoc_modTroupe ..).trans (h.readLoc x), F v, ?_, h1.trans hid, h2.trans hleft,
    h3.trans hwait, h4.trans hstopped⟩
  rw [State.troupe?_modTroupe _ _ _ fun v => (hF v).1, hv]
  rfl

theorem State.park_keeps (s : State) (ring : Nat) (who : ParkWho) (va : Word) (c : Cause) (level : Nat) (kind : BitVec 8) :
    (s.park ring who va c level kind).mem = s.mem ∧ (s.park ring who va c level kind).cores = s.cores ∧
    (s.park ring who va c level kind).troupes = s.troupes := by
  unfold State.park State.recordPark State.irq
  dsimp only
  (repeat' split) <;> exact ⟨rfl, rfl, rfl⟩

/-- However a lane of a load fares, memory stays as it was. -/
theorem Undisturbed.performLane (h : Undisturbed t s u) (hload : isLoad o.instr = true) (hm : isMaint o.instr = false)
    (hred : isReduction o.instr = false) : Undisturbed t s (performLane t.id o f u l) := by
  cases ha : u.access (u.ringParty t.id.ring) l.addr.toNat (accessWant o.instr f o.dgrade) with
  | final c r =>
      rw [performLane_final hm ha]
      exact h.modTroupe fun _ => ⟨rfl, rfl, rfl, rfl⟩
  | replay c level =>
      have hpark : Machine.performLane t.id o f u l =
          u.parkLane t.id o.id l.lane l.addr c level (accessKind o.instr) := by
        simp only [Machine.performLane, ha, hm, Bool.false_eq_true, if_false]
      obtain ⟨hmem, hcores, htroupes⟩ :=
        u.park_keeps t.id.ring (.lane t.id o.id l.lane) l.addr c level (accessKind o.instr)
      rw [hpark]
      refine (h.of_troupes hmem ?_ htroupes).modTroupe fun _ => ⟨rfl, rfl, rfl, rfl⟩
      exact State.readLoc_of_spad hmem fun c => by rw [State.core, State.core, hcores]
  | ok x =>
      cases hc : u.cutOff x (isReduction o.instr) with
      | true =>
          rw [performLane_cutOff ha hc]
          exact h.modTroupe fun _ => ⟨rfl, rfl, rfl, rfl⟩
      | false =>
          have hreach := u.reached_reach (u.ringParty t.id.ring) l.addr.toNat x (isReduction o.instr)
          rw [performLane_ok ha hc (by simp [hred]), laneWrites_of_isLoad hload]
          exact (h.of_troupes hreach.mem hreach.readLoc hreach.troupes).modTroupe fun _ => ⟨rfl, rfl, rfl, rfl⟩

theorem Undisturbed.tidyOp (h : Undisturbed t s u) (op : Nat) : Undisturbed t s (u.tidyOp t.id op) := by
  obtain ⟨v, hv, hid, hleft, hwait, hstopped⟩ := h.troupe
  refine ⟨(State.tidyOp_keeps u t.id op (.phys 0)).2.2.trans h.mem,
    fun x => (State.tidyOp_keeps ..).1.trans (h.readLoc x), ?_⟩
  simp only [State.tidyOp, hv]
  split
  next => exact ⟨v, hv, hid, hleft, hwait, hstopped⟩
  next o _ =>
    split
    · refine ⟨v.endOp o, ?_, by simpa, by simpa, by simpa, by simpa⟩
      have hend : (v.endOp o).id = t.id := by simpa
      rw [← hend] at hv ⊢
      exact u.troupe?_setTroupe hv
    · exact ⟨v, hv, hid, hleft, hwait, hstopped⟩

theorem Troupe.quiet_of_inside (hleft : t.left ≠ 0) (hwait : t.wait = none) (hstopped : t.stopped = []) :
    t.quiet = true := by
  simp [Troupe.quiet, Troupe.stalled, Troupe.scalarStuck, Troupe.mustReport, hleft, hwait, hstopped]

/-- Inside a clause nothing follows of itself: there is no boundary at which to report lane faults (R347). -/
theorem Undisturbed.vectorEnd (h : Undisturbed t s u) (hleft : t.left ≠ 0) (hwait : t.wait = none) (hstopped : t.stopped = []) :
    (u.vectorEnd t.id).mem = s.mem ∧ ∀ x, (u.vectorEnd t.id).readLoc x = s.readLoc x := by
  obtain ⟨v, hv, hid, hvleft, hvwait, hvstopped⟩ := h.troupe
  have hquiet : v.issued.quiet = true :=
    Troupe.quiet_of_inside (by rwa [← hvleft] at hleft) (hvwait.trans hwait) (hvstopped.trans hstopped)
  rw [← hid] at hv ⊢
  rw [(State.vectorEnd_of_quiet hv hquiet).1]
  exact ⟨h.mem, fun x => (State.readLoc_modTroupe ..).trans (h.readLoc x)⟩

namespace Accesses

variable {a : Accesses}

theorem Before.undisturbed_load (h : a.Before) (hload : isLoad a.e.instr = true) (hred : isReduction a.e.instr = false) :
    Undisturbed a.t a.s (a.lanes.foldl a.step a.start) := by
  have hm : isMaint a.e.instr = false := by
    by_contra hm
    rw [(not_isAtomic_of_isMaint (Bool.eq_true_of_not_eq_false hm)).2.2] at hload
    cases hload
  have hstart : Undisturbed a.t a.s a.start := by
    obtain ⟨ac, v, hissued, -⟩ := a.t.startMem_eq a.f a.e
    have hid : a.issued.id = a.t.id := Troupe.startMem_id ..
    refine ⟨rfl, fun x => State.readLoc_setTroupe .., a.issued, ?_, hid, ?_⟩
    · rw [start, ← hid]
      exact a.s.troupe?_setTroupe (hid ▸ h.may.2.1)
    · rw [issued, hissued]
      exact ⟨rfl, rfl, rfl⟩
  exact List.foldlRecOn (motive := Undisturbed a.t a.s) _ _ hstart fun _ hu _ _ => hu.performLane hload hm hred

/-- A load leaves memory as it was inside a clause, whatever its lanes meet. -/
theorem Before.load_inside (h : a.Before) (hload : isLoad a.e.instr = true) (hred : isReduction a.e.instr = false)
    (hleft : a.t.left ≠ 0) (hwait : a.t.wait = none) (hstopped : a.t.stopped = []) (hx : exec a.e.instr a.s = .next s1) :
    s1.mem = a.s.mem ∧ ∀ x, s1.readLoc x = a.s.readLoc x := by
  rcases h.frames hx with hf | rfl
  · exact ⟨hf.mem, hf.readLoc⟩
  · exact ((h.undisturbed_load hload hred).tidyOp a.t.nextOp).vectorEnd hleft hwait hstopped

/-- A load whose lanes meet no fault leaves memory as it was. -/
theorem Before.load_passes (h : a.Before) (hload : isLoad a.e.instr = true) (hred : isReduction a.e.instr = false)
    (hu : ∃ ls g, (a.lanes.foldl a.step a.start).troupe? a.t.id = some (a.performing ls g))
    (hx : exec a.e.instr a.s = .next s1) : s1.mem = a.s.mem ∧ ∀ x, s1.readLoc x = a.s.readLoc x := by
  obtain ⟨ls, g, hu⟩ := hu
  have hsame := h.undisturbed_load hload hred
  rcases h.frames hx with hf | rfl
  · exact ⟨hf.mem, hf.readLoc⟩
  · obtain ⟨hmem, hread, -⟩ := h.frames_performed hu
    exact ⟨hmem.trans hsame.mem, fun x => (hread x).trans (hsame.readLoc x)⟩

/-- An instruction whose lanes meet no fault changes only what performing them changes, and no register unless it is a
split-phase load. -/
theorem Before.store_passes (h : a.Before) (hsplit : splitCounter a.e.instr = none)
    (hu : ∃ ls g, (a.lanes.foldl a.step a.start).troupe? a.t.id = some (a.performing ls g))
    (hx : exec a.e.instr a.s = .next s1) :
    (∀ x, (a.lanes.foldl a.step a.start).readLoc x = a.s.readLoc x → s1.readLoc x = a.s.readLoc x) ∧
    ∃ u, s1.troupe? a.t.id = some u ∧ u.s = a.t.s ∧ u.k = a.t.k ∧ u.v = a.t.v ∧ u.sticky = a.t.sticky := by
  obtain ⟨ls, g, hu⟩ := hu
  rcases h.frames hx with ⟨-, hread, u, hu, hs, hk, hv, hsticky⟩ | rfl
  · exact ⟨fun x _ => hread x, u, hu, hs, hk, hv hsplit, hsticky⟩
  · obtain ⟨-, hread, u, hu, hs, hk, hv, hsticky⟩ := h.frames_performed hu
    exact ⟨fun x hx => (hread x).trans hx, u, hu, hs, hk, hv hsplit, hsticky⟩

/-! ### Lanes whose checks pass -/

/-- One lane that passes its checks is performed, or waits for a link (R380). -/
theorem Before.one_lane (h : a.Before) (hl : a.lanes = [n]) (hp : a.passes n)
    (hred : isReduction a.e.instr = false) :
    (∃ ls g, (a.lanes.foldl a.step a.start).troupe? a.t.id = some (a.performing ls g)) ∧
    ∀ x, x ∉ (a.site n).locs → ¬Rekeyed a.s (a.site n) x → (a.lanes.foldl a.step a.start).readLoc x = a.s.readLoc x := by
  have h0 := h.performed_start
  cases hc : a.s.cutOff (a.site n) (isReduction a.e.instr) with
  | false =>
      have hdone := performed_one h0 hl hp hc (by simp [hred])
      obtain ⟨g, hu⟩ := hdone.troupe
      refine ⟨⟨_, g, hu⟩, fun x hx hk => hdone.bytes x fun m hm => ?_⟩
      rw [hl, List.mem_singleton] at hm
      exact .inr (hm ▸ ⟨hx, hk⟩)
  | true =>
      have hstep : a.lanes.foldl a.step a.start = a.start.modTroupe a.t.id fun t => t.setLane a.t.nextOp n .behind := by
        rw [hl]
        exact performLane_cutOff (o := issuedOp a.f a.e a.t) (l := a.lane n) (s := a.start) hp hc
      obtain ⟨g, hu⟩ := h0.troupe
      refine ⟨⟨updWhere (a.lanesAt [] a.lanes) (fun l => l.lane == n) fun l => { l with st := .behind }, max g 0, ?_⟩,
        fun x _ _ => ?_⟩
      · rw [hstep, State.troupe?_modTroupe, hu, Option.map_some, ← Troupe.perform_zero]
        · exact congrArg some (Troupe.perform_withLanes ..)
        · exact fun _ => rfl
      · rw [hstep, State.readLoc_modTroupe]
        exact h0.bytes x nofun

/-- The lanes of an instruction that accesses scratchpads only are at firm places. -/
theorem firm_of_mustScratch (hm : a.want.mustScratch = true) (hp : a.passes n) :
    Firm a.s a.t.id.ring (lanePlace a.e.instr a.f a.e a.t n).toNat (a.site n) := by
  obtain ⟨-, -, ⟨-, -, -, -, -, c, o, r, -, -, hsite⟩ | ⟨-, hmust, -⟩⟩ := State.access_cases hp
  · exact .inl (by rw [hsite])
  · rw [hm] at hmust
    cases hmust

/-- Lanes that access scratchpads only, and pass their checks, are performed one after the other. -/
theorem Before.scratch_lanes (h : a.Before) (hm : a.want.mustScratch = true) (hp : ∀ n ∈ a.lanes, a.passes n)
    (hind : a.Independent) :
    (∃ ls g, (a.lanes.foldl a.step a.start).troupe? a.t.id = some (a.performing ls g)) ∧
    ∀ x, (∀ n ∈ a.lanes, x ∉ (a.site n).locs) → (a.lanes.foldl a.step a.start).readLoc x = a.s.readLoc x := by
  have hfirm := fun n hn => firm_of_mustScratch hm (hp n hn)
  have hdone := performed_firm h.performed_start hfirm hp hind
  obtain ⟨g, hu⟩ := hdone.troupe
  refine ⟨⟨_, g, hu⟩, fun x hx => hdone.bytes x fun n hn => .inr ⟨hx n hn, ?_⟩⟩
  exact not_rekeyed_of_key_eq_none ((hfirm n hn).plain (hp n hn)).2.1

end Accesses

/-! ### The statement -/

theorem splitWrites_of_none (h : splitCounter i = none) (he : e.instr = i) : SplitWrites f e t :=
  fun hs => absurd (he ▸ h) hs

/-- A split-phase load of lanes writes no scalar register. -/
theorem splitWrites_of_lanes (h : ∀ e t, e.instr = i → (memOp f e t).sdest = []) (he : e.instr = i) :
    SplitWrites f e t := by
  intro _ r hr
  rw [h e t he] at hr
  cases hr

/-- Of the loads and stores only ldAc writes a scalar register by a reply, the one that it names. -/
theorem splitWrites_ldAc (he : e.instr = .ldAc f) : SplitWrites f e t := by
  intro _ r hr
  have hdest : (memOp f e t).sdest = sNum f.d ++ [] := by
    rw [memOp, he]
    rfl
  have hwrites : scalarNums e.instr.writes = (sNum f.d).filter (· < 256) := by
    rw [he]
    rfl
  rw [hdest, List.append_nil] at hr
  rw [hwrites]
  refine List.mem_filter.mpr ⟨hr, ?_⟩
  unfold sNum at hr
  split at hr
  next hd =>
    rw [List.mem_singleton.mp hr]
    exact decide_eq_true (Nat.lt_trans hd (by decide))
  next => cases hr

theorem splitWrites_of_load : ∀ c ∈ [Instr.ld, .ldAc, .vld, .vldAc, .vldw, .lds, .ldsb], e.instr = c f →
    SplitWrites f e t := by
  simp only [List.forall_mem_cons, List.not_mem_nil, false_imp_iff, implies_true, and_true]
  have hvldAc : ∀ e t, e.instr = .vldAc f → (memOp f e t).sdest = [] := fun e t he => by
    rw [memOp, he]
    rfl
  have hvldw : ∀ e t, e.instr = .vldw f → (memOp f e t).sdest = [] := fun e t he => by
    rw [memOp, he]
    rfl
  exact ⟨splitWrites_of_none rfl, splitWrites_ldAc, splitWrites_of_none rfl, splitWrites_of_lanes hvldAc,
    splitWrites_of_lanes hvldw, splitWrites_of_none rfl, splitWrites_of_none rfl⟩

theorem mem_loads {c : Fields → Instr} (hc : c ∈ [Instr.ld, .ldAc, .vld, .vldAc, .vldw, .lds, .ldsb]) :
    c ∈ [Instr.lds, .ldsb, .ld, .ldAc, .vld, .vldAc, .vldw] := by
  fin_cases hc <;> simp

theorem kind_of_scalarLoad : ∀ c ∈ [Instr.ld, .ldAc], accessLanes (c f) e.cap.k0 = [0] ∧ dataGrade (c f) f e t = 0 ∧
    c ∈ [Instr.ld, .ldAc, .vld, .vldAc, .vldw, .lds, .ldsb] := by
  intro c hc
  fin_cases hc <;> exact ⟨rfl, rfl, by simp⟩

/-- Settles O56: a load leaves memory as it was however its lanes fare; a store differs by what performing its lanes at
their places writes. -/
theorem memoryFrames : Obligations.MemoryFrames := by
  intro f e t s s1 hreports hstuck hstopped hids party same regs budget
  let acc : (Nat → Site) → Accesses := fun place => { f := f, e := e, t := t, s := s, site := place }
  have hbefore : ∀ i, IsMemory i f → VectorMay i e t s → budget i → SplitWrites f e t →
      e.instr = i ∧ ∀ place, (acc place).Before := by
    intro i hi hm hb hw
    obtain rfl : e.instr = i := hm.2.2.2.1
    exact ⟨rfl, fun place => ⟨⟨hm.2.2.1, hreports, hstuck⟩, hi, hm, hb, hids, hw⟩⟩
  refine ⟨fun c hc hm hb hleft hwait hx => ?load, fun site c hc hm hb ha hx => ?scalarLoad, fun place hm hb ha hx => ?lds,
    fun site hm ha hx => ?st, fun place hm ha hx => ?sts⟩
  case load =>
    obtain ⟨hi, hload, hred⟩ := kind_of_load (f := f) c (mem_loads hc)
    obtain ⟨he, h⟩ := hbefore _ hi hm hb (splitWrites_of_load c hc hm.2.2.2.1)
    rw [← he] at hload hred hx
    exact (h fun _ => { locs := [], g := 0 }).load_inside hload hred (Nat.pos_iff_ne_zero.mp hleft) hwait hstopped hx
  case scalarLoad =>
    obtain ⟨hl, hgrade, hc⟩ := kind_of_scalarLoad (f := f) (e := e) (t := t) c hc
    obtain ⟨hi, hload, hred⟩ := kind_of_load (f := f) c (mem_loads hc)
    obtain ⟨he, h⟩ := hbefore _ hi hm hb (splitWrites_of_load c hc hm.2.2.2.1)
    have hpass : (acc fun _ => site).passes 0 := by
      simp only [Accesses.passes, Accesses.want, acc, he, hgrade]
      exact ha
    rw [← he] at hl hload hred hx
    exact (h _).load_passes hload hred ((h _).one_lane hl hpass hred).1 hx
  case lds =>
    obtain ⟨he, h⟩ := hbefore (.lds f) ⟨fun _ => rfl, rfl⟩ hm hb (splitWrites_of_none rfl hm.2.2.2.1)
    have hload : isLoad (acc place).e.instr = true := by simp only [acc, he]; rfl
    have hlanes := (h place).scratch_lanes (by simp only [Accesses.want, acc, he]; rfl)
      (by simp only [Accesses.lanes, Accesses.passes, Accesses.want, acc, he]; exact ha)
      (.inl fun n _ m _ _ => .inl (laneWrites_of_isLoad hload ..))
    exact (h place).load_passes hload (by simp only [acc, he]; rfl) hlanes.1 (he ▸ hx)
  case st =>
    obtain ⟨he, h⟩ := hbefore (.st f) ⟨fun _ => rfl, rfl⟩ hm rfl (splitWrites_of_none rfl hm.2.2.2.1)
    obtain ⟨hu, hrest⟩ := (h fun _ => site).one_lane (n := 0) (by simp only [Accesses.lanes, acc, he]; rfl)
      (by simpa only [Accesses.passes, Accesses.want, acc, he] using ha) (by simp only [acc, he]; rfl)
    obtain ⟨hread, hregs⟩ := (h fun _ => site).store_passes (by simp only [acc, he]; rfl) hu (he ▸ hx)
    exact ⟨fun x hx hr => hread x (hrest x hx hr), hregs⟩
  case sts =>
    obtain ⟨he, h⟩ := hbefore (.sts f) ⟨fun _ => rfl, rfl⟩ hm rfl (splitWrites_of_none rfl hm.2.2.2.1)
    obtain ⟨hu, hrest⟩ := (h place).scratch_lanes (by simp only [Accesses.want, acc, he]; rfl)
      (by simpa only [Accesses.lanes, Accesses.passes, Accesses.want, acc, he] using ha)
      (.inr fun l x y => by simp only [acc, he]; exact ⟨rfl, rfl⟩)
    obtain ⟨hread, hregs⟩ := (h place).store_passes (by simp only [acc, he]; rfl) hu (he ▸ hx)
    exact ⟨fun x hx => hread x (hrest x (by simpa only [Accesses.lanes, acc, he] using hx)), hregs⟩

end Sys2Proof.Machine
end
